-- ==== Sys2Proof/Word.lean ====
section
/-! DEFINITION. The word types of the module and their plainest arithmetic (R2, R3). -/

namespace Sys2Proof

/-- A register, an address or a double: 64 bits. -/
abbrev Word := BitVec 64

/-- A byte: 8 bits. -/
abbrev Byte := BitVec 8

/-- A code parcel: 16 bits. -/
abbrev Parcel := BitVec 16

/-- The bit slice `w[hi:lo]` as a number (R3, R8). -/
abbrev fld {n : Nat} (w : BitVec n) (hi lo : Nat) : Nat := (w.extractLsb' lo (hi + 1 - lo)).toNat

end Sys2Proof
end

