-- ==== Sys2Proof/Syntax.lean ====
section
/-! DEFINITION. The syntax of the Marindez instruction set and of the module's steps: one constructor of
`Instr` per row of spec/opcode_table.json. Rows with words carry the fields that the row names; rows without words
are steps of the module's units (spec/95) and carry which unit, packet or request the step concerns, with what the
outside world supplies. -/

namespace Sys2Proof

/-- The fields every 32-bit instruction has in common (R19): the switch bit and the guard. -/
structure Ctl where
  sw : Bool
  gn : Bool
  gp : BitVec 3
  deriving DecidableEq, Repr

/-- Where an uncorrectable error strikes (R378). `arrays` stands for the storages of a core whose failure fences it:
code store, start map, tables, queues, tiles, latch and combine buffers. -/
inductive Storage where
  | hbm
  | carveOut (partition : Nat)
  | scratchpad (core : Nat)
  | weightStore (cluster : Nat)
  | l1 (core : Nat)
  | arrays (core : Nat)
  deriving DecidableEq, Repr

/-- What a far module answers to a haul beat (R359): the bytes of a read, an acknowledgement, a FAULT code, or no
answer after the last reissue. -/
inductive FarReply where
  | data (bytes : List Byte)
  | ack
  | fault (code : BitVec 8) (off : Nat)
  | lost
  deriving DecidableEq, Repr

/-- Which walk goes on (R179): its number, and the core or other unit whose caches give up an entry where no walk has it. -/
structure WalkAt where
  req  : Nat
  core : Nat
  deriving DecidableEq, Repr

/-- Which reply is missed (R363): the number of a memory request with its piece, or of a request between interfaces. -/
structure AwaitedReply where
  id    : Nat
  piece : Nat
  deriving DecidableEq, Repr

/-- Where an access or message of another module comes in and from whom (R359, R360, R363): the optical chiplet, the requester and
its number. -/
structure FarSource where
  chip : Nat
  who  : Nat
  num  : BitVec 16
  deriving DecidableEq, Repr

/-- The instructions and steps, in the order of the table. -/
inductive Instr where
  | hLi (sw : Bool) (d : BitVec 3) (i : BitVec 6)
  | hAddi (sw : Bool) (d : BitVec 3) (i : BitVec 6)
  | hMov (sw : Bool) (d : BitVec 3) (a : BitVec 3)
  | hAdd (sw : Bool) (d : BitVec 3) (a : BitVec 3) (b : BitVec 3)
  | hSub (sw : Bool) (d : BitVec 3) (a : BitVec 3) (b : BitVec 3)
  | hAnd (sw : Bool) (d : BitVec 3) (a : BitVec 3) (b : BitVec 3)
  | hOr (sw : Bool) (d : BitVec 3) (a : BitVec 3) (b : BitVec 3)
  | hXor (sw : Bool) (d : BitVec 3) (a : BitVec 3) (b : BitVec 3)
  | hSll (sw : Bool) (d : BitVec 3) (i : BitVec 6)
  | hSrl (sw : Bool) (d : BitVec 3) (i : BitVec 6)
  | hSra (sw : Bool) (d : BitVec 3) (i : BitVec 6)
  | hLdW (sw : Bool) (d : BitVec 3) (a : BitVec 3) (o : BitVec 3)
  | hLdD (sw : Bool) (d : BitVec 3) (a : BitVec 3) (o : BitVec 3)
  | hStW (sw : Bool) (d : BitVec 3) (a : BitVec 3) (o : BitVec 3)
  | hStD (sw : Bool) (d : BitVec 3) (a : BitVec 3) (o : BitVec 3)
  | hBr (sw : Bool) (o : BitVec 9)
  | hBp (sw : Bool) (p : BitVec 3) (o : BitVec 6)
  | hNop (sw : Bool)
  | hDone (sw : Bool)
  | hQr (sw : Bool) (d : BitVec 3) (q : BitVec 3)
  | hQw (sw : Bool) (q : BitVec 3) (a : BitVec 3)
  | add (c : Ctl) (d : BitVec 5) (a : BitVec 5) (b : BitVec 5)
  | sub (c : Ctl) (d : BitVec 5) (a : BitVec 5) (b : BitVec 5)
  | and (c : Ctl) (d : BitVec 5) (a : BitVec 5) (b : BitVec 5)
  | or (c : Ctl) (d : BitVec 5) (a : BitVec 5) (b : BitVec 5)
  | xor (c : Ctl) (d : BitVec 5) (a : BitVec 5) (b : BitVec 5)
  | andn (c : Ctl) (d : BitVec 5) (a : BitVec 5) (b : BitVec 5)
  | orn (c : Ctl) (d : BitVec 5) (a : BitVec 5) (b : BitVec 5)
  | xnor (c : Ctl) (d : BitVec 5) (a : BitVec 5) (b : BitVec 5)
  | sll (c : Ctl) (d : BitVec 5) (a : BitVec 5) (b : BitVec 5)
  | srl (c : Ctl) (d : BitVec 5) (a : BitVec 5) (b : BitVec 5)
  | sra (c : Ctl) (d : BitVec 5) (a : BitVec 5) (b : BitVec 5)
  | rol (c : Ctl) (d : BitVec 5) (a : BitVec 5) (b : BitVec 5)
  | ror (c : Ctl) (d : BitVec 5) (a : BitVec 5) (b : BitVec 5)
  | min (c : Ctl) (d : BitVec 5) (a : BitVec 5) (b : BitVec 5)
  | max (c : Ctl) (d : BitVec 5) (a : BitVec 5) (b : BitVec 5)
  | minu (c : Ctl) (d : BitVec 5) (a : BitVec 5) (b : BitVec 5)
  | maxu (c : Ctl) (d : BitVec 5) (a : BitVec 5) (b : BitVec 5)
  | addw (c : Ctl) (d : BitVec 5) (a : BitVec 5) (b : BitVec 5)
  | subw (c : Ctl) (d : BitVec 5) (a : BitVec 5) (b : BitVec 5)
  | mul (c : Ctl) (d : BitVec 5) (a : BitVec 5) (b : BitVec 5)
  | mulhi (c : Ctl) (d : BitVec 5) (a : BitVec 5) (b : BitVec 5)
  | mulhiu (c : Ctl) (d : BitVec 5) (a : BitVec 5) (b : BitVec 5)
  | mul32 (c : Ctl) (d : BitVec 5) (a : BitVec 5) (b : BitVec 5)
  | div (c : Ctl) (d : BitVec 5) (a : BitVec 5) (b : BitVec 5)
  | divu (c : Ctl) (d : BitVec 5) (a : BitVec 5) (b : BitVec 5)
  | rem (c : Ctl) (d : BitVec 5) (a : BitVec 5) (b : BitVec 5)
  | remu (c : Ctl) (d : BitVec 5) (a : BitVec 5) (b : BitVec 5)
  | lzc (c : Ctl) (d : BitVec 5) (a : BitVec 5)
  | tzc (c : Ctl) (d : BitVec 5) (a : BitVec 5)
  | ones (c : Ctl) (d : BitVec 5) (a : BitVec 5)
  | bswap (c : Ctl) (d : BitVec 5) (a : BitVec 5)
  | extsB (c : Ctl) (d : BitVec 5) (a : BitVec 5)
  | extsH (c : Ctl) (d : BitVec 5) (a : BitVec 5)
  | extsW (c : Ctl) (d : BitVec 5) (a : BitVec 5)
  | extzW (c : Ctl) (d : BitVec 5) (a : BitVec 5)
  | bfx (c : Ctl) (d : BitVec 5) (a : BitVec 5) (b : BitVec 5)
  | bfxs (c : Ctl) (d : BitVec 5) (a : BitVec 5) (b : BitVec 5)
  | bfi (c : Ctl) (d : BitVec 5) (a : BitVec 5) (b : BitVec 5)
  | addi (c : Ctl) (d : BitVec 5) (a : BitVec 5) (i : BitVec 10)
  | andi (c : Ctl) (d : BitVec 5) (a : BitVec 5) (i : BitVec 10)
  | ori (c : Ctl) (d : BitVec 5) (a : BitVec 5) (i : BitVec 10)
  | xori (c : Ctl) (d : BitVec 5) (a : BitVec 5) (i : BitVec 10)
  | slli (c : Ctl) (d : BitVec 5) (a : BitVec 5) (i : BitVec 6)
  | srli (c : Ctl) (d : BitVec 5) (a : BitVec 5) (i : BitVec 6)
  | srai (c : Ctl) (d : BitVec 5) (a : BitVec 5) (i : BitVec 6)
  | rori (c : Ctl) (d : BitVec 5) (a : BitVec 5) (i : BitVec 6)
  | tag (c : Ctl) (d : BitVec 5) (a : BitVec 5) (i : BitVec 8)
  | li (c : Ctl) (d : BitVec 5) (i : BitVec 15)
  | lis (c : Ctl) (d : BitVec 5) (i : BitVec 15)
  | cmpEq (c : Ctl) (p : BitVec 3) (e : BitVec 3) (a : BitVec 5) (b : BitVec 5)
  | cmpNe (c : Ctl) (p : BitVec 3) (e : BitVec 3) (a : BitVec 5) (b : BitVec 5)
  | cmpLt (c : Ctl) (p : BitVec 3) (e : BitVec 3) (a : BitVec 5) (b : BitVec 5)
  | cmpGe (c : Ctl) (p : BitVec 3) (e : BitVec 3) (a : BitVec 5) (b : BitVec 5)
  | cmpLtu (c : Ctl) (p : BitVec 3) (e : BitVec 3) (a : BitVec 5) (b : BitVec 5)
  | cmpGeu (c : Ctl) (p : BitVec 3) (e : BitVec 3) (a : BitVec 5) (b : BitVec 5)
  | cmpLe (c : Ctl) (p : BitVec 3) (e : BitVec 3) (a : BitVec 5) (b : BitVec 5)
  | cmpGt (c : Ctl) (p : BitVec 3) (e : BitVec 3) (a : BitVec 5) (b : BitVec 5)
  | cmpLeu (c : Ctl) (p : BitVec 3) (e : BitVec 3) (a : BitVec 5) (b : BitVec 5)
  | cmpGtu (c : Ctl) (p : BitVec 3) (e : BitVec 3) (a : BitVec 5) (b : BitVec 5)
  | cmpTst (c : Ctl) (p : BitVec 3) (e : BitVec 3) (a : BitVec 5) (b : BitVec 5)
  | cmpEqImm (c : Ctl) (p : BitVec 3) (e : BitVec 3) (a : BitVec 5) (i : BitVec 6)
  | cmpNeImm (c : Ctl) (p : BitVec 3) (e : BitVec 3) (a : BitVec 5) (i : BitVec 6)
  | cmpLtImm (c : Ctl) (p : BitVec 3) (e : BitVec 3) (a : BitVec 5) (i : BitVec 6)
  | cmpGeImm (c : Ctl) (p : BitVec 3) (e : BitVec 3) (a : BitVec 5) (i : BitVec 6)
  | cmpLtuImm (c : Ctl) (p : BitVec 3) (e : BitVec 3) (a : BitVec 5) (i : BitVec 6)
  | cmpGeuImm (c : Ctl) (p : BitVec 3) (e : BitVec 3) (a : BitVec 5) (i : BitVec 6)
  | cmpLeImm (c : Ctl) (p : BitVec 3) (e : BitVec 3) (a : BitVec 5) (i : BitVec 6)
  | cmpGtImm (c : Ctl) (p : BitVec 3) (e : BitVec 3) (a : BitVec 5) (i : BitVec 6)
  | cmpEqFloat (c : Ctl) (p : BitVec 3) (e : BitVec 3) (a : BitVec 5) (b : BitVec 5) (t : BitVec 2)
  | cmpLtFloat (c : Ctl) (p : BitVec 3) (e : BitVec 3) (a : BitVec 5) (b : BitVec 5) (t : BitVec 2)
  | cmpLeFloat (c : Ctl) (p : BitVec 3) (e : BitVec 3) (a : BitVec 5) (b : BitVec 5) (t : BitVec 2)
  | cmpUnFloat (c : Ctl) (p : BitVec 3) (e : BitVec 3) (a : BitVec 5) (b : BitVec 5) (t : BitVec 2)
  | pand (c : Ctl) (d : BitVec 3) (a : BitVec 3) (b : BitVec 3)
  | por (c : Ctl) (d : BitVec 3) (a : BitVec 3) (b : BitVec 3)
  | pxor (c : Ctl) (d : BitVec 3) (a : BitVec 3) (b : BitVec 3)
  | pandn (c : Ctl) (d : BitVec 3) (a : BitVec 3) (b : BitVec 3)
  | porn (c : Ctl) (d : BitVec 3) (a : BitVec 3) (b : BitVec 3)
  | pnot (c : Ctl) (d : BitVec 3) (a : BitVec 3)
  | pget (c : Ctl) (x : BitVec 5)
  | pset (c : Ctl) (x : BitVec 5)
  | br (c : Ctl) (o : BitVec 20)
  | call (c : Ctl) (o : BitVec 20)
  | jr (c : Ctl) (a : BitVec 5)
  | callr (c : Ctl) (a : BitVec 5)
  | nop (c : Ctl)
  | done (c : Ctl)
  | brk (c : Ctl) (c : BitVec 15)
  | fadd (c : Ctl) (d : BitVec 5) (a : BitVec 5) (b : BitVec 5) (t : BitVec 2)
  | fsub (c : Ctl) (d : BitVec 5) (a : BitVec 5) (b : BitVec 5) (t : BitVec 2)
  | fmul (c : Ctl) (d : BitVec 5) (a : BitVec 5) (b : BitVec 5) (t : BitVec 2)
  | fdiv (c : Ctl) (d : BitVec 5) (a : BitVec 5) (b : BitVec 5) (t : BitVec 2)
  | fmin (c : Ctl) (d : BitVec 5) (a : BitVec 5) (b : BitVec 5) (t : BitVec 2)
  | fmax (c : Ctl) (d : BitVec 5) (a : BitVec 5) (b : BitVec 5) (t : BitVec 2)
  | fma (c : Ctl) (d : BitVec 5) (a : BitVec 5) (b : BitVec 5) (t : BitVec 2)
  | fsqrt (c : Ctl) (d : BitVec 5) (a : BitVec 5) (t : BitVec 2)
  | cvtF32F16 (c : Ctl) (d : BitVec 5) (a : BitVec 5)
  | cvtF32Bf16 (c : Ctl) (d : BitVec 5) (a : BitVec 5)
  | cvtF16F32 (c : Ctl) (d : BitVec 5) (a : BitVec 5)
  | cvtBf16F32 (c : Ctl) (d : BitVec 5) (a : BitVec 5)
  | cvtF32W (c : Ctl) (d : BitVec 5) (a : BitVec 5)
  | cvtF32Wu (c : Ctl) (d : BitVec 5) (a : BitVec 5)
  | cvtWF32 (c : Ctl) (d : BitVec 5) (a : BitVec 5)
  | cvtWuF32 (c : Ctl) (d : BitVec 5) (a : BitVec 5)
  | cvtWF32Rz (c : Ctl) (d : BitVec 5) (a : BitVec 5)
  | cvtWuF32Rz (c : Ctl) (d : BitVec 5) (a : BitVec 5)
  | fclass (c : Ctl) (d : BitVec 5) (a : BitVec 5) (t : BitVec 2)
  | fsgnCp (c : Ctl) (d : BitVec 5) (a : BitVec 5) (b : BitVec 5) (t : BitVec 2)
  | fsgnNeg (c : Ctl) (d : BitVec 5) (a : BitVec 5) (b : BitVec 5) (t : BitVec 2)
  | fsgnXor (c : Ctl) (d : BitVec 5) (a : BitVec 5) (b : BitVec 5) (t : BitVec 2)
  | frint (c : Ctl) (d : BitVec 5) (a : BitVec 5) (t : BitVec 2)
  | ldB (c : Ctl) (d : BitVec 5) (a : BitVec 5) (o : BitVec 8)
  | ldH (c : Ctl) (d : BitVec 5) (a : BitVec 5) (o : BitVec 8)
  | ldW (c : Ctl) (d : BitVec 5) (a : BitVec 5) (o : BitVec 8)
  | ldD (c : Ctl) (d : BitVec 5) (a : BitVec 5) (o : BitVec 8)
  | ldBu (c : Ctl) (d : BitVec 5) (a : BitVec 5) (o : BitVec 8)
  | ldHu (c : Ctl) (d : BitVec 5) (a : BitVec 5) (o : BitVec 8)
  | ldWu (c : Ctl) (d : BitVec 5) (a : BitVec 5) (o : BitVec 8)
  | stB (c : Ctl) (d : BitVec 5) (a : BitVec 5) (o : BitVec 8)
  | stH (c : Ctl) (d : BitVec 5) (a : BitVec 5) (o : BitVec 8)
  | stW (c : Ctl) (d : BitVec 5) (a : BitVec 5) (o : BitVec 8)
  | stD (c : Ctl) (d : BitVec 5) (a : BitVec 5) (o : BitVec 8)
  | ldf (c : Ctl) (d : BitVec 5) (a : BitVec 5) (o : BitVec 8)
  | ldt (c : Ctl) (d : BitVec 5) (a : BitVec 5) (o : BitVec 8)
  | ste (c : Ctl) (d : BitVec 5) (a : BitVec 5) (o : BitVec 8)
  | stf (c : Ctl) (d : BitVec 5) (a : BitVec 5) (o : BitVec 8)
  | ldAcqW (c : Ctl) (d : BitVec 5) (a : BitVec 5) (o : BitVec 8)
  | ldAcqD (c : Ctl) (d : BitVec 5) (a : BitVec 5) (o : BitVec 8)
  | stRelW (c : Ctl) (d : BitVec 5) (a : BitVec 5) (o : BitVec 8)
  | stRelD (c : Ctl) (d : BitVec 5) (a : BitVec 5) (o : BitVec 8)
  | amoAdd (c : Ctl) (d : BitVec 5) (a : BitVec 5) (b : BitVec 5) (z : BitVec 1)
  | amoAnd (c : Ctl) (d : BitVec 5) (a : BitVec 5) (b : BitVec 5) (z : BitVec 1)
  | amoOr (c : Ctl) (d : BitVec 5) (a : BitVec 5) (b : BitVec 5) (z : BitVec 1)
  | amoXor (c : Ctl) (d : BitVec 5) (a : BitVec 5) (b : BitVec 5) (z : BitVec 1)
  | amoMin (c : Ctl) (d : BitVec 5) (a : BitVec 5) (b : BitVec 5) (z : BitVec 1)
  | amoMax (c : Ctl) (d : BitVec 5) (a : BitVec 5) (b : BitVec 5) (z : BitVec 1)
  | amoMinu (c : Ctl) (d : BitVec 5) (a : BitVec 5) (b : BitVec 5) (z : BitVec 1)
  | amoMaxu (c : Ctl) (d : BitVec 5) (a : BitVec 5) (b : BitVec 5) (z : BitVec 1)
  | amoSwap (c : Ctl) (d : BitVec 5) (a : BitVec 5) (b : BitVec 5) (z : BitVec 1)
  | amoCas (c : Ctl) (d : BitVec 5) (a : BitVec 5) (b : BitVec 5) (z : BitVec 1)
  | amoFaddF32 (c : Ctl) (d : BitVec 5) (a : BitVec 5) (b : BitVec 5)
  | fence (c : Ctl)
  | seal (c : Ctl) (a : BitVec 5) (b : BitVec 5)
  | unseal (c : Ctl) (a : BitVec 5) (b : BitVec 5)
  | feFill (c : Ctl) (a : BitVec 5) (b : BitVec 5)
  | feClr (c : Ctl) (a : BitVec 5) (b : BitVec 5)
  | vaddInt (c : Ctl) (d : BitVec 4) (a : BitVec 4) (b : BitVec 4) (k : BitVec 2) (t : BitVec 3)
  | vsubInt (c : Ctl) (d : BitVec 4) (a : BitVec 4) (b : BitVec 4) (k : BitVec 2) (t : BitVec 3)
  | vmulInt (c : Ctl) (d : BitVec 4) (a : BitVec 4) (b : BitVec 4) (k : BitVec 2) (t : BitVec 3)
  | vminInt (c : Ctl) (d : BitVec 4) (a : BitVec 4) (b : BitVec 4) (k : BitVec 2) (t : BitVec 3)
  | vmaxInt (c : Ctl) (d : BitVec 4) (a : BitVec 4) (b : BitVec 4) (k : BitVec 2) (t : BitVec 3)
  | vminu (c : Ctl) (d : BitVec 4) (a : BitVec 4) (b : BitVec 4) (k : BitVec 2) (t : BitVec 3)
  | vmaxu (c : Ctl) (d : BitVec 4) (a : BitVec 4) (b : BitVec 4) (k : BitVec 2) (t : BitVec 3)
  | vadds (c : Ctl) (d : BitVec 4) (a : BitVec 4) (b : BitVec 4) (k : BitVec 2) (t : BitVec 3)
  | vaddFloat (c : Ctl) (d : BitVec 4) (a : BitVec 4) (b : BitVec 4) (k : BitVec 2) (t : BitVec 3)
  | vsubFloat (c : Ctl) (d : BitVec 4) (a : BitVec 4) (b : BitVec 4) (k : BitVec 2) (t : BitVec 3)
  | vmulFloat (c : Ctl) (d : BitVec 4) (a : BitVec 4) (b : BitVec 4) (k : BitVec 2) (t : BitVec 3)
  | vfma (c : Ctl) (d : BitVec 4) (a : BitVec 4) (b : BitVec 4) (k : BitVec 2) (t : BitVec 3)
  | vminFloat (c : Ctl) (d : BitVec 4) (a : BitVec 4) (b : BitVec 4) (k : BitVec 2) (t : BitVec 3)
  | vmaxFloat (c : Ctl) (d : BitVec 4) (a : BitVec 4) (b : BitVec 4) (k : BitVec 2) (t : BitVec 3)
  | vdiv (c : Ctl) (d : BitVec 4) (a : BitVec 4) (b : BitVec 4) (k : BitVec 2) (t : BitVec 3)
  | vsqrt (c : Ctl) (d : BitVec 4) (a : BitVec 4) (k : BitVec 2) (t : BitVec 3)
  | vand (c : Ctl) (d : BitVec 4) (a : BitVec 4) (b : BitVec 4) (k : BitVec 2)
  | vor (c : Ctl) (d : BitVec 4) (a : BitVec 4) (b : BitVec 4) (k : BitVec 2)
  | vxor (c : Ctl) (d : BitVec 4) (a : BitVec 4) (b : BitVec 4) (k : BitVec 2)
  | vandn (c : Ctl) (d : BitVec 4) (a : BitVec 4) (b : BitVec 4) (k : BitVec 2)
  | vsll (c : Ctl) (d : BitVec 4) (a : BitVec 4) (b : BitVec 4) (k : BitVec 2) (t : BitVec 3)
  | vsrl (c : Ctl) (d : BitVec 4) (a : BitVec 4) (b : BitVec 4) (k : BitVec 2) (t : BitVec 3)
  | vsra (c : Ctl) (d : BitVec 4) (a : BitVec 4) (b : BitVec 4) (k : BitVec 2) (t : BitVec 3)
  | vsel (c : Ctl) (d : BitVec 4) (a : BitVec 4) (b : BitVec 4) (k : BitVec 2)
  | vcmpEq (c : Ctl) (d : BitVec 2) (a : BitVec 4) (b : BitVec 4) (k : BitVec 2) (t : BitVec 3)
  | vcmpNe (c : Ctl) (d : BitVec 2) (a : BitVec 4) (b : BitVec 4) (k : BitVec 2) (t : BitVec 3)
  | vcmpLt (c : Ctl) (d : BitVec 2) (a : BitVec 4) (b : BitVec 4) (k : BitVec 2) (t : BitVec 3)
  | vcmpLe (c : Ctl) (d : BitVec 2) (a : BitVec 4) (b : BitVec 4) (k : BitVec 2) (t : BitVec 3)
  | vcmpLtu (c : Ctl) (d : BitVec 2) (a : BitVec 4) (b : BitVec 4) (k : BitVec 2) (t : BitVec 3)
  | vcmpLeu (c : Ctl) (d : BitVec 2) (a : BitVec 4) (b : BitVec 4) (k : BitVec 2) (t : BitVec 3)
  | vcmpUn (c : Ctl) (d : BitVec 2) (a : BitVec 4) (b : BitVec 4) (k : BitVec 2) (t : BitVec 3)
  | vredsum (c : Ctl) (d : BitVec 4) (a : BitVec 4) (k : BitVec 2) (t : BitVec 3)
  | vredmax (c : Ctl) (d : BitVec 4) (a : BitVec 4) (k : BitVec 2) (t : BitVec 3)
  | vredmin (c : Ctl) (d : BitVec 4) (a : BitVec 4) (k : BitVec 2) (t : BitVec 3)
  | vdot (c : Ctl) (d : BitVec 4) (a : BitVec 4) (b : BitVec 4) (k : BitVec 2) (t : BitVec 3)
  | vwiden (c : Ctl) (d : BitVec 4) (a : BitVec 4) (k : BitVec 2) (t : BitVec 3)
  | vwiden4 (c : Ctl) (d : BitVec 4) (a : BitVec 4) (k : BitVec 2) (t : BitVec 3)
  | vnarrow (c : Ctl) (d : BitVec 4) (a : BitVec 4) (k : BitVec 2) (t : BitVec 3)
  | vnarrow4 (c : Ctl) (d : BitVec 4) (a : BitVec 4) (k : BitVec 2) (t : BitVec 3)
  | vcvt (c : Ctl) (d : BitVec 4) (a : BitVec 4) (f : BitVec 4) (k : BitVec 2) (m : BitVec 2)
  | vtrW (c : Ctl) (d : BitVec 4) (a : BitVec 4) (f : BitVec 4)
  | vtag (c : Ctl) (d : BitVec 4) (a : BitVec 4) (f : BitVec 4)
  | vld (c : Ctl) (d : BitVec 4) (a : BitVec 5) (x : BitVec 4) (k : BitVec 2)
  | vst (c : Ctl) (d : BitVec 4) (a : BitVec 5) (k : BitVec 2)
  | vldSc (c : Ctl) (d : BitVec 4) (a : BitVec 5)
  | vstSc (c : Ctl) (d : BitVec 4) (a : BitVec 5)
  | vgatherW (c : Ctl) (d : BitVec 4) (a : BitVec 5) (x : BitVec 4) (k : BitVec 2)
  | vscatterW (c : Ctl) (d : BitVec 4) (a : BitVec 5) (x : BitVec 4) (k : BitVec 2)
  | vgatherH (c : Ctl) (d : BitVec 4) (a : BitVec 5) (x : BitVec 4) (k : BitVec 2)
  | vscatterH (c : Ctl) (d : BitVec 4) (a : BitVec 5) (x : BitVec 4) (k : BitVec 2)
  | vmov (c : Ctl) (d : BitVec 4) (a : BitVec 4)
  | vbcast (c : Ctl) (d : BitVec 4) (a : BitVec 5) (t : BitVec 3)
  | vext (c : Ctl) (d : BitVec 4) (a : BitVec 5) (i : BitVec 5) (t : BitVec 3)
  | vins (c : Ctl) (d : BitVec 4) (a : BitVec 5) (i : BitVec 5) (t : BitVec 3)
  | kand (c : Ctl) (d : BitVec 2) (a : BitVec 2) (b : BitVec 2)
  | kor (c : Ctl) (d : BitVec 2) (a : BitVec 2) (b : BitVec 2)
  | kxor (c : Ctl) (d : BitVec 2) (a : BitVec 2) (b : BitVec 2)
  | knot (c : Ctl) (d : BitVec 2) (a : BitVec 2)
  | qw (c : Ctl) (q : BitVec 3) (a : BitVec 5)
  | qr (c : Ctl) (d : BitVec 5) (q : BitVec 3)
  | qwv (c : Ctl) (q : BitVec 3) (b : BitVec 4)
  | qrv (c : Ctl) (d : BitVec 4) (q : BitVec 3)
  | send (c : Ctl) (a : BitVec 5) (b : BitVec 5)
  | sendv (c : Ctl) (a : BitVec 5) (b : BitVec 4)
  | sendc (c : Ctl) (a : BitVec 5) (b : BitVec 5)
  | mcast (c : Ctl) (a : BitVec 5) (b : BitVec 5)
  | spawn (c : Ctl) (p : BitVec 3) (a : BitVec 5) (b : BitVec 5)
  | portRd (c : Ctl) (d : BitVec 5) (a : BitVec 5)
  | portWr (c : Ctl) (a : BitVec 5) (b : BitVec 5)
  | patWr (c : Ctl) (a : BitVec 5) (b : BitVec 5)
  | ringHd (c : Ctl) (d : BitVec 5) (a : BitVec 5)
  | ringTl (c : Ctl) (d : BitVec 5) (a : BitVec 5)
  | ringAdv (c : Ctl) (a : BitVec 5) (b : BitVec 5)
  | ringWait (c : Ctl) (d : BitVec 5) (a : BitVec 5)
  | rankRd (c : Ctl) (d : BitVec 5) (a : BitVec 5)
  | rankWr (c : Ctl) (a : BitVec 5) (b : BitVec 5)
  | rankHold (c : Ctl) (a : BitVec 5)
  | rankRel (c : Ctl) (a : BitVec 5) (b : BitVec 5)
  | gbar (c : Ctl) (a : BitVec 5)
  | gexit (c : Ctl) (a : BitVec 5)
  | myrank (c : Ctl) (d : BitVec 5)
  | shMmaSp (c : Ctl) (d : BitVec 3) (a : BitVec 5) (b : BitVec 5) (f : BitVec 4)
  | shMmaWs (c : Ctl) (d : BitVec 3) (a : BitVec 5) (b : BitVec 5) (f : BitVec 4)
  | shMmaLt (c : Ctl) (d : BitVec 3) (a : BitVec 5) (f : BitVec 4)
  | shMmap (c : Ctl) (d : BitVec 3) (a : BitVec 5) (f : BitVec 4)
  | shDrain (c : Ctl) (d : BitVec 3) (a : BitVec 5) (f : BitVec 4)
  | shDrainz (c : Ctl) (d : BitVec 3) (a : BitVec 5) (f : BitVec 4)
  | shZero (c : Ctl) (d : BitVec 3)
  | shPass (c : Ctl)
  | shBow (c : Ctl) (a : BitVec 5)
  | shStroke (c : Ctl) (a : BitVec 5)
  | shWait (c : Ctl) (d : BitVec 3)
  | shRcmd (c : Ctl) (a : BitVec 5) (b : BitVec 5)
  | hlPost (c : Ctl) (a : BitVec 5)
  | hlWp (c : Ctl) (d : BitVec 5) (a : BitVec 5)
  | hlRfence (c : Ctl) (a : BitVec 5)
  | hlResume (c : Ctl) (a : BitVec 5)
  | hlStat (c : Ctl) (d : BitVec 5) (a : BitVec 5)
  | rtRedAddF32 (c : Ctl) (a : BitVec 5) (b : BitVec 4)
  | rtRedAddBf16 (c : Ctl) (a : BitVec 5) (b : BitVec 4)
  | rtRedAddI32 (c : Ctl) (a : BitVec 5) (b : BitVec 4)
  | rtRedMaxF32 (c : Ctl) (a : BitVec 5) (b : BitVec 4)
  | rtRedMinF32 (c : Ctl) (a : BitVec 5) (b : BitVec 4)
  | rtRes (c : Ctl) (d : BitVec 4) (a : BitVec 5)
  | rtTree (c : Ctl) (a : BitVec 5) (b : BitVec 5)
  | rtCodec (c : Ctl) (a : BitVec 5)
  | srRd (c : Ctl) (d : BitVec 5) (r : BitVec 10)
  | srWr (c : Ctl) (a : BitVec 5) (r : BitVec 10)
  | tret (c : Ctl)
  | wfe (c : Ctl)
  | pwr (c : Ctl) (a : BitVec 5)
  | capWr (c : Ctl) (c : BitVec 3) (a : BitVec 5)
  | l2Ways (c : Ctl) (a : BitVec 5)
  | l1Inv (c : Ctl)
  | l2Wb (c : Ctl) (a : BitVec 5)
  | tcInv (c : Ctl) (a : BitVec 5)
  | trap (c : Ctl) (a : BitVec 5)
  | bustRd (c : Ctl) (d : BitVec 5) (a : BitVec 5)
  | rtabRd (c : Ctl) (d : BitVec 5) (a : BitVec 5)
  | rtabWr (c : Ctl) (d : BitVec 5) (a : BitVec 5)
  | rpt (n : BitVec 10) (sd : Bool) (sa : Bool) (sb : Bool) (sm : Bool)
  | patternBinding (core : Nat)
  | messageArrival (pkt : Nat)
  | ovfHdWrite (core : Nat) (v : Word)
  | trapFiringBinding (core : Nat)
  | eventFiringBinding (core : Nat)
  | resultReturn (op : Nat) (part : Nat)
  | returnedErrorArrival (core : Nat) (seat : Nat) (op : Nat)
  | countReport (core : Nat)
  | completionCountArrival (pkt : Nat)
  | sliceExpiry (core : Nat) (seat : Nat)
  | seatCtlWrite (core : Nat) (v : Word)
  | preemption (core : Nat) (seat : Nat)
  | resumeEntryBinding (core : Nat) (seat : Nat)
  | spawnRequestArrival (pkt : Nat)
  | spawnAnswer (pkt : Nat)
  | spawnBinding (core : Nat) (seat : Nat)
  | launchChoice
  | launchBinding (n : Nat)
  | launchSwitchOut (n : Nat) (victim : Nat)
  | launchSwitchIn (n : Nat)
  | launchAbort (id : Word)
  | fenceSeat (index : Nat)
  | fenceCore (index : Nat)
  | fenceHaulChannel (index : Nat)
  | fenceWeightStoreBank (index : Nat)
  | fenceL2Slot (index : Nat)
  | fenceHbmStack (index : Nat)
  | fenceLink (index : Nat)
  | fenceChiplet (index : Nat)
  | deadRankNotice (pkt : Nat)
  | gbarArrival (pkt : Nat)
  | gbarCompletion (pkt : Nat)
  | combineArrival (pkt : Nat)
  | combineDelivery (pkt : Nat)
  | combineLeave (pkt : Nat)
  | shellMma (core : Nat) (cmd : Nat)
  | mmaFinish (core : Nat) (cmd : Nat)
  | shellDrain (core : Nat) (cmd : Nat)
  | shellZero (core : Nat) (cmd : Nat)
  | shellPass (core : Nat) (cmd : Nat)
  | shellInject (core : Nat) (cmd : Nat)
  | latchGrant (core : Nat)
  | latchArrival (pkt : Nat)
  | remoteShellCommand (pkt : Nat)
  | rcmdAnswer (pkt : Nat)
  | hlQWrite (cluster : Nat) (ch : Nat) (v : Word)
  | wLineNotify (cluster : Nat) (ch : Nat)
  | haulPollTimer (cluster : Nat) (ch : Nat)
  | haulSlotTake (cluster : Nat) (ch : Nat)
  | haulCopy (cluster : Nat) (ch : Nat)
  | haulFill (cluster : Nat) (ch : Nat)
  | haulGather (cluster : Nat) (ch : Nat)
  | haulBox (cluster : Nat) (ch : Nat)
  | haulCodec (cluster : Nat) (ch : Nat)
  | haulBeat (cluster : Nat) (ch : Nat) (far : Option FarReply)
  | haulCompletion (cluster : Nat) (ch : Nat)
  | loadAtHome (req : Nat) (piece : Nat)
  | storeAtHome (req : Nat) (piece : Nat)
  | revocation (rev : Nat)
  | revocationAck (rev : Nat)
  | storeAck (req : Nat)
  | atomicAtHome (req : Nat)
  | syncAccessArrival (req : Nat) (piece : Nat)
  | peerAccessArrival (req : Nat) (piece : Nat)
  | translationWalk (walk : WalkAt) (va : Word)
  | wsRefreshOpen (cluster : Nat)
  | wsRefreshClose (cluster : Nat)
  | requestTimeout (reply : AwaitedReply)
  | routerForward (id : Nat)
  | farAccess (source : FarSource) (va : Word) (len : Nat) (data : Option (List Byte))
  | farMessage (source : FarSource) (header : Word) (payload : List Word) (count : Bool)
  | pageMigration (entry : Nat) (level : Nat) (newPa : Nat) (stage : Nat)
  | movedReply (req : Nat)
  | l2Reconfiguration (cfg : Word) (pmap : Word)
  | uncorrectableError (store : Storage) (addr : Nat)
  | wavelengthFailure (chip : Nat) (fibre : Nat) (lambda : Nat)
  | heartbeat (basecamp : Nat)
  | heartbeatLossWest (unreachable : List Nat)
  | severed (reached : List Nat)
  | moduleReset (firmware : List Byte) (supervisor : List Byte)
  | clockLock (cn : Nat)
  | calibrationDone (cn : Nat) (bondok : BitVec 4) (spare : BitVec 4)
  | calibrationFail (cn : Nat)
  | configurationFrame (cn : Nat) (basecamp : Nat)
  | belayed (cn : Nat)
  | ready (cn : Nat)
  | frameTimeout (cn : Nat)
  | ascentSettled
  | pstateTransitionDone (cn : Nat)
  | powerCapThrottle (cn : Nat) (capped : Bool) (state : BitVec 3)
  | pstateWrite (v : Word)
  | powcapWrite (v : Word)
  | shLinkWrite (core : Nat) (v : Word)
  | farTtWrite (v : Word)
  | registerWrite (host : Bool) (offset : Nat) (v : Word)
  | cxlMemRead (offset : Nat) (len : Nat)
  | cxlMemWrite (offset : Nat) (data : List Byte)
  | summary (arg : BitVec 48)
  | takeToken (arg : BitVec 48)
  | abort (arg : BitVec 48) (data : Word)
  | queueCfg (arg : BitVec 48) (data : Word)
  | mbUnsupportedOpcode (opcode : BitVec 16) (arg : BitVec 48)
  | getVersion
  | getCapabilities
  | negotiateAlgorithms
  | getDigests
  | getCertificate (slot : Nat)
  | challenge (slot : Nat) (nonce : List Byte)
  | getMeasurements (index : Nat)
  | illegalInstruction (w : BitVec 32)
  | wLineSubscription (cluster : Nat) (ch : Nat)
  deriving DecidableEq, Repr

end Sys2Proof
end

