-- ==== Sys2Proof/WellFormed.lean ====
section
/-! DEFINITION. Which instructions the opcode tables allow: element types, format tags, register pairings, queue
directions and system-register numbers (R28, R34, R37, R41 to R48, R129, R130, R134, R135, R196, R256, R258, R324).
Steps of the module's units (rows without words) carry no encoding and have nothing to check here. -/

namespace Sys2Proof

/-- pd and pe differ, unless both are p7 (R34). -/
def pairOk (p e : BitVec 3) : Bool := p != e || p == 7

/-- The block formats sb4, mx4 and mx8 (R60). -/
def isBlockTag (f : BitVec 4) : Bool := f == 9 || f == 10 || f == 11

/-- The system-register numbers that R324 lists. -/
def isSysReg (r : BitVec 10) : Bool :=
  let n := r.toNat
  decide (n ≤ 2) || n == 8 || n == 9 || (decide (0x10 ≤ n) && decide (n ≤ 0x3A)) || n == 0x3C || n == 0x3D ||
    (decide (0x40 ≤ n) && decide (n ≤ 0x42)) || n == 0x48

/-- The operand limits of an instruction. -/
def Instr.wellFormed : Instr → Bool
  | .hQr _ _ q | .qr _ _ q => q.getLsbD 0
  | .hQw _ q _ | .qw _ q _ => !q.getLsbD 0
  | .cmpEq _ p e _ _ | .cmpNe _ p e _ _ | .cmpLt _ p e _ _ | .cmpGe _ p e _ _ | .cmpLtu _ p e _ _ | .cmpGeu _ p e _ _
  | .cmpLe _ p e _ _ | .cmpGt _ p e _ _ | .cmpLeu _ p e _ _ | .cmpGtu _ p e _ _ | .cmpTst _ p e _ _ | .cmpEqImm _ p e _ _
  | .cmpNeImm _ p e _ _ | .cmpLtImm _ p e _ _ | .cmpGeImm _ p e _ _ | .cmpLtuImm _ p e _ _ | .cmpGeuImm _ p e _ _
  | .cmpLeImm _ p e _ _ | .cmpGtImm _ p e _ _ => pairOk p e
  | .cmpEqFloat _ p e _ _ t | .cmpLtFloat _ p e _ _ t | .cmpLeFloat _ p e _ _ t
  | .cmpUnFloat _ p e _ _ t => pairOk p e && t != 3
  | .fadd _ _ _ _ t | .fsub _ _ _ _ t | .fmul _ _ _ _ t | .fdiv _ _ _ _ t | .fmin _ _ _ _ t | .fmax _ _ _ _ t | .fma _ _ _ _ t
  | .fsqrt _ _ _ t | .fclass _ _ _ t | .fsgnCp _ _ _ _ t | .fsgnNeg _ _ _ _ t | .fsgnXor _ _ _ _ t | .frint _ _ _ t => t != 3
  | .vaddInt _ _ _ _ _ t | .vsubInt _ _ _ _ _ t | .vmulInt _ _ _ _ _ t | .vminInt _ _ _ _ _ t | .vmaxInt _ _ _ _ _ t
  | .vminu _ _ _ _ _ t | .vmaxu _ _ _ _ _ t | .vadds _ _ _ _ _ t | .vsll _ _ _ _ _ t | .vsrl _ _ _ _ _ t | .vsra _ _ _ _ _ t
  | .vcmpLtu _ _ _ _ _ t | .vcmpLeu _ _ _ _ _ t => decide (t.toNat ≤ 2)
  | .vaddFloat _ _ _ _ _ t | .vsubFloat _ _ _ _ _ t | .vmulFloat _ _ _ _ _ t | .vfma _ _ _ _ _ t | .vminFloat _ _ _ _ _ t
  | .vmaxFloat _ _ _ _ _ t | .vdiv _ _ _ _ _ t | .vsqrt _ _ _ _ t
  | .vcmpUn _ _ _ _ _ t => decide (3 ≤ t.toNat) && decide (t.toNat ≤ 5)
  | .vcmpEq _ _ _ _ _ t | .vcmpNe _ _ _ _ _ t | .vcmpLt _ _ _ _ _ t | .vcmpLe _ _ _ _ _ t | .vredsum _ _ _ _ t
  | .vredmax _ _ _ _ t | .vredmin _ _ _ _ t | .vdot _ _ _ _ _ t | .vbcast _ _ _ t | .vext _ _ _ _ t
  | .vins _ _ _ _ t => decide (t.toNat ≤ 5)
  | .vwiden _ d _ _ t => (t == 0 || t == 1 || t == 3 || t == 4) && d.toNat % 2 == 0
  | .vwiden4 _ d _ _ t => t == 0 && d.toNat % 4 == 0
  | .vnarrow _ _ a _ t => (t == 1 || t == 2) && a.toNat % 2 == 0
  | .vnarrow4 _ _ a _ t => t == 2 && a.toNat % 4 == 0
  | .vcvt _ _ _ f k m => decide (1 ≤ f.toNat) && decide (f.toNat ≤ 12) && m != 3 && (!isBlockTag f || k == 0)
  | .vtrW _ d a f => decide (1 ≤ f.toNat) && decide (f.toNat ≤ 3) && d.toNat % 8 == 0 && a.toNat % 8 == 0
  | .vtag _ _ _ f => decide (f.toNat ≤ 12)
  | .vld _ _ _ x _ => decide (x.toNat ≤ 12)
  | .qwv _ q _ => q == 4 || q == 6
  | .qrv _ _ q => q == 1 || q == 5 || q == 7
  | .shMmaSp _ _ _ _ f | .shMmaWs _ _ _ _ f | .shMmaLt _ _ _ f
  | .shMmap _ _ _ f => decide (1 ≤ f.toNat) && decide (f.toNat ≤ 12) && f != 2 && f != 3 && f != 6
  | .shDrain _ _ _ f | .shDrainz _ _ _ f => decide (1 ≤ f.toNat) && decide (f.toNat ≤ 12)
  | .srRd _ _ r | .srWr _ _ r => isSysReg r
  | .hLi .. | .hAddi .. | .hMov .. | .hAdd .. | .hSub .. | .hAnd .. | .hOr .. | .hXor .. | .hSll .. | .hSrl .. | .hSra ..
  | .hLdW .. | .hLdD .. | .hStW .. | .hStD .. | .hBr .. | .hBp .. | .hNop .. | .hDone .. | .add .. | .sub .. | .and .. | .or ..
  | .xor .. | .andn .. | .orn .. | .xnor .. | .sll .. | .srl .. | .sra .. | .rol .. | .ror .. | .min .. | .max .. | .minu ..
  | .maxu .. | .addw .. | .subw .. | .mul .. | .mulhi .. | .mulhiu .. | .mul32 .. | .div .. | .divu .. | .rem .. | .remu ..
  | .lzc .. | .tzc .. | .ones .. | .bswap .. | .extsB .. | .extsH .. | .extsW .. | .extzW .. | .bfx .. | .bfxs .. | .bfi ..
  | .addi .. | .andi .. | .ori .. | .xori .. | .slli .. | .srli .. | .srai .. | .rori .. | .tag .. | .li .. | .lis ..
  | .pand .. | .por .. | .pxor .. | .pandn .. | .porn .. | .pnot .. | .pget .. | .pset .. | .br .. | .call .. | .jr ..
  | .callr .. | .nop .. | .done .. | .brk .. | .cvtF32F16 .. | .cvtF32Bf16 .. | .cvtF16F32 .. | .cvtBf16F32 .. | .cvtF32W ..
  | .cvtF32Wu .. | .cvtWF32 .. | .cvtWuF32 .. | .cvtWF32Rz .. | .cvtWuF32Rz .. | .ldB .. | .ldH .. | .ldW .. | .ldD ..
  | .ldBu .. | .ldHu .. | .ldWu .. | .stB .. | .stH .. | .stW .. | .stD .. | .ldf .. | .ldt .. | .ste .. | .stf .. | .ldAcqW ..
  | .ldAcqD .. | .stRelW .. | .stRelD .. | .amoAdd .. | .amoAnd .. | .amoOr .. | .amoXor .. | .amoMin .. | .amoMax ..
  | .amoMinu .. | .amoMaxu .. | .amoSwap .. | .amoCas .. | .amoFaddF32 .. | .fence .. | .seal .. | .unseal .. | .feFill ..
  | .feClr .. | .vand .. | .vor .. | .vxor .. | .vandn .. | .vsel .. | .vst .. | .vldSc .. | .vstSc .. | .vgatherW ..
  | .vscatterW .. | .vgatherH .. | .vscatterH .. | .vmov .. | .kand .. | .kor .. | .kxor .. | .knot .. | .send .. | .sendv ..
  | .sendc .. | .mcast .. | .spawn .. | .portRd .. | .portWr .. | .patWr .. | .ringHd .. | .ringTl .. | .ringAdv ..
  | .ringWait .. | .rankRd .. | .rankWr .. | .rankHold .. | .rankRel .. | .gbar .. | .gexit .. | .myrank .. | .shZero ..
  | .shPass .. | .shBow .. | .shStroke .. | .shWait .. | .shRcmd .. | .hlPost .. | .hlWp .. | .hlRfence .. | .hlResume ..
  | .hlStat .. | .rtRedAddF32 .. | .rtRedAddBf16 .. | .rtRedAddI32 .. | .rtRedMaxF32 .. | .rtRedMinF32 .. | .rtRes ..
  | .rtTree .. | .rtCodec .. | .tret .. | .wfe .. | .pwr .. | .capWr .. | .l2Ways .. | .l1Inv .. | .l2Wb .. | .tcInv ..
  | .trap .. | .bustRd .. | .rtabRd .. | .rtabWr .. | .rpt .. | .patternBinding .. | .messageArrival .. | .ovfHdWrite ..
  | .trapFiringBinding .. | .eventFiringBinding .. | .resultReturn .. | .returnedErrorArrival .. | .countReport ..
  | .completionCountArrival .. | .sliceExpiry .. | .seatCtlWrite .. | .preemption .. | .resumeEntryBinding ..
  | .spawnRequestArrival .. | .spawnAnswer .. | .spawnBinding .. | .launchChoice | .launchBinding .. | .launchSwitchOut ..
  | .launchSwitchIn .. | .launchAbort .. | .fenceSeat .. | .fenceCore .. | .fenceHaulChannel .. | .fenceWeightStoreBank ..
  | .fenceL2Slot .. | .fenceHbmStack .. | .fenceLink .. | .fenceChiplet .. | .deadRankNotice .. | .gbarArrival ..
  | .gbarCompletion .. | .combineArrival .. | .combineDelivery .. | .combineLeave .. | .shellMma .. | .mmaFinish ..
  | .shellDrain .. | .shellZero .. | .shellPass .. | .shellInject .. | .latchGrant .. | .latchArrival ..
  | .remoteShellCommand .. | .rcmdAnswer .. | .hlQWrite .. | .wLineNotify .. | .haulPollTimer .. | .haulSlotTake ..
  | .haulCopy .. | .haulFill .. | .haulGather .. | .haulBox .. | .haulCodec .. | .haulBeat .. | .haulCompletion ..
  | .loadAtHome .. | .storeAtHome .. | .revocation .. | .revocationAck .. | .storeAck .. | .atomicAtHome ..
  | .syncAccessArrival .. | .peerAccessArrival .. | .translationWalk .. | .wsRefreshOpen .. | .wsRefreshClose ..
  | .requestTimeout .. | .routerForward .. | .farAccess .. | .farMessage .. | .pageMigration .. | .movedReply ..
  | .l2Reconfiguration .. | .uncorrectableError .. | .wavelengthFailure .. | .heartbeat .. | .heartbeatLossWest ..
  | .severed .. | .moduleReset .. | .clockLock .. | .calibrationDone .. | .calibrationFail .. | .configurationFrame ..
  | .belayed .. | .ready .. | .frameTimeout .. | .ascentSettled | .pstateTransitionDone .. | .powerCapThrottle ..
  | .pstateWrite .. | .powcapWrite .. | .shLinkWrite .. | .farTtWrite .. | .registerWrite .. | .cxlMemRead .. | .cxlMemWrite ..
  | .summary .. | .takeToken .. | .abort .. | .queueCfg .. | .mbUnsupportedOpcode .. | .getVersion | .getCapabilities
  | .negotiateAlgorithms | .getDigests | .getCertificate .. | .challenge .. | .getMeasurements .. | .illegalInstruction ..
  | .wLineSubscription .. => true

end Sys2Proof
end

