-- ==== Sys2Proof/Decode.lean ====
section
/-! DEFINITION. Decoding of instruction words, total on any bytes (R11 to R48), and the encoder, written from the same
tables. The decoder is `noncomputable` only because Lean's run-time system cannot build more than 245 constructors with
fields; the kernel evaluates it. `rawDecode16` and `rawDecode32` read major, minor and reserved fields; `WellFormed` has the operand limits. -/

namespace Sys2Proof

/-- The bits `hi` to `lo` of a word. -/
abbrev bits (w : BitVec 32) (hi lo : Nat) : BitVec (hi + 1 - lo) := w.extractLsb' lo (hi + 1 - lo)

/-- The value if the check holds. -/
abbrev when (b : Bool) (i : Instr) : Option Instr := if b then some i else none

/-- The common fields SW, GN and GP (R19). -/
def decodeCtl (w : BitVec 32) : Ctl := ⟨w.getLsbD 30, w.getLsbD 29, bits w 28 26⟩

/-- The 16-bit forms (R17, R18); bit 15 is 0. -/
def rawDecode16 (p : Parcel) : Option Instr :=
  let sw := p.getLsbD 14
  let d : BitVec 3 := p.extractLsb' 6 3
  let a : BitVec 3 := p.extractLsb' 3 3
  let b : BitVec 3 := p.extractLsb' 0 3
  let i : BitVec 6 := p.extractLsb' 0 6
  let o : BitVec 9 := p.extractLsb' 0 9
  match (p.extractLsb' 9 5).toNat with
  | 0x01 => some (.hLi sw d i)
  | 0x02 => some (.hAddi sw d i)
  | 0x03 => when (b == 0) (.hMov sw d a)
  | 0x04 => some (.hAdd sw d a b)
  | 0x05 => some (.hSub sw d a b)
  | 0x06 => some (.hAnd sw d a b)
  | 0x07 => some (.hOr sw d a b)
  | 0x08 => some (.hXor sw d a b)
  | 0x09 => some (.hSll sw d i)
  | 0x0A => some (.hSrl sw d i)
  | 0x0B => some (.hSra sw d i)
  | 0x0C => some (.hLdW sw d a b)
  | 0x0D => some (.hLdD sw d a b)
  | 0x0E => some (.hStW sw d a b)
  | 0x0F => some (.hStD sw d a b)
  | 0x10 => some (.hBr sw o)
  | 0x11 => some (.hBp sw d i)
  | 0x12 => when (o == 0) (.hNop sw)
  | 0x13 => when (o == 0) (.hDone sw)
  | 0x14 => when (b == 0) (.hQr sw d a)
  | 0x15 => when (b == 0) (.hQw sw d a)
  | _ => none

/-- Major `0x00`. -/
def decodeMajor00 (c : Ctl) (w : BitVec 32) : Option Instr :=
  let d := bits w 19 15
  let a := bits w 14 10
  let b := bits w 9 5
  match (bits w 4 0).toNat with
  | 0 => some (.add c d a b)
  | 1 => some (.sub c d a b)
  | 2 => some (.and c d a b)
  | 3 => some (.or c d a b)
  | 4 => some (.xor c d a b)
  | 5 => some (.andn c d a b)
  | 6 => some (.orn c d a b)
  | 7 => some (.xnor c d a b)
  | 8 => some (.sll c d a b)
  | 9 => some (.srl c d a b)
  | 10 => some (.sra c d a b)
  | 11 => some (.rol c d a b)
  | 12 => some (.ror c d a b)
  | 13 => some (.min c d a b)
  | 14 => some (.max c d a b)
  | 15 => some (.minu c d a b)
  | 16 => some (.maxu c d a b)
  | 17 => some (.addw c d a b)
  | 18 => some (.subw c d a b)
  | _ => none

/-- Major `0x01`. -/
def decodeMajor01 (c : Ctl) (w : BitVec 32) : Option Instr :=
  let d := bits w 19 15
  let a := bits w 14 10
  let b := bits w 9 5
  match (bits w 4 0).toNat with
  | 0 => some (.mul c d a b)
  | 1 => some (.mulhi c d a b)
  | 2 => some (.mulhiu c d a b)
  | 3 => some (.mul32 c d a b)
  | 4 => some (.div c d a b)
  | 5 => some (.divu c d a b)
  | 6 => some (.rem c d a b)
  | 7 => some (.remu c d a b)
  | 8 => when (bits w 9 5 == 0) (.lzc c d a)
  | 9 => when (bits w 9 5 == 0) (.tzc c d a)
  | 10 => when (bits w 9 5 == 0) (.ones c d a)
  | 11 => when (bits w 9 5 == 0) (.bswap c d a)
  | 12 => when (bits w 9 5 == 0) (.extsB c d a)
  | 13 => when (bits w 9 5 == 0) (.extsH c d a)
  | 14 => when (bits w 9 5 == 0) (.extsW c d a)
  | 15 => when (bits w 9 5 == 0) (.extzW c d a)
  | _ => none

/-- Major `0x02`. -/
def decodeMajor02 (c : Ctl) (w : BitVec 32) : Option Instr :=
  let d := bits w 19 15
  let a := bits w 14 10
  let i := bits w 9 0
  some (.addi c d a i)

/-- Major `0x03`. -/
def decodeMajor03 (c : Ctl) (w : BitVec 32) : Option Instr :=
  let d := bits w 19 15
  let a := bits w 14 10
  let i := bits w 9 0
  some (.andi c d a i)

/-- Major `0x04`. -/
def decodeMajor04 (c : Ctl) (w : BitVec 32) : Option Instr :=
  let d := bits w 19 15
  let a := bits w 14 10
  let i := bits w 9 0
  some (.ori c d a i)

/-- Major `0x05`. -/
def decodeMajor05 (c : Ctl) (w : BitVec 32) : Option Instr :=
  let d := bits w 19 15
  let a := bits w 14 10
  let i := bits w 9 0
  some (.xori c d a i)

/-- Major `0x06`. -/
def decodeMajor06 (c : Ctl) (w : BitVec 32) : Option Instr :=
  let d := bits w 19 15
  let a := bits w 14 10
  let i := bits w 5 0
  match (bits w 9 6).toNat with
  | 0 => some (.slli c d a i)
  | 1 => some (.srli c d a i)
  | 2 => some (.srai c d a i)
  | 3 => some (.rori c d a i)
  | _ => none

/-- Major `0x07`. -/
def decodeMajor07 (c : Ctl) (w : BitVec 32) : Option Instr :=
  let d := bits w 19 15
  let a := bits w 14 10
  let i := bits w 7 0
  when (bits w 9 8 == 0) (.tag c d a i)

/-- Major `0x08`. -/
def decodeMajor08 (c : Ctl) (w : BitVec 32) : Option Instr :=
  let d := bits w 19 15
  let i := bits w 14 0
  some (.li c d i)

/-- Major `0x09`. -/
def decodeMajor09 (c : Ctl) (w : BitVec 32) : Option Instr :=
  let d := bits w 19 15
  let i := bits w 14 0
  some (.lis c d i)

/-- Major `0x0A`. -/
def decodeMajor0A (c : Ctl) (w : BitVec 32) : Option Instr :=
  let d := bits w 19 15
  let a := bits w 14 10
  let b := bits w 9 5
  match (bits w 4 0).toNat with
  | 0 => some (.bfx c d a b)
  | 1 => some (.bfxs c d a b)
  | 2 => some (.bfi c d a b)
  | _ => none

/-- Major `0x10`. -/
def decodeMajor10 (c : Ctl) (w : BitVec 32) : Option Instr :=
  let p := bits w 19 17
  let e := bits w 16 14
  let a := bits w 13 9
  let b := bits w 8 4
  match (bits w 3 0).toNat with
  | 0 => some (.cmpEq c p e a b)
  | 1 => some (.cmpNe c p e a b)
  | 2 => some (.cmpLt c p e a b)
  | 3 => some (.cmpGe c p e a b)
  | 4 => some (.cmpLtu c p e a b)
  | 5 => some (.cmpGeu c p e a b)
  | 6 => some (.cmpLe c p e a b)
  | 7 => some (.cmpGt c p e a b)
  | 8 => some (.cmpLeu c p e a b)
  | 9 => some (.cmpGtu c p e a b)
  | 10 => some (.cmpTst c p e a b)
  | _ => none

/-- Major `0x11`. -/
def decodeMajor11 (c : Ctl) (w : BitVec 32) : Option Instr :=
  let p := bits w 19 17
  let e := bits w 16 14
  let a := bits w 13 9
  let i := bits w 8 3
  match (bits w 2 0).toNat with
  | 0 => some (.cmpEqImm c p e a i)
  | 1 => some (.cmpNeImm c p e a i)
  | 2 => some (.cmpLtImm c p e a i)
  | 3 => some (.cmpGeImm c p e a i)
  | 4 => some (.cmpLtuImm c p e a i)
  | 5 => some (.cmpGeuImm c p e a i)
  | 6 => some (.cmpLeImm c p e a i)
  | 7 => some (.cmpGtImm c p e a i)
  | _ => none

/-- Major `0x12`. -/
def decodeMajor12 (c : Ctl) (w : BitVec 32) : Option Instr :=
  let p := bits w 19 17
  let e := bits w 16 14
  let a := bits w 13 9
  let b := bits w 8 4
  let t := bits w 3 2
  match (bits w 1 0).toNat with
  | 0 => some (.cmpEqFloat c p e a b t)
  | 1 => some (.cmpLtFloat c p e a b t)
  | 2 => some (.cmpLeFloat c p e a b t)
  | 3 => some (.cmpUnFloat c p e a b t)
  | _ => none

/-- Major `0x13`. -/
def decodeMajor13 (c : Ctl) (w : BitVec 32) : Option Instr :=
  let d := bits w 19 17
  let a := bits w 16 14
  let b := bits w 13 11
  let x := bits w 10 6
  match (bits w 3 0).toNat with
  | 0 => when (bits w 10 4 == 0) (.pand c d a b)
  | 1 => when (bits w 10 4 == 0) (.por c d a b)
  | 2 => when (bits w 10 4 == 0) (.pxor c d a b)
  | 3 => when (bits w 10 4 == 0) (.pandn c d a b)
  | 4 => when (bits w 10 4 == 0) (.porn c d a b)
  | 5 => when (bits w 13 4 == 0) (.pnot c d a)
  | 6 => when (bits w 5 4 == 0 && bits w 19 11 == 0) (.pget c x)
  | 7 => when (bits w 5 4 == 0 && bits w 19 11 == 0) (.pset c x)
  | _ => none

/-- Major `0x14`. -/
def decodeMajor14 (c : Ctl) (w : BitVec 32) : Option Instr :=
  let o := bits w 19 0
  some (.br c o)

/-- Major `0x15`. -/
def decodeMajor15 (c : Ctl) (w : BitVec 32) : Option Instr :=
  let o := bits w 19 0
  some (.call c o)

/-- Major `0x16`. -/
def decodeMajor16 (c : Ctl) (w : BitVec 32) : Option Instr :=
  let a := bits w 14 10
  match (bits w 4 0).toNat with
  | 0 => when (bits w 9 5 == 0 && bits w 19 15 == 0) (.jr c a)
  | 1 => when (bits w 9 5 == 0 && bits w 19 15 == 0) (.callr c a)
  | _ => none

/-- Major `0x17`. -/
def decodeMajor17 (c : Ctl) (w : BitVec 32) : Option Instr :=
  let code := bits w 19 5
  match (bits w 4 0).toNat with
  | 0 => when (bits w 19 5 == 0) (.nop c)
  | 1 => when (bits w 19 5 == 0) (.done c)
  | 2 => some (.brk c code)
  | _ => none

/-- Major `0x18`. -/
def decodeMajor18 (c : Ctl) (w : BitVec 32) : Option Instr :=
  let d := bits w 19 15
  let a := bits w 14 10
  let b := bits w 9 5
  let t := bits w 4 3
  match (bits w 2 0).toNat with
  | 0 => some (.fadd c d a b t)
  | 1 => some (.fsub c d a b t)
  | 2 => some (.fmul c d a b t)
  | 3 => some (.fdiv c d a b t)
  | 4 => some (.fmin c d a b t)
  | 5 => some (.fmax c d a b t)
  | 6 => some (.fma c d a b t)
  | 7 => when (bits w 9 5 == 0) (.fsqrt c d a t)
  | _ => none

/-- Major `0x19`. -/
def decodeMajor19 (c : Ctl) (w : BitVec 32) : Option Instr :=
  let d := bits w 19 15
  let a := bits w 14 10
  match (bits w 4 0).toNat with
  | 0 => when (bits w 9 5 == 0) (.cvtF32F16 c d a)
  | 1 => when (bits w 9 5 == 0) (.cvtF32Bf16 c d a)
  | 2 => when (bits w 9 5 == 0) (.cvtF16F32 c d a)
  | 3 => when (bits w 9 5 == 0) (.cvtBf16F32 c d a)
  | 4 => when (bits w 9 5 == 0) (.cvtF32W c d a)
  | 5 => when (bits w 9 5 == 0) (.cvtF32Wu c d a)
  | 6 => when (bits w 9 5 == 0) (.cvtWF32 c d a)
  | 7 => when (bits w 9 5 == 0) (.cvtWuF32 c d a)
  | 8 => when (bits w 9 5 == 0) (.cvtWF32Rz c d a)
  | 9 => when (bits w 9 5 == 0) (.cvtWuF32Rz c d a)
  | _ => none

/-- Major `0x1A`. -/
def decodeMajor1A (c : Ctl) (w : BitVec 32) : Option Instr :=
  let d := bits w 19 15
  let a := bits w 14 10
  let t := bits w 4 3
  let b := bits w 9 5
  match (bits w 2 0).toNat with
  | 0 => when (bits w 9 5 == 0) (.fclass c d a t)
  | 1 => some (.fsgnCp c d a b t)
  | 2 => some (.fsgnNeg c d a b t)
  | 3 => some (.fsgnXor c d a b t)
  | 4 => when (bits w 9 5 == 0) (.frint c d a t)
  | _ => none

/-- Major `0x1C`. -/
def decodeMajor1C (c : Ctl) (w : BitVec 32) : Option Instr :=
  let d := bits w 19 15
  let a := bits w 14 10
  let o := bits w 7 0
  match (bits w 9 8).toNat with
  | 0 => some (.ldB c d a o)
  | 1 => some (.ldH c d a o)
  | 2 => some (.ldW c d a o)
  | 3 => some (.ldD c d a o)
  | _ => none

/-- Major `0x1D`. -/
def decodeMajor1D (c : Ctl) (w : BitVec 32) : Option Instr :=
  let d := bits w 19 15
  let a := bits w 14 10
  let o := bits w 7 0
  match (bits w 9 8).toNat with
  | 0 => some (.ldBu c d a o)
  | 1 => some (.ldHu c d a o)
  | 2 => some (.ldWu c d a o)
  | _ => none

/-- Major `0x1E`. -/
def decodeMajor1E (c : Ctl) (w : BitVec 32) : Option Instr :=
  let d := bits w 19 15
  let a := bits w 14 10
  let o := bits w 7 0
  match (bits w 9 8).toNat with
  | 0 => some (.stB c d a o)
  | 1 => some (.stH c d a o)
  | 2 => some (.stW c d a o)
  | 3 => some (.stD c d a o)
  | _ => none

/-- Major `0x1F`. -/
def decodeMajor1F (c : Ctl) (w : BitVec 32) : Option Instr :=
  let d := bits w 19 15
  let a := bits w 14 10
  let o := bits w 7 0
  match (bits w 9 8).toNat with
  | 0 => some (.ldf c d a o)
  | 1 => some (.ldt c d a o)
  | 2 => some (.ste c d a o)
  | 3 => some (.stf c d a o)
  | _ => none

/-- Major `0x20`. -/
def decodeMajor20 (c : Ctl) (w : BitVec 32) : Option Instr :=
  let d := bits w 19 15
  let a := bits w 14 10
  let o := bits w 7 0
  match (bits w 9 8).toNat with
  | 0 => some (.ldAcqW c d a o)
  | 1 => some (.ldAcqD c d a o)
  | 2 => some (.stRelW c d a o)
  | 3 => some (.stRelD c d a o)
  | _ => none

/-- Major `0x21`. -/
def decodeMajor21 (c : Ctl) (w : BitVec 32) : Option Instr :=
  let d := bits w 19 15
  let a := bits w 14 10
  let b := bits w 9 5
  let z := bits w 0 0
  match (bits w 4 1).toNat with
  | 0 => some (.amoAdd c d a b z)
  | 1 => some (.amoAnd c d a b z)
  | 2 => some (.amoOr c d a b z)
  | 3 => some (.amoXor c d a b z)
  | 4 => some (.amoMin c d a b z)
  | 5 => some (.amoMax c d a b z)
  | 6 => some (.amoMinu c d a b z)
  | 7 => some (.amoMaxu c d a b z)
  | 8 => some (.amoSwap c d a b z)
  | 9 => some (.amoCas c d a b z)
  | 10 => when (bits w 0 0 == 0) (.amoFaddF32 c d a b)
  | _ => none

/-- Major `0x22`. -/
def decodeMajor22 (c : Ctl) (w : BitVec 32) : Option Instr :=
  let a := bits w 14 10
  let b := bits w 9 5
  match (bits w 4 0).toNat with
  | 0 => when (bits w 19 5 == 0) (.fence c)
  | 1 => when (bits w 19 15 == 0) (.seal c a b)
  | 2 => when (bits w 19 15 == 0) (.unseal c a b)
  | 3 => when (bits w 19 15 == 0) (.feFill c a b)
  | 4 => when (bits w 19 15 == 0) (.feClr c a b)
  | _ => none

/-- Major `0x24`. -/
def decodeMajor24 (c : Ctl) (w : BitVec 32) : Option Instr :=
  let d := bits w 19 16
  let a := bits w 15 12
  let b := bits w 11 8
  let k := bits w 7 6
  let t := bits w 5 3
  match (bits w 2 0).toNat with
  | 0 => some (.vaddInt c d a b k t)
  | 1 => some (.vsubInt c d a b k t)
  | 2 => some (.vmulInt c d a b k t)
  | 3 => some (.vminInt c d a b k t)
  | 4 => some (.vmaxInt c d a b k t)
  | 5 => some (.vminu c d a b k t)
  | 6 => some (.vmaxu c d a b k t)
  | 7 => some (.vadds c d a b k t)
  | _ => none

/-- Major `0x25`. -/
def decodeMajor25 (c : Ctl) (w : BitVec 32) : Option Instr :=
  let d := bits w 19 16
  let a := bits w 15 12
  let b := bits w 11 8
  let k := bits w 7 6
  let t := bits w 5 3
  match (bits w 2 0).toNat with
  | 0 => some (.vaddFloat c d a b k t)
  | 1 => some (.vsubFloat c d a b k t)
  | 2 => some (.vmulFloat c d a b k t)
  | 3 => some (.vfma c d a b k t)
  | 4 => some (.vminFloat c d a b k t)
  | 5 => some (.vmaxFloat c d a b k t)
  | 6 => some (.vdiv c d a b k t)
  | 7 => when (bits w 11 8 == 0) (.vsqrt c d a k t)
  | _ => none

/-- Major `0x26`. -/
def decodeMajor26 (c : Ctl) (w : BitVec 32) : Option Instr :=
  let d := bits w 19 16
  let a := bits w 15 12
  let b := bits w 11 8
  let k := bits w 7 6
  let t := bits w 5 3
  match (bits w 2 0).toNat with
  | 0 => when (bits w 5 3 == 7) (.vand c d a b k)
  | 1 => when (bits w 5 3 == 7) (.vor c d a b k)
  | 2 => when (bits w 5 3 == 7) (.vxor c d a b k)
  | 3 => when (bits w 5 3 == 7) (.vandn c d a b k)
  | 4 => some (.vsll c d a b k t)
  | 5 => some (.vsrl c d a b k t)
  | 6 => some (.vsra c d a b k t)
  | 7 => when (bits w 5 3 == 7) (.vsel c d a b k)
  | _ => none

/-- Major `0x27`. -/
def decodeMajor27 (c : Ctl) (w : BitVec 32) : Option Instr :=
  let d := bits w 17 16
  let a := bits w 15 12
  let b := bits w 11 8
  let k := bits w 7 6
  let t := bits w 5 3
  match (bits w 2 0).toNat with
  | 0 => when (bits w 19 18 == 0) (.vcmpEq c d a b k t)
  | 1 => when (bits w 19 18 == 0) (.vcmpNe c d a b k t)
  | 2 => when (bits w 19 18 == 0) (.vcmpLt c d a b k t)
  | 3 => when (bits w 19 18 == 0) (.vcmpLe c d a b k t)
  | 4 => when (bits w 19 18 == 0) (.vcmpLtu c d a b k t)
  | 5 => when (bits w 19 18 == 0) (.vcmpLeu c d a b k t)
  | 6 => when (bits w 19 18 == 0) (.vcmpUn c d a b k t)
  | _ => none

/-- Major `0x28`. -/
def decodeMajor28 (c : Ctl) (w : BitVec 32) : Option Instr :=
  let d := bits w 19 16
  let a := bits w 15 12
  let k := bits w 7 6
  let t := bits w 5 3
  let b := bits w 11 8
  match (bits w 2 0).toNat with
  | 0 => when (bits w 11 8 == 0) (.vredsum c d a k t)
  | 1 => when (bits w 11 8 == 0) (.vredmax c d a k t)
  | 2 => when (bits w 11 8 == 0) (.vredmin c d a k t)
  | 3 => some (.vdot c d a b k t)
  | 4 => when (bits w 11 8 == 0) (.vwiden c d a k t)
  | 5 => when (bits w 11 8 == 0) (.vwiden4 c d a k t)
  | 6 => when (bits w 11 8 == 0) (.vnarrow c d a k t)
  | 7 => when (bits w 11 8 == 0) (.vnarrow4 c d a k t)
  | _ => none

/-- Major `0x29`. -/
def decodeMajor29 (c : Ctl) (w : BitVec 32) : Option Instr :=
  let d := bits w 19 16
  let a := bits w 15 12
  let f := bits w 11 8
  let k := bits w 7 6
  let m := bits w 5 4
  match (bits w 3 0).toNat with
  | 0 => some (.vcvt c d a f k m)
  | 1 => when (bits w 7 4 == 0) (.vtrW c d a f)
  | 2 => when (bits w 7 4 == 0) (.vtag c d a f)
  | _ => none

/-- Major `0x2A`. -/
def decodeMajor2A (c : Ctl) (w : BitVec 32) : Option Instr :=
  let d := bits w 19 16
  let a := bits w 15 11
  let x := bits w 10 7
  let k := bits w 6 5
  match (bits w 4 0).toNat with
  | 0 => some (.vld c d a x k)
  | 1 => when (bits w 10 7 == 0) (.vst c d a k)
  | 2 => when (bits w 10 5 == 0) (.vldSc c d a)
  | 3 => when (bits w 10 5 == 0) (.vstSc c d a)
  | 4 => some (.vgatherW c d a x k)
  | 5 => some (.vscatterW c d a x k)
  | 6 => some (.vgatherH c d a x k)
  | 7 => some (.vscatterH c d a x k)
  | _ => none

/-- Major `0x2B`. -/
def decodeMajor2B (c : Ctl) (w : BitVec 32) : Option Instr :=
  let d := bits w 19 16
  let a' := bits w 15 12
  let a := bits w 15 11
  let t := bits w 5 3
  let i := bits w 10 6
  let d' := bits w 17 16
  let a'' := bits w 13 12
  let b := bits w 9 8
  match (bits w 2 0).toNat with
  | 0 => when (bits w 11 3 == 7) (.vmov c d a')
  | 1 => when (bits w 10 6 == 0) (.vbcast c d a t)
  | 2 => some (.vext c d a i t)
  | 3 => some (.vins c d a i t)
  | 4 => when (bits w 7 3 == 7 && bits w 11 10 == 0 && bits w 15 14 == 0 && bits w 19 18 == 0) (.kand c d' a'' b)
  | 5 => when (bits w 7 3 == 7 && bits w 11 10 == 0 && bits w 15 14 == 0 && bits w 19 18 == 0) (.kor c d' a'' b)
  | 6 => when (bits w 7 3 == 7 && bits w 11 10 == 0 && bits w 15 14 == 0 && bits w 19 18 == 0) (.kxor c d' a'' b)
  | 7 => when (bits w 11 3 == 7 && bits w 15 14 == 0 && bits w 19 18 == 0) (.knot c d' a'')
  | _ => none

/-- Major `0x2C`. -/
def decodeMajor2C (c : Ctl) (w : BitVec 32) : Option Instr :=
  let q := bits w 17 15
  let a := bits w 14 10
  let d := bits w 19 15
  let q' := bits w 12 10
  let b := bits w 8 5
  let d' := bits w 18 15
  match (bits w 4 0).toNat with
  | 0 => when (bits w 9 5 == 0 && bits w 19 18 == 0) (.qw c q a)
  | 1 => when (bits w 9 5 == 0 && bits w 14 13 == 0) (.qr c d q')
  | 2 => when (bits w 14 9 == 0 && bits w 19 18 == 0) (.qwv c q b)
  | 3 => when (bits w 9 5 == 0 && bits w 14 13 == 0 && bits w 19 19 == 0) (.qrv c d' q')
  | _ => none

/-- Major `0x2D`. -/
def decodeMajor2D (c : Ctl) (w : BitVec 32) : Option Instr :=
  let a := bits w 14 10
  let b := bits w 9 5
  let b' := bits w 8 5
  let p := bits w 17 15
  match (bits w 4 0).toNat with
  | 0 => when (bits w 19 15 == 0) (.send c a b)
  | 1 => when (bits w 9 9 == 0 && bits w 19 15 == 0) (.sendv c a b')
  | 2 => when (bits w 19 15 == 0) (.sendc c a b)
  | 3 => when (bits w 19 15 == 0) (.mcast c a b)
  | 4 => when (bits w 19 18 == 0) (.spawn c p a b)
  | _ => none

/-- Major `0x2E`. -/
def decodeMajor2E (c : Ctl) (w : BitVec 32) : Option Instr :=
  let d := bits w 19 15
  let a := bits w 14 10
  let b := bits w 9 5
  match (bits w 4 0).toNat with
  | 0 => when (bits w 9 5 == 0) (.portRd c d a)
  | 1 => when (bits w 19 15 == 0) (.portWr c a b)
  | 2 => when (bits w 19 15 == 0) (.patWr c a b)
  | 3 => when (bits w 9 5 == 0) (.ringHd c d a)
  | 4 => when (bits w 9 5 == 0) (.ringTl c d a)
  | 5 => when (bits w 19 15 == 0) (.ringAdv c a b)
  | 6 => when (bits w 9 5 == 0) (.ringWait c d a)
  | _ => none

/-- Major `0x2F`. -/
noncomputable def decodeMajor2F (c : Ctl) (w : BitVec 32) : Option Instr :=
  let d := bits w 19 15
  let a := bits w 14 10
  let b := bits w 9 5
  match (bits w 4 0).toNat with
  | 0 => when (bits w 9 5 == 0) (.rankRd c d a)
  | 1 => when (bits w 19 15 == 0) (.rankWr c a b)
  | 2 => when (bits w 9 5 == 0 && bits w 19 15 == 0) (.rankHold c a)
  | 3 => when (bits w 19 15 == 0) (.rankRel c a b)
  | 4 => when (bits w 9 5 == 0 && bits w 19 15 == 0) (.gbar c a)
  | 5 => when (bits w 9 5 == 0 && bits w 19 15 == 0) (.gexit c a)
  | 6 => when (bits w 14 5 == 0) (.myrank c d)
  | _ => none

/-- Major `0x30`. -/
noncomputable def decodeMajor30 (c : Ctl) (w : BitVec 32) : Option Instr :=
  let d := bits w 19 17
  let a := bits w 16 12
  let b := bits w 11 7
  let f := bits w 4 1
  match (bits w 6 5).toNat, (bits w 0 0).toNat with
  | 0, 0 => some (.shMmaSp c d a b f)
  | 1, 0 => some (.shMmaWs c d a b f)
  | 2, 0 => when (bits w 11 7 == 0) (.shMmaLt c d a f)
  | 2, 1 => when (bits w 11 7 == 0) (.shMmap c d a f)
  | _, _ => none

/-- Major `0x31`. -/
noncomputable def decodeMajor31 (c : Ctl) (w : BitVec 32) : Option Instr :=
  let d := bits w 19 17
  let a := bits w 16 12
  let f := bits w 4 1
  match (bits w 0 0).toNat with
  | 0 => when (bits w 11 5 == 0) (.shDrain c d a f)
  | 1 => when (bits w 11 5 == 0) (.shDrainz c d a f)
  | _ => none

/-- Major `0x32`. -/
noncomputable def decodeMajor32 (c : Ctl) (w : BitVec 32) : Option Instr :=
  let d := bits w 19 17
  let a := bits w 16 12
  match (bits w 4 0).toNat with
  | 0 => when (bits w 16 5 == 0) (.shZero c d)
  | 1 => when (bits w 19 5 == 0) (.shPass c)
  | 2 => when (bits w 11 5 == 0 && bits w 19 17 == 0) (.shBow c a)
  | 3 => when (bits w 11 5 == 0 && bits w 19 17 == 0) (.shStroke c a)
  | 4 => when (bits w 16 5 == 0) (.shWait c d)
  | _ => none

/-- Major `0x33`. -/
noncomputable def decodeMajor33 (c : Ctl) (w : BitVec 32) : Option Instr :=
  let a := bits w 16 12
  let b := bits w 11 7
  match (bits w 4 0).toNat with
  | 0 => when (bits w 6 5 == 0 && bits w 19 17 == 0) (.shRcmd c a b)
  | _ => none

/-- Major `0x34`. -/
noncomputable def decodeMajor34 (c : Ctl) (w : BitVec 32) : Option Instr :=
  let a := bits w 14 10
  let d := bits w 19 15
  match (bits w 4 0).toNat with
  | 0 => when (bits w 9 5 == 0 && bits w 19 15 == 0) (.hlPost c a)
  | 1 => when (bits w 9 5 == 0) (.hlWp c d a)
  | 2 => when (bits w 9 5 == 0 && bits w 19 15 == 0) (.hlRfence c a)
  | 3 => when (bits w 9 5 == 0 && bits w 19 15 == 0) (.hlResume c a)
  | 4 => when (bits w 9 5 == 0) (.hlStat c d a)
  | _ => none

/-- Major `0x36`. -/
noncomputable def decodeMajor36 (c : Ctl) (w : BitVec 32) : Option Instr :=
  let a := bits w 14 10
  let b' := bits w 8 5
  let d := bits w 18 15
  let b := bits w 9 5
  match (bits w 4 0).toNat with
  | 0 => when (bits w 9 9 == 0 && bits w 19 15 == 0) (.rtRedAddF32 c a b')
  | 1 => when (bits w 9 9 == 0 && bits w 19 15 == 0) (.rtRedAddBf16 c a b')
  | 2 => when (bits w 9 9 == 0 && bits w 19 15 == 0) (.rtRedAddI32 c a b')
  | 3 => when (bits w 9 9 == 0 && bits w 19 15 == 0) (.rtRedMaxF32 c a b')
  | 4 => when (bits w 9 9 == 0 && bits w 19 15 == 0) (.rtRedMinF32 c a b')
  | 8 => when (bits w 9 5 == 0 && bits w 19 19 == 0) (.rtRes c d a)
  | 9 => when (bits w 19 15 == 0) (.rtTree c a b)
  | 10 => when (bits w 9 5 == 0 && bits w 19 15 == 0) (.rtCodec c a)
  | _ => none

/-- Major `0x38`. -/
noncomputable def decodeMajor38 (c : Ctl) (w : BitVec 32) : Option Instr :=
  let d := bits w 19 15
  let r := bits w 9 0
  when (bits w 14 10 == 0) (.srRd c d r)

/-- Major `0x39`. -/
noncomputable def decodeMajor39 (c : Ctl) (w : BitVec 32) : Option Instr :=
  let a := bits w 14 10
  let r := bits w 9 0
  when (bits w 19 15 == 0) (.srWr c a r)

/-- Major `0x3A`. -/
noncomputable def decodeMajor3A (c : Ctl) (w : BitVec 32) : Option Instr :=
  let a := bits w 14 10
  let code := bits w 17 15
  match (bits w 9 0).toNat with
  | 0 => when (bits w 19 10 == 0) (.tret c)
  | 1 => when (bits w 19 10 == 0) (.wfe c)
  | 2 => when (bits w 19 15 == 0) (.pwr c a)
  | 3 => when (bits w 19 18 == 0) (.capWr c code a)
  | 4 => when (bits w 19 15 == 0) (.l2Ways c a)
  | 5 => when (bits w 19 10 == 0) (.l1Inv c)
  | 6 => when (bits w 19 15 == 0) (.l2Wb c a)
  | 7 => when (bits w 19 15 == 0) (.tcInv c a)
  | 8 => when (bits w 19 15 == 0) (.trap c a)
  | _ => none

/-- Major `0x3B`. -/
noncomputable def decodeMajor3B (c : Ctl) (w : BitVec 32) : Option Instr :=
  let d := bits w 19 15
  let a := bits w 14 10
  match (bits w 9 0).toNat with
  | 0 => some (.bustRd c d a)
  | 1 => some (.rtabRd c d a)
  | 2 => some (.rtabWr c d a)
  | _ => none

/-- The repeat prefix (R25). -/
noncomputable def decodeRepeat (w : BitVec 32) : Option Instr :=
  when (w.extractLsb' 26 5 == 7 && w.getLsbD 31 && bits w 5 0 == 0)
    (.rpt (bits w 19 10) (w.getLsbD 9) (w.getLsbD 8) (w.getLsbD 7) (w.getLsbD 6))

/-- The majors up to `0x2E` (R31). -/
def decodeEarly (w : BitVec 32) : Option Instr :=
  let c := decodeCtl w
  match (bits w 25 20).toNat with
  | 0x00 => decodeMajor00 c w
  | 0x01 => decodeMajor01 c w
  | 0x02 => decodeMajor02 c w
  | 0x03 => decodeMajor03 c w
  | 0x04 => decodeMajor04 c w
  | 0x05 => decodeMajor05 c w
  | 0x06 => decodeMajor06 c w
  | 0x07 => decodeMajor07 c w
  | 0x08 => decodeMajor08 c w
  | 0x09 => decodeMajor09 c w
  | 0x0A => decodeMajor0A c w
  | 0x10 => decodeMajor10 c w
  | 0x11 => decodeMajor11 c w
  | 0x12 => decodeMajor12 c w
  | 0x13 => decodeMajor13 c w
  | 0x14 => decodeMajor14 c w
  | 0x15 => decodeMajor15 c w
  | 0x16 => decodeMajor16 c w
  | 0x17 => decodeMajor17 c w
  | 0x18 => decodeMajor18 c w
  | 0x19 => decodeMajor19 c w
  | 0x1A => decodeMajor1A c w
  | 0x1C => decodeMajor1C c w
  | 0x1D => decodeMajor1D c w
  | 0x1E => decodeMajor1E c w
  | 0x1F => decodeMajor1F c w
  | 0x20 => decodeMajor20 c w
  | 0x21 => decodeMajor21 c w
  | 0x22 => decodeMajor22 c w
  | 0x24 => decodeMajor24 c w
  | 0x25 => decodeMajor25 c w
  | 0x26 => decodeMajor26 c w
  | 0x27 => decodeMajor27 c w
  | 0x28 => decodeMajor28 c w
  | 0x29 => decodeMajor29 c w
  | 0x2A => decodeMajor2A c w
  | 0x2B => decodeMajor2B c w
  | 0x2C => decodeMajor2C c w
  | 0x2D => decodeMajor2D c w
  | 0x2E => decodeMajor2E c w
  | _ => none

/-- The majors from `0x2F` on (R31). -/
noncomputable def decodeLate (w : BitVec 32) : Option Instr :=
  let c := decodeCtl w
  match (bits w 25 20).toNat with
  | 0x2F => decodeMajor2F c w
  | 0x30 => decodeMajor30 c w
  | 0x31 => decodeMajor31 c w
  | 0x32 => decodeMajor32 c w
  | 0x33 => decodeMajor33 c w
  | 0x34 => decodeMajor34 c w
  | 0x36 => decodeMajor36 c w
  | 0x38 => decodeMajor38 c w
  | 0x39 => decodeMajor39 c w
  | 0x3A => decodeMajor3A c w
  | 0x3B => decodeMajor3B c w
  | 0x3C => decodeRepeat w
  | _ => none

/-- The 32-bit words by major (R31). -/
noncomputable def rawDecode32 (w : BitVec 32) : Option Instr :=
  if (bits w 25 20).toNat ≤ 0x2E then decodeEarly w else decodeLate w

/-- A 16-bit form under its operand limits. -/
def decode16 (p : Parcel) : Option Instr := if p.getLsbD 15 then none else (rawDecode16 p).filter Instr.wellFormed

/-- A 32-bit word under its operand limits. -/
noncomputable def decode32 (w : BitVec 32) : Option Instr := if w.getLsbD 31 then (rawDecode32 w).filter Instr.wellFormed else none

/-- Why bytes do not decode. -/
inductive DecodeError where
  | truncated
  | unassigned
  | operandLimit
  deriving DecidableEq, Repr

/-- A parcel from its two bytes, little-endian (R2, R12). -/
def parcelOf (lo hi : Byte) : Parcel := hi ++ lo

/-- The decoder over bytes in code-store order: the instruction and the rest, or why there is none. -/
noncomputable def decode : List Byte → Except DecodeError (Instr × List Byte)
  | b0 :: b1 :: rest =>
    let p := parcelOf b0 b1
    if p.getLsbD 15 then
      match rest with
      | b2 :: b3 :: rest =>
        let w : BitVec 32 := p ++ parcelOf b2 b3
        match rawDecode32 w with
        | none => .error .unassigned
        | some i => if i.wellFormed then .ok (i, rest) else .error .operandLimit
      | _ => .error .truncated
    else
      match rawDecode16 p with
      | none => .error .unassigned
      | some i => if i.wellFormed then .ok (i, rest) else .error .operandLimit
  | _ => .error .truncated

/-- The bytes of a parcel in code-store order. -/
def parcelBytes (p : Parcel) : List Byte := [p.setWidth 8, (p >>> 8).setWidth 8]

/-- The instruction of an opcode-table word: `nbits` is 16 or 32, bits numbered as R17 and R19 number them. -/
noncomputable def decodeTableWord (nbits w : Nat) : Option Instr :=
  let bytes :=
    if nbits ≤ 16 then parcelBytes (BitVec.ofNat 16 w) ++ [0, 0]
    else parcelBytes (BitVec.ofNat 16 (w / 65536)) ++ parcelBytes (BitVec.ofNat 16 w)
  match decode bytes with
  | .ok (i, _) => some i
  | .error _ => none

/-! ### The encoder -/

/-- Bits [31:26] of a 32-bit word (R19). -/
def encodeCtl (c : Ctl) : BitVec 6 := 1#1 ++ BitVec.ofBool c.sw ++ BitVec.ofBool c.gn ++ c.gp

/-- A word of the layouts A and Q (R22). -/
def wordA (c : Ctl) (maj : BitVec 6) (d a b fn : BitVec 5) : BitVec 32 := encodeCtl c ++ maj ++ d ++ a ++ b ++ fn

/-- A word of the layout X (R22). -/
def wordX (c : Ctl) (maj : BitVec 6) (d a : BitVec 5) (fn : BitVec 10) : BitVec 32 := encodeCtl c ++ maj ++ d ++ a ++ fn

/-- The two parcels of a 32-bit word (R12). -/
def ofWord (w : BitVec 32) : List Parcel := [w.extractLsb' 16 16, w.extractLsb' 0 16]

/-- The parcels of an instruction; a step of the module's units has none. -/
def encode : Instr → List Parcel
  | .hLi sw d i => [0#1 ++ BitVec.ofBool sw ++ 1#5 ++ d ++ i]
  | .hAddi sw d i => [0#1 ++ BitVec.ofBool sw ++ 2#5 ++ d ++ i]
  | .hMov sw d a => [0#1 ++ BitVec.ofBool sw ++ 3#5 ++ d ++ a ++ 0#3]
  | .hAdd sw d a b => [0#1 ++ BitVec.ofBool sw ++ 4#5 ++ d ++ a ++ b]
  | .hSub sw d a b => [0#1 ++ BitVec.ofBool sw ++ 5#5 ++ d ++ a ++ b]
  | .hAnd sw d a b => [0#1 ++ BitVec.ofBool sw ++ 6#5 ++ d ++ a ++ b]
  | .hOr sw d a b => [0#1 ++ BitVec.ofBool sw ++ 7#5 ++ d ++ a ++ b]
  | .hXor sw d a b => [0#1 ++ BitVec.ofBool sw ++ 8#5 ++ d ++ a ++ b]
  | .hSll sw d i => [0#1 ++ BitVec.ofBool sw ++ 9#5 ++ d ++ i]
  | .hSrl sw d i => [0#1 ++ BitVec.ofBool sw ++ 10#5 ++ d ++ i]
  | .hSra sw d i => [0#1 ++ BitVec.ofBool sw ++ 11#5 ++ d ++ i]
  | .hLdW sw d a o => [0#1 ++ BitVec.ofBool sw ++ 12#5 ++ d ++ a ++ o]
  | .hLdD sw d a o => [0#1 ++ BitVec.ofBool sw ++ 13#5 ++ d ++ a ++ o]
  | .hStW sw d a o => [0#1 ++ BitVec.ofBool sw ++ 14#5 ++ d ++ a ++ o]
  | .hStD sw d a o => [0#1 ++ BitVec.ofBool sw ++ 15#5 ++ d ++ a ++ o]
  | .hBr sw o => [0#1 ++ BitVec.ofBool sw ++ 16#5 ++ o]
  | .hBp sw p o => [0#1 ++ BitVec.ofBool sw ++ 17#5 ++ p ++ o]
  | .hNop sw => [0#1 ++ BitVec.ofBool sw ++ 18#5 ++ 0#9]
  | .hDone sw => [0#1 ++ BitVec.ofBool sw ++ 19#5 ++ 0#9]
  | .hQr sw d q => [0#1 ++ BitVec.ofBool sw ++ 20#5 ++ d ++ q ++ 0#3]
  | .hQw sw q a => [0#1 ++ BitVec.ofBool sw ++ 21#5 ++ q ++ a ++ 0#3]
  | .add c d a b => ofWord (encodeCtl c ++ 0#6 ++ d ++ a ++ b ++ 0#5)
  | .sub c d a b => ofWord (encodeCtl c ++ 0#6 ++ d ++ a ++ b ++ 1#5)
  | .and c d a b => ofWord (encodeCtl c ++ 0#6 ++ d ++ a ++ b ++ 2#5)
  | .or c d a b => ofWord (encodeCtl c ++ 0#6 ++ d ++ a ++ b ++ 3#5)
  | .xor c d a b => ofWord (encodeCtl c ++ 0#6 ++ d ++ a ++ b ++ 4#5)
  | .andn c d a b => ofWord (encodeCtl c ++ 0#6 ++ d ++ a ++ b ++ 5#5)
  | .orn c d a b => ofWord (encodeCtl c ++ 0#6 ++ d ++ a ++ b ++ 6#5)
  | .xnor c d a b => ofWord (encodeCtl c ++ 0#6 ++ d ++ a ++ b ++ 7#5)
  | .sll c d a b => ofWord (encodeCtl c ++ 0#6 ++ d ++ a ++ b ++ 8#5)
  | .srl c d a b => ofWord (encodeCtl c ++ 0#6 ++ d ++ a ++ b ++ 9#5)
  | .sra c d a b => ofWord (encodeCtl c ++ 0#6 ++ d ++ a ++ b ++ 10#5)
  | .rol c d a b => ofWord (encodeCtl c ++ 0#6 ++ d ++ a ++ b ++ 11#5)
  | .ror c d a b => ofWord (encodeCtl c ++ 0#6 ++ d ++ a ++ b ++ 12#5)
  | .min c d a b => ofWord (encodeCtl c ++ 0#6 ++ d ++ a ++ b ++ 13#5)
  | .max c d a b => ofWord (encodeCtl c ++ 0#6 ++ d ++ a ++ b ++ 14#5)
  | .minu c d a b => ofWord (encodeCtl c ++ 0#6 ++ d ++ a ++ b ++ 15#5)
  | .maxu c d a b => ofWord (encodeCtl c ++ 0#6 ++ d ++ a ++ b ++ 16#5)
  | .addw c d a b => ofWord (encodeCtl c ++ 0#6 ++ d ++ a ++ b ++ 17#5)
  | .subw c d a b => ofWord (encodeCtl c ++ 0#6 ++ d ++ a ++ b ++ 18#5)
  | .mul c d a b => ofWord (encodeCtl c ++ 1#6 ++ d ++ a ++ b ++ 0#5)
  | .mulhi c d a b => ofWord (encodeCtl c ++ 1#6 ++ d ++ a ++ b ++ 1#5)
  | .mulhiu c d a b => ofWord (encodeCtl c ++ 1#6 ++ d ++ a ++ b ++ 2#5)
  | .mul32 c d a b => ofWord (encodeCtl c ++ 1#6 ++ d ++ a ++ b ++ 3#5)
  | .div c d a b => ofWord (encodeCtl c ++ 1#6 ++ d ++ a ++ b ++ 4#5)
  | .divu c d a b => ofWord (encodeCtl c ++ 1#6 ++ d ++ a ++ b ++ 5#5)
  | .rem c d a b => ofWord (encodeCtl c ++ 1#6 ++ d ++ a ++ b ++ 6#5)
  | .remu c d a b => ofWord (encodeCtl c ++ 1#6 ++ d ++ a ++ b ++ 7#5)
  | .lzc c d a => ofWord (encodeCtl c ++ 1#6 ++ d ++ a ++ 8#10)
  | .tzc c d a => ofWord (encodeCtl c ++ 1#6 ++ d ++ a ++ 9#10)
  | .ones c d a => ofWord (encodeCtl c ++ 1#6 ++ d ++ a ++ 10#10)
  | .bswap c d a => ofWord (encodeCtl c ++ 1#6 ++ d ++ a ++ 11#10)
  | .extsB c d a => ofWord (encodeCtl c ++ 1#6 ++ d ++ a ++ 12#10)
  | .extsH c d a => ofWord (encodeCtl c ++ 1#6 ++ d ++ a ++ 13#10)
  | .extsW c d a => ofWord (encodeCtl c ++ 1#6 ++ d ++ a ++ 14#10)
  | .extzW c d a => ofWord (encodeCtl c ++ 1#6 ++ d ++ a ++ 15#10)
  | .bfx c d a b => ofWord (encodeCtl c ++ 10#6 ++ d ++ a ++ b ++ 0#5)
  | .bfxs c d a b => ofWord (encodeCtl c ++ 10#6 ++ d ++ a ++ b ++ 1#5)
  | .bfi c d a b => ofWord (encodeCtl c ++ 10#6 ++ d ++ a ++ b ++ 2#5)
  | .addi c d a i => ofWord (encodeCtl c ++ 2#6 ++ d ++ a ++ i)
  | .andi c d a i => ofWord (encodeCtl c ++ 3#6 ++ d ++ a ++ i)
  | .ori c d a i => ofWord (encodeCtl c ++ 4#6 ++ d ++ a ++ i)
  | .xori c d a i => ofWord (encodeCtl c ++ 5#6 ++ d ++ a ++ i)
  | .slli c d a i => ofWord (encodeCtl c ++ 6#6 ++ d ++ a ++ 0#4 ++ i)
  | .srli c d a i => ofWord (encodeCtl c ++ 6#6 ++ d ++ a ++ 1#4 ++ i)
  | .srai c d a i => ofWord (encodeCtl c ++ 6#6 ++ d ++ a ++ 2#4 ++ i)
  | .rori c d a i => ofWord (encodeCtl c ++ 6#6 ++ d ++ a ++ 3#4 ++ i)
  | .tag c d a i => ofWord (encodeCtl c ++ 7#6 ++ d ++ a ++ 0#2 ++ i)
  | .li c d i => ofWord (encodeCtl c ++ 8#6 ++ d ++ i)
  | .lis c d i => ofWord (encodeCtl c ++ 9#6 ++ d ++ i)
  | .cmpEq c p e a b => ofWord (encodeCtl c ++ 16#6 ++ p ++ e ++ a ++ b ++ 0#4)
  | .cmpNe c p e a b => ofWord (encodeCtl c ++ 16#6 ++ p ++ e ++ a ++ b ++ 1#4)
  | .cmpLt c p e a b => ofWord (encodeCtl c ++ 16#6 ++ p ++ e ++ a ++ b ++ 2#4)
  | .cmpGe c p e a b => ofWord (encodeCtl c ++ 16#6 ++ p ++ e ++ a ++ b ++ 3#4)
  | .cmpLtu c p e a b => ofWord (encodeCtl c ++ 16#6 ++ p ++ e ++ a ++ b ++ 4#4)
  | .cmpGeu c p e a b => ofWord (encodeCtl c ++ 16#6 ++ p ++ e ++ a ++ b ++ 5#4)
  | .cmpLe c p e a b => ofWord (encodeCtl c ++ 16#6 ++ p ++ e ++ a ++ b ++ 6#4)
  | .cmpGt c p e a b => ofWord (encodeCtl c ++ 16#6 ++ p ++ e ++ a ++ b ++ 7#4)
  | .cmpLeu c p e a b => ofWord (encodeCtl c ++ 16#6 ++ p ++ e ++ a ++ b ++ 8#4)
  | .cmpGtu c p e a b => ofWord (encodeCtl c ++ 16#6 ++ p ++ e ++ a ++ b ++ 9#4)
  | .cmpTst c p e a b => ofWord (encodeCtl c ++ 16#6 ++ p ++ e ++ a ++ b ++ 10#4)
  | .cmpEqImm c p e a i => ofWord (encodeCtl c ++ 17#6 ++ p ++ e ++ a ++ i ++ 0#3)
  | .cmpNeImm c p e a i => ofWord (encodeCtl c ++ 17#6 ++ p ++ e ++ a ++ i ++ 1#3)
  | .cmpLtImm c p e a i => ofWord (encodeCtl c ++ 17#6 ++ p ++ e ++ a ++ i ++ 2#3)
  | .cmpGeImm c p e a i => ofWord (encodeCtl c ++ 17#6 ++ p ++ e ++ a ++ i ++ 3#3)
  | .cmpLtuImm c p e a i => ofWord (encodeCtl c ++ 17#6 ++ p ++ e ++ a ++ i ++ 4#3)
  | .cmpGeuImm c p e a i => ofWord (encodeCtl c ++ 17#6 ++ p ++ e ++ a ++ i ++ 5#3)
  | .cmpLeImm c p e a i => ofWord (encodeCtl c ++ 17#6 ++ p ++ e ++ a ++ i ++ 6#3)
  | .cmpGtImm c p e a i => ofWord (encodeCtl c ++ 17#6 ++ p ++ e ++ a ++ i ++ 7#3)
  | .cmpEqFloat c p e a b t => ofWord (encodeCtl c ++ 18#6 ++ p ++ e ++ a ++ b ++ t ++ 0#2)
  | .cmpLtFloat c p e a b t => ofWord (encodeCtl c ++ 18#6 ++ p ++ e ++ a ++ b ++ t ++ 1#2)
  | .cmpLeFloat c p e a b t => ofWord (encodeCtl c ++ 18#6 ++ p ++ e ++ a ++ b ++ t ++ 2#2)
  | .cmpUnFloat c p e a b t => ofWord (encodeCtl c ++ 18#6 ++ p ++ e ++ a ++ b ++ t ++ 3#2)
  | .pand c d a b => ofWord (encodeCtl c ++ 19#6 ++ d ++ a ++ b ++ 0#11)
  | .por c d a b => ofWord (encodeCtl c ++ 19#6 ++ d ++ a ++ b ++ 1#11)
  | .pxor c d a b => ofWord (encodeCtl c ++ 19#6 ++ d ++ a ++ b ++ 2#11)
  | .pandn c d a b => ofWord (encodeCtl c ++ 19#6 ++ d ++ a ++ b ++ 3#11)
  | .porn c d a b => ofWord (encodeCtl c ++ 19#6 ++ d ++ a ++ b ++ 4#11)
  | .pnot c d a => ofWord (encodeCtl c ++ 19#6 ++ d ++ a ++ 5#14)
  | .pget c x => ofWord (encodeCtl c ++ 19#6 ++ 0#9 ++ x ++ 6#6)
  | .pset c x => ofWord (encodeCtl c ++ 19#6 ++ 0#9 ++ x ++ 7#6)
  | .br c o => ofWord (encodeCtl c ++ 20#6 ++ o)
  | .call c o => ofWord (encodeCtl c ++ 21#6 ++ o)
  | .jr c a => ofWord (encodeCtl c ++ 22#6 ++ 0#5 ++ a ++ 0#10)
  | .callr c a => ofWord (encodeCtl c ++ 22#6 ++ 0#5 ++ a ++ 1#10)
  | .nop c => ofWord (encodeCtl c ++ 23#6 ++ 0#20)
  | .done c => ofWord (encodeCtl c ++ 23#6 ++ 1#20)
  | .brk c code => ofWord (encodeCtl c ++ 23#6 ++ code ++ 2#5)
  | .fadd c d a b t => ofWord (encodeCtl c ++ 24#6 ++ d ++ a ++ b ++ t ++ 0#3)
  | .fsub c d a b t => ofWord (encodeCtl c ++ 24#6 ++ d ++ a ++ b ++ t ++ 1#3)
  | .fmul c d a b t => ofWord (encodeCtl c ++ 24#6 ++ d ++ a ++ b ++ t ++ 2#3)
  | .fdiv c d a b t => ofWord (encodeCtl c ++ 24#6 ++ d ++ a ++ b ++ t ++ 3#3)
  | .fmin c d a b t => ofWord (encodeCtl c ++ 24#6 ++ d ++ a ++ b ++ t ++ 4#3)
  | .fmax c d a b t => ofWord (encodeCtl c ++ 24#6 ++ d ++ a ++ b ++ t ++ 5#3)
  | .fma c d a b t => ofWord (encodeCtl c ++ 24#6 ++ d ++ a ++ b ++ t ++ 6#3)
  | .fsqrt c d a t => ofWord (encodeCtl c ++ 24#6 ++ d ++ a ++ 0#5 ++ t ++ 7#3)
  | .cvtF32F16 c d a => ofWord (encodeCtl c ++ 25#6 ++ d ++ a ++ 0#10)
  | .cvtF32Bf16 c d a => ofWord (encodeCtl c ++ 25#6 ++ d ++ a ++ 1#10)
  | .cvtF16F32 c d a => ofWord (encodeCtl c ++ 25#6 ++ d ++ a ++ 2#10)
  | .cvtBf16F32 c d a => ofWord (encodeCtl c ++ 25#6 ++ d ++ a ++ 3#10)
  | .cvtF32W c d a => ofWord (encodeCtl c ++ 25#6 ++ d ++ a ++ 4#10)
  | .cvtF32Wu c d a => ofWord (encodeCtl c ++ 25#6 ++ d ++ a ++ 5#10)
  | .cvtWF32 c d a => ofWord (encodeCtl c ++ 25#6 ++ d ++ a ++ 6#10)
  | .cvtWuF32 c d a => ofWord (encodeCtl c ++ 25#6 ++ d ++ a ++ 7#10)
  | .cvtWF32Rz c d a => ofWord (encodeCtl c ++ 25#6 ++ d ++ a ++ 8#10)
  | .cvtWuF32Rz c d a => ofWord (encodeCtl c ++ 25#6 ++ d ++ a ++ 9#10)
  | .fclass c d a t => ofWord (encodeCtl c ++ 26#6 ++ d ++ a ++ 0#5 ++ t ++ 0#3)
  | .fsgnCp c d a b t => ofWord (encodeCtl c ++ 26#6 ++ d ++ a ++ b ++ t ++ 1#3)
  | .fsgnNeg c d a b t => ofWord (encodeCtl c ++ 26#6 ++ d ++ a ++ b ++ t ++ 2#3)
  | .fsgnXor c d a b t => ofWord (encodeCtl c ++ 26#6 ++ d ++ a ++ b ++ t ++ 3#3)
  | .frint c d a t => ofWord (encodeCtl c ++ 26#6 ++ d ++ a ++ 0#5 ++ t ++ 4#3)
  | .ldB c d a o => ofWord (encodeCtl c ++ 28#6 ++ d ++ a ++ 0#2 ++ o)
  | .ldH c d a o => ofWord (encodeCtl c ++ 28#6 ++ d ++ a ++ 1#2 ++ o)
  | .ldW c d a o => ofWord (encodeCtl c ++ 28#6 ++ d ++ a ++ 2#2 ++ o)
  | .ldD c d a o => ofWord (encodeCtl c ++ 28#6 ++ d ++ a ++ 3#2 ++ o)
  | .ldBu c d a o => ofWord (encodeCtl c ++ 29#6 ++ d ++ a ++ 0#2 ++ o)
  | .ldHu c d a o => ofWord (encodeCtl c ++ 29#6 ++ d ++ a ++ 1#2 ++ o)
  | .ldWu c d a o => ofWord (encodeCtl c ++ 29#6 ++ d ++ a ++ 2#2 ++ o)
  | .stB c d a o => ofWord (encodeCtl c ++ 30#6 ++ d ++ a ++ 0#2 ++ o)
  | .stH c d a o => ofWord (encodeCtl c ++ 30#6 ++ d ++ a ++ 1#2 ++ o)
  | .stW c d a o => ofWord (encodeCtl c ++ 30#6 ++ d ++ a ++ 2#2 ++ o)
  | .stD c d a o => ofWord (encodeCtl c ++ 30#6 ++ d ++ a ++ 3#2 ++ o)
  | .ldf c d a o => ofWord (encodeCtl c ++ 31#6 ++ d ++ a ++ 0#2 ++ o)
  | .ldt c d a o => ofWord (encodeCtl c ++ 31#6 ++ d ++ a ++ 1#2 ++ o)
  | .ste c d a o => ofWord (encodeCtl c ++ 31#6 ++ d ++ a ++ 2#2 ++ o)
  | .stf c d a o => ofWord (encodeCtl c ++ 31#6 ++ d ++ a ++ 3#2 ++ o)
  | .ldAcqW c d a o => ofWord (encodeCtl c ++ 32#6 ++ d ++ a ++ 0#2 ++ o)
  | .ldAcqD c d a o => ofWord (encodeCtl c ++ 32#6 ++ d ++ a ++ 1#2 ++ o)
  | .stRelW c d a o => ofWord (encodeCtl c ++ 32#6 ++ d ++ a ++ 2#2 ++ o)
  | .stRelD c d a o => ofWord (encodeCtl c ++ 32#6 ++ d ++ a ++ 3#2 ++ o)
  | .amoAdd c d a b z => ofWord (encodeCtl c ++ 33#6 ++ d ++ a ++ b ++ 0#4 ++ z)
  | .amoAnd c d a b z => ofWord (encodeCtl c ++ 33#6 ++ d ++ a ++ b ++ 1#4 ++ z)
  | .amoOr c d a b z => ofWord (encodeCtl c ++ 33#6 ++ d ++ a ++ b ++ 2#4 ++ z)
  | .amoXor c d a b z => ofWord (encodeCtl c ++ 33#6 ++ d ++ a ++ b ++ 3#4 ++ z)
  | .amoMin c d a b z => ofWord (encodeCtl c ++ 33#6 ++ d ++ a ++ b ++ 4#4 ++ z)
  | .amoMax c d a b z => ofWord (encodeCtl c ++ 33#6 ++ d ++ a ++ b ++ 5#4 ++ z)
  | .amoMinu c d a b z => ofWord (encodeCtl c ++ 33#6 ++ d ++ a ++ b ++ 6#4 ++ z)
  | .amoMaxu c d a b z => ofWord (encodeCtl c ++ 33#6 ++ d ++ a ++ b ++ 7#4 ++ z)
  | .amoSwap c d a b z => ofWord (encodeCtl c ++ 33#6 ++ d ++ a ++ b ++ 8#4 ++ z)
  | .amoCas c d a b z => ofWord (encodeCtl c ++ 33#6 ++ d ++ a ++ b ++ 9#4 ++ z)
  | .amoFaddF32 c d a b => ofWord (encodeCtl c ++ 33#6 ++ d ++ a ++ b ++ 20#5)
  | .fence c => ofWord (encodeCtl c ++ 34#6 ++ 0#20)
  | .seal c a b => ofWord (encodeCtl c ++ 34#6 ++ 0#5 ++ a ++ b ++ 1#5)
  | .unseal c a b => ofWord (encodeCtl c ++ 34#6 ++ 0#5 ++ a ++ b ++ 2#5)
  | .feFill c a b => ofWord (encodeCtl c ++ 34#6 ++ 0#5 ++ a ++ b ++ 3#5)
  | .feClr c a b => ofWord (encodeCtl c ++ 34#6 ++ 0#5 ++ a ++ b ++ 4#5)
  | .vaddInt c d a b k t => ofWord (encodeCtl c ++ 36#6 ++ d ++ a ++ b ++ k ++ t ++ 0#3)
  | .vsubInt c d a b k t => ofWord (encodeCtl c ++ 36#6 ++ d ++ a ++ b ++ k ++ t ++ 1#3)
  | .vmulInt c d a b k t => ofWord (encodeCtl c ++ 36#6 ++ d ++ a ++ b ++ k ++ t ++ 2#3)
  | .vminInt c d a b k t => ofWord (encodeCtl c ++ 36#6 ++ d ++ a ++ b ++ k ++ t ++ 3#3)
  | .vmaxInt c d a b k t => ofWord (encodeCtl c ++ 36#6 ++ d ++ a ++ b ++ k ++ t ++ 4#3)
  | .vminu c d a b k t => ofWord (encodeCtl c ++ 36#6 ++ d ++ a ++ b ++ k ++ t ++ 5#3)
  | .vmaxu c d a b k t => ofWord (encodeCtl c ++ 36#6 ++ d ++ a ++ b ++ k ++ t ++ 6#3)
  | .vadds c d a b k t => ofWord (encodeCtl c ++ 36#6 ++ d ++ a ++ b ++ k ++ t ++ 7#3)
  | .vaddFloat c d a b k t => ofWord (encodeCtl c ++ 37#6 ++ d ++ a ++ b ++ k ++ t ++ 0#3)
  | .vsubFloat c d a b k t => ofWord (encodeCtl c ++ 37#6 ++ d ++ a ++ b ++ k ++ t ++ 1#3)
  | .vmulFloat c d a b k t => ofWord (encodeCtl c ++ 37#6 ++ d ++ a ++ b ++ k ++ t ++ 2#3)
  | .vfma c d a b k t => ofWord (encodeCtl c ++ 37#6 ++ d ++ a ++ b ++ k ++ t ++ 3#3)
  | .vminFloat c d a b k t => ofWord (encodeCtl c ++ 37#6 ++ d ++ a ++ b ++ k ++ t ++ 4#3)
  | .vmaxFloat c d a b k t => ofWord (encodeCtl c ++ 37#6 ++ d ++ a ++ b ++ k ++ t ++ 5#3)
  | .vdiv c d a b k t => ofWord (encodeCtl c ++ 37#6 ++ d ++ a ++ b ++ k ++ t ++ 6#3)
  | .vsqrt c d a k t => ofWord (encodeCtl c ++ 37#6 ++ d ++ a ++ 0#4 ++ k ++ t ++ 7#3)
  | .vand c d a b k => ofWord (encodeCtl c ++ 38#6 ++ d ++ a ++ b ++ k ++ 56#6)
  | .vor c d a b k => ofWord (encodeCtl c ++ 38#6 ++ d ++ a ++ b ++ k ++ 57#6)
  | .vxor c d a b k => ofWord (encodeCtl c ++ 38#6 ++ d ++ a ++ b ++ k ++ 58#6)
  | .vandn c d a b k => ofWord (encodeCtl c ++ 38#6 ++ d ++ a ++ b ++ k ++ 59#6)
  | .vsll c d a b k t => ofWord (encodeCtl c ++ 38#6 ++ d ++ a ++ b ++ k ++ t ++ 4#3)
  | .vsrl c d a b k t => ofWord (encodeCtl c ++ 38#6 ++ d ++ a ++ b ++ k ++ t ++ 5#3)
  | .vsra c d a b k t => ofWord (encodeCtl c ++ 38#6 ++ d ++ a ++ b ++ k ++ t ++ 6#3)
  | .vsel c d a b k => ofWord (encodeCtl c ++ 38#6 ++ d ++ a ++ b ++ k ++ 63#6)
  | .vcmpEq c d a b k t => ofWord (encodeCtl c ++ 39#6 ++ 0#2 ++ d ++ a ++ b ++ k ++ t ++ 0#3)
  | .vcmpNe c d a b k t => ofWord (encodeCtl c ++ 39#6 ++ 0#2 ++ d ++ a ++ b ++ k ++ t ++ 1#3)
  | .vcmpLt c d a b k t => ofWord (encodeCtl c ++ 39#6 ++ 0#2 ++ d ++ a ++ b ++ k ++ t ++ 2#3)
  | .vcmpLe c d a b k t => ofWord (encodeCtl c ++ 39#6 ++ 0#2 ++ d ++ a ++ b ++ k ++ t ++ 3#3)
  | .vcmpLtu c d a b k t => ofWord (encodeCtl c ++ 39#6 ++ 0#2 ++ d ++ a ++ b ++ k ++ t ++ 4#3)
  | .vcmpLeu c d a b k t => ofWord (encodeCtl c ++ 39#6 ++ 0#2 ++ d ++ a ++ b ++ k ++ t ++ 5#3)
  | .vcmpUn c d a b k t => ofWord (encodeCtl c ++ 39#6 ++ 0#2 ++ d ++ a ++ b ++ k ++ t ++ 6#3)
  | .vredsum c d a k t => ofWord (encodeCtl c ++ 40#6 ++ d ++ a ++ 0#4 ++ k ++ t ++ 0#3)
  | .vredmax c d a k t => ofWord (encodeCtl c ++ 40#6 ++ d ++ a ++ 0#4 ++ k ++ t ++ 1#3)
  | .vredmin c d a k t => ofWord (encodeCtl c ++ 40#6 ++ d ++ a ++ 0#4 ++ k ++ t ++ 2#3)
  | .vdot c d a b k t => ofWord (encodeCtl c ++ 40#6 ++ d ++ a ++ b ++ k ++ t ++ 3#3)
  | .vwiden c d a k t => ofWord (encodeCtl c ++ 40#6 ++ d ++ a ++ 0#4 ++ k ++ t ++ 4#3)
  | .vwiden4 c d a k t => ofWord (encodeCtl c ++ 40#6 ++ d ++ a ++ 0#4 ++ k ++ t ++ 5#3)
  | .vnarrow c d a k t => ofWord (encodeCtl c ++ 40#6 ++ d ++ a ++ 0#4 ++ k ++ t ++ 6#3)
  | .vnarrow4 c d a k t => ofWord (encodeCtl c ++ 40#6 ++ d ++ a ++ 0#4 ++ k ++ t ++ 7#3)
  | .vcvt c d a f k m => ofWord (encodeCtl c ++ 41#6 ++ d ++ a ++ f ++ k ++ m ++ 0#4)
  | .vtrW c d a f => ofWord (encodeCtl c ++ 41#6 ++ d ++ a ++ f ++ 1#8)
  | .vtag c d a f => ofWord (encodeCtl c ++ 41#6 ++ d ++ a ++ f ++ 2#8)
  | .vld c d a x k => ofWord (encodeCtl c ++ 42#6 ++ d ++ a ++ x ++ k ++ 0#5)
  | .vst c d a k => ofWord (encodeCtl c ++ 42#6 ++ d ++ a ++ 0#4 ++ k ++ 1#5)
  | .vldSc c d a => ofWord (encodeCtl c ++ 42#6 ++ d ++ a ++ 2#11)
  | .vstSc c d a => ofWord (encodeCtl c ++ 42#6 ++ d ++ a ++ 3#11)
  | .vgatherW c d a x k => ofWord (encodeCtl c ++ 42#6 ++ d ++ a ++ x ++ k ++ 4#5)
  | .vscatterW c d a x k => ofWord (encodeCtl c ++ 42#6 ++ d ++ a ++ x ++ k ++ 5#5)
  | .vgatherH c d a x k => ofWord (encodeCtl c ++ 42#6 ++ d ++ a ++ x ++ k ++ 6#5)
  | .vscatterH c d a x k => ofWord (encodeCtl c ++ 42#6 ++ d ++ a ++ x ++ k ++ 7#5)
  | .vmov c d a => ofWord (encodeCtl c ++ 43#6 ++ d ++ a ++ 56#12)
  | .vbcast c d a t => ofWord (encodeCtl c ++ 43#6 ++ d ++ a ++ 0#5 ++ t ++ 1#3)
  | .vext c d a i t => ofWord (encodeCtl c ++ 43#6 ++ d ++ a ++ i ++ t ++ 2#3)
  | .vins c d a i t => ofWord (encodeCtl c ++ 43#6 ++ d ++ a ++ i ++ t ++ 3#3)
  | .kand c d a b => ofWord (encodeCtl c ++ 43#6 ++ 0#2 ++ d ++ 0#2 ++ a ++ 0#2 ++ b ++ 60#8)
  | .kor c d a b => ofWord (encodeCtl c ++ 43#6 ++ 0#2 ++ d ++ 0#2 ++ a ++ 0#2 ++ b ++ 61#8)
  | .kxor c d a b => ofWord (encodeCtl c ++ 43#6 ++ 0#2 ++ d ++ 0#2 ++ a ++ 0#2 ++ b ++ 62#8)
  | .knot c d a => ofWord (encodeCtl c ++ 43#6 ++ 0#2 ++ d ++ 0#2 ++ a ++ 63#12)
  | .qw c q a => ofWord (encodeCtl c ++ 44#6 ++ 0#2 ++ q ++ a ++ 0#10)
  | .qr c d q => ofWord (encodeCtl c ++ 44#6 ++ d ++ 0#2 ++ q ++ 1#10)
  | .qwv c q b => ofWord (encodeCtl c ++ 44#6 ++ 0#2 ++ q ++ 0#6 ++ b ++ 2#5)
  | .qrv c d q => ofWord (encodeCtl c ++ 44#6 ++ 0#1 ++ d ++ 0#2 ++ q ++ 3#10)
  | .send c a b => ofWord (encodeCtl c ++ 45#6 ++ 0#5 ++ a ++ b ++ 0#5)
  | .sendv c a b => ofWord (encodeCtl c ++ 45#6 ++ 0#5 ++ a ++ 0#1 ++ b ++ 1#5)
  | .sendc c a b => ofWord (encodeCtl c ++ 45#6 ++ 0#5 ++ a ++ b ++ 2#5)
  | .mcast c a b => ofWord (encodeCtl c ++ 45#6 ++ 0#5 ++ a ++ b ++ 3#5)
  | .spawn c p a b => ofWord (encodeCtl c ++ 45#6 ++ 0#2 ++ p ++ a ++ b ++ 4#5)
  | .portRd c d a => ofWord (encodeCtl c ++ 46#6 ++ d ++ a ++ 0#10)
  | .portWr c a b => ofWord (wordA c 0x2E 0 a b 1)
  | .patWr c a b => ofWord (wordA c 0x2E 0 a b 2)
  | .ringHd c d a => ofWord (encodeCtl c ++ 46#6 ++ d ++ a ++ 3#10)
  | .ringTl c d a => ofWord (encodeCtl c ++ 46#6 ++ d ++ a ++ 4#10)
  | .ringAdv c a b => ofWord (encodeCtl c ++ 46#6 ++ 0#5 ++ a ++ b ++ 5#5)
  | .ringWait c d a => ofWord (encodeCtl c ++ 46#6 ++ d ++ a ++ 6#10)
  | .rankRd c d a => ofWord (encodeCtl c ++ 47#6 ++ d ++ a ++ 0#10)
  | .rankWr c a b => ofWord (wordA c 0x2F 0 a b 1)
  | .rankHold c a => ofWord (wordA c 0x2F 0 a 0 2)
  | .rankRel c a b => ofWord (wordA c 0x2F 0 a b 3)
  | .gbar c a => ofWord (encodeCtl c ++ 47#6 ++ 0#5 ++ a ++ 4#10)
  | .gexit c a => ofWord (encodeCtl c ++ 47#6 ++ 0#5 ++ a ++ 5#10)
  | .myrank c d => ofWord (encodeCtl c ++ 47#6 ++ d ++ 6#15)
  | .shMmaSp c d a b f => ofWord (encodeCtl c ++ 48#6 ++ d ++ a ++ b ++ 0#2 ++ f ++ 0#1)
  | .shMmaWs c d a b f => ofWord (encodeCtl c ++ 48#6 ++ d ++ a ++ b ++ 1#2 ++ f ++ 0#1)
  | .shMmaLt c d a f => ofWord (encodeCtl c ++ 48#6 ++ d ++ a ++ 2#7 ++ f ++ 0#1)
  | .shMmap c d a f => ofWord (encodeCtl c ++ 48#6 ++ d ++ a ++ 2#7 ++ f ++ 1#1)
  | .shDrain c d a f => ofWord (encodeCtl c ++ 49#6 ++ d ++ a ++ 0#7 ++ f ++ 0#1)
  | .shDrainz c d a f => ofWord (encodeCtl c ++ 49#6 ++ d ++ a ++ 0#7 ++ f ++ 1#1)
  | .shZero c d => ofWord (encodeCtl c ++ 50#6 ++ d ++ 0#17)
  | .shPass c => ofWord (encodeCtl c ++ 50#6 ++ 1#20)
  | .shBow c a => ofWord (encodeCtl c ++ 50#6 ++ 0#3 ++ a ++ 2#12)
  | .shStroke c a => ofWord (encodeCtl c ++ 50#6 ++ 0#3 ++ a ++ 3#12)
  | .shWait c d => ofWord (encodeCtl c ++ 50#6 ++ d ++ 4#17)
  | .shRcmd c a b => ofWord (encodeCtl c ++ 51#6 ++ 0#3 ++ a ++ b ++ 0#7)
  | .hlPost c a => ofWord (encodeCtl c ++ 52#6 ++ 0#5 ++ a ++ 0#10)
  | .hlWp c d a => ofWord (encodeCtl c ++ 52#6 ++ d ++ a ++ 1#10)
  | .hlRfence c a => ofWord (encodeCtl c ++ 52#6 ++ 0#5 ++ a ++ 2#10)
  | .hlResume c a => ofWord (wordA c 0x34 0 a 0 3)
  | .hlStat c d a => ofWord (encodeCtl c ++ 52#6 ++ d ++ a ++ 4#10)
  | .rtRedAddF32 c a b => ofWord (encodeCtl c ++ 54#6 ++ 0#5 ++ a ++ 0#1 ++ b ++ 0#5)
  | .rtRedAddBf16 c a b => ofWord (encodeCtl c ++ 54#6 ++ 0#5 ++ a ++ 0#1 ++ b ++ 1#5)
  | .rtRedAddI32 c a b => ofWord (encodeCtl c ++ 54#6 ++ 0#5 ++ a ++ 0#1 ++ b ++ 2#5)
  | .rtRedMaxF32 c a b => ofWord (encodeCtl c ++ 54#6 ++ 0#5 ++ a ++ 0#1 ++ b ++ 3#5)
  | .rtRedMinF32 c a b => ofWord (encodeCtl c ++ 54#6 ++ 0#5 ++ a ++ 0#1 ++ b ++ 4#5)
  | .rtRes c d a => ofWord (encodeCtl c ++ 54#6 ++ 0#1 ++ d ++ a ++ 8#10)
  | .rtTree c a b => ofWord (wordA c 0x36 0 a b 9)
  | .rtCodec c a => ofWord (wordA c 0x36 0 a 0 10)
  | .srRd c d r => ofWord (wordX c 0x38 d 0 r)
  | .srWr c a r => ofWord (wordX c 0x39 0 a r)
  | .tret c => ofWord (wordX c 0x3A 0 0 0)
  | .wfe c => ofWord (encodeCtl c ++ 58#6 ++ 1#20)
  | .pwr c a => ofWord (wordX c 0x3A 0 a 2)
  | .capWr c code a => ofWord (wordX c 0x3A (0#2 ++ code) a 3)
  | .l2Ways c a => ofWord (wordX c 0x3A 0 a 4)
  | .l1Inv c => ofWord (encodeCtl c ++ 58#6 ++ 5#20)
  | .l2Wb c a => ofWord (encodeCtl c ++ 58#6 ++ 0#5 ++ a ++ 6#10)
  | .tcInv c a => ofWord (wordX c 0x3A 0 a 7)
  | .trap c a => ofWord (encodeCtl c ++ 58#6 ++ 0#5 ++ a ++ 8#10)
  | .bustRd c d a => ofWord (wordX c 0x3B d a 0)
  | .rtabRd c d a => ofWord (wordX c 0x3B d a 1)
  | .rtabWr c d a => ofWord (wordX c 0x3B d a 2)
  | .rpt n sd sa sb sm => ofWord (0x9FC#12 ++ n ++ BitVec.ofBool sd ++ BitVec.ofBool sa ++ BitVec.ofBool sb ++ BitVec.ofBool sm ++ 0#6)
  | .patternBinding _ => []
  | .messageArrival _ => []
  | .ovfHdWrite _ _ => []
  | .trapFiringBinding _ => []
  | .eventFiringBinding _ => []
  | .resultReturn _ _ => []
  | .returnedErrorArrival _ _ _ => []
  | .countReport _ => []
  | .completionCountArrival _ => []
  | .sliceExpiry _ _ => []
  | .seatCtlWrite _ _ => []
  | .preemption _ _ => []
  | .resumeEntryBinding _ _ => []
  | .spawnRequestArrival _ => []
  | .spawnAnswer _ => []
  | .spawnBinding _ _ => []
  | .launchChoice => []
  | .launchBinding _ => []
  | .launchSwitchOut _ _ => []
  | .launchSwitchIn _ => []
  | .launchAbort _ => []
  | .fenceSeat _ => []
  | .fenceCore _ => []
  | .fenceHaulChannel _ => []
  | .fenceWeightStoreBank _ => []
  | .fenceL2Slot _ => []
  | .fenceHbmStack _ => []
  | .fenceLink _ => []
  | .fenceChiplet _ => []
  | .deadRankNotice _ => []
  | .gbarArrival _ => []
  | .gbarCompletion _ => []
  | .combineArrival _ => []
  | .combineDelivery _ => []
  | .combineLeave _ => []
  | .shellMma _ _ => []
  | .mmaFinish _ _ => []
  | .shellDrain _ _ => []
  | .shellZero _ _ => []
  | .shellPass _ _ => []
  | .shellInject _ _ => []
  | .latchGrant _ => []
  | .latchArrival _ => []
  | .remoteShellCommand _ => []
  | .rcmdAnswer _ => []
  | .hlQWrite _ _ _ => []
  | .wLineNotify _ _ => []
  | .haulPollTimer _ _ => []
  | .haulSlotTake _ _ => []
  | .haulCopy _ _ => []
  | .haulFill _ _ => []
  | .haulGather _ _ => []
  | .haulBox _ _ => []
  | .haulCodec _ _ => []
  | .haulBeat _ _ _ => []
  | .haulCompletion _ _ => []
  | .loadAtHome _ _ => []
  | .storeAtHome _ _ => []
  | .revocation _ => []
  | .revocationAck _ => []
  | .storeAck _ => []
  | .atomicAtHome _ => []
  | .syncAccessArrival _ _ => []
  | .peerAccessArrival _ _ => []
  | .translationWalk _ _ => []
  | .wsRefreshOpen _ => []
  | .wsRefreshClose _ => []
  | .requestTimeout _ => []
  | .routerForward _ => []
  | .farAccess _ _ _ _ => []
  | .farMessage _ _ _ _ => []
  | .pageMigration _ _ _ _ => []
  | .movedReply _ => []
  | .l2Reconfiguration _ _ => []
  | .uncorrectableError _ _ => []
  | .wavelengthFailure _ _ _ => []
  | .heartbeat _ => []
  | .heartbeatLossWest _ => []
  | .severed _ => []
  | .moduleReset _ _ => []
  | .clockLock _ => []
  | .calibrationDone _ _ _ => []
  | .calibrationFail _ => []
  | .configurationFrame _ _ => []
  | .belayed _ => []
  | .ready _ => []
  | .frameTimeout _ => []
  | .ascentSettled => []
  | .pstateTransitionDone _ => []
  | .powerCapThrottle _ _ _ => []
  | .pstateWrite _ => []
  | .powcapWrite _ => []
  | .shLinkWrite _ _ => []
  | .farTtWrite _ => []
  | .registerWrite _ _ _ => []
  | .cxlMemRead _ _ => []
  | .cxlMemWrite _ _ => []
  | .summary _ => []
  | .takeToken _ => []
  | .abort _ _ => []
  | .queueCfg _ _ => []
  | .mbUnsupportedOpcode _ _ => []
  | .getVersion => []
  | .getCapabilities => []
  | .negotiateAlgorithms => []
  | .getDigests => []
  | .getCertificate _ => []
  | .challenge _ _ => []
  | .getMeasurements _ => []
  | .illegalInstruction _ => []
  | .wLineSubscription _ _ => []

/-- The instruction word as TRAP_VAL shows it (R375): 16-bit forms in [15:0]. -/
def encodeWord (i : Instr) : Word :=
  match encode i with
  | [p] => p.setWidth 64
  | [p, q] => (p ++ q).setWidth 64
  | _ => 0

/-- The number of parcels of an instruction. -/
def Instr.size (i : Instr) : Nat := (encode i).length

end Sys2Proof
end

