-- ==== Sys2Proof/Config.lean ====
section
/-! DEFINITION. What the manual leaves open: free values without a body, so that no proof can lean on one. Each takes
`State.tick` (the number of the use) or the data it may depend on. -/

namespace Sys2Proof

/-- Which of the eight ways a full L1 set gives up (R166: a policy that the manual does not fix). -/
opaque Config.l1Victim : Nat → Nat

/-- Which entry a full translation cache gives up (R179). -/
opaque Config.tlbVictim : Nat → Nat

/-- Cycles of a chiplet's clock that have passed since CYCLE was last read on it (R325). -/
opaque Config.cycles : Nat → BitVec 32

/-- WSWIN.REMAIN within its bound (R164). -/
opaque Config.remain : Nat → BitVec 17

/-- Whether a request that failed for want of replies was performed at its home (R365). -/
opaque Config.replyLost : Nat → Bool

/-- Whether a packet arrives damaged over a bond (R342). -/
opaque Config.damaged : Nat → Bool

/-- BIV_BASE and CTX_BASE as the basecamp firmware writes them, before alignment (R237, R247). -/
opaque Config.bivBase : Nat → BitVec 40
opaque Config.ctxBase : Nat → BitVec 40

/-- SWITCH_BASE as the basecamp firmware writes it, before alignment (R244). -/
opaque Config.switchBase : BitVec 40

/-- Corrected errors of a chiplet, by its SUMMARY index, since they were last looked at (R378, R395). -/
opaque Config.correctedErrors : Nat → Nat → BitVec 32

/-- PWR_MEAS (R393). -/
opaque Config.power : Nat → BitVec 32

/-- Whether a member that exits while a multicast is in flight still receives it (R204). -/
opaque Config.mcastReaches : Nat → Bool

/-- Whether the L2 still holds a written line dirty when its slot or stack is fenced (R384). -/
opaque Config.stillDirty : Nat → Nat → Bool

/-- The missing second parcel of a 32-bit instruction at parcel 0xFFFF in TRAP_VAL (R13, R375). -/
opaque Config.beyondCode : Parcel

/-- Detail and subject of a haul trap (R264), and the subject of message reasons 8 and 9 (R195): not stated. -/
opaque Config.subject : Nat → BitVec 56

/-- Whether a key slot's hash is fused, and whether its revocation fuse is blown (R401). -/
opaque Config.keyFused : Nat → Bool
opaque Config.keyRevoked : Nat → Bool

/-- Whether the RSASSA-PSS signature accepts an image (R401). -/
opaque Config.signatureOk : List Byte → Bool

/-- SHA-256 of a byte string (R401, R402: FIPS 180 named, not described). -/
opaque Config.sha256 : List Byte → List Byte

/-- The ROM image, whose hash is measurement 1 (R402). -/
opaque Config.rom : List Byte

/-- The fused minimum SVNs, measurement 4: four bytes for the firmware, then four for the supervisor image (R401, R402). -/
opaque Config.svns : List Byte

/-- The certificate slots that are provisioned (R402). -/
opaque Config.certSlots : List Nat

/-- A certificate chain of the device (R402). -/
opaque Config.certificate : Nat → List Byte

/-- The signature over a challenge (R402). -/
opaque Config.challengeSig : List Byte → List Byte

end Sys2Proof
end

