-- ==== Sys2Proof/Machine/State.lean ====
section
/-! DEFINITION. The state of one Holkel module as plain data, and its value right after reset.
Sparse tables are lists of (key, value) with rising keys; a key that is not listed stands for the reset value. -/

namespace Sys2Proof.Machine

/-- A core: 52 * Y + X for a core of the grid (R339, R383), `4096 + n` for basecamp core n = 0 to 3 (R325, R404). -/
abbrev CoreId := Nat

/-- Bytes of a memory by address, rising, none listed at 0: an unlisted byte reads 0 (log 2). -/
abbrev Memory := List Host.Cell

/-! ### Seats -/

/-- The statuses of a seat (R108, R109). -/
inductive SeatStatus where
  | free | running | parked | blocked | draining | trapped
  deriving DecidableEq, Repr

/-- A vector register: data, format tag and scale sidecar (R60, R61). -/
structure VReg where
  data : BitVec 4096 := 0
  tag  : BitVec 4 := 0
  sc   : BitVec 256 := 0
  deriving DecidableEq, Repr

/-- What an outstanding result will write (R114, R115). -/
inductive Target where
  | none
  | x (d : BitVec 5)
  | v (d : BitVec 4)
  | sidecar (d : BitVec 4)
  | pred (d : BitVec 3)
  deriving DecidableEq, Repr

/-- What has come back for an outstanding operation: `error` is a returned error (R374), `gone` a withdrawn waiter
(R145). -/
inductive Answer where
  | waiting
  | value (w : Word)
  | error (cause : BitVec 8) (val : Word)
  | gone
  deriving DecidableEq, Repr

/-- The installed codec table (R321). -/
structure Codec where
  mode : Byte := 0
  syms : List (Byte × Nat) := []
  deriving DecidableEq, Repr

/-- How far an `hl.post` has come (R267): QCFG is read; W is advanced, with N known; RIX is read until there is room, with the claim
and N; doubles 1 to 7 are written; double 0 is written. -/
inductive PostStage where
  | config
  | claim (n : Nat)
  | room (k n : Nat)
  | body (k n : Nat)
  | publish (k n : Nat)
  deriving DecidableEq, Repr

/-- A table change that takes effect when its instruction completes (R210, R213, R220 to R222, R319, R321, R322, R323,
R333), or the condition under which the completion comes. -/
inductive Pending where
  | plain
  | portWr (port : Nat) (entry : Word)
  | patWr (n : Nat) (d0 d1 : Word)
  | rankWr (rank : Nat) (entry : Word)
  | rankHold (rank : Nat)
  | rankRel (rank : Nat) (entry : Word)
  | tree (group : Nat) (entry : Word)
  | codec (table : Codec)
  | l1Inv
  | l2Ways (partition ways : Nat)
  | tcInv (operand : Word)
  | rtab (table index router : Nat) (entry : Option Word)
  | bust (cn : Nat)
  | pwr (cn : Nat) (state : BitVec 3)
  | gbar (group episode : Nat)
  | seal (on : Bool) (pages : List (Nat × Nat))
  | shWait (cmds : List Nat)
  | bow (stroke : Bool) (mma off : Nat)
  | sums (words : List Word) (off : Nat)
  | haulPost (header : Word) (packet : List Word) (stage : PostStage) (sub : Option Nat)
  | haulWp (cluster ch : Nat)
  | rfence (addr : Word)
  | spawn
  | rcmd (rank : BitVec 16)
  | send
  | rcmdRead (rank : BitVec 16)
  deriving DecidableEq, Repr

/-- One operation that has raised `OUT` (R114), with the repeat counter under which it issued. `OUT` itself is the number of these. -/
structure Out where
  id     : Nat
  pc     : Parcel
  target : Target := .none
  acq    : Bool := false
  what   : Pending := .plain
  ans    : Answer := .waiting
  left   : List Nat := [0]
  rpt    : BitVec 11 := 0
  deriving DecidableEq, Repr

/-- How a firing was started: what a resume entry keeps (R247) and what R107 counts. -/
structure Firing where
  id        : Nat
  cls       : BitVec 8
  prio      : Nat
  seatClass : Nat
  launch    : Option Nat
  deriving DecidableEq, Repr

/-- The state of one seat (R108), with its private assembly queues (R196), its slice counter (R246) and event bit
(R328). `beyond` holds, in a seat that parks behind the last parcel of the code store, the address of its last instruction
(R13, R21). -/
structure Seat where
  status    : SeatStatus := .free
  x         : Vector Word 32 := Vector.replicate 32 0
  p         : BitVec 8 := 0
  v         : Vector VReg 16 := Vector.replicate 16 {}
  k         : Vector (BitVec 1024) 4 := Vector.replicate 4 0
  pc        : Parcel := 0
  rpt       : BitVec 11 := 0
  outs      : List Out := []
  trapPc    : Parcel := 0
  trapCause : BitVec 9 := 0
  trapVal   : Word := 0
  rpc       : Parcel := 0
  firing    : Option Firing := none
  fenced    : Bool := false
  preempt   : Bool := false
  slice     : BitVec 32 := 0
  event     : Bool := false
  q0        : List Word := []
  q2        : List Word := []
  q4        : List Word := []
  q6        : List Word := []
  payWords  : Nat := 0
  items     : Nat := 0
  q5read    : Nat := 0
  beyond    : Option Parcel := none
  deriving DecidableEq, Repr

/-! ### Ports, queues and scheduling of a core -/

/-- A message held by a port: its slot for FIFO and tag-match ports (R229). -/
structure Held where
  slot : Nat
  len  : Nat
  rb   : Bool
  deriving DecidableEq, Repr

/-- A port: its entry (R209), OVF (R211), counter (R230), ring counts (R214), held messages, the next slot. `tokens`
lists, oldest first, whether each token came of messages with release-before (R190), and `rb` whether a count since the last
token did. -/
structure Port where
  entry  : Word := 0
  ovf    : Bool := false
  count  : BitVec 32 := 0
  rb     : Bool := false
  tokens : List Bool := []
  head   : BitVec 32 := 0
  tail   : BitVec 32 := 0
  held   : List Held := []
  next   : Nat := 0
  deriving DecidableEq, Repr

/-- A firing waiting for seat 7: of a trapped seat, or of an event (R118, R120, R377). `regs` are x16 to x21. -/
structure Queued where
  cls  : BitVec 8
  code : BitVec 8
  seat : Option Nat
  regs : List Word
  deriving DecidableEq, Repr

/-- An accepted spawn and the seat it reserved; `count` is the packet of its count while the basecamp has not applied it
(R207, R208). -/
structure SpawnEntry where
  seat    : Nat
  seatCls : Nat
  entry   : Parcel
  caller  : BitVec 16
  args    : List Word
  count   : Option Nat
  deriving DecidableEq, Repr

/-- A firing that a pre-emption set aside (R247). `fresh` holds in the first binding cycle after it (R245), and `area` says that
its record is in the switch area, where a launch switch puts it (R244). -/
structure Resume where
  seat   : Nat
  slot   : Nat
  firing : Firing
  fresh  : Bool
  area   : Bool := false
  deriving DecidableEq, Repr

/-- A run of doubles in `q1` or a result in `q7` with its tag; `key` is the combine key of R315; `full` says that none
has been popped; `cmd` is the DRAIN command that waits for the pops (R197, R253). -/
structure Run where
  words : List Word
  tag   : BitVec 4
  key   : BitVec 32
  full  : Bool
  cmd   : Nat
  deriving DecidableEq, Repr

/-- A contribution pushed into `q6` (R315, R406): its number, the descriptor with the fn in [38:36], and the 512 bytes; the seat, its
firing and the parcel address for the deferred refusal. -/
structure Contribution where
  id     : Nat
  desc   : Word
  data   : BitVec 4096
  seat   : Nat
  firing : Nat
  pc     : Parcel
  deriving DecidableEq, Repr

/-- A slot of the combine buffer (R314, R316): its key, fn and DELIVER in the descriptor, the partial, whether the
local contribution is in, which children have sent, how many are awaited, and the tree entry it opened under. -/
structure CombineSlot where
  desc     : Word
  data     : BitVec 4096
  localIn  : Bool
  children : List CoreId
  await    : Nat
  entry    : Word
  deriving DecidableEq, Repr

/-! ### Shell -/

/-- The kind of a tile (R255). -/
inductive TileKind where
  | empty | int | scaled
  deriving DecidableEq, Repr

/-- An accumulator tile: INT holds 64-bit sums and the row and column corrections (R287), SCALED one ACC40 per element in
the raw layout of R297 (R288). Lists are row-major, and a missing element reads 0. -/
structure Tile where
  kind : TileKind := .empty
  acc  : List Word := []
  row  : List Word := []
  col  : List Word := []
  deriving DecidableEq, Repr

/-- Where an accepted command stands: in the queue; begun, with its corrections or the rest of its drain to come; an MMA
that hands its latch tile on; waiting for the grant of its transfer; granted; drained to `q1` until popped (R253, R256, R291,
R293). -/
inductive CmdStage where
  | queued | occupying | sending | asked | granted | popping
  deriving DecidableEq, Repr

/-- A shell command (R249) accepted into `q0`. `deps` are the stores that its reads come after (R189). A begun MMA keeps
its sums: BOW, STROKE, P (row-major), the line weights as powers of two and the poisoned lines, A before B (R282 to R285). A
begun drain to `q1` keeps in `rest` the doubles not yet pushed; `dst` is the core whose latch a transfer asked. `rd` is the read of an operand
that is under way, `wr` the writes of a drain, and `err` what one of them met. `seenB` and `seenS` are, for an MMA, the sums of
the MMA accepted before it that finished last. -/
structure Cmd where
  id     : Nat
  words  : List Word
  stage  : CmdStage := .queued
  deps   : List Nat := []
  bow    : List Nat := []
  stroke : List Nat := []
  cells  : List Nat := []
  wts    : List Int := []
  bad    : List Bool := []
  rest   : List Word := []
  dst    : CoreId := 0
  rd     : Option Nat := none
  wr     : List Nat := []
  err    : Option (BitVec 8 × Word) := none
  seenB  : List Word := []
  seenS  : List Word := []
  deriving DecidableEq, Repr

/-- A tile in a latch buffer (R262): format, sequence number, the bytes of R252. -/
structure LatchTile where
  fmt   : BitVec 4
  seq   : BitVec 16
  bytes : List Byte
  deriving DecidableEq, Repr

/-- The shell of a core. `lastMma` is the last MMA accepted, and `sampleB` and `sampleS` its sums once it has finished; `ran` says that
an MMA has run since reset or a launch switch (R260, R291). `asking` are the transfers that want the back buffer, `reserved` that
it is granted, and `passed` the remote commands that wait for room in `q0`, each with its refusal where it has one that waits
behind them (R263, R293, R296); `closed` says that a launch switch has stopped acceptance (R297). -/
structure Shell where
  cmds     : List Cmd := []
  kinds    : Vector TileKind 8 := Vector.replicate 8 .empty
  tiles    : Vector Tile 8 := Vector.replicate 8 {}
  bow      : List Word := []
  stroke   : List Word := []
  lastMma  : Option Nat := none
  sampleB  : List Word := []
  sampleS  : List Word := []
  ran      : Bool := false
  link     : Word := 0xFFFF
  front    : Option LatchTile := none
  back     : Option LatchTile := none
  asking   : List (CoreId × Nat) := []
  passed   : List (Nat × Nat) := []
  closed   : Bool := false
  reserved : Bool := false
  caps     : Vector (BitVec 32) 8 := Vector.replicate 8 0
  deriving DecidableEq, Repr

/-! ### Translation and L1 -/

/-- A translation: page of `size` bytes at virtual `va`, to physical `pa`, for `asid`, with its permissions (R176, R179). -/
structure Tlb where
  asid : BitVec 16
  va   : Nat
  size : Nat
  pa   : Nat
  rd   : Bool
  wr   : Bool
  cow  : Bool
  msa  : Bool
  deriving DecidableEq, Repr

/-- A unit that translates (R179, R299, R361): a seat for the instruction it issues; an operation of a core after its issue, one of its
shell's commands, or a request of its that goes on to a page's new place; a haul channel; an optical chiplet for the access of
requester `who` of another module, or of its own module's channel. -/
inductive Asker where
  | seat (core : CoreId) (n : Nat)
  | op (core : CoreId) (id : Nat)
  | chan (cluster ch : Nat)
  | far (chip who : Nat)
  deriving DecidableEq, Repr

/-- What a walk has answered: a leaf, or the cause of a fault (R177, R365, R378). -/
inductive WalkAns where
  | waiting
  | leaf (e : Tlb)
  | fault (cause : BitVec 8)
  deriving DecidableEq, Repr

/-- A translation that a unit awaits, or has had, for the access it is about to make: the number of its walk, the root, VA[47:16] and
the answer, kept until the access is made or stopped (R179). -/
structure Ask where
  unit : Asker
  walk : Nat
  root : Word
  page : Nat
  ans  : WalkAns := .waiting
  deriving DecidableEq, Repr

/-- An L1 word that is not Invalid (R166). `mine` are the bits that stores of its own core have written since it came. -/
structure L1Word where
  owned : Bool
  value : BitVec 32
  mine  : BitVec 32 := 0
  deriving DecidableEq, Repr

/-- An L1 line: line number PA[39:7], way, and its words (index 0 to 31) that are not Invalid. -/
structure L1Line where
  line  : Nat
  way   : Nat
  words : List (Nat × L1Word)
  deriving DecidableEq, Repr

/-! ### Cores -/

/-- An error on its way to a seat that does not wait for it (kind D, R374). -/
structure SeatErr where
  id     : Nat
  seat   : Nat
  firing : Nat
  pc     : Parcel
  cause  : BitVec 8
  val    : Word
  deriving DecidableEq, Repr

/-- One core (`waiters` is the matching table of R144: word and request, in arrival order; `notices` are the fence notices and
double traps that wait for a place among the 16 events, R377; `ended` counts the ended firings of each launch, R107): seats, code,
scratchpad, interface, scheduler, shell, router and system registers. -/
structure Core where
  seats     : Vector Seat 8 := Vector.replicate 8 {}
  lastSeat  : Nat := 6
  code      : List (Nat × Parcel) := []
  start     : List Nat := []
  handlers  : List (Nat × BitVec 32) := []
  seatMap   : BitVec 14 := 0
  seatArea  : BitVec 20 := 0xE0000
  sp        : Memory := []
  full      : List Nat := []
  spPoison  : List Nat := []
  waiters   : List (Nat × Nat) := []
  codeBad   : List Nat := []
  q1        : List Run := []
  q3        : List Word := []
  q6        : List Contribution := []
  q7        : List Run := []
  ports     : List (Nat × Port) := []
  patterns  : List (Nat × (Word × Word)) := []
  rp        : Vector Nat 8 := Vector.replicate 8 31
  ovfCfg    : Word := 0xAB0000
  ovfHead   : BitVec 32 := 0
  ovfTail   : BitVec 32 := 0
  ovfFull   : Bool := false
  input     : List Nat := []
  traps     : List Queued := []
  events    : List Queued := []
  notices   : List Queued := []
  errs      : List SeatErr := []
  spawns    : List SpawnEntry := []
  resumes   : List Resume := []
  rank      : BitVec 16 := 0xFF00
  launch    : Option Nat := none
  stopped   : Bool := false
  ended     : List (Nat × Nat) := []
  sliceLen  : BitVec 32 := 0
  dbgCtl    : Word := 0
  ttRoot    : Word := 0
  seatCtl   : Word := 0
  tretCtl   : Word := 0
  bivBase   : Word := 0
  ctxBase   : Word := 0
  tlb       : List Tlb := []
  l1        : List L1Line := []
  trees     : List (Nat × Word) := []
  combine   : List CombineSlot := []
  left      : List (Nat × List CoreId) := []
  shell     : Shell := {}
  fenced    : Bool := false
  deriving DecidableEq, Repr

/-! ### Clusters and haul engines -/

/-- A write of a beat under way: its request, and where the packet stood before the beat (R308, R310). -/
structure HaulWr where
  id       : Nat
  wp       : Word
  progress : Nat
  srcDone  : Nat
  outDone  : Nat
  written  : Bool
  deriving DecidableEq, Repr

/-- A packet in execution (R302): its claim, eight doubles, private record copy (R307), units of progress (R308), output
bytes written (`CODEC`), and whether its kind has been checked and its beats begun. `root` is the TT_ROOT it began
under, `buf` what a beat has read whose far write is still to be answered, `idx` the index of its row or the header of its
source chunk, `written` that OUTLEN is done. `wr` lists the
writes under way, oldest beat first, `top` is the write pointer above them all, and `err` the FAULT and address that a write
met, with its beat. `stale` says that the record cache has been emptied of its record since the read of the record began
(R269, R279). -/
structure HaulPkt where
  claim    : Nat
  words    : List Word
  root     : Word
  buf      : Option (List Byte) := none
  idx      : Option Word := none
  record   : List Word := []
  progress : Nat := 0
  srcDone  : Nat := 0
  outDone  : Nat := 0
  begun    : Bool := false
  written  : Bool := false
  wr       : List HaulWr := []
  top      : Word := 0
  err      : Option (Nat × Word × HaulWr) := none
  stale    : Bool := false
  deriving DecidableEq, Repr

/-- A haul channel: HL_Q_c (R298), RIX, the fields of `hl.stat` (R270), write pointer (R268), the packet, what made it
look at its slot (R299), the `q3` entries that found `q3` full, in order (R272), and the range whose access is under way with
its request. `hpa` is where its queue header lies, `seenW` the W that the base die last reported; `hd` is the header read under
way, `known` how many of RIX and QCFG have been read for the slot it looks at, and `qcfg` the QCFG last read; `owner` is the
launch whose image set HL_Q_c (R105). -/
structure Channel where
  hlq     : Word := 0
  hpa     : Nat := 0
  seenW   : Word := 0
  hd      : Option Nat := none
  known   : Nat := 0
  qcfg    : Word := 0
  owner   : Option Nat := none
  asked   : Bool := false
  rix     : Word := 0
  st      : BitVec 2 := 0
  fault   : BitVec 8 := 0
  done    : BitVec 32 := 0
  wp      : Word := 0
  pkt     : Option HaulPkt := none
  slotBad : Bool := false
  look    : Bool := false
  statq   : List (Nat × Word) := []
  rd      : Option (Nat × Word × Nat) := none
  deriving DecidableEq, Repr

/-- A cluster: weight store (R163), haul channels, record cache least recently used first (R307), cluster translation
cache (R179). -/
structure Cluster where
  ws       : Memory := []
  wsPoison : List Nat := []
  banksBad : List Nat := []
  bank     : BitVec 3 := 0
  wsOpen   : Bool := false
  chans    : Vector Channel 4 := Vector.replicate 4 {}
  records  : List ((Word × BitVec 16) × List Word) := []
  tlb      : List Tlb := []
  deriving DecidableEq, Repr

/-- A chiplet: BUST (R332), its own clock's count seen so far (R325), performance state and requests (R325, R330, R397),
whether it has accepted a configuration frame (R369), whether its routers' tables are still those of that frame, and its
corrected errors (R378, R395). -/
structure Chiplet where
  bust      : Word := 0
  framed    : Bool := false
  plain     : Bool := false
  cycle     : Word := 0
  cur       : BitVec 3 := 0
  req       : BitVec 3 := 0
  target    : BitVec 3 := 0
  queue     : List (BitVec 3 × Option (CoreId × Nat × Nat)) := []
  busy      : Bool := false
  capped    : Bool := false
  corrected : BitVec 32 := 0
  deriving DecidableEq, Repr

/-! ### Requests, packets and routes -/

/-- Where an access is performed: its point of order (R180), or for a walk the walker of VA[47:16] (R179). -/
inductive Place where
  | sp (core : CoreId) (off : Nat)
  | ws (cluster : Nat) (off : Nat)
  | co (part : Nat) (off : Nat)
  | hbm (pa : Nat) (msa : Bool)
  | walker (page : Nat)
  deriving DecidableEq, Repr

/-- The two meshes and the fixed-line channel (R343, R347). -/
inductive Mesh where
  | a | b | fixed
  deriving DecidableEq, Repr

/-- Where one piece of an access stands: on its way, arrived and waiting (R144, R366), done, refused (R161), poison read
(R378), a partial store to poison (R379), or failed after its reissues (R365). -/
inductive PieceState where
  | waiting | held | performed | refused | poisoned | rejected | failed
  deriving DecidableEq, Repr

/-- One naturally aligned piece of an access: `len` bytes at one point of order. `mask` says which of its bits are read
or written; `bit` is where bit 0 of the piece stands in the destination. `home` and `num` are the home and the sequence
number of R363 for L2 slots (0 to 143) and base dies (144 + stack); `mig` marks a reissue to the new home of a moved page
(R366); `tries` counts the reissues of its number (R363), `st` and `data` are what the home last answered, `back` says that the
requester has taken an answer, and `via` is the mesh on which the request came. -/
structure Piece where
  va   : Word
  dst  : Place
  home : Nat
  num  : BitVec 16
  len  : Nat
  mask : BitVec 64
  data : BitVec 64
  bit  : Int
  st   : PieceState
  mig  : Bool := false
  back : Bool := false
  via  : Option Mesh := none
  tries : Nat := 0
  deriving DecidableEq, Repr

/-- The atomic operations (R39). -/
inductive AmoOp where
  | add | and | or | xor | min | max | minu | maxu | swap | cas | fadd
  deriving DecidableEq, Repr

/-- What a request does at its pieces. -/
inductive ReqOp where
  | load (size : Nat) (signed : Bool)
  | vload
  | store
  | ldf | ldt | ste | stf
  | amo (op : AmoOp) (size : Nat) (operand compare : Word)
  | feFill | feClr
  | wb
  | walk (root : Word)
  deriving DecidableEq, Repr

/-- The unit whose request it is (R363, R188): a seat of a core, a channel of a cluster's haul engine for its packets or its queue's
header, a core's shell for one of its commands, an `hl.post` after its issue, an optical chiplet for the access of another
module's requester, or the requester `who` for a walk. -/
inductive Agent where
  | seat
  | haul (cluster ch : Nat)
  | header (cluster ch : Nat)
  | shell (cmd : Nat)
  | post (op : Nat)
  | far (who : Nat)
  | walk (who : Nat)
  deriving DecidableEq, Repr

/-- A memory request, numbered by its operation; `core` is the core whose interface it leaves by. -/
structure Req where
  id     : Nat
  core   : CoreId
  seat   : Nat
  firing : Nat
  pc     : Parcel
  op     : ReqOp
  pieces : List Piece
  agent  : Agent := .seat
  deriving DecidableEq, Repr

/-- Where a packet stands in the fabric, where it goes, the mesh it was injected on and the one it travels on (R339,
R343, R344, R348). -/
structure Route where
  x    : Nat
  y    : Nat
  dest : Nat
  inj  : Mesh
  mesh : Mesh
  down : Bool
  deriving DecidableEq, Repr

/-- A revocation sent by a home (R181): the word, its former owner, the piece of a store or atomic that it delays, and whether
it was taken. -/
structure Rev where
  id    : Nat
  word  : Nat
  core  : CoreId
  req   : Nat
  piece : Nat
  seen  : Bool
  deriving DecidableEq, Repr

/-- What a packet of the fabric carries. -/
inductive Body where
  | msg (header : Word) (payload : List Word)
  | unread (header : Word) (op : Nat)
  | count (header : Word) (n : BitVec 32)
  | spawnReq (seat op : Nat) (operand : Word) (args : List Word)
  | spawnAns (seat op : Nat) (ok : Bool)
  | rcmd (seat op : Nat) (cmd : List Word)
  | rcmdAns (seat op fail : Nat)
  | notice (code : BitVec 8) (rank : BitVec 16) (header : Word)
  | gbarArrive (group episode : Nat) (member : CoreId)
  | gbarDone (group episode : Nat)
  | combine (desc : Word) (data : BitVec 4096)
  | deliver (desc : Word) (data : BitVec 4096)
  | leave (group : Nat)
  | latch (tile : LatchTile)
  | sync (basecamp : Nat)
  | pstate (cn : Nat) (state : BitVec 3)
  | farMem (cluster ch : Nat) (addr : Word) (len : Nat) (data : Option (List Byte))
  | memReq (req piece who home : Nat)
  | memAns (req piece : Nat) (st : PieceState) (data : BitVec 64)
  | revoke (rev : Nat)
  | revokeAck (rev : Nat)
  | ack
  deriving DecidableEq, Repr

/-- A packet between the ends of the fabric: a core or the position of an L2 slot, a basecamp (`4096` west, `4098` east), an
optical chiplet (`8192 + i`) or a base die (`12288 + stack`). `tc` is its class: a traffic class 0 to 2, 3 combine, 4 request,
5 response, and `m` the bits m[1:0] of its line (R341, R344). `orig` is the entry of `State.sent` that it is a copy of, or that
it answers, and `num` its sequence number (R363); `via` is the mesh of the request that it answers. `mc` is the group of a
multicast (R204), and `far` the module for which a message leaves (R360, R362). -/
structure Packet where
  id    : Nat
  src   : CoreId
  dst   : CoreId
  rank  : BitVec 16
  tc    : Nat
  body  : Body
  route : Option Route := none
  mc    : Option Nat := none
  orig  : Nat := 0
  num   : BitVec 16 := 0
  m     : BitVec 2 := 0
  via   : Option Mesh := none
  far   : Option Nat := none
  deriving DecidableEq, Repr

/-- A numbered request of an interface to another one, while its answer is to come (R363): what is sent again, whether it has
departed and left on a fibre, its reissues, and the reply that its home has stored (R364). -/
structure Sent where
  pkt   : Packet
  gone  : Bool := false
  away  : Bool := false
  tries : Nat := 0
  reply : Option Body := none
  deriving DecidableEq, Repr

/-- A message that waits because its rank is in transit (R201, R222). -/
structure Waiting where
  src  : CoreId
  rank : BitVec 16
  tc   : Nat
  body : Body
  id   : Nat
  mc   : Option Nat
  deriving DecidableEq, Repr

/-! ### Launches, groups, queues -/

/-- The life of a taken record. -/
inductive LaunchState where
  | taken | running | complete | aborted | switchedOut
  deriving DecidableEq, Repr

/-- What a switched-out launch keeps of a core beside its switch area: the resume entries (whose PRIO no record holds)
and the ended firings not yet reported. -/
structure SavedCore where
  resumes : List Resume
  ended   : Nat
  deriving DecidableEq, Repr

/-- A taken record (R101, R102): where it stands, its 256 bytes as doubles, its basecamp, and its life; `switching` holds
while it is being switched out, and `saved` what it keeps meanwhile (R243); `given` says when it got its completion port
(R405). -/
structure Launch where
  id        : Nat
  pa        : Nat
  words     : List Word
  prio      : Nat
  basecamp  : Nat
  cport     : Nat
  counter   : Int
  state     : LaunchState
  status    : Word
  cores     : List (BitVec 16 × CoreId)
  switching : Bool := false
  saved     : List (CoreId × SavedCore) := []
  given     : Nat := 0
  deriving DecidableEq, Repr

/-- A group (R216): members with their cores, the root's core, who has exited, how many episodes each core has arrived
for as its interface counts them and as the root knows, and how many are complete (R153, R154). -/
structure Group where
  gid     : Nat
  root    : CoreId
  members : List (BitVec 16 × CoreId)
  exited  : List CoreId
  issued  : List (CoreId × Nat)
  arrived : List (CoreId × Nat)
  done    : Nat
  deriving DecidableEq, Repr

/-- A launch queue (R240). -/
structure LQueue where
  cfg : Word := 0
  rix : Word := 0
  deriving DecidableEq, Repr

/-- A page that is being moved (R366). -/
structure Migration where
  entry : Nat
  oldPa : Nat
  newPa : Nat
  size  : Nat
  moved : Bool
  deriving DecidableEq, Repr

/-- What the module last answered to the host or to a far module. -/
inductive Reply where
  | none
  | bytes (data : List Byte)
  | poison
  | acked
  | fault (code : BitVec 8)
  | notice (code : BitVec 8) (rank : BitVec 16) (header : Word)
  | version (major minor : Nat)
  | capabilities (sessions : Bool)
  | algorithms (rsa hash : Nat)
  | digests (data : List (List Byte))
  | certificate (data : List Byte)
  | challenge (data : List Byte)
  | measurements (data : List (List Byte))
  deriving DecidableEq, Repr

/-- A message or memory request as it left on a fibre of an optical chiplet (R336, R360, R362). While the far chiplet's answer
is to come, its entry of `State.sent` is marked `away`. -/
structure FibreOut where
  chip    : Nat
  fibre   : Nat
  body    : Body
  deriving DecidableEq, Repr

/-- An access or message of another module that an optical chiplet has taken: its requester and number, the request that serves it,
and the stored reply (R359, R360, R364). -/
structure FarSeen where
  chip  : Nat
  who   : Nat
  num   : BitVec 16
  sub   : Option Nat := none
  reply : Option Reply := none
  deriving DecidableEq, Repr

/-- One entry of the schedule: a core issues, its seats of the mask held back by a fixed latency or a busy unit (R77, R113),
or an event of the module's units comes about. -/
inductive Turn where
  | issue (core : CoreId) (late : BitVec 8)
  | event (e : Instr)
  deriving DecidableEq, Repr

/-- The module. `summary` is a SUMMARY command under way: its destination and the next double (R396); `group` the chiplets of the
severed group (R386); `routersBad` the harvested routers (R333, R346), and `tables` what firmware found when it last rebuilt
the route tables (R349). `asks` are the translations that units await (R179), and `farSeen` the accesses of other modules that
the optical chiplets have taken (R364). `lost` are the chiplets that the west basecamp has fenced without reaching them, which go
on by themselves, and `lostTables` what their routers' tables were built from (R386). `agenda`, `focus`, `core`, `seat`, `tick`
and `fresh` are the model's own: which agent acts next, which core issues when the agenda is empty, whose instruction `exec`
runs, the number of the next free value, and the next unused operation number. -/
structure State where
  agenda     : List Turn := []
  focus      : CoreId := 4096
  core       : CoreId := 4096
  seat       : Fin 8 := 7
  tick       : Nat := 0
  fresh      : Nat := 1
  cores      : List (CoreId × Core) := []
  clusters   : List (Nat × Cluster) := []
  chiplets   : List (Nat × Chiplet) := []
  hbm        : Memory := []
  hbmPoison  : List Nat := []
  dirty      : List Nat := []
  co         : List (Nat × Memory) := []
  coPoison   : List (Nat × Nat) := []
  owners     : List (Nat × CoreId) := []
  revs       : List Rev := []
  asks       : List Ask := []
  reqs       : List Req := []
  net        : List Packet := []
  sent       : List Sent := []
  grants     : List (Nat × Nat) := []
  waiting    : List Waiting := []
  seqs       : List ((CoreId × Nat) × BitVec 16) := []
  expects    : List ((CoreId × Nat) × BitVec 16) := []
  ranks      : List (Nat × Word) := []
  groups     : List Group := []
  l2cfg      : Word := 8
  l2pmap     : Word := 0
  l2co       : Word := 0
  slotMap    : List (Nat × Nat) := []
  slotsBad   : List Nat := []
  stacksBad  : List Nat := []
  linksBad   : List Nat := []
  routersBad : List Nat := []
  sealed     : List (Nat × Nat) := []
  netSel     : List ((Nat × Nat) × BitVec 2) := []
  escape     : List ((Nat × Nat) × BitVec 4) := []
  tables     : Option (List Nat × List Nat × List Nat) := none
  codec      : Codec := {}
  queues     : Vector LQueue 8 := Vector.replicate 8 {}
  lastQueue  : List (Nat × Nat) := []
  launches   : List Launch := []
  portEnds   : List (Nat × Nat) := []
  modStat    : Word := 0
  powcap     : Word := 0xD48
  pstate     : Word := 3
  mbCmd      : Word := 0
  mbStat     : Word := 0
  mbData     : Word := 0
  mbRet      : Word := 0
  token      : BitVec 48 := 0
  summarySeq : Word := 0
  summary    : Option (Nat × Nat) := none
  fenceCmd   : Word := 0
  farCfg     : Word := 0x14030000
  farTt      : Word := 0
  farTlb     : List (Nat × List Tlb) := []
  farSeen    : List FarSeen := []
  farRoute   : List (Nat × BitVec 8) := []
  fib        : List (Nat × BitVec 32) := []
  deadWaves  : List (Nat × Nat × Nat) := []
  switchBase : Word := 0
  migrations : List Migration := []
  supImage   : List Byte := []
  fwImage    : List Byte := []
  severed    : Bool := false
  lost       : List Nat := []
  lostTables : Option (List Nat × List Nat × List Nat) := none
  group      : List Nat := []
  fibre      : Option FibreOut := none
  inbox      : List (Nat × Word × List Word) := []
  reply      : Reply := .none
  deriving DecidableEq, Repr

/-- The module right after reset: every field at the value that the manual states for reset, and the rest at the values
that log 1 names. Memory lists nothing, no seat runs, no chiplet has a clock. -/
def State.reset : State := {}

/-! ### How a step can stop -/

/-- The faults of the model. -/
inductive Fault where
  /-- Raised by `step` when the schedule lets a position act that holds no core (a slice position or a number outside
  the grid and the basecamps, R339): no such agent exists. Safe: nothing of the module stops there. -/
  | noSuchCore (core : CoreId)
  deriving DecidableEq, Repr

/-- The refusals of the model. -/
inductive Refusal where
  /-- Raised by an arm of `exec` for an instruction without a meaning yet. Safe: the run ends. -/
  | notModelled (mnemonic : String)
  deriving DecidableEq, Repr

end Sys2Proof.Machine
end

