-- ==== Sys2Proof/Machine/Ops.lean ====
section
/-! DEFINITION. The named operations over the state: sparse tables, memory bytes, cores and seats, registers, traps and
firings, outstanding results. -/

namespace Sys2Proof.Machine

/-! ### Sparse tables with rising keys -/

/-- The value at a key, or the default. -/
def tget {α : Type} (d : α) : List (Nat × α) → Nat → α
  | [], _ => d
  | (k, v) :: t, i => if i = k then v else tget d t i

/-- The value at a key, if listed. -/
def tget? {α : Type} : List (Nat × α) → Nat → Option α
  | [], _ => none
  | (k, v) :: t, i => if i = k then some v else tget? t i

/-- The table with a value at a key, keys kept rising. -/
def tset {α : Type} : List (Nat × α) → Nat → α → List (Nat × α)
  | [], i, v => [(i, v)]
  | (k, w) :: t, i, v => if i < k then (i, v) :: (k, w) :: t else if i = k then (i, v) :: t else (k, w) :: tset t i v

/-- The table without a key, however often it is listed. -/
def tdel {α : Type} : List (Nat × α) → Nat → List (Nat × α)
  | [], _ => []
  | (k, w) :: t, i => if i = k then tdel t i else (k, w) :: tdel t i

/-- A rising set of numbers with one more. -/
def sins : List Nat → Nat → List Nat
  | [], i => [i]
  | k :: t, i => if i < k then i :: k :: t else if i = k then k :: t else k :: sins t i

/-- The set without a number. -/
def sdel : List Nat → Nat → List Nat
  | [], _ => []
  | k :: t, i => if i = k then sdel t i else k :: sdel t i

/-! ### Memory -/

/-- One byte; an unlisted byte reads 0 (log 2). -/
def getByte (m : Memory) (a : Nat) : Byte := tget 0 m a

/-- The memory with one byte written, in canonical form. -/
def setByte (m : Memory) (a : Nat) (b : Byte) : Memory := if b = 0 then tdel m a else tset m a b

/-- Addresses rise strictly above a bound and no listed byte is 0. -/
def wfFrom : Option Nat → Memory → Bool
  | _, [] => true
  | none, (k, b) :: t => b != 0 && wfFrom (some k) t
  | some lo, (k, b) :: t => decide (lo < k) && b != 0 && wfFrom (some k) t

/-- The canonical form: addresses strictly rising, no entry 0 (DESIGN CHOICE, log 2). -/
abbrev Memory.wf (m : Memory) : Bool := wfFrom none m

/-- `n` bytes from `a`, little-endian, as a number (R2). -/
def getBytes (m : Memory) (a : Nat) : Nat → Nat
  | 0 => 0
  | n + 1 => (getByte m a).toNat + 256 * getBytes m (a + 1) n

/-- `n` bytes of a number written from `a`, little-endian (R2). -/
def setBytes (m : Memory) (a : Nat) : Nat → Nat → Memory
  | 0, _ => m
  | n + 1, v => setByte (setBytes m (a + 1) n (v / 256)) a (BitVec.ofNat 8 v)

/-- A list of bytes from `a`. -/
def setList (m : Memory) (a : Nat) : List Byte → Memory
  | [] => m
  | b :: t => setByte (setList m (a + 1) t) a b

/-- A list of bytes from `a`, where a condition holds. -/
def putBytes (keep : Nat → Bool) (m : Memory) (a : Nat) : List Byte → Memory
  | [] => m
  | b :: t => let m := putBytes keep m (a + 1) t; if keep a then setByte m a b else m

/-- `n` bytes from `a` as a list. -/
def getList (m : Memory) (a : Nat) : Nat → List Byte
  | 0 => []
  | n + 1 => getByte m a :: getList m (a + 1) n

/-- The double at `a`. -/
def getDouble (m : Memory) (a : Nat) : Word := BitVec.ofNat 64 (getBytes m a 8)

/-- A double written at `a`. -/
def setDouble (m : Memory) (a : Nat) (v : Word) : Memory := setBytes m a 8 v.toNat

/-- Doubles written from `a`. -/
def setDoubles (m : Memory) (a : Nat) : List Word → Memory
  | [] => m
  | v :: t => setDoubles (setDouble m a v) (a + 8) t

/-- Every byte from `lo` up to `hi - 1` as 0. -/
def clearRange (m : Memory) (lo hi : Nat) : Memory := m.filter fun c => decide (c.1 < lo) || decide (hi ≤ c.1)

/-- The listed bytes from `lo` up to `hi - 1`. -/
def takeRange (m : Memory) (lo hi : Nat) : Memory := m.filter fun c => decide (lo ≤ c.1) && decide (c.1 < hi)

/-! ### Positions -/

/-- Whether a number is a basecamp core (R404). -/
def isBc (c : CoreId) : Bool := decide (4096 ≤ c) && decide (c < 4100)

/-- Whether a position belongs to a compute chiplet (R339): inside the grid and outside the centre 3 x 3 sites. -/
def isGridCore (c : CoreId) : Bool :=
  let sx := c % 52 / 4
  let sy := c / 52 / 4
  decide (c < 2704) && !(decide (5 ≤ sx) && decide (sx ≤ 7) && decide (5 ≤ sy) && decide (sy ≤ 7))

/-- Whether a core exists. -/
def isCore (c : CoreId) : Bool := isBc c || isGridCore c

/-- The cluster (its CN, R331) of a grid core. -/
def clusterOf (c : CoreId) : Nat := 13 * (c / 52 / 4) + c % 52 / 4

/-- The number of a grid core within its cluster (R160); of a basecamp core, R404. -/
def coreNo (c : CoreId) : Nat := if isBc c then c - 4096 else 4 * (c / 52 % 4) + c % 52 % 4

/-- Core `n` of the cluster of site `cn` (R160, R339). -/
def coreAt (cn n : Nat) : CoreId := 52 * (4 * (cn / 13) + n / 4) + 4 * (cn % 13) + n % 4

/-- Core 0 of the cluster, the cox core (R160). -/
def coxOf (c : CoreId) : CoreId := coreAt (clusterOf c) 0

/-- Whether site `cn` is a compute chiplet. -/
def isCluster (cn : Nat) : Bool := decide (cn < 169) && isGridCore (coreAt cn 0)

/-- The chiplet number of a core's chiplet (R331). -/
def chipOf (c : CoreId) : Nat := if isBc c then 0x120 + (c - 4096) / 2 else clusterOf c

/-! ### Cores and seats -/

def State.getCore (s : State) (c : CoreId) : Core := tget {} s.cores c
def State.setCore (s : State) (c : CoreId) (k : Core) : State := { s with cores := tset s.cores c k }
def State.updCore (s : State) (c : CoreId) (f : Core → Core) : State := s.setCore c (f (s.getCore c))
def State.getCluster (s : State) (n : Nat) : Cluster := tget {} s.clusters n
def State.setCluster (s : State) (n : Nat) (k : Cluster) : State := { s with clusters := tset s.clusters n k }
def State.updCluster (s : State) (n : Nat) (f : Cluster → Cluster) : State := s.setCluster n (f (s.getCluster n))
def State.getChiplet (s : State) (n : Nat) : Chiplet := tget {} s.chiplets n
def State.setChiplet (s : State) (n : Nat) (k : Chiplet) : State := { s with chiplets := tset s.chiplets n k }
def State.updChiplet (s : State) (n : Nat) (f : Chiplet → Chiplet) : State := s.setChiplet n (f (s.getChiplet n))

def Core.getSeat (k : Core) (n : Nat) : Seat := k.seats.getD n {}
def Core.setSeat (k : Core) (n : Nat) (v : Seat) : Core := { k with seats := k.seats.setIfInBounds n v }
def Core.updSeat (k : Core) (n : Nat) (f : Seat → Seat) : Core := k.setSeat n (f (k.getSeat n))

def State.seatAt (s : State) (c : CoreId) (n : Nat) : Seat := (s.getCore c).getSeat n
def State.setSeatAt (s : State) (c : CoreId) (n : Nat) (v : Seat) : State := s.updCore c fun k => k.setSeat n v
def State.updSeatAt (s : State) (c : CoreId) (n : Nat) (f : Seat → Seat) : State := s.setSeatAt c n (f (s.seatAt c n))

/-- The core and the seat whose instruction runs. -/
def State.thisCore (s : State) : Core := s.getCore s.core
def State.thisSeat (s : State) : Seat := s.thisCore.seats[s.seat.val]
def State.updThisCore (s : State) (f : Core → Core) : State := s.setCore s.core (f s.thisCore)
def State.setThisSeat (s : State) (v : Seat) : State := s.updThisCore fun k => { k with seats := k.seats.set s.seat.val v }
def State.updThisSeat (s : State) (f : Seat → Seat) : State := s.setThisSeat (f s.thisSeat)

/-- The chiplet of a core is parked (R400). -/
def parked (s : State) (c : CoreId) : Bool := (s.getChiplet (chipOf c)).cur = 7

/-- A core that issues and binds nothing: fenced, or parked (DEDUCED, log 59). -/
def idle (s : State) (c : CoreId) : Bool := (s.getCore c).fenced || parked s c

/-! ### Registers of a seat -/

/-- `x0` reads zero (R76). -/
def Seat.getX (t : Seat) (r : BitVec 5) : Word := if r = 0 then 0 else t.x[r.toNat]
/-- A write to `x0` is discarded (R76). -/
def Seat.setX (t : Seat) (r : BitVec 5) (w : Word) : Seat := if r = 0 then t else { t with x := t.x.set r.toNat w }
/-- `p7` reads 1 (R76). -/
def Seat.getP (t : Seat) (r : BitVec 3) : Bool := if r = 7 then true else t.p.getLsbD r.toNat
/-- A write to `p7` is discarded (R76). -/
def Seat.setP (t : Seat) (r : BitVec 3) (b : Bool) : Seat :=
  if r = 7 then t
  else { t with p := if b then t.p ||| (1#8 <<< r.toNat) else t.p &&& ~~~(1#8 <<< r.toNat) }
def Seat.getV (t : Seat) (r : BitVec 4) : VReg := t.v[r.toNat]
def Seat.setV (t : Seat) (r : BitVec 4) (w : VReg) : Seat := { t with v := t.v.set r.toNat w }
/-- `k0` reads all ones (R108). -/
def Seat.getK (t : Seat) (r : BitVec 2) : BitVec 1024 := if r = 0 then BitVec.allOnes 1024 else t.k[r.toNat]
/-- A write to `k0` is discarded (R127). -/
def Seat.setK (t : Seat) (r : BitVec 2) (w : BitVec 1024) : Seat :=
  if r = 0 then t else { t with k := t.k.set r.toNat w }

/-- The seat whose instruction runs, as a unit that translates. -/
def State.me (s : State) : Asker := .seat s.core s.seat.val

/-- A unit has made its access, or makes it no more: the answers of its walks are no longer its own (R179). -/
def State.forget (s : State) (u : Asker) : State := { s with asks := s.asks.filter (·.unit != u) }

/-- `OUT` (R108, R114). -/
def Seat.out (t : Seat) : Nat := t.outs.length

/-! ### Small updates of a core -/

/-- The event bit is set in every seat of a core (R328). -/
def Core.news (k : Core) : Core := { k with seats := k.seats.map fun t => { t with event := true } }

/-- A new operation number. -/
def State.bump (s : State) : State := { s with fresh := s.fresh + 1 }

/-- The next free value is another one. -/
def State.ticked (s : State) : State := { s with tick := s.tick + 1 }

/-! ### Trap and event firings -/

/-- Where a core's trap and event firings start: its own seat 7, or that of its cox core once its own is fenced (R380).
A basecamp core keeps its own. -/
def supCore (s : State) (c : CoreId) : CoreId :=
  if (s.seatAt c 7).fenced && !isBc c then coxOf c else c

/-- The x16 that a forwarded firing finds (R380). -/
def fwdX16 (s : State) (c : CoreId) (x16 : Word) : Word :=
  if (s.seatAt c 7).fenced && !isBc c && c != coxOf c then BitVec.ofNat 64 (256 * coreNo c) ||| (x16 &&& 0xFF) else x16

/-- A trap firing of class 0xF0 + group for a trapped seat (R118, R120, R374). -/
def queueTrap (s : State) (c : CoreId) (seat : Nat) (cause : BitVec 8) (regs : List Word) : State :=
  let q : Queued := ⟨0xF0 + (cause >>> 4), cause, if supCore s c = c then some seat else none,
    fwdX16 s c (BitVec.ofNat 64 seat) :: regs⟩
  s.updCore (supCore s c) fun k => { k with traps := k.traps ++ [q] }

/-- The queued firing of a code, oldest first, gets bit 8 of its x18 set (R377). -/
def mergeQ (code : BitVec 8) : List Queued → Option (List Queued)
  | [] => none
  | q :: t =>
    if q.code = code then
      some ({ q with regs := q.regs.set 2 (q.regs.getD 2 0 ||| 0x100) } :: t)
    else (mergeQ code t).map (q :: ·)

/-- The newest queued firing gets bit 8 of its x18 set. -/
def mergeLast : List Queued → List Queued
  | [] => []
  | [q] => [{ q with regs := q.regs.set 2 (q.regs.getD 2 0 ||| 0x100) }]
  | q :: t => q :: mergeLast t

/-- A fence notice or a double trap: never merged (R377). -/
def isNotice (q : Queued) : Bool := q.code = 0x70 || q.code = 0x71

/-- Appending an event firing to the 16 of a core, under the merging rule of R377. -/
def addEvent (es : List Queued) (q : Queued) : List Queued :=
  if q.code = 0x30 && es.any (fun e => e.code = 0x30 && e.regs.head? = q.regs.head?) then es
  else if es.length < 16 then es ++ [q]
  else (mergeQ q.code es).getD (mergeLast es)

/-- An event reaches its core: a notice that finds no place waits at the input (R377). -/
def Core.addEvent (k : Core) (q : Queued) : Core :=
  if isNotice q && (decide (16 ≤ k.events.length) || !k.notices.isEmpty) then { k with notices := k.notices ++ [q] }
  else { k with events := Machine.addEvent k.events q }

/-- The oldest event leaves the queue, and the first notice that waits takes the place (R377). -/
def Core.dropEvent (k : Core) : Core := { k with events := k.events.drop 1 ++ k.notices.take 1, notices := k.notices.drop 1 }

/-- An event firing of a core: registers x16 (0xFF), x17 (0 unless given), x18 (the code), then `rest` from x19
(R120, R374, R377). -/
def queueEvent (s : State) (c : CoreId) (code : BitVec 8) (x17 : Word) (rest : List Word) : State :=
  let q : Queued := ⟨0xF0 + (code >>> 4), code, none, fwdX16 s c 0xFF :: x17 :: code.setWidth 64 :: rest⟩
  s.updCore (supCore s c) fun k => k.addEvent q

/-- A fence notice to the cox core of a cluster, with the FENCE_CMD value of the unit (R384) (DEDUCED, log 46). -/
def fenceNotice (s : State) (cox : CoreId) (unit index : Nat) : State :=
  queueEvent s cox 0x71 0 [BitVec.ofNat 64 (2 ^ 63 + unit * 2 ^ 56 + index)]

/-! ### The end of a firing -/

/-- The core has no live firing of a launch left (R107): no seat runs one, no resume entry of it waits, and no accepted spawn
if it is the core's present launch. -/
def Core.noLive (k : Core) (id : Nat) : Bool :=
  k.seats.all (fun t => t.firing.bind (·.launch) != some id) && k.resumes.all (fun r => r.firing.launch != some id) &&
    (k.launch != some id || k.spawns.all (fun e => e.seatCls = 7))

/-- `n` more firings of a launch have ended (R107). -/
def Core.count (k : Core) (launch : Option Nat) (n : Nat) : Core :=
  match launch with
  | some id => if n = 0 then k else { k with ended := tset k.ended id (tget 0 k.ended id + n) }
  | none => k

/-- The seat becomes FREE with its firing ended; a firing of a launch is counted (R107). What the assembly queues hold
is discarded (R199, R251). -/
def endFiring (s : State) (c : CoreId) (n : Nat) : State :=
  (s.forget (.seat c n)).updCore c fun k =>
    let t := k.getSeat n
    let free : Seat := { t with status := .free, firing := none, outs := [], preempt := false, q0 := [], q2 := [], q4 := [], q6 := [],
                                beyond := none }
    let k := (k.count (t.firing.bind (·.launch)) 1).setSeat n free
    { k with seatCtl := if fld k.seatCtl 2 0 = n then k.seatCtl &&& 7 else k.seatCtl }

/-- A request of a seat for a scratchpad word that has not been performed. -/
def withdrawable (c : CoreId) (n : Nat) (r : Req) : Bool :=
  r.core = c && r.seat = n && (r.op matches .ldf | .ldt | .ste) && r.pieces.all (·.st matches .waiting | .held)

/-- Waiting accesses of a firing are withdrawn from the words they wait at (R145). -/
def withdraw (s : State) (c : CoreId) (n : Nat) : State :=
  let gone := (s.reqs.filter (withdrawable c n)).map (·.id)
  if gone = [] then s
  else { s with reqs := s.reqs.filter fun r => !withdrawable c n r,
                cores := s.cores.map fun (i, k) => (i, { k with waiters := k.waiters.filter fun w => !gone.contains w.2 }) }

/-- A firing is killed as `tret` MODE 3 kills it (R327). -/
def killFiring (s : State) (c : CoreId) (n : Nat) : State := endFiring (withdraw s c n) c n

/-- A seat is fenced: its firing is killed and it never binds again (R384, R109). -/
def fenceSeatAt (s : State) (c : CoreId) (n : Nat) : State :=
  let s := if (s.seatAt c n).firing.isSome then killFiring s c n else s
  s.updSeatAt c n fun t => { t with status := .free, fenced := true }

/-! ### Taking a trap (R118) -/

/-- A message from the module's hardware to a basecamp's firmware (R381, R404). -/
def toFirmware (s : State) (basecamp : Nat) (header : Word) (regs : List Word) : State :=
  { s with inbox := s.inbox ++ [(basecamp, header, regs)] }

/-- The basecamp of the launch that holds a cluster: that of its cox core, else of the first of its cores that has one; the
west one otherwise (R381) (DEDUCED, log 6). -/
def basecampOf (s : State) (c : CoreId) : Nat :=
  (((c :: (List.range 16).map (coreAt (clusterOf c))).findSome? fun d => (s.getCore d).launch.bind fun id =>
    s.launches.find? (·.id = id)).map (·.basecamp)).getD 0

/-- The header of a message of class 0xF7 to a basecamp (R195, R381). -/
def trapHeader (words : Nat) : Word := BitVec.ofNat 64 (0x3DC00080000 + (words - 1) * 2 ^ 20)

/-- A trap of seat 7 fences it, with the fence notice of R384 to its cox core, and raises the double-trap event there (R121, R382), or a
message of class 0xF7 to the basecamp (R381) or, on a basecamp core, a firing of class 0xF7 in the other basecamp, with the chiplet
in x19 and the core in x20 (R404) (DEDUCED, log 6). Trap and event firings that the core had queued before stay queued there, as R121 forwards
only those that it would queue from then on (DESIGN CHOICE, log 76). -/
def doubleTrap (s : State) (c : CoreId) : State :=
  let t := s.seatAt c 7
  let s := fenceSeatAt s c 7
  let s := if isBc c then s else fenceNotice s (coxOf c) 0 (8 * c + 7)
  if isBc c then
    let b := 1 - (c - 4096) / 2
    let ws : List Word := [BitVec.ofNat 64 (chipOf c), BitVec.ofNat 64 (coreNo c % 2)]
    (toFirmware s b (trapHeader 2) ws).updCore (4096 + 2 * b) fun k => k.addEvent ⟨0xF7, 0x70, none, 0xFF :: 0 :: 0x70 :: ws⟩
  else if c = coxOf c then
    let b := basecampOf s c
    let ws : List Word := [BitVec.ofNat 64 (clusterOf c)]
    (toFirmware s b (trapHeader 1) ws).updCore (4096 + 2 * b) fun k => k.addEvent ⟨0xF7, 0x70, none, 0xFF :: 0 :: 0x70 :: ws⟩
  else queueEvent s (coxOf c) 0x70 0 [BitVec.ofNat 64 (coreNo c), t.trapCause.setWidth 64, t.trapPc.setWidth 64]

/-- A seat takes a trap: the trap registers are written, the seat stops as TRAPPED, and a supervisor firing of class
0xF0 + group is queued (R118, R119, R374). `pc` is the trapping instruction, `rpc` where the seat would go on. A second
error while TRAPPED sets MORE only (R377). -/
def trapSeat (s : State) (c : CoreId) (n : Nat) (cause : BitVec 8) (val : Word) (pc rpc : Parcel) : State :=
  let t := s.seatAt c n
  if t.status = .trapped then s.updSeatAt c n fun t => { t with trapCause := t.trapCause ||| 0x100 }
  else
    let s := (s.forget (.seat c n)).updSeatAt c n fun t =>
      { t with status := .trapped, trapPc := pc, trapCause := cause.setWidth 9, trapVal := val, rpc := rpc,
               preempt := false, beyond := none }
    if n = 7 then doubleTrap s c
    else queueTrap s c n cause [pc.setWidth 64, cause.setWidth 64, val]

/-- A precise trap of the running instruction (kind P): TRAP_PC and RPC are the instruction, or its repeat prefix. -/
def precise (s : State) (cause : BitVec 8) (val : Word) : State :=
  let pc := s.thisSeat.pc
  trapSeat s s.core s.seat.val cause val pc pc

/-- A firing of a core is set aside: its resume entry waits, on the core or with its switched-out launch (R243, R247). -/
def setAside (s : State) (c : CoreId) (firing : Nat) : Bool :=
  (s.getCore c).resumes.any (·.firing.id = firing) ||
    s.launches.any fun l => l.saved.any fun v => v.1 = c && v.2.resumes.any (·.firing.id = firing)

/-- An error reaches a seat (kinds R and D): taken at this instruction boundary; kept while its firing is set aside, which
has no boundary until it resumes; an orphan-error event when its firing has ended (R377) (DEDUCED, log 42). -/
def lateError (s : State) (c : CoreId) (n firing : Nat) (pc : Parcel) (cause : BitVec 8) (val : Word) : State :=
  let t := s.seatAt c n
  if t.firing.map (·.id) = some firing then trapSeat s c n cause val pc t.pc
  else if setAside s c firing then (s.updCore c fun k => { k with errs := k.errs ++ [⟨s.fresh, n, firing, pc, cause, val⟩] }).bump
  else queueEvent s c 0x35 0 [val, cause.setWidth 64]

/-! ### Outstanding operations -/

/-- Whether an operation outstanding at the seat targets `x` register `r` (never `x0`, which always reads zero). -/
def Seat.pendX (t : Seat) (r : BitVec 5) : Bool := r != 0 && t.outs.any (·.target = .x r)
def Seat.pendV (t : Seat) (r : BitVec 4) : Bool := t.outs.any fun o => o.target = .v r || o.target = .sidecar r
def Seat.pendP (t : Seat) (r : BitVec 3) : Bool := r != 7 && t.outs.any (·.target = .pred r)

/-- When `OUT` has reached zero: PARKED goes on, or takes the trap of R13 where the code store has ended; DRAINING becomes FREE
(R21, R109). -/
def settle (s : State) (c : CoreId) (n : Nat) : State :=
  let t := s.seatAt c n
  if !t.outs.isEmpty then s
  else match t.status with
    | .parked => match t.beyond with
      | some a => trapSeat s c n 0x01 (a.setWidth 64) 0 0
      | none => s.updSeatAt c n fun t => { t with status := .running }
    | .draining => endFiring s c n
    | _ => s

/-- `OUT` is lowered: the operation is no longer outstanding (R114). -/
def lower (s : State) (c : CoreId) (n id : Nat) : State :=
  let s := s.updSeatAt c n fun t => { t with outs := t.outs.filter (·.id != id) }
  settle s c n

/-- An outstanding operation is changed. -/
def updOut (s : State) (c : CoreId) (n id : Nat) (f : Out → Out) : State :=
  s.updSeatAt c n fun t => { t with outs := t.outs.map fun o => if o.id = id then f o else o }

/-- The answer of an outstanding operation arrives. -/
def answer (s : State) (c : CoreId) (n id : Nat) (a : Answer) : State := updOut s c n id fun o => { o with ans := a }

/-- The core and seat at which an operation is outstanding. -/
def findOut (s : State) (id : Nat) : Option (CoreId × Nat × Out) :=
  s.cores.findSome? fun (c, _) =>
    (List.range 8).findSome? fun n => (((s.getCore c).getSeat n).outs.find? (·.id = id)).map fun o => (c, n, o)

end Sys2Proof.Machine
end

