-- ==== Sys2Proof/Machine/Translate.lean ====
section
/-! DEFINITION. Address translation: table walks, translation caches and permissions (R175 to R179), and the homes of
lines and carve-out offsets (R167 to R173). -/

namespace Sys2Proof.Machine

/-! ### Homes -/

/-- Bits of a number, `n` from `lo`. -/
def nbits (v lo n : Nat) : Nat := v / 2 ^ lo % 2 ^ n

/-- The order of the low `n` bits reversed (R168). -/
def revBits : Nat → Nat → Nat
  | 0, _ => 0
  | n + 1, v => v % 2 * 2 ^ n + revBits n (v / 2)

/-- The hash of a line number (R168). -/
def lineHash (l : Nat) : Nat := revBits 16 (l % 2 ^ 16) ^^^ nbits l 16 16 ^^^ (nbits l 32 1 * 2 ^ 15)

/-- L2 is in partitioned mode (R169). -/
def partitioned (s : State) : Bool := fld s.l2cfg 1 0 == 1

/-- How many partitions there are, and the slots of each. -/
def partitions (s : State) : Nat :=
  if !partitioned s then 1 else match fld s.l2cfg 3 2 with
    | 0 => 9
    | 1 => 3
    | _ => 1
def partSlots (s : State) : Nat := 144 / partitions s

/-- The partition of a stack; one that SIZE does not provide is 0 (R169). -/
def partOfStack (s : State) (stack : Nat) : Nat :=
  let p := nbits s.l2pmap.toNat (4 * stack) 4
  if partitioned s && decide (p < partitions s) then p else 0

/-- The home slot of a physical address (R168). -/
def homeSlot (s : State) (pa : Nat) : Nat :=
  partOfStack s (nbits pa 36 4) * partSlots s + lineHash (nbits pa 7 33) * partSlots s / 65536

/-- The home of a physical address: its slot, or its stack's base die for memory-side pages (R180). -/
def homeOf (s : State) (pa : Nat) (msa : Bool) : Nat := if msa then 144 + nbits pa 36 4 else homeSlot s pa

/-- Carve-out ways of a partition (R172), and its size in bytes (R171). -/
def coWays (s : State) (p : Nat) : Nat := nbits s.l2co.toNat (4 * p) 4
def coSize (s : State) (p : Nat) : Nat := partSlots s * coWays s p * 393216

/-- The home slot of a carve-out offset (R171). -/
def coHome (s : State) (p off : Nat) : Nat := p * partSlots s + off / 128 % partSlots s

/-! ### The walk -/

/-- Page size of a leaf at a level: 64 KiB, 2 MiB, 1 GiB. -/
def pageSize (level : Nat) : Nat := if level = 0 then 65536 else if level = 1 then 2097152 else 1073741824

/-- The table index at a level (R175). -/
def tableIndex (va level : Nat) : Nat := if level = 0 then nbits va 16 5 else nbits va (12 + 9 * level) 9

/-- Bytes of a stack that are populated. -/
def populated : Nat := 48 * 2 ^ 30

/-- An entry whose bits make the walk fault: reserved bits, or WR without RD or with COW (R176, R177). -/
def badEntry (e : Word) : Bool :=
  fld e 63 61 != 0 || fld e 58 40 != 0 || fld e 7 4 != 0 || (e.getLsbD 3 && (!e.getLsbD 2 || e.getLsbD 59))

/-- A leaf that a level may hold: aligned to its page, and populated (R177). -/
def leafOk (e : Word) (level : Nat) : Bool :=
  let pa := fld e 39 8 * 256
  decide (level < 3) && pa % pageSize level == 0 && decide (pa % 2 ^ 36 + pageSize level ≤ populated)

/-- A pointer carries no leaf attribute (R177). -/
def pointerOk (e : Word) : Bool := !e.getLsbD 2 && !e.getLsbD 3 && !e.getLsbD 59 && !e.getLsbD 60

/-- A slot that no live slice serves (R384). -/
def deadSlot (s : State) (slot : Nat) : Bool := s.slotsBad.contains (tget slot s.slotMap slot)

/-- The chiplet of an L2 slot. -/
def slotSite (n : Nat) : Nat := 13 * (5 + n / 16 / 3) + 5 + n / 16 % 3

/-- A chiplet that the west basecamp has fenced without reaching it (R386). -/
def isLost (s : State) (cn : Nat) : Bool := s.lost.contains cn

/-- The L2 home of a physical address, or its stack, is out of reach from one side of a split module: `side` tells the part that the
west basecamp has lost (R386). -/
def splitFrom (s : State) (side : Bool) (pa : Nat) : Bool :=
  !s.lost.isEmpty && (isLost s (0x100 + nbits pa 36 4) != side || isLost s (slotSite (homeSlot s pa)) != side)

/-- A double of HBM reads poison through its L2 home: its granule is poisoned, or its stack or its home is fenced (R378, R384), or
out of reach (R386). -/
def readsPoison (s : State) (pa : Nat) (side : Bool := false) : Bool :=
  s.hbmPoison.contains (pa / 32) || s.stacksBad.contains (nbits pa 36 4) || deadSlot s (homeSlot s pa) || splitFrom s side pa

/-- A range of HBM that the west basecamp reads as poison somewhere: in a granule, on a fenced stack, or from a home without a live
slice or out of reach (R378, R384, R386). -/
def rangePoisoned (s : State) (a n : Nat) : Bool :=
  (s.hbmPoison.any fun g => decide (a < 32 * g + 32) && decide (32 * g < a + n)) ||
    (n != 0 && s.stacksBad.any fun k => decide (a / 2 ^ 36 ≤ k) && decide (k ≤ (a + n - 1) / 2 ^ 36)) ||
    (!(s.slotsBad.isEmpty && s.lost.isEmpty) && (List.range ((a % 128 + n + 127) / 128)).any fun i =>
      deadSlot s (homeSlot s (a + 128 * i)) || splitFrom s false (a + 128 * i))

/-- The walk from a table of a level: a leaf, or the translation fault (R177). Of an access whose walk reads poison the manual says only
that every reader gets the poison (R378): it is a memory error, 0x60 (DESIGN CHOICE, log 75). R177 lists no fault for a pointer to
a table that is not 4 KiB aligned: the index is added to the address as it stands (DESIGN CHOICE, log 75). -/
def walkFrom (s : State) (asid : BitVec 16) (va : Nat) (side : Bool) : Nat → Nat → WalkAns
  | table, level =>
    let at' := table + 8 * tableIndex va level
    let e := getDouble s.hbm at'
    if readsPoison s at' side then .fault 0x60
    else if !e.getLsbD 0 || badEntry e then .fault 0x12
    else if e.getLsbD 1 then
      if leafOk e level then
        .leaf ⟨asid, va / pageSize level * pageSize level, pageSize level, fld e 39 8 * 256,
          e.getLsbD 2, e.getLsbD 3, e.getLsbD 59, e.getLsbD 60⟩
      else .fault 0x12
    else if !pointerOk e then .fault 0x12
    else match level with
      | 0 => .fault 0x12
      | l + 1 => walkFrom s asid va side (fld e 39 8 * 256) l
termination_by structural _ level => level

/-- The address-space number of a translation root (R178). -/
def rootAsid (root : Word) : BitVec 16 := root.extractLsb' 48 16

/-- A whole walk under a translation root; EN 0 faults (R178). -/
def walk (s : State) (root : Word) (va : Nat) (side : Bool := false) : WalkAns :=
  if root.getLsbD 0 then walkFrom s (rootAsid root) va side (fld root 39 12 * 4096) 3 else .fault 0x12

/-- The slot whose walker runs the walks of a page VA[47:16]: R168 with L[31:0] replaced by it (R179), and L[32] by 0 (DESIGN
CHOICE, log 93). -/
def walkerSlot (page : Nat) : Nat := lineHash page * 144 / 65536

/-- A leaf as a walker returns it: the fields of its entry, with its level in [7:6] (DESIGN CHOICE, log 93). -/
def packLeaf (e : Tlb) : BitVec 64 :=
  BitVec.ofNat 64 (e.pa + 1 + (if e.size = 65536 then 0 else if e.size = 2097152 then 64 else 128) + (if e.rd then 4 else 0) +
    (if e.wr then 8 else 0) + (if e.cow then 2 ^ 59 else 0) + (if e.msa then 2 ^ 60 else 0))

/-- What a walker has returned for a page under a root: a leaf, or 0 for a translation fault. -/
def unpackLeaf (root : Word) (page : Nat) (w : BitVec 64) : WalkAns :=
  let n := pageSize (fld w 7 6)
  if w = 0 then .fault 0x12
  else .leaf ⟨rootAsid root, page * 65536 / n * n, n, fld w 39 16 * 65536, w.getLsbD 2, w.getLsbD 3, w.getLsbD 59, w.getLsbD 60⟩

/-! ### What the tables map (R173) -/

/-- The entries of a table that are not zero. -/
def tableEntries (m : Memory) (table n : Nat) : List Word :=
  ((takeRange m table (table + 8 * n)).map fun c => (c.1 - table) / 8).eraseDups.map fun i => getDouble m (table + 8 * i)

/-- An entry of a level is a memory-side leaf whose page holds a physical address. -/
def msaLeaf (pa : Nat) (e : Word) (level : Nat) : Bool :=
  e.getLsbD 0 && e.getLsbD 1 && e.getLsbD 60 && !badEntry e && leafOk e level &&
    decide (fld e 39 8 * 256 ≤ pa) && decide (pa < fld e 39 8 * 256 + pageSize level)

/-- The tables from one of a level on down map the page of a physical address on the memory side. -/
def msaUnder (m : Memory) (pa : Nat) : Nat → Nat → Bool
  | 0, table => (tableEntries m table 32).any fun e => msaLeaf pa e 0
  | l + 1, table => (tableEntries m table 512).any fun e => msaLeaf pa e (l + 1) ||
      (e.getLsbD 0 && !e.getLsbD 1 && !badEntry e && pointerOk e && msaUnder m pa l (fld e 39 8 * 256))

/-- The translation roots in use: of cores, of packets in execution, and of other modules' accesses. -/
def liveRoots (s : State) : List Word :=
  s.farTt :: (s.cores.map fun (_, k) => k.ttRoot) ++
    s.clusters.flatMap fun (_, g) => g.chans.toList.filterMap fun c => c.pkt.map (·.root)

/-- The tables in use map the page of a physical address on the memory side (R173). -/
def mapsMsa (s : State) (pa : Nat) : Bool :=
  (liveRoots s).any fun r => r.getLsbD 0 && msaUnder s.hbm pa 3 (fld r 39 12 * 4096)

/-! ### Translation caches -/

/-- Whether an entry translates an address of an address space. -/
def Tlb.covers (e : Tlb) (asid : BitVec 16) (va : Nat) : Bool :=
  e.asid == asid && decide (e.va ≤ va) && decide (va < e.va + e.size)

/-- The core of a unit that translates, or its optical chiplet. -/
def Asker.core : Asker → CoreId
  | .seat c _ => c
  | .op c _ => c
  | .chan cl _ => coreAt cl 0
  | .far chip _ => 8192 + chip

/-- The caches that a unit looks up, in order: its core's and its cluster's, the cluster's for an engine, an optical chiplet's (R179,
R299, R361). -/
def caches (s : State) : Asker → List Tlb
  | .chan cl _ => (s.getCluster cl).tlb
  | .far chip _ => tget [] s.farTlb chip
  | .seat c _ => (s.getCore c).tlb ++ if isBc c then [] else (s.getCluster (clusterOf c)).tlb
  | .op c _ => (s.getCore c).tlb ++ if isBc c then [] else (s.getCluster (clusterOf c)).tlb

/-- The root under which a unit translates (R178, R299, R359). -/
def rootFor (s : State) : Asker → Word
  | .chan cl ch => ((((s.getCluster cl).chans.getD ch {}).pkt.map (·.root)).getD (s.getCore (coreAt cl 0)).ttRoot)
  | .far .. => s.farTt
  | .seat c _ => (s.getCore c).ttRoot
  | .op c _ => (s.getCore c).ttRoot

/-- What a unit knows of a page: its leaf, the cause of its fault, or nothing before a walk. -/
inductive Leaf where
  | hit (e : Tlb)
  | fault (cause : BitVec 8)
  | miss
  deriving DecidableEq, Repr

/-- The question that a unit has put for an address under a root. -/
def asked (s : State) (u : Asker) (root : Word) (va : Nat) : Option Ask :=
  s.asks.find? fun a => a.unit = u && a.root = root && a.page == va / 65536

/-- A unit translates a global address under a root: by its caches, or by the answer of the walk that it asked for; EN 0 faults (R178,
R179). -/
def leafUnder (s : State) (u : Asker) (root : Word) (va : Nat) : Leaf :=
  if !root.getLsbD 0 then .fault 0x12
  else match (caches s u).find? (·.covers (rootAsid root) va) with
    | some e => .hit e
    | none => match ((asked s u root va).map (·.ans)).getD .waiting with
      | .leaf e => .hit e
      | .fault c => .fault c
      | .waiting => .miss

/-- A unit translates a global address under its own root. -/
def leafOf (s : State) (u : Asker) (va : Nat) : Leaf := leafUnder s u (rootFor s u) va

/-- The leaf of an address for a unit, or what the tables now hold for it where no cache and no walk has told the unit: what a reader
outside the access sees. -/
def presentLeaf (s : State) (u : Asker) (va : Nat) : Option Tlb :=
  match leafOf s u va with
  | .hit e => some e
  | .fault _ => none
  | .miss => match walk s (rootFor s u) va with
    | .leaf e => some e
    | _ => none

/-- A cache of `n` entries with one more; a full one gives up an entry by a policy the manual leaves open (R179). -/
def addTlb (n victim : Nat) (l : List Tlb) (e : Tlb) : List Tlb :=
  if l.contains e then l else if l.length < n then e :: l else e :: l.eraseIdx (victim % n)

/-- A translation that was used enters the core's cache and its cluster's (R179). -/
def fillTlb (s : State) (c : CoreId) (e : Tlb) : State :=
  let v := Config.tlbVictim s.tick
  let s := s.ticked
  let s := s.updCore c fun k => { k with tlb := addTlb 32 v k.tlb e }
  if isBc c then s else s.updCluster (clusterOf c) fun g => { g with tlb := addTlb 1024 v g.tlb e }

/-! ### Permissions -/

/-- What an access asks of its page. -/
inductive Need where
  | read | write | both
  deriving DecidableEq, Repr

/-- The fault of an access on a page (R177): permission 0x13, copy-on-write 0x14. -/
def permFault (n : Need) (e : Tlb) : Option (BitVec 8) :=
  match n with
  | .read => if e.rd then none else some 0x13
  | .write => if e.wr then none else some (if e.cow then 0x14 else 0x13)
  | .both => if e.cow then some 0x14 else if e.rd && e.wr then none else some 0x13

/-- What stands in the place of a cause code where an access awaits a walk: a code that is never raised (R375). -/
def walkCause : BitVec 8 := 0xFF

/-- A global address translated for a unit: the entry, or the cause code (R177), or that it awaits a walk. -/
def translate (s : State) (u : Asker) (n : Need) (va : Nat) : Except (BitVec 8) Tlb :=
  match leafOf s u va with
  | .miss => .error walkCause
  | .fault c => .error c
  | .hit e => match permFault n e with
    | some f => .error f
    | none => .ok e

/-- The physical address of a virtual one under an entry. -/
def Tlb.phys (e : Tlb) (va : Nat) : Nat := e.pa + (va - e.va)

/-! ### Memory-side lines (R173, R240) -/

/-- Fields of LQ_CFG_q (R240). -/
def qPrio (c : Word) : Nat := fld c 50 48
def qRecords (c : Word) : Nat := 2 ^ fld c 47 44
def qBase (c : Word) : Nat := fld c 39 8 * 256

/-- The line of a served launch queue's write index, at BASE - 128: a memory-side line on any page (R240). -/
def queueLine (s : State) (pa : Nat) : Bool :=
  s.queues.toList.any fun q => q.cfg.getLsbD 63 && decide (128 ≤ qBase q.cfg) && pa / 128 == (qBase q.cfg - 128) / 128

/-- Where a global address lies under an entry: a line of a memory-side page or of a queue's write index is served at its
base die (R173, R180, R240). -/
def Tlb.place (s : State) (e : Tlb) (va : Nat) : Place := .hbm (e.phys va) (e.msa || queueLine s (e.phys va))

/-- EN and SUB of HL_Q_c (R298). -/
def qEn (v : Word) : Bool := v.getLsbD 63
def qSub (v : Word) : Bool := v.getLsbD 62

/-- A physical address lies on the memory side: the line of a served queue's write index, a subscribed queue header, or a page that
a cached translation or the tables in use give so (R173, R180, R240, R298) (DEDUCED, log 80). -/
def memorySide (s : State) (pa : Nat) : Bool :=
  let hit (l : List Tlb) : Bool := l.any fun e => e.msa && decide (e.pa ≤ pa) && decide (pa < e.pa + e.size)
  queueLine s pa || mapsMsa s pa || (s.clusters.any fun (_, g) => hit g.tlb || g.chans.toList.any fun c => qSub c.hlq && c.hpa / 128 == pa / 128) ||
    (s.cores.any fun (_, k) => hit k.tlb) || s.farTlb.any fun (_, l) => hit l

/-! ### Seals (R174) -/

/-- Whether a physical address lies in a sealed range. -/
def isSealed (s : State) (pa : Nat) : Bool := s.sealed.any fun (b, n) => decide (b ≤ pa) && decide (pa < b + n)

end Sys2Proof.Machine
end

