-- ==== Sys2Proof/Machine/Wire.lean ====
section
/-! DEFINITION. What leaves an interface for the fabric: the ends of the fabric, packets and the requests they copy, sequence
numbers and their windows, answers, and the walks that units ask for (R179, R180, R339, R341, R344, R363 to R365). -/

namespace Sys2Proof.Machine

/-! ### Tables under pairs of numbers -/

/-- The value at a pair, or the default. -/
def pget {α : Type} (d : α) : List ((Nat × Nat) × α) → Nat × Nat → α
  | [], _ => d
  | (k, v) :: t, i => if i = k then v else pget d t i

/-- The table with a value at a pair, pairs kept rising. -/
def pset {α : Type} : List ((Nat × Nat) × α) → Nat × Nat → α → List ((Nat × Nat) × α)
  | [], i, v => [(i, v)]
  | (k, w) :: t, i, v =>
    if i = k then (i, v) :: t
    else if i.1 < k.1 ∨ (i.1 = k.1 ∧ i.2 < k.2) then (i, v) :: (k, w) :: t else (k, w) :: pset t i v

/-! ### Chiplets (R331, R332) -/

/-- STATE of a chiplet's BUST (R332). -/
def bustState (s : State) (cn : Nat) : Nat := fld (s.getChiplet cn).bust 2 0

/-- A chiplet that is fenced or dark carries nothing. -/
def chipSilent (s : State) (cn : Nat) : Bool := bustState s cn = 6 || bustState s cn = 0

/-! ### Ends of the fabric (R339, R340) -/

/-- The position of slice `n` in the centre 3 x 3 sites (R167, R339). -/
def slicePos (n : Nat) : CoreId :=
  let ch := n / 16
  let sl := n % 16
  52 * (4 * (5 + ch / 3) + sl / 4) + 4 * (5 + ch % 3) + sl % 4

/-- The end at which a home is reached: the slice that serves a slot, or a stack's base die (R167, R180). -/
def homeEnd (s : State) (home : Nat) : CoreId :=
  if home < 144 then slicePos (tget home s.slotMap home) else 12288 + (home - 144)

/-- The destination index of an end: 52 * Y + X for a position, 2704 + (CN - 0x100) for an edge chiplet (R333). -/
def indexOf (c : CoreId) : Nat :=
  if isBc c then 2736 + (c - 4096) / 2
  else if 12288 ≤ c then 2704 + (c - 12288)
  else if 8192 ≤ c then 2704 + 16 + (c - 8192) else c

/-- The chiplet of an end of the fabric. -/
def endChip (c : CoreId) : Nat :=
  if 12288 ≤ c then 0x100 + (c - 12288) else if 8192 ≤ c then 0x110 + (c - 8192) else chipOf c

/-- From one end, another end is fenced by the west basecamp without having been reached (R386). -/
def cutOff (s : State) (src dst : CoreId) : Bool := isLost s (endChip dst) && !isLost s (endChip src)

/-- Where a packet stands, as a destination index; an edge chiplet is row 52. -/
def Packet.at (p : Packet) : Nat :=
  match p.route with
  | none => indexOf p.src
  | some r => 52 * r.y + r.x

/-- A packet has come to its end of the fabric; one that has not departed has not, wherever it goes. -/
def Packet.came (p : Packet) : Bool := p.route.isSome && p.at == indexOf p.dst

/-! ### Homes of pieces (R180, R363) -/

/-- Whether a place is a home that numbers its requests. -/
def Place.numbered : Place → Bool
  | .hbm .. => true
  | .co .. => true
  | .walker _ => true
  | _ => false

/-- The home of a place for sequence numbers; places outside L2 and HBM have none. -/
def Place.home (s : State) : Place → Option Nat
  | .hbm pa msa => some (homeOf s pa msa)
  | .co p off => some (coHome s p off)
  | .walker page => some (walkerSlot page)
  | _ => none

/-- The bits m[1:0] of a place's line, which choose its mesh and lane (R341, R344); a carve-out line goes by its offset
(DEDUCED, log 14), and a walk by its virtual address (R344). -/
def Place.m : Place → BitVec 2
  | .hbm pa _ => BitVec.ofNat 2 (lineHash (pa / 128))
  | .co _ off => BitVec.ofNat 2 (lineHash (off / 128))
  | .walker page => BitVec.ofNat 2 (lineHash page)
  | _ => 0

/-- The number of a haul channel as a requester (R363). -/
def chanWho (cl ch : Nat) : Nat := 16384 + 4 * cl + ch

/-- The requester of a packet (R363): its interface, or the haul channel whose access of another module it is. -/
def Packet.who (p : Packet) : Nat := match p.body with
  | .farMem cl ch .. => chanWho cl ch
  | _ => p.src

/-- The number of a requester: a core's interface, an optical chiplet, or a haul channel (R363). -/
def Req.who (r : Req) : Nat :=
  match r.agent with
  | .haul cl ch => if 8192 ≤ r.core then r.core else chanWho cl ch
  | .header cl ch => chanWho cl ch
  | .walk who => who
  | _ => r.core

/-- The home that a packet's number belongs to: a core's interface (R363), for the combine class its combining router, whose
numbers do not hold the other classes back (R314) (DEDUCED, log 37), or for an access of another module that module's optical
chiplet. -/
def msgHome (dst : CoreId) : Nat := 65536 + dst
def Packet.home (p : Packet) : Nat := match p.body with
  | .farMem _ _ a _ _ => 262144 + fld a 55 48
  | _ => if p.tc = 3 then 131072 + p.dst else msgHome p.dst

/-- A number lies at or above the next expected one, within the 64 that may wait (R364). -/
def ahead (num expected : BitVec 16) : Bool := decide ((num - expected).toNat < 64)

/-- A number lies in the window of the 64 below the next expected one (R364). -/
def inWindow (num expected : BitVec 16) : Bool := decide ((expected - num).toNat ≤ 64) && num != expected

/-! ### Packets -/

/-- A packet enters an interface's queue for the fabric. -/
def addPacket (s : State) (p : Packet) : State := { s with net := s.net ++ [{ p with id := s.fresh }], fresh := s.fresh + 1 }

/-- A packet has left the fabric. -/
def dropPacket (s : State) (id : Nat) : State := { s with net := s.net.filter (·.id != id) }

/-- A request of one interface to another (R363): kept until its answer comes, and its first copy (DEDUCED, log 37). `far` is the module
for which a message leaves, and `m` the bits of the line of an access of another module. -/
def newPacket (s : State) (src dst : CoreId) (rank : BitVec 16) (tc : Nat) (body : Body) (mc : Option Nat) (far : Option Nat := none)
    (m : BitVec 2 := 0) : State :=
  let p : Packet := { id := s.fresh, src := src, dst := dst, rank := rank, tc := tc, body := body, mc := mc, orig := s.fresh,
                      far := far, m := m }
  addPacket { s with sent := s.sent ++ [{ pkt := p }] } p

/-- The entry of a numbered request. -/
def findSent (s : State) (orig : Nat) : Option Sent := s.sent.find? (·.pkt.orig = orig)
def updSent (s : State) (orig : Nat) (f : Sent → Sent) : State :=
  { s with sent := s.sent.map fun e => if e.pkt.orig = orig then f e else e }
def dropSent (s : State) (orig : Nat) : State := { s with sent := s.sent.filter (·.pkt.orig != orig) }

/-- An answer to a packet: it goes back on the mesh on which the request was injected (R344) (DEDUCED, log 54). -/
def answerPacket (s : State) (p : Packet) (body : Body) : State :=
  addPacket s { id := 0, src := p.dst, dst := p.src, rank := 0, tc := p.tc, body := body, orig := p.orig,
                via := p.route.map (·.inj) }

/-- A request has been performed at its end: its number is passed, its reply kept and sent, and the copy gone (R364). -/
def takePacket (s : State) (p : Packet) (body : Body := .ack) : State :=
  let s := dropPacket s p.id
  let s := { s with expects := pset s.expects (p.who, p.home) (p.num + 1) }
  answerPacket (updSent s p.orig fun e => { e with reply := some body }) p body

/-- A packet has reached its destination next in the order of its numbers, and is not held at the input (R205, R350,
R364). -/
def duePacket (s : State) (id : Nat) : Option Packet :=
  (s.net.find? (·.id = id)).filter fun p =>
    p.came && (p.orig = 0 || p.num == pget 0 s.expects (p.who, p.home)) && !(s.getCore p.dst).input.contains p.id

/-- An answer that has come back to its requester while the requester still waits for it; a later one is discarded
(R363); one that the interface makes itself has no entry. -/
def dueAnswer (s : State) (id : Nat) : Option Packet :=
  (s.net.find? (·.id = id)).filter fun p => p.came && (p.orig = 0 || (findSent s p.orig).isSome)

/-! ### Requests to memory and their answers -/

/-- A copy of piece `i` of a request leaves for the home of the piece. -/
def sendPiece (s : State) (r : Req) (i : Nat) (p : Piece) : State :=
  match p.dst.home s with
  | none => s
  | some h =>
    addPacket s { id := 0, src := r.core, dst := homeEnd s h, rank := 0, tc := 4, num := p.num, m := p.dst.m,
                  body := .memReq r.id i r.who p.home }

/-- The home answers piece `i`: data, an acknowledgement or a refusal, on the mesh of its request (R344). -/
def answerPiece (s : State) (r : Req) (i : Nat) (p : Piece) : State :=
  match p.dst.home s with
  | none => s
  | some h =>
    addPacket s { id := 0, src := homeEnd s h, dst := r.core, rank := 0, tc := 5, m := p.dst.m, via := p.via,
                  body := .memAns r.id i p.st p.data }

/-! ### Leaving an interface -/

/-- A piece before it has a number. -/
def mkPiece (va : Word) (dst : Place) (len : Nat) (mask data : BitVec 64) (bit : Int) : Piece :=
  { va := va, dst := dst, home := 0, num := 0, len := len, mask := mask, data := data, bit := bit, st := .waiting }

/-- A mask of the low `n` bits. -/
def lowMask (n : Nat) : BitVec 64 := BitVec.ofNat 64 (2 ^ n - 1)

/-- A request's pieces get their homes and sequence numbers, in order (R363). -/
def number (s : State) (who : Nat) : List Piece → State × List Piece
  | [] => (s, [])
  | p :: t =>
    match (if p.st = .waiting then p.dst.home s else none) with
    | none => let (s', t') := number s who t; (s', p :: t')
    | some h =>
      let n := pget 0 s.seqs (who, h)
      let (s', t') := number { s with seqs := pset s.seqs (who, h) (n + 1) } who t
      (s', { p with home := h, num := n } :: t')

/-- A request leaves its interface: its pieces get numbers, and a copy of each goes to its home. -/
def postReq (s : State) (r : Req) : State :=
  let (s, pieces) := number s r.who r.pieces
  let r := { r with pieces := pieces }
  (pieces.zipIdx).foldl (fun s (p, i) => if p.st = .waiting then sendPiece s r i p else s) { s with reqs := s.reqs ++ [r] }

/-! ### Walks (R179) -/

/-- The units that share their walks: those of one cluster, a basecamp core, an optical chiplet. -/
def walkGroup (c : CoreId) : Nat := if isBc c || 8192 ≤ c then c else clusterOf c

/-- A walk that a request asks for. -/
def isWalk (op : ReqOp) : Bool := op matches .walk _

/-- The walk of a group to a page under a root that is under way. -/
def openWalk (s : State) (group : Nat) (root : Word) (page : Nat) : Option Req :=
  s.reqs.find? fun r => r.op = .walk root && walkGroup r.core == group && r.pieces.any (·.dst = .walker page)

/-- The requester by whose number a unit's walk goes (R363). -/
def Asker.who : Asker → Nat
  | .chan cl ch => chanWho cl ch
  | u => u.core

/-- A unit awaits the translation of an address that its caches lack: it joins the walk of its cluster to the page, or sends one to
the walker of the page (R179). -/
def askWalk (s : State) (u : Asker) (root : Word) (va : Nat) : State :=
  let page := va / 65536
  let ask (s : State) (id : Nat) : State := { s with asks := s.asks ++ [{ unit := u, walk := id, root := root, page := page }] }
  if (asked s u root va).isSome then s
  else match openWalk s (walkGroup u.core) root page with
    | some r => ask s r.id
    | none => postReq { ask s s.fresh with fresh := s.fresh + 1 }
        { id := s.fresh, core := u.core, seat := 0, firing := 0, pc := 0, op := .walk root, agent := .walk u.who,
          pieces := [mkPiece (BitVec.ofNat 64 (page * 65536)) (.walker page) 8 0 0 0] }

end Sys2Proof.Machine
end

