-- ==== Sys2Proof/Machine/Issue.lean ====
section
/-! DEFINITION. How one instruction of a seat issues: the guard, the interlocks, early reads, acquire and release waits,
the repeat counter, the switch bit and the advance of the PC (R13, R20, R21, R25 to R27, R77, R78, R113 to R117, R143). -/

namespace Sys2Proof.Machine

/-- What one step answers. -/
abbrev Result := Host.Outcome State Fault Refusal

/-! ### Code store -/

/-- The parcel at an address. -/
def Core.parcel (k : Core) (a : Nat) : Parcel := tget 0 k.code a

/-- Two parcels as a 32-bit word (R12). -/
def Core.word (k : Core) (a : Nat) : BitVec 32 := k.parcel a ++ k.parcel (a + 1)

/-- The start-map bit of a parcel (R14). -/
def Core.starts (k : Core) (a : Nat) : Bool := k.start.contains a

/-- Whether a word is a repeat prefix by its major (R25, R31). -/
def isPrefix (w : BitVec 32) : Bool := w.getLsbD 31 && bits w 25 20 == 0x3C

/-- Whether the running seat stands at a prefix with iterations left (R27). -/
def repeating (s : State) : Bool := s.thisSeat.rpt != 0 && isPrefix (s.thisCore.word s.thisSeat.pc.toNat)

/-- The iteration that runs: n minus the repeat counter (R27). -/
def iteration (s : State) : Nat :=
  if repeating s then (bits (s.thisCore.word s.thisSeat.pc.toNat) 19 10).toNat + 1 - s.thisSeat.rpt.toNat else 0

/-- What the m flag adds, in units of the access size (R25). -/
def mStep (s : State) : Nat :=
  if repeating s && (s.thisCore.word s.thisSeat.pc.toNat).getLsbD 6 then iteration s else 0

/-! ### After an instruction -/

/-- The seat parks after an instruction with its switch bit set while `OUT` is above 0 (R21, R109). -/
def switched (sw : Bool) (t : Seat) : Seat := if sw && !t.outs.isEmpty then { t with status := .parked } else t

/-- Sequential advance by `len` parcels; beyond parcel 0xFFFF the bad-target trap of R13, with the address of the last instruction
executed: behind a prefix, the repeated one (`len` 4). With the switch bit the seat first parks until `OUT` is 0 (R21). -/
def advance (sw : Bool) (len : Nat) (s : State) : State :=
  let s := s.forget s.me
  let t := s.thisSeat
  let n := t.pc.toNat + len
  let last : Parcel := BitVec.ofNat 16 (t.pc.toNat + (len - 2))
  if n ≤ 0xFFFF then s.setThisSeat (switched sw { t with pc := BitVec.ofNat 16 n, rpt := 0 })
  else if sw && !t.outs.isEmpty then s.setThisSeat { t with status := .parked, pc := 0, rpt := 0, beyond := some last }
  else trapSeat (s.setThisSeat { t with rpt := 0 }) s.core s.seat.val 0x01 (last.setWidth 64) 0 0

/-- An instruction has completed its issue: an iteration lowers the repeat counter, and after the last one the PC passes
the prefix and its instruction (R25, R27) (DEDUCED, log 56). -/
def retire (sw : Bool) (len : Nat) (s : State) : State :=
  if repeating s then
    if s.thisSeat.rpt = 1 then advance sw 4 s else (s.forget s.me).updThisSeat fun t => { t with rpt := t.rpt - 1 }
  else advance sw len s

/-- A taken branch (R87). -/
def jump (sw : Bool) (target : BitVec 16) (s : State) : State :=
  (s.forget s.me).updThisSeat fun t => switched sw { t with pc := target, rpt := 0 }

/-- The running seat waits (R109). -/
def blocked (s : State) : State := s.updThisSeat fun t => { t with status := .blocked }

/-! ### Conditions of issue -/

/-- The registers an instruction reads and writes, and how it stands to the memory order (R143). -/
structure Uses where
  rx  : List (BitVec 5) := []
  rv  : List (BitVec 4) := []
  rp  : List (BitVec 3) := []
  wx  : List (BitVec 5) := []
  wv  : List (BitVec 4) := []
  wp  : List (BitVec 3) := []
  mem : Bool := false
  rel : Bool := false
  deriving DecidableEq, Repr

/-- The guard (R20). -/
def guardTrue (c : Ctl) (t : Seat) : Bool := t.getP c.gp != c.gn

/-- Writes to a register with a result outstanding wait, and so do reads of an outstanding predicate (R77, R78). -/
def interlocked (t : Seat) (u : Uses) : Bool :=
  u.wx.any t.pendX || u.wv.any t.pendV || u.wp.any t.pendP || u.rp.any t.pendP

/-- An acquire of the seat is outstanding (R143). -/
def acquiring (t : Seat) : Bool := t.outs.any (·.acq)

/-- Whether a request is an `fe` range event, which is no load or store. -/
def isRangeOp : ReqOp → Bool
  | .feFill => true
  | .feClr => true
  | _ => false

/-- The firing number of a seat. -/
def Seat.firingId (t : Seat) : Nat := (t.firing.map (·.id)).getD 0

/-- The requests of one seat, those of its earlier firings among them: their stores may still be under way (R143, R149,
R189). -/
def seatReqs (s : State) (c : CoreId) (n : Nat) : List Req :=
  s.reqs.filter fun r => r.agent = .seat && r.core = c && r.seat = n

/-- An earlier load or atomic has not returned, or an earlier store is not registered (R143). -/
def unreleased (s : State) (c : CoreId) (n : Nat) : Bool := (seatReqs s c n).any fun r => !isRangeOp r.op && r.op != .wb

/-- The register of an early read: x as 0 to 31, v as 32 to 47 (R115, R116). Of several outstanding ones the manual names none;
TRAP_VAL is the first in operand order, x registers before v (DESIGN CHOICE, log 74). -/
def earlyRead (s : State) (u : Uses) : Option Word :=
  if s.thisCore.dbgCtl.getLsbD 0 then
    match u.rx.find? s.thisSeat.pendX with
    | some r => some (r.setWidth 64)
    | none => (u.rv.find? s.thisSeat.pendV).map fun r => 32 + r.setWidth 64
  else none

/-- How the effect of an instruction ends: it goes on, branches, traps precisely (in `trapIn` with a part of its effect
kept), waits (in `walk` for the translation of an address), or leaves a state of its own (`done`). -/
inductive Act where
  | next (s : State)
  | goto (s : State) (target : BitVec 16)
  | trap (cause : BitVec 8) (val : Word)
  | trapIn (s : State) (cause : BitVec 8) (val : Word)
  | block
  | walk (va : Word)
  | stop (s : State)
  deriving DecidableEq, Repr

/-- The end of an instruction under its guard (the next free value after a trap is another one): an effect that would raise
`OUT` above 32 waits (R114). -/
def finish (sw : Bool) (len : Nat) (s : State) : Act → State
  | .next s' => if 32 < s'.thisSeat.out && s.thisSeat.out < s'.thisSeat.out then blocked s else retire sw len s'
  | .goto s' a => jump sw a s'
  | .trap cause val => precise s.ticked cause val
  | .trapIn s' cause val => precise s'.ticked cause val
  | .block => blocked s
  | .walk va => askWalk (blocked s) s.me s.thisCore.ttRoot (fld va 47 0)
  | .stop s' => s'

/-- An instruction issues (R20, R21, R30, R77, R78, R114 to R117, R143). -/
def issue (c : Ctl) (len : Nat) (u : Uses) (body : State → Act) (s : State) : Result :=
  let t := s.thisSeat
  .next <|
    if t.pendP c.gp then blocked s
    else if !guardTrue c t then retire c.sw len s
    else if interlocked t u || (u.mem && acquiring t) || (u.rel && unreleased s s.core s.seat.val) then blocked s
    else match earlyRead s u with
      | some r => precise s 0x04 r
      | none => finish c.sw len s (body s)

/-- A supervisor instruction: outside seat 7 the privilege trap, before the guard (R29, R30). -/
def issueS (word : BitVec 32) (c : Ctl) (u : Uses) (body : State → Act) (s : State) : Result :=
  if s.seat = 7 then issue c 2 u body s else .next (precise s 0x02 (word.setWidth 64))

/-! ### Results written at issue -/

/-- A scalar result of fixed latency (R77). -/
def putX (s : State) (d : BitVec 5) (w : Word) : Act := .next (s.updThisSeat fun t => t.setX d w)

/-- A vector result of fixed latency: data and tag, the sidecar kept (R61). -/
def putV (s : State) (d : BitVec 4) (tag : BitVec 4) (data : BitVec 4096) : Act :=
  .next (s.updThisSeat fun t => t.setV d { t.getV d with data := data, tag := tag })

/-- A mask result (R127, R132). -/
def putK (s : State) (d : BitVec 2) (w : BitVec 1024) : Act := .next (s.updThisSeat fun t => t.setK d w)

/-- `OUT` is raised by one operation (R114). -/
def raise (s : State) (target : Target) (acq : Bool) (what : Pending) (ans : Answer := .waiting) (left : List Nat := [0]) : State :=
  let s' := s.updThisSeat fun t =>
    { t with outs := t.outs ++ [⟨s.fresh, t.pc, target, acq, what, ans, left, t.rpt⟩] }
  { s' with fresh := s.fresh + 1 }

/-- The 32-bit form that a 16-bit form stands for: unguarded, with the same switch bit (R18). -/
def halfCtl (sw : Bool) : Ctl := ⟨sw, false, 7⟩

/-- The register x(8 + f) of a 16-bit form (R17). -/
def hx (f : BitVec 3) : BitVec 5 := 0b01#2 ++ f

end Sys2Proof.Machine
end

