-- ==== Sys2Proof/Machine/Num.lean ====
section
/-! DEFINITION. Number formats and exact arithmetic (02_number_formats.md): decoding to exact values, one rounding. -/

namespace Sys2Proof.Machine

/-- An exact value: NaN, an infinity, or (-1)^neg * m * 2^e with a signed zero. -/
inductive Val where
  | nan
  | inf (neg : Bool)
  | fin (neg : Bool) (m : Nat) (e : Int)
  deriving DecidableEq, Repr

/-- A floating element format (R55): fraction and exponent widths, bias, the largest finite pattern, the canonical
NaN (R56), and whether it has infinities. -/
structure FFmt where
  eb : Nat
  fb : Nat
  bias : Nat
  maxFin : Nat
  nan : Nat
  hasInf : Bool
  deriving DecidableEq, Repr

abbrev FFmt.width (f : FFmt) : Nat := 1 + f.eb + f.fb

def fmtF32  : FFmt := ⟨8, 23, 127, 0x7F7FFFFF, 0x7FC00000, true⟩
def fmtF16  : FFmt := ⟨5, 10, 15, 0x7BFF, 0x7E00, true⟩
def fmtBf16 : FFmt := ⟨8, 7, 127, 0x7F7F, 0x7FC0, true⟩
def fmtE4m3 : FFmt := ⟨4, 3, 7, 0x7E, 0x7F, false⟩
def fmtE5m2 : FFmt := ⟨5, 2, 15, 0x7B, 0x7E, true⟩

/-- The biased exponent field of a pattern. -/
def expField (f : FFmt) (b : Nat) : Nat := b / 2 ^ f.fb % 2 ^ f.eb

/-- The fraction field of a pattern. -/
def fracField (f : FFmt) (b : Nat) : Nat := b % 2 ^ f.fb

/-- The sign of a pattern. -/
def signField (f : FFmt) (b : Nat) : Bool := b / 2 ^ (f.eb + f.fb) % 2 == 1

/-- The exact value of a pattern (R55). -/
def decodeF (f : FFmt) (b : Nat) : Val :=
  let e := expField f b
  let m := fracField f b
  let neg := signField f b
  let top := e == 2 ^ f.eb - 1
  if top && f.hasInf then (if m == 0 then .inf neg else .nan)
  else if top && m == 2 ^ f.fb - 1 then .nan
  else if e == 0 then .fin neg m (1 - (f.bias : Int) - f.fb)
  else .fin neg (2 ^ f.fb + m) ((e : Int) - f.bias - f.fb)

/-- Rounding to nearest with ties to even, or toward zero. -/
inductive Rnd where
  | ne | tz
  deriving DecidableEq, Repr

/-- `m * 2^(-sh)` rounded to an integer. -/
def roundShift (r : Rnd) (m sh : Nat) : Nat :=
  let q := m / 2 ^ sh
  let rem := m % 2 ^ sh
  match r with
  | .tz => q
  | .ne => if 2 * rem > 2 ^ sh || (2 * rem == 2 ^ sh && q % 2 == 1) then q + 1 else q

/-- The integer nearest to `m * 2^e` under `r`. -/
def roundInt (r : Rnd) (m : Nat) (e : Int) : Nat :=
  if 0 ≤ e then m * 2 ^ e.toNat else roundShift r m (-e).toNat

/-- The pattern without sign of `m * 2^e`, exponent range unbounded above (R68 step 1): a result above `maxFin`
has overflowed. -/
def magBits (f : FFmt) (r : Rnd) (m : Nat) (e : Int) : Nat :=
  if m == 0 then 0 else
  let qmin : Int := 1 - (f.bias : Int) - f.fb
  let q : Int := max ((m.log2 : Int) + e - f.fb) qmin
  let mr := if q ≤ e then m * 2 ^ (e - q).toNat else roundShift r m (q - e).toNat
  (q - qmin).toNat * 2 ^ f.fb + mr

/-- How a conversion rounds and treats overflow: modes 0 to 2 of R68. -/
inductive CvtMode where
  | sat | inf | tz
  deriving DecidableEq, Repr

def cvtRnd : CvtMode → Rnd
  | .sat => .ne
  | .inf => .ne
  | .tz => .tz

/-- The infinity of a format, or its NaN where it has none. -/
def infBits (f : FFmt) (neg : Bool) : Nat :=
  if f.hasInf then (if neg then 2 ^ (f.eb + f.fb) else 0) + (2 ^ f.eb - 1) * 2 ^ f.fb else f.nan

/-- Encoding of an exact value (R68). -/
def encodeF (f : FFmt) (mode : CvtMode) (v : Val) : Nat :=
  let sgn (neg : Bool) := if neg then 2 ^ (f.eb + f.fb) else 0
  match v with
  | .nan => f.nan
  | .inf neg => if f.hasInf || mode == .inf then infBits f neg else sgn neg + f.maxFin
  | .fin neg m e =>
    let b := magBits f (cvtRnd mode) m e
    if b ≤ f.maxFin then sgn neg + b
    else if mode == .inf then infBits f neg else sgn neg + f.maxFin

/-- The result pattern of an arithmetic instruction: nearest even, overflow to infinity (R64). -/
def roundF (f : FFmt) (v : Val) : Nat := encodeF f .inf v

/-- Exact sum (R64, R65). -/
def addV : Val → Val → Val
  | .nan, _ => .nan
  | _, .nan => .nan
  | .inf a, .inf b => if a == b then .inf a else .nan
  | .inf a, .fin .. => .inf a
  | .fin .., .inf b => .inf b
  | .fin na ma ea, .fin nb mb eb =>
    let e := min ea eb
    let ia : Int := (ma * 2 ^ (ea - e).toNat : Nat)
    let ib : Int := (mb * 2 ^ (eb - e).toNat : Nat)
    let s := (if na then -ia else ia) + (if nb then -ib else ib)
    if s == 0 then .fin (na && nb) 0 e else .fin (decide (s < 0)) s.natAbs e

def negV : Val → Val
  | .nan => .nan
  | .inf a => .inf (!a)
  | .fin n m e => .fin (!n) m e

/-- Exact product (R64). -/
def mulV : Val → Val → Val
  | .nan, _ => .nan
  | _, .nan => .nan
  | .inf a, .inf b => .inf (a != b)
  | .inf a, .fin b m _ => if m == 0 then .nan else .inf (a != b)
  | .fin a m _, .inf b => if m == 0 then .nan else .inf (a != b)
  | .fin na ma ea, .fin nb mb eb => .fin (na != nb) (ma * mb) (ea + eb)

/-- Quotient with a last bit that stands for the remainder, precise enough for one rounding to any format (R64). -/
def divV : Val → Val → Val
  | .nan, _ => .nan
  | _, .nan => .nan
  | .inf _, .inf _ => .nan
  | .inf a, .fin b .. => .inf (a != b)
  | .fin a .., .inf b => .fin (a != b) 0 0
  | .fin na ma ea, .fin nb mb eb =>
    if mb == 0 then (if ma == 0 then .nan else .inf (na != nb))
    else
      let k := mb.log2 + 32
      let q := ma * 2 ^ k / mb
      let r := ma * 2 ^ k % mb
      .fin (na != nb) (2 * q + (if r == 0 then 0 else 1)) (ea - eb - k - 1)

/-- Integer square root, one bit at a time from bit `k`. -/
def isqrtFrom : Nat → Nat → Nat → Nat
  | 0, n, acc => if (acc + 1) * (acc + 1) ≤ n then acc + 1 else acc
  | k + 1, n, acc =>
    let t := acc + 2 ^ (k + 1)
    isqrtFrom k n (if t * t ≤ n then t else acc)

def isqrt (n : Nat) : Nat := isqrtFrom (n.log2 / 2) n 0

/-- Square root with a last bit for the remainder (R64, R90). -/
def sqrtV : Val → Val
  | .nan => .nan
  | .inf neg => if neg then .nan else .inf false
  | .fin neg m e =>
    if m == 0 then .fin neg 0 e
    else if neg then .nan
    else
      let sh := 64 + (e % 2).toNat
      let n := m * 2 ^ sh
      let s := isqrt n
      .fin false (2 * s + (if s * s == n then 0 else 1)) ((e - sh) / 2 - 1)

/-- `a * b + d` before its one rounding. -/
def fmaV (a b d : Val) : Val := addV (mulV a b) d

/-- Rounded to an integral value, ties to even, the sign of a zero kept (R91). -/
def rintV : Val → Val
  | .fin neg m e => if 0 ≤ e then .fin neg m e else .fin neg (roundInt .ne m e) 0
  | v => v

/-- An exact value as an integer times 2^e, with an infinity beyond every finite value: `none` for NaN. -/
def ltV : Val → Val → Bool
  | .nan, _ => false
  | _, .nan => false
  | .inf a, .inf b => a && !b
  | .inf a, .fin .. => a
  | .fin .., .inf b => !b
  | .fin na ma ea, .fin nb mb eb =>
    let e := min ea eb
    let ia : Int := (ma * 2 ^ (ea - e).toNat : Nat)
    let ib : Int := (mb * 2 ^ (eb - e).toNat : Nat)
    decide ((if na then -ia else ia) < (if nb then -ib else ib))

/-- Equal as values: -0 equals +0, NaN equals nothing (R85). -/
def eqV (a b : Val) : Bool := a != .nan && b != .nan && !ltV a b && !ltV b a

def isNan (v : Val) : Bool := v == .nan

def isNegZero : Val → Bool
  | .fin neg m _ => neg && m == 0
  | _ => false

/-- The smaller value of R65: -0 below +0, one NaN gives the other operand. -/
def minV (a b : Val) : Val :=
  if isNan a then b else if isNan b then a
  else if ltV a b then a else if ltV b a then b
  else if isNegZero a then a else b

/-- The larger value of R65. -/
def maxV (a b : Val) : Val :=
  if isNan a then b else if isNan b then a
  else if ltV a b then b else if ltV b a then a
  else if isNegZero a then b else a

/-- Two-operand arithmetic on patterns of one format. -/
def arithF (f : FFmt) (op : Val → Val → Val) (a b : Nat) : Nat := roundF f (op (decodeF f a) (decodeF f b))

def addF (f : FFmt) : Nat → Nat → Nat := arithF f addV
def subF (f : FFmt) : Nat → Nat → Nat := arithF f fun a b => if isNan b then .nan else addV a (negV b)
def mulF (f : FFmt) : Nat → Nat → Nat := arithF f mulV
def divF (f : FFmt) : Nat → Nat → Nat := arithF f divV
def minF (f : FFmt) : Nat → Nat → Nat := arithF f minV
def maxF (f : FFmt) : Nat → Nat → Nat := arithF f maxV
def fmaF (f : FFmt) (a b d : Nat) : Nat := roundF f (fmaV (decodeF f a) (decodeF f b) (decodeF f d))
def sqrtF (f : FFmt) (a : Nat) : Nat := roundF f (sqrtV (decodeF f a))
def rintF (f : FFmt) (a : Nat) : Nat := roundF f (rintV (decodeF f a))

/-- The class record of R91 of a pattern. -/
def classF (f : FFmt) (a : Nat) : Nat :=
  let e := expField f a
  let code := match decodeF f a with
    | .nan => 4
    | .inf _ => 3
    | .fin _ m _ => if m == 0 then 0 else if e == 0 then 1 else 2
  e * 256 + (if signField f a then 8 else 0) + code

/-- A value clamped to `lo .. hi` as an integer, NaN giving 0 (R69, R71). -/
def toIntV (r : Rnd) (lo hi : Int) : Val → Int
  | .nan => 0
  | .inf neg => if neg then lo else hi
  | .fin neg m e =>
    let n : Int := roundInt r m e
    max lo (min hi (if neg then -n else n))

/-- An integer as an exact value; 0 is +0. -/
def ofIntV (i : Int) : Val := .fin (decide (i < 0)) i.natAbs 0

/-- Low `w` bits of `n` read as signed. -/
def sxt (w n : Nat) : Int := if n % 2 ^ w < 2 ^ (w - 1) then (n % 2 ^ w : Nat) else (n % 2 ^ w : Nat) - (2 ^ w : Nat)

/-- An integer modulo 2^w. -/
def wrap (w : Nat) (i : Int) : Nat := (i % (2 ^ w : Nat)).toNat

end Sys2Proof.Machine
end

