-- ==== Sys2Proof/Machine/Operands.lean ====
section
/-! DEFINITION. Operand forms: immediates and offsets (R18, R23, R33), memory addresses (R92), bit fields (R81), vector
elements and masks (R57, R60), format tags (R55 to R60). -/

namespace Sys2Proof.Machine

/-! ### Immediates and addresses -/

/-- A sign-extended immediate (R23). -/
def simm {n : Nat} (i : BitVec n) : Word := i.signExtend 64

/-- An unsigned immediate. -/
def uimm {n : Nat} (i : BitVec n) : Word := i.setWidth 64

/-- The effective address of an M instruction: the offset counts units of `size`, plus the steps of the m flag (R25,
R92). -/
def effAddr (s : State) (a : BitVec 5) (o : BitVec 8) (size : Nat) : Word :=
  s.thisSeat.getX a + simm o * BitVec.ofNat 64 size + BitVec.ofNat 64 (mStep s * size)

/-- The base of a vector access with the steps of the m flag (R25). -/
def vecBase (s : State) (a : BitVec 5) (size : Nat) : Word := s.thisSeat.getX a + BitVec.ofNat 64 (mStep s * size)

/-- The target of a branch as an integer (R87). -/
def branchTarget {n : Nat} (pc : Parcel) (o : BitVec n) : Int := (pc.toNat : Int) + o.toInt

/-- The low bits of a register as a number. -/
def low (w : Word) (n : Nat) : Nat := w.toNat % 2 ^ n

/-- Bits `hi` to `lo` of a word sign-extended from `n` bits (`sext(v, w)` of R80). -/
def sext (n : Nat) (v : Word) : Word := (v.setWidth n).signExtend 64

/-! ### Bit fields (R81) -/

/-- The width of a field at `pos` with encoded length `len`. -/
def fieldWidth (b : Word) : Nat :=
  let pos := fld b 5 0
  let len := if fld b 13 8 = 0 then 64 else fld b 13 8
  min len (64 - pos)

/-- The field of `a` that `b` describes, zero-extended. -/
def extractField (a b : Word) : Word := BitVec.ofNat 64 (a.toNat / 2 ^ fld b 5 0 % 2 ^ fieldWidth b)

/-- The field sign-extended. -/
def extractFieldS (a b : Word) : Word := BitVec.ofInt 64 (sxt (fieldWidth b) (extractField a b).toNat)

/-- `d` with the field replaced by the low bits of `a`. -/
def insertField (d a b : Word) : Word :=
  let m : Word := BitVec.ofNat 64 ((2 ^ fieldWidth b - 1) * 2 ^ fld b 5 0)
  (d &&& ~~~m) ||| ((a <<< fld b 5 0) &&& m)

/-! ### Vector elements -/

/-- Element width of a format tag (R60); tags 13 to 15 name no format (DESIGN CHOICE, log 47). -/
def tagWidth (tag : BitVec 4) : Nat :=
  match tag.toNat with
  | 1 => 8 | 2 => 16 | 3 => 32 | 4 => 16 | 5 => 16 | 6 => 32 | 7 => 8 | 8 => 8 | 9 => 4 | 10 => 4 | 11 => 8 | 12 => 4
  | _ => 8

/-- Elements in a register of width `w`. -/
abbrev count (w : Nat) : Nat := 4096 / w

/-- The tag of a ty field (R62). -/
def tyTag (t : BitVec 3) : BitVec 4 := t.setWidth 4 + 1

/-- The element width of a ty field. -/
def tyWidth (t : BitVec 3) : Nat := tagWidth (tyTag t)

/-- The floating format of a ty field of a V layout. -/
def tyFmt (t : BitVec 3) : FFmt := if t = 3 then fmtF16 else if t = 4 then fmtBf16 else fmtF32

/-- The floating format of a scalar type field (R37). -/
def scalarFmt (t : BitVec 2) : FFmt := if t = 0 then fmtF32 else if t = 1 then fmtF16 else fmtBf16

/-- Element `i` of width `w` (R60). -/
def elem (w : Nat) (v : BitVec 4096) (i : Nat) : Nat := v.toNat / 2 ^ (w * i) % 2 ^ w

/-- Elements of width `w` as one number, the first lowest. -/
def pack (w : Nat) : List Nat → Nat
  | [] => 0
  | e :: t => e % 2 ^ w + 2 ^ w * pack w t

/-- Register data from its elements. -/
def ofElems (w : Nat) (es : List Nat) : BitVec 4096 := BitVec.ofNat 4096 (pack w es)

/-- Register data with element `i` given by a function. -/
def build (w : Nat) (f : Nat → Nat) : BitVec 4096 := ofElems w ((List.range (count w)).map f)

/-- Element-wise results under a mask: an inactive element keeps its old bits (R123). -/
def merge (w : Nat) (k : BitVec 1024) (old : BitVec 4096) (f : Nat → Nat) : BitVec 4096 :=
  build w fun i => if k.getLsbD i then f i else elem w old i

/-- The bits of the active elements of a mask, for elements of width `w`. -/
def activeBits (w : Nat) (k : BitVec 1024) : BitVec 4096 := build w fun i => if k.getLsbD i then 2 ^ w - 1 else 0

/-- The sidecar byte of block `b`. -/
def scaleByte (sc : BitVec 256) (b : Nat) : Nat := sc.toNat / 2 ^ (8 * b) % 256

/-- A vector source read as type ty: its tag must be that of ty or raw (R62). The trap value names the register in
bits 15..8 and the tag found in bits 3..0; its other bits, of which R62 and R375 say nothing, are 0 (DESIGN CHOICE, log 86). -/
def tagFault (t : Seat) (ty : BitVec 3) (r : BitVec 4) : Option Word :=
  let tag := (t.getV r).tag
  if tag = 0 || tag = tyTag ty then none
  else some ((32 + r.setWidth 64) <<< 8 ||| tag.setWidth 64)

/-- The format trap (R62, R375). -/
def formatTrap (r tag : BitVec 4) : Act := .trap 0x03 ((32 + r.setWidth 64) <<< 8 ||| tag.setWidth 64)

/-- The first of several vector sources that fails its tag check, in the order va, vb, vd, and of a group from its first register:
the manual gives no order, and TRAP_VAL names that register (DESIGN CHOICE, log 74). -/
def tagFaults (t : Seat) (ty : BitVec 3) (rs : List (BitVec 4)) : Option Word := rs.findSome? (tagFault t ty)

/-- A mask result from a condition per element; bits from the element count up are 0 (R127). -/
def maskOf (n : Nat) (f : Nat → Bool) : BitVec 1024 :=
  BitVec.ofNat 1024 (pack 1 ((List.range n).map fun i => (f i).toNat))

end Sys2Proof.Machine
end

