-- ==== Sys2Proof/Machine/Flags.lean ====
section
/-! DEFINITION. Conditions: integer, floating and vector compares, and the predicates they write (R34, R84 to R86, R127).
The instruction set has no other flags (R64). -/

namespace Sys2Proof.Machine

/-- The integer conditions of R84. -/
inductive Cond where
  | eq | ne | lt | ge | ltu | geu | le | gt | leu | gtu | tst
  deriving DecidableEq, Repr

/-- When an integer condition holds. -/
def Cond.holds (c : Cond) (a b : Word) : Bool :=
  match c with
  | .eq => a == b
  | .ne => a != b
  | .lt => a.slt b
  | .ge => !a.slt b
  | .ltu => a.ult b
  | .geu => !a.ult b
  | .le => a.sle b
  | .gt => !a.sle b
  | .leu => a.ule b
  | .gtu => !a.ule b
  | .tst => a &&& b != 0

/-- The floating conditions of R85. -/
inductive FCond where
  | eq | lt | le | un
  deriving DecidableEq, Repr

/-- When a floating condition holds between two patterns. -/
def FCond.holds (c : FCond) (f : FFmt) (a b : Nat) : Bool :=
  let x := decodeF f a
  let y := decodeF f b
  match c with
  | .eq => eqV x y
  | .lt => ltV x y
  | .le => ltV x y || eqV x y
  | .un => isNan x || isNan y

/-- A compare writes its condition to pd and the complement to pe (R34). -/
def putCond (s : State) (p e : BitVec 3) (b : Bool) : Act := .next (s.updThisSeat fun t => (t.setP p b).setP e (!b))

/-- The vector conditions of R127. -/
inductive VCond where
  | eq | ne | lt | le | ltu | leu | un
  deriving DecidableEq, Repr

/-- When a vector condition holds between two elements of type ty. -/
def VCond.holds (c : VCond) (t : BitVec 3) (a b : Nat) : Bool :=
  let w := tyWidth t
  if t.toNat ≤ 2 then
    match c with
    | .eq => a == b
    | .ne => a != b
    | .lt => decide (sxt w a < sxt w b)
    | .le => decide (sxt w a ≤ sxt w b)
    | .ltu => decide (a < b)
    | .leu => decide (a ≤ b)
    | .un => false
  else
    let f := tyFmt t
    match c with
    | .eq => FCond.eq.holds f a b
    | .ne => !FCond.eq.holds f a b
    | .lt => FCond.lt.holds f a b
    | .le => FCond.le.holds f a b
    | .ltu => false
    | .leu => false
    | .un => FCond.un.holds f a b

end Sys2Proof.Machine
end

