-- ==== Sys2Proof/Machine/Alu.lean ====
section
/-! DEFINITION. Integer instructions: ALU, multiply and divide, bit fields, immediates, and their 16-bit forms (R18, R32,
R33, R79 to R83). -/

namespace Sys2Proof.Machine

/-! ### Shapes -/

/-- xd from xa and xb. -/
def alu (c : Ctl) (len : Nat) (d a b : BitVec 5) (f : Word → Word → Word) (s : State) : Result :=
  issue c len { rx := [a, b], wx := [d] } (fun s => putX s d (f (s.thisSeat.getX a) (s.thisSeat.getX b))) s

/-- xd from xa alone. -/
def alu1 (c : Ctl) (len : Nat) (d a : BitVec 5) (f : Word → Word) (s : State) : Result :=
  issue c len { rx := [a], wx := [d] } (fun s => putX s d (f (s.thisSeat.getX a))) s

/-- xd from xd, xa and xb. -/
def alu3 (c : Ctl) (len : Nat) (d a b : BitVec 5) (f : Word → Word → Word → Word) (s : State) : Result :=
  issue c len { rx := [a, b, d], wx := [d] }
    (fun s => putX s d (f (s.thisSeat.getX d) (s.thisSeat.getX a) (s.thisSeat.getX b))) s

/-- xd from an immediate alone. -/
def aluImm (c : Ctl) (len : Nat) (d : BitVec 5) (w : Word) (s : State) : Result :=
  issue c len { wx := [d] } (fun s => putX s d w) s

/-! ### Results (R79, R80) -/

def andnW (a b : Word) : Word := a &&& ~~~b
def ornW (a b : Word) : Word := a ||| ~~~b
def xnorW (a b : Word) : Word := ~~~(a ^^^ b)
/-- Shifts and rotates take b[5:0] (R79). -/
def sllW (a b : Word) : Word := a <<< fld b 5 0
def srlW (a b : Word) : Word := a >>> fld b 5 0
def sraW (a b : Word) : Word := a.sshiftRight (fld b 5 0)
def rolW (a b : Word) : Word := a.rotateLeft (fld b 5 0)
def rorW (a b : Word) : Word := a.rotateRight (fld b 5 0)
def minW (a b : Word) : Word := if b.slt a then b else a
def maxW (a b : Word) : Word := if a.slt b then b else a
def minuW (a b : Word) : Word := if b.ult a then b else a
def maxuW (a b : Word) : Word := if a.ult b then b else a
def addwW (a b : Word) : Word := sext 32 (a + b)
def subwW (a b : Word) : Word := sext 32 (a - b)
/-- The high half of the signed product: floor (s(a) * s(b) / 2^64). -/
def mulhiW (a b : Word) : Word := BitVec.ofInt 64 ((a.toInt * b.toInt).fdiv (2 ^ 64))
def mulhiuW (a b : Word) : Word := BitVec.ofNat 64 (a.toNat * b.toNat / 2 ^ 64)
def mul32W (a b : Word) : Word := sext 32 (BitVec.ofNat 64 (fld a 31 0 * fld b 31 0))
/-- A value clamped to the signed 64-bit range. -/
def clamp64 (i : Int) : Int := max (-2 ^ 63) (min (2 ^ 63 - 1) i)
/-- Signed division: a zero divisor gives the extreme on the side of the dividend's sign, overflow clamps (R80). -/
def divW (a b : Word) : Word :=
  if b = 0 then (if 0 ≤ a.toInt then 0x7FFFFFFFFFFFFFFF else 0x8000000000000000)
  else BitVec.ofInt 64 (clamp64 (a.toInt.tdiv b.toInt))
def divuW (a b : Word) : Word := if b = 0 then 0xFFFFFFFFFFFFFFFF else BitVec.ofNat 64 (a.toNat / b.toNat)
def remW (a b : Word) : Word := if b = 0 then a else BitVec.ofInt 64 (a.toInt - b.toInt * a.toInt.tdiv b.toInt)
def remuW (a b : Word) : Word := if b = 0 then a else BitVec.ofNat 64 (a.toNat - b.toNat * (a.toNat / b.toNat))
/-- Leading zeros: 64 minus the bit length. -/
def lzcW (a : Word) : Word := if a = 0 then 64 else BitVec.ofNat 64 (63 - a.toNat.log2)
/-- Trailing zeros, by the lowest set bit. -/
def tzcW (a : Word) : Word := if a = 0 then 64 else BitVec.ofNat 64 ((a &&& -a).toNat.log2)
def onesW (a : Word) : Word := BitVec.ofNat 64 ((List.range 64).foldr (fun i n => (a.getLsbD i).toNat + n) 0)
def bswapW (a : Word) : Word :=
  a.extractLsb' 0 8 ++ a.extractLsb' 8 8 ++ a.extractLsb' 16 8 ++ a.extractLsb' 24 8 ++ a.extractLsb' 32 8 ++
    a.extractLsb' 40 8 ++ a.extractLsb' 48 8 ++ a.extractLsb' 56 8
/-- `tag` replaces the top byte (R33, R82). -/
def tagW (i : BitVec 8) (a : Word) : Word := i ++ a.extractLsb' 0 56
/-- `lis` shifts 15 bits in (R83). -/
def lisW (i : BitVec 15) (d : Word) : Word := (d <<< (15 : Nat)) ||| uimm i

/-! ### Register forms -/

/-- `add` (R79). -/
def execAdd (c : Ctl) (d a b : BitVec 5) (s : State) : Result := alu c 2 d a b (fun a b => a + b) s
/-- `sub` (R79). -/
def execSub (c : Ctl) (d a b : BitVec 5) (s : State) : Result := alu c 2 d a b (fun a b => a - b) s
/-- `and` (R79). -/
def execAnd (c : Ctl) (d a b : BitVec 5) (s : State) : Result := alu c 2 d a b (fun a b => a &&& b) s
/-- `or` (R79). -/
def execOr (c : Ctl) (d a b : BitVec 5) (s : State) : Result := alu c 2 d a b (fun a b => a ||| b) s
/-- `xor` (R79). -/
def execXor (c : Ctl) (d a b : BitVec 5) (s : State) : Result := alu c 2 d a b (fun a b => a ^^^ b) s
/-- `andn` (R79). -/
def execAndn (c : Ctl) (d a b : BitVec 5) (s : State) : Result := alu c 2 d a b andnW s
/-- `orn` (R79). -/
def execOrn (c : Ctl) (d a b : BitVec 5) (s : State) : Result := alu c 2 d a b ornW s
/-- `xnor` (R79). -/
def execXnor (c : Ctl) (d a b : BitVec 5) (s : State) : Result := alu c 2 d a b xnorW s
/-- `sll` (R79). -/
def execSll (c : Ctl) (d a b : BitVec 5) (s : State) : Result := alu c 2 d a b sllW s
/-- `srl` (R79). -/
def execSrl (c : Ctl) (d a b : BitVec 5) (s : State) : Result := alu c 2 d a b srlW s
/-- `sra` (R79). -/
def execSra (c : Ctl) (d a b : BitVec 5) (s : State) : Result := alu c 2 d a b sraW s
/-- `rol` (R79). -/
def execRol (c : Ctl) (d a b : BitVec 5) (s : State) : Result := alu c 2 d a b rolW s
/-- `ror` (R79). -/
def execRor (c : Ctl) (d a b : BitVec 5) (s : State) : Result := alu c 2 d a b rorW s
/-- `min` (R79). -/
def execMin (c : Ctl) (d a b : BitVec 5) (s : State) : Result := alu c 2 d a b minW s
/-- `max` (R79). -/
def execMax (c : Ctl) (d a b : BitVec 5) (s : State) : Result := alu c 2 d a b maxW s
/-- `minu` (R79). -/
def execMinu (c : Ctl) (d a b : BitVec 5) (s : State) : Result := alu c 2 d a b minuW s
/-- `maxu` (R79). -/
def execMaxu (c : Ctl) (d a b : BitVec 5) (s : State) : Result := alu c 2 d a b maxuW s
/-- `addw` (R79). -/
def execAddw (c : Ctl) (d a b : BitVec 5) (s : State) : Result := alu c 2 d a b addwW s
/-- `subw` (R79). -/
def execSubw (c : Ctl) (d a b : BitVec 5) (s : State) : Result := alu c 2 d a b subwW s
/-- `mul` (R80). -/
def execMul (c : Ctl) (d a b : BitVec 5) (s : State) : Result := alu c 2 d a b (fun a b => a * b) s
/-- `mulhi` (R80). -/
def execMulhi (c : Ctl) (d a b : BitVec 5) (s : State) : Result := alu c 2 d a b mulhiW s
/-- `mulhiu` (R80). -/
def execMulhiu (c : Ctl) (d a b : BitVec 5) (s : State) : Result := alu c 2 d a b mulhiuW s
/-- `mul32` (R80). -/
def execMul32 (c : Ctl) (d a b : BitVec 5) (s : State) : Result := alu c 2 d a b mul32W s
/-- `div` (R80). -/
def execDiv (c : Ctl) (d a b : BitVec 5) (s : State) : Result := alu c 2 d a b divW s
/-- `divu` (R80). -/
def execDivu (c : Ctl) (d a b : BitVec 5) (s : State) : Result := alu c 2 d a b divuW s
/-- `rem` (R80). -/
def execRem (c : Ctl) (d a b : BitVec 5) (s : State) : Result := alu c 2 d a b remW s
/-- `remu` (R80). -/
def execRemu (c : Ctl) (d a b : BitVec 5) (s : State) : Result := alu c 2 d a b remuW s
/-- `lzc` (R80). -/
def execLzc (c : Ctl) (d a : BitVec 5) (s : State) : Result := alu1 c 2 d a lzcW s
/-- `tzc` (R80). -/
def execTzc (c : Ctl) (d a : BitVec 5) (s : State) : Result := alu1 c 2 d a tzcW s
/-- `ones` (R80). -/
def execOnes (c : Ctl) (d a : BitVec 5) (s : State) : Result := alu1 c 2 d a onesW s
/-- `bswap` (R80). -/
def execBswap (c : Ctl) (d a : BitVec 5) (s : State) : Result := alu1 c 2 d a bswapW s
/-- `exts.b` (R80). -/
def execExtsB (c : Ctl) (d a : BitVec 5) (s : State) : Result := alu1 c 2 d a (sext 8) s
/-- `exts.h` (R80). -/
def execExtsH (c : Ctl) (d a : BitVec 5) (s : State) : Result := alu1 c 2 d a (sext 16) s
/-- `exts.w` (R80). -/
def execExtsW (c : Ctl) (d a : BitVec 5) (s : State) : Result := alu1 c 2 d a (sext 32) s
/-- `extz.w` (R80). -/
def execExtzW (c : Ctl) (d a : BitVec 5) (s : State) : Result := alu1 c 2 d a (fun a => BitVec.ofNat 64 (fld a 31 0)) s
/-- `bfx` (R81). -/
def execBfx (c : Ctl) (d a b : BitVec 5) (s : State) : Result := alu c 2 d a b extractField s
/-- `bfxs` (R81). -/
def execBfxs (c : Ctl) (d a b : BitVec 5) (s : State) : Result := alu c 2 d a b extractFieldS s
/-- `bfi` reads xd as its third source (R81). -/
def execBfi (c : Ctl) (d a b : BitVec 5) (s : State) : Result := alu3 c 2 d a b insertField s

/-! ### Immediate forms -/

/-- `addi` (R82). -/
def execAddi (c : Ctl) (d a : BitVec 5) (i : BitVec 10) (s : State) : Result := alu1 c 2 d a (fun a => a + simm i) s
/-- `andi` (R82). -/
def execAndi (c : Ctl) (d a : BitVec 5) (i : BitVec 10) (s : State) : Result := alu1 c 2 d a (fun a => a &&& simm i) s
/-- `ori` (R82). -/
def execOri (c : Ctl) (d a : BitVec 5) (i : BitVec 10) (s : State) : Result := alu1 c 2 d a (fun a => a ||| simm i) s
/-- `xori` (R82). -/
def execXori (c : Ctl) (d a : BitVec 5) (i : BitVec 10) (s : State) : Result := alu1 c 2 d a (fun a => a ^^^ simm i) s
/-- `slli` (R82). -/
def execSlli (c : Ctl) (d a : BitVec 5) (i : BitVec 6) (s : State) : Result := alu1 c 2 d a (fun a => sllW a (uimm i)) s
/-- `srli` (R82). -/
def execSrli (c : Ctl) (d a : BitVec 5) (i : BitVec 6) (s : State) : Result := alu1 c 2 d a (fun a => srlW a (uimm i)) s
/-- `srai` (R82). -/
def execSrai (c : Ctl) (d a : BitVec 5) (i : BitVec 6) (s : State) : Result := alu1 c 2 d a (fun a => sraW a (uimm i)) s
/-- `rori` (R82). -/
def execRori (c : Ctl) (d a : BitVec 5) (i : BitVec 6) (s : State) : Result := alu1 c 2 d a (fun a => rorW a (uimm i)) s
/-- `tag` (R82). -/
def execTag (c : Ctl) (d a : BitVec 5) (i : BitVec 8) (s : State) : Result := alu1 c 2 d a (tagW i) s
/-- `li` (R83). -/
def execLi (c : Ctl) (d : BitVec 5) (i : BitVec 15) (s : State) : Result := aluImm c 2 d (simm i) s
/-- `lis` reads xd (R83). -/
def execLis (c : Ctl) (d : BitVec 5) (i : BitVec 15) (s : State) : Result := alu1 c 2 d d (lisW i) s

/-! ### 16-bit forms (R18) -/

/-- `h.li` is `li`. -/
def execHLi (sw : Bool) (d : BitVec 3) (i : BitVec 6) (s : State) : Result := aluImm (halfCtl sw) 1 (hx d) (simm i) s
/-- `h.addi` is `addi xd, xd, imm`. -/
def execHAddi (sw : Bool) (d : BitVec 3) (i : BitVec 6) (s : State) : Result :=
  alu1 (halfCtl sw) 1 (hx d) (hx d) (fun a => a + simm i) s
/-- `h.mov` is `add xd, xa, x0`. -/
def execHMov (sw : Bool) (d a : BitVec 3) (s : State) : Result :=
  alu (halfCtl sw) 1 (hx d) (hx a) 0 (fun a b => a + b) s
/-- `h.add` is `add`. -/
def execHAdd (sw : Bool) (d a b : BitVec 3) (s : State) : Result :=
  alu (halfCtl sw) 1 (hx d) (hx a) (hx b) (fun a b => a + b) s
/-- `h.sub` is `sub`. -/
def execHSub (sw : Bool) (d a b : BitVec 3) (s : State) : Result :=
  alu (halfCtl sw) 1 (hx d) (hx a) (hx b) (fun a b => a - b) s
/-- `h.and` is `and`. -/
def execHAnd (sw : Bool) (d a b : BitVec 3) (s : State) : Result :=
  alu (halfCtl sw) 1 (hx d) (hx a) (hx b) (fun a b => a &&& b) s
/-- `h.or` is `or`. -/
def execHOr (sw : Bool) (d a b : BitVec 3) (s : State) : Result :=
  alu (halfCtl sw) 1 (hx d) (hx a) (hx b) (fun a b => a ||| b) s
/-- `h.xor` is `xor`. -/
def execHXor (sw : Bool) (d a b : BitVec 3) (s : State) : Result :=
  alu (halfCtl sw) 1 (hx d) (hx a) (hx b) (fun a b => a ^^^ b) s
/-- `h.sll` is `slli xd, xd, sh`. -/
def execHSll (sw : Bool) (d : BitVec 3) (i : BitVec 6) (s : State) : Result :=
  alu1 (halfCtl sw) 1 (hx d) (hx d) (fun a => sllW a (uimm i)) s
/-- `h.srl` is `srli xd, xd, sh`. -/
def execHSrl (sw : Bool) (d : BitVec 3) (i : BitVec 6) (s : State) : Result :=
  alu1 (halfCtl sw) 1 (hx d) (hx d) (fun a => srlW a (uimm i)) s
/-- `h.sra` is `srai xd, xd, sh`. -/
def execHSra (sw : Bool) (d : BitVec 3) (i : BitVec 6) (s : State) : Result :=
  alu1 (halfCtl sw) 1 (hx d) (hx d) (fun a => sraW a (uimm i)) s

end Sys2Proof.Machine
end

