-- ==== Sys2Proof/Machine/Access.lean ====
section
/-! DEFINITION. How an access of a seat is checked and leaves the seat: layouts of the spaces, alignment, translation,
seals, the L1, and the pieces that travel to their points of order (R92, R93, R137, R140, R159 to R166, R180 to R184). -/

namespace Sys2Proof.Machine

/-! ### Layouts (R159) -/

/-- The space tag of an address. -/
def tagOf (a : Word) : Nat := fld a 63 56

/-- Whether one byte's address meets the layout of its space, for a core; a basecamp core has neither peers nor a weight
store (R404). -/
def layoutOk (s : State) (c : CoreId) (a : Word) : Bool :=
  match tagOf a with
  | 0 => fld a 55 48 == 0
  | 1 => fld a 55 20 == 0
  | 2 => fld a 55 24 == 0 && !isBc c
  | 3 => fld a 55 26 == 0 && decide (fld a 25 0 < 0x3000000) && !isBc c
  | 4 => fld a 55 34 == 0 && decide (fld a 33 30 < partitions s) && decide (fld a 29 0 < coSize s (fld a 33 30))
  | _ => false

/-- Where a byte of a space without translation lies; a peer address that names the core itself is its own (R160). -/
def directPlace (c : CoreId) (a : Word) : Place :=
  match tagOf a with
  | 1 => .sp c (fld a 19 0)
  | 2 => .sp (coreAt (clusterOf c) (fld a 23 20)) (fld a 19 0)
  | 3 => .ws (clusterOf c) (fld a 25 0)
  | _ => .co (fld a 33 30) (fld a 29 0)

/-! ### Checks (R93) -/

/-- Step 2 for one byte: the address trap. -/
def layoutFault (s : State) (c : CoreId) (a : Word) : Option (BitVec 8) := if layoutOk s c a then none else some 0x11

/-- Step 3 for one byte: translation and permission. -/
def pageFault (s : State) (u : Asker) (n : Need) (a : Word) : Option (BitVec 8) :=
  if tagOf a = 0 then
    match translate s u n (fld a 47 0) with
    | .error f => some f
    | .ok _ => none
  else none

/-- Step 4 for one byte of a store: weight-store writes and seals. -/
def writeFault (s : State) (u : Asker) (n : Need) (a : Word) : Option (BitVec 8) :=
  if n = .read then none
  else if tagOf a = 3 then some 0x15
  else if tagOf a = 0 then
    match leafOf s u (fld a 47 0) with
    | .hit e => if isSealed s (e.phys (fld a 47 0)) then some 0x16 else none
    | _ => none
  else none

/-- The first byte of a list that a check stops, with the cause. -/
def firstFault (f : Word → Option (BitVec 8)) (l : List Word) : Option (BitVec 8 × Word) :=
  l.findSome? fun a => (f a).map fun cause => (cause, a)

/-- Steps 2 to 4 of R93 over the bytes of an access, each step over every byte before the next; `walkCause` stands for the first byte
whose translation is still awaited. -/
def checkBytes (s : State) (u : Asker) (n : Need) (l : List Word) : Option (BitVec 8 × Word) :=
  match firstFault (layoutFault s u.core) l with
  | some r => some r
  | none => match firstFault (pageFault s u n) l with
    | some r => some r
    | none => firstFault (writeFault s u n) l

/-- The byte addresses of a contiguous access. -/
def byteAddrs (a : Word) (n : Nat) : List Word := (List.range n).map fun i => a + BitVec.ofNat 64 i

/-- The checks of a scalar access, with the access's address as the trap value (R93, R159). -/
def checkScalar (s : State) (u : Asker) (n : Need) (a : Word) (size : Nat) : Option (BitVec 8 × Word) :=
  if a.toNat % size ≠ 0 then some (0x10, a)
  else (checkBytes s u n (byteAddrs a size)).map fun r => (r.1, a)

/-! ### Places and pieces -/

/-- Where a byte that has passed its checks lies. -/
def placeOf (s : State) (u : Asker) (a : Word) : Place :=
  if tagOf a = 0 then
    match leafOf s u (fld a 47 0) with
    | .hit e => e.place s (fld a 47 0)
    | _ => .hbm 0 false
  else directPlace u.core a

/-! ### The L1 (R166, R182) -/

/-- Line number and word index of a physical address. -/
def lineNo (pa : Nat) : Nat := pa / 128
def wordNo (pa : Nat) : Nat := pa % 128 / 4

/-- A line that an L1 holds. -/
def findLine (k : Core) (pa : Nat) : Option L1Line := k.l1.find? (·.line = lineNo pa)

/-- A word that an L1 holds. -/
def l1Word (k : Core) (pa : Nat) : Option L1Word := (findLine k pa).bind fun l => tget? l.words (wordNo pa)

/-- A line changed; a line without words stays present. -/
def updLine (k : Core) (line : Nat) (f : L1Line → L1Line) : Core :=
  { k with l1 := k.l1.map fun l => if l.line = line then f l else l }

/-- Whether a piece stores or is an atomic, at a place of ordinary global memory. -/
def isWriteOp : ReqOp → Bool
  | .store => true
  | .amo .. => true
  | _ => false

/-- Whether a piece's bytes overlap the 32-bit word at a physical address; an atomic counts for its whole line (R150). -/
def touches (op : ReqOp) (p : Piece) (pa : Nat) : Bool :=
  match p.dst with
  | .hbm q _ =>
    match op with
    | .amo .. => lineNo q == lineNo pa
    | _ => decide (q < pa / 4 * 4 + 4) && decide (pa / 4 * 4 < q + p.len)
  | _ => false

/-- A piece that its home has not performed: on its way, or held there. -/
def Piece.open (p : Piece) : Bool := p.st = .waiting || p.st = .held

/-- `n` bits of a value from bit `bit`, which may lie below 0. -/
def sliceAt (v : Nat) (bit : Int) (n : Nat) : Nat :=
  if 0 ≤ bit then v / 2 ^ bit.toNat % 2 ^ n else v * 2 ^ (-bit).toNat % 2 ^ n

/-- The bits of the 32-bit word at a physical address that a piece reads or writes. -/
def wordMask (p : Piece) (pa : Nat) : Nat :=
  match p.dst with
  | .hbm q _ =>
    let d : Int := (4 * (pa / 4) : Nat) - (q : Int)
    if -8 < d && d < 8 then sliceAt p.mask.toNat (8 * d) 32 else 0
  | _ => 0

/-- An older access of the core that a load of the word must follow to its home: an atomic to the line, or a load of the word
by the same seat (R184). -/
def mustFollow (s : State) (c : CoreId) (n pa : Nat) : Bool :=
  s.reqs.any fun r => r.core = c && r.agent = .seat && (match r.op with
    | .amo .. => true
    | .load .. | .vload => r.seat = n
    | _ => false) && r.pieces.any fun p => p.open && touches r.op p pa

/-- The bits of the word that stores of the core have written and their homes have not performed yet. -/
def storeBits (s : State) (c : CoreId) (pa : Nat) : Nat :=
  s.reqs.foldl (fun m r => if r.core = c && r.agent = .seat && r.op = .store then
    r.pieces.foldl (fun m p => if p.open then m ||| wordMask p pa else m) m else m) 0

/-- A load of seat `n` hits bits `need` of a word that the L1 holds, where no access of its own is to be followed: with own
stores under way only bits that they wrote, and only where the word has held them since they issued (R95, R166, R182, R184). -/
def l1Hit (s : State) (c : CoreId) (n pa need : Nat) : Option (BitVec 32) :=
  match l1Word (s.getCore c) pa with
  | none => none
  | some w =>
    let m := storeBits s c pa
    if !mustFollow s c n pa && (m == 0 || (w.owned && need &&& m &&& w.mine.toNat == need)) then some w.value else none

/-- The value of a load piece that the L1 serves: every word of it hits. -/
def l1Load (s : State) (c : CoreId) (n : Nat) (p : Piece) : Option (BitVec 64) :=
  match p.dst with
  | .hbm pa false =>
    match l1Hit s c n pa (wordMask p pa) with
    | none => none
    | some w =>
      if pa % 4 + p.len ≤ 4 then some ((w.setWidth 64) >>> (8 * (pa % 4)))
      else (l1Hit s c n (pa + 4) (wordMask p (pa + 4))).map fun w2 => (w2 ++ w)
  | _ => none

/-- A store in a line that is present updates it at issue: a word written in full, or in part while Valid or Owned,
becomes Owned (R166, R182). `i` is the word index; `mask` and `data` are the piece's bits of that word. -/
def storeWord (i : Nat) (mask data : BitVec 32) (l : L1Line) : L1Line :=
  if mask = 0 then l
  else match tget? l.words i with
    | some w => { l with words := tset l.words i ⟨true, (w.value &&& ~~~mask) ||| (data &&& mask), w.mine ||| mask⟩ }
    | none => if mask = BitVec.allOnes 32 then { l with words := tset l.words i ⟨true, data, mask⟩ } else l

/-- The L1 of a core after a store piece has issued. -/
def l1Store (k : Core) (p : Piece) : Core :=
  match p.dst with
  | .hbm pa false =>
    let sh := 8 * (pa % 4)
    let m := (p.mask.setWidth 96) <<< sh
    let d := (p.data.setWidth 96) <<< sh
    updLine k (lineNo pa) fun l =>
      storeWord (wordNo pa + 1) (m.extractLsb' 32 32) (d.extractLsb' 32 32)
        (storeWord (wordNo pa) (m.extractLsb' 0 32) (d.extractLsb' 0 32) l)
  | _ => k

/-- The line of a physical address leaves the core's L1. -/
def l1Drop (k : Core) (pa : Nat) : Core := { k with l1 := k.l1.filter (·.line != lineNo pa) }

/-- The invalidation of an acquire, a fence or a firing start: words that are not Owned go, unless their line is sealed
(R143, R174, R182). -/
def keepOwned (s : State) (l : L1Line) : L1Line :=
  if isSealed s (128 * l.line) then l else { l with words := l.words.filter (·.2.owned) }

/-- The invalidation over a core's L1. -/
def acquireInv (s : State) (c : CoreId) : State := s.updCore c fun k => { k with l1 := k.l1.map (keepOwned s) }

/-- Every L1 drops its words of the lines of `n` bytes from `pa`: replicas of a sealed range that is written or unsealed
(R174, R192). -/
def dropReplicas (s : State) (pa n : Nat) : State :=
  let drop (l : L1Line) : L1Line :=
    if pa < 128 * l.line + 128 ∧ 128 * l.line < pa + n then { l with words := [] } else l
  { s with cores := s.cores.map fun (c, k) => (c, { k with l1 := k.l1.map drop }) }

/-! ### Leaving the seat -/

/-- The translations that a unit's pieces used enter its core's caches (R179). -/
def noteTlb (s : State) (u : Asker) (l : List Piece) : State :=
  l.foldl (fun s p => if tagOf p.va = 0 then
    match leafOf s u (fld p.va 47 0) with
    | .hit e => if (s.getCore u.core).tlb.contains e then s else fillTlb s u.core e
    | _ => s
  else s) s

/-- A request of the running seat with number `id` leaves. -/
def post (s : State) (id : Nat) (op : ReqOp) (pieces : List Piece) : State :=
  let s := noteTlb s s.me pieces
  let t := s.thisSeat
  postReq s { id := id, core := s.core, seat := s.seat.val, firing := t.firingId, pc := t.pc, op := op, pieces := pieces }

/-- The pieces of a load that the L1 serves have their values. -/
def serveL1 (s : State) (pieces : List Piece) : List Piece :=
  pieces.map fun p => match l1Load s s.core s.seat.val p with
    | some w => { p with st := .performed, data := w, back := true }
    | none => p

/-- A load-like request raises `OUT`; the L1 serves what it can at once. -/
def postLoad (s : State) (target : Target) (acq : Bool) (op : ReqOp) (pieces : List Piece) (left : List Nat) : State :=
  post (raise s target acq .plain .waiting left) s.fresh op (serveL1 s pieces)

/-- A store request updates the L1; one with an operation number of its own raises no `OUT`. -/
def postStore (s : State) (pieces : List Piece) : State :=
  let s := s.updThisCore fun k => pieces.foldl l1Store k
  post { s with fresh := s.fresh + 1 } s.fresh .store pieces

/-- A store that raises `OUT` until it is registered (`st.rel`, R148). -/
def postStoreOut (s : State) (pieces : List Piece) : State :=
  let s := s.updThisCore fun k => pieces.foldl l1Store k
  post (raise s .none false .plain) s.fresh .store pieces

/-! ### Same word (R143) -/

/-- The scratchpad words of a piece. -/
def Piece.words (p : Piece) : List (CoreId × Nat) :=
  match p.dst with
  | .sp c off => (List.range ((p.len + 3) / 4)).map fun i => (c, off / 4 + i)
  | _ => []

/-- A synchronising access of major 0x1F. -/
def isSyncOp : ReqOp → Bool
  | .ldf | .ldt | .ste | .stf => true
  | _ => false

/-- A word of the pieces has a synchronising access of the running seat outstanding. -/
def sameWord (s : State) (pieces : List Piece) : Bool :=
  (seatReqs s s.core s.seat.val).any fun r => isSyncOp r.op &&
    r.pieces.any fun q => q.words.any fun w => pieces.any fun p => p.words.contains w

/-- The effect of an access once its pieces are known: it waits for a synchronising access to a word of its own. -/
def leave (s : State) (pieces : List Piece) (f : State → State) : Act :=
  if sameWord s pieces then .block else .next (f s)

end Sys2Proof.Machine
end

