-- ==== Sys2Proof/Machine/MemInstr.lean ====
section
/-! DEFINITION. Loads, stores, synchronising accesses, acquire and release, atomics, fence, seals and full/empty ranges,
and their 16-bit forms (R18, R92 to R95, R142 to R152). -/

namespace Sys2Proof.Machine

/-- What a failed check gives: the precise trap, or the walk that the access awaits. -/
def faultAct (r : BitVec 8 × Word) : Act := if r.1 = walkCause then .walk r.2 else .trap r.1 r.2

/-! ### Loads and stores (R92, R93) -/

/-- A load of `size` bytes (R78, R92). -/
def load (c : Ctl) (len : Nat) (d a : BitVec 5) (o : BitVec 8) (size : Nat) (signed acq : Bool) (s : State) : Result :=
  issue c len { rx := [a], wx := [d], mem := true } (fun s =>
    let ea := effAddr s a o size
    match checkScalar s s.me .read ea size with
    | some r => faultAct r
    | none =>
      let p := [mkPiece ea (placeOf s s.me ea) size (lowMask (8 * size)) 0 0]
      leave s p fun s => postLoad s (.x d) acq (.load size signed) p [0]) s

/-- A store of `size` bytes; `rel` is the release form (R92, R148). -/
def store (c : Ctl) (len : Nat) (d a : BitVec 5) (o : BitVec 8) (size : Nat) (rel : Bool) (s : State) : Result :=
  issue c len { rx := [a, d], mem := true, rel := rel } (fun s =>
    let ea := effAddr s a o size
    match checkScalar s s.me .write ea size with
    | some r => faultAct r
    | none =>
      let p := [mkPiece ea (placeOf s s.me ea) size (lowMask (8 * size)) (s.thisSeat.getX d) 0]
      leave s p fun s => if rel then postStoreOut s p else postStore s p) s

/-- The offset of a 16-bit form, 0 to 7 units (R18). -/
def halfOff (o : BitVec 3) : BitVec 8 := o.setWidth 8

/-- `ld.b` (R92). -/
def execLdB (c : Ctl) (d a : BitVec 5) (o : BitVec 8) (s : State) : Result := load c 2 d a o 1 true false s
/-- `ld.h` (R92). -/
def execLdH (c : Ctl) (d a : BitVec 5) (o : BitVec 8) (s : State) : Result := load c 2 d a o 2 true false s
/-- `ld.w` (R92). -/
def execLdW (c : Ctl) (d a : BitVec 5) (o : BitVec 8) (s : State) : Result := load c 2 d a o 4 true false s
/-- `ld.d` (R92). -/
def execLdD (c : Ctl) (d a : BitVec 5) (o : BitVec 8) (s : State) : Result := load c 2 d a o 8 true false s
/-- `ld.bu` (R92). -/
def execLdBu (c : Ctl) (d a : BitVec 5) (o : BitVec 8) (s : State) : Result := load c 2 d a o 1 false false s
/-- `ld.hu` (R92). -/
def execLdHu (c : Ctl) (d a : BitVec 5) (o : BitVec 8) (s : State) : Result := load c 2 d a o 2 false false s
/-- `ld.wu` (R92). -/
def execLdWu (c : Ctl) (d a : BitVec 5) (o : BitVec 8) (s : State) : Result := load c 2 d a o 4 false false s
/-- `st.b` (R92). -/
def execStB (c : Ctl) (d a : BitVec 5) (o : BitVec 8) (s : State) : Result := store c 2 d a o 1 false s
/-- `st.h` (R92). -/
def execStH (c : Ctl) (d a : BitVec 5) (o : BitVec 8) (s : State) : Result := store c 2 d a o 2 false s
/-- `st.w` (R92). -/
def execStW (c : Ctl) (d a : BitVec 5) (o : BitVec 8) (s : State) : Result := store c 2 d a o 4 false s
/-- `st.d` (R92). -/
def execStD (c : Ctl) (d a : BitVec 5) (o : BitVec 8) (s : State) : Result := store c 2 d a o 8 false s
/-- `h.ld.w` (R18). -/
def execHLdW (sw : Bool) (d a o : BitVec 3) (s : State) : Result :=
  load (halfCtl sw) 1 (hx d) (hx a) (halfOff o) 4 true false s
/-- `h.ld.d` (R18). -/
def execHLdD (sw : Bool) (d a o : BitVec 3) (s : State) : Result :=
  load (halfCtl sw) 1 (hx d) (hx a) (halfOff o) 8 true false s
/-- `h.st.w` (R18). -/
def execHStW (sw : Bool) (d a o : BitVec 3) (s : State) : Result :=
  store (halfCtl sw) 1 (hx d) (hx a) (halfOff o) 4 false s
/-- `h.st.d` (R18). -/
def execHStD (sw : Bool) (d a o : BitVec 3) (s : State) : Result :=
  store (halfCtl sw) 1 (hx d) (hx a) (halfOff o) 8 false s
/-- `ld.acq.w` (R148). -/
def execLdAcqW (c : Ctl) (d a : BitVec 5) (o : BitVec 8) (s : State) : Result := load c 2 d a o 4 true true s
/-- `ld.acq.d` (R148). -/
def execLdAcqD (c : Ctl) (d a : BitVec 5) (o : BitVec 8) (s : State) : Result := load c 2 d a o 8 true true s
/-- `st.rel.w` (R148). -/
def execStRelW (c : Ctl) (d a : BitVec 5) (o : BitVec 8) (s : State) : Result := store c 2 d a o 4 true s
/-- `st.rel.d` (R148). -/
def execStRelD (c : Ctl) (d a : BitVec 5) (o : BitVec 8) (s : State) : Result := store c 2 d a o 8 true s

/-! ### Synchronising accesses (R142, R143) -/

/-- The checks of a synchronising access: alignment, then the two scratchpad spaces. -/
def checkSync (s : State) (c : CoreId) (a : Word) : Option (BitVec 8 × Word) :=
  if a.toNat % 4 ≠ 0 then some (0x10, a)
  else if (tagOf a = 1 || tagOf a = 2) && layoutOk s c a then none
  else some (0x11, a)

/-- A synchronising access: loads have acquire effect and a target, stores have release effect. -/
def sync (c : Ctl) (d a : BitVec 5) (o : BitVec 8) (op : ReqOp) (isLoad : Bool) (s : State) : Result :=
  issue c 2 (if isLoad then { rx := [a], wx := [d], mem := true } else { rx := [a, d], mem := true, rel := true })
    (fun s =>
      let ea := effAddr s a o 4
      match checkSync s s.core ea with
      | some r => faultAct r
      | none =>
        let p := [mkPiece ea (placeOf s s.me ea) 4 (lowMask 32) (s.thisSeat.getX d) 0]
        leave s p fun s =>
          post (raise s (if isLoad then .x d else .none) isLoad .plain) s.fresh op p) s

/-- `ldf` waits for full (R142). -/
def execLdf (c : Ctl) (d a : BitVec 5) (o : BitVec 8) (s : State) : Result := sync c d a o .ldf true s
/-- `ldt` waits for full and sets empty (R142). -/
def execLdt (c : Ctl) (d a : BitVec 5) (o : BitVec 8) (s : State) : Result := sync c d a o .ldt true s
/-- `ste` waits for empty and sets full (R142). -/
def execSte (c : Ctl) (d a : BitVec 5) (o : BitVec 8) (s : State) : Result := sync c d a o .ste false s
/-- `stf` sets full (R142). -/
def execStf (c : Ctl) (d a : BitVec 5) (o : BitVec 8) (s : State) : Result := sync c d a o .stf false s

/-- The checks of `fe.fill` and `fe.clr` (R147). A range that leaves its space traps with xa as the address (DESIGN CHOICE, log 89). -/
def checkRange (s : State) (c : CoreId) (a n : Word) : Option (BitVec 8 × Word) :=
  if !(tagOf a = 1 || tagOf a = 2) || a.toNat % 4 ≠ 0 || n.toNat % 4 ≠ 0 then some (0x10, a)
  else if layoutOk s c a &&
      decide (a.toNat % 2 ^ 56 + n.toNat ≤ if tagOf a = 1 then 2 ^ 20 else 2 ^ 24) then none
  else some (0x11, a)

/-- A range event per word, in increasing address order (R147). -/
def rangePieces (s : State) (a : Word) (n : Nat) : List Piece :=
  (List.range (n / 4)).map fun i =>
    let va := a + BitVec.ofNat 64 (4 * i)
    mkPiece va (placeOf s s.me va) 4 0 0 0

/-- `fe.fill` and `fe.clr` (R147) (DEDUCED, log 40). The limits on xa and the range come before 'xb = 0 has no effect': a range of
no bytes at a bad xa traps (DESIGN CHOICE, log 72). -/
def rangeOp (c : Ctl) (a b : BitVec 5) (op : ReqOp) (rel : Bool) (s : State) : Result :=
  issue c 2 { rx := [a, b], rel := rel } (fun s =>
    let x := s.thisSeat.getX a
    let n := s.thisSeat.getX b
    match checkRange s s.core x n with
    | some r => faultAct r
    | none =>
      if n = 0 then .next s
      else
        let p := rangePieces s x n.toNat
        leave s p fun s => post (raise s .none false .plain) s.fresh op p) s

/-- `fe.fill` has release effect (R147). -/
def execFeFill (c : Ctl) (a b : BitVec 5) (s : State) : Result := rangeOp c a b .feFill true s
/-- `fe.clr` (R147). -/
def execFeClr (c : Ctl) (a b : BitVec 5) (s : State) : Result := rangeOp c a b .feClr false s

/-! ### Atomics (R150, R151) -/

/-- The checks of an atomic in the order of R93: alignment, tag and layout, translation for both, seal (DEDUCED, log 39). -/
def checkAtomic (s : State) (u : Asker) (a : Word) (align size : Nat) : Option (BitVec 8 × Word) :=
  if a.toNat % align ≠ 0 then some (0x10, a)
  else if tagOf a ≠ 0 || !layoutOk s u.core a then some (0x11, a)
  else (checkBytes s u .both (byteAddrs a size)).map fun r => (r.1, a)

/-- An atomic: the address is xa, the operand xb, the compare value of `cas` xd; the old value goes to xd. The core's L1
copy of the line goes. -/
def atomic (c : Ctl) (d a b : BitVec 5) (z : BitVec 1) (op : AmoOp) (s : State) : Result :=
  let size := if z = 0 then 4 else 8
  issue c 2 { rx := if op = .cas then [a, b, d] else [a, b], wx := [d], mem := true } (fun s =>
    let t := s.thisSeat
    let ea := t.getX a
    match checkAtomic s s.me ea size size with
    | some r => faultAct r
    | none =>
      let p := mkPiece ea (placeOf s s.me ea) size (lowMask (8 * size)) 0 0
      let drop (s : State) := match p.dst with
        | .hbm pa _ => s.updThisCore fun k => l1Drop k pa
        | _ => s
      .next (post (raise (drop s) (.x d) false .plain) s.fresh (.amo op size (t.getX b) (t.getX d)) [p])) s

/-- `amo.add` (R150). -/
def execAmoAdd (c : Ctl) (d a b : BitVec 5) (z : BitVec 1) (s : State) : Result := atomic c d a b z .add s
/-- `amo.and` (R150). -/
def execAmoAnd (c : Ctl) (d a b : BitVec 5) (z : BitVec 1) (s : State) : Result := atomic c d a b z .and s
/-- `amo.or` (R150). -/
def execAmoOr (c : Ctl) (d a b : BitVec 5) (z : BitVec 1) (s : State) : Result := atomic c d a b z .or s
/-- `amo.xor` (R150). -/
def execAmoXor (c : Ctl) (d a b : BitVec 5) (z : BitVec 1) (s : State) : Result := atomic c d a b z .xor s
/-- `amo.min` (R150). -/
def execAmoMin (c : Ctl) (d a b : BitVec 5) (z : BitVec 1) (s : State) : Result := atomic c d a b z .min s
/-- `amo.max` (R150). -/
def execAmoMax (c : Ctl) (d a b : BitVec 5) (z : BitVec 1) (s : State) : Result := atomic c d a b z .max s
/-- `amo.minu` (R150). -/
def execAmoMinu (c : Ctl) (d a b : BitVec 5) (z : BitVec 1) (s : State) : Result := atomic c d a b z .minu s
/-- `amo.maxu` (R150). -/
def execAmoMaxu (c : Ctl) (d a b : BitVec 5) (z : BitVec 1) (s : State) : Result := atomic c d a b z .maxu s
/-- `amo.swap` (R150). -/
def execAmoSwap (c : Ctl) (d a b : BitVec 5) (z : BitVec 1) (s : State) : Result := atomic c d a b z .swap s
/-- `amo.cas` (R150). -/
def execAmoCas (c : Ctl) (d a b : BitVec 5) (z : BitVec 1) (s : State) : Result := atomic c d a b z .cas s
/-- `amo.fadd.f32` (R150). -/
def execAmoFaddF32 (c : Ctl) (d a b : BitVec 5) (s : State) : Result := atomic c d a b 0 .fadd s

/-! ### Fence (R149) and seals (R152, R174) -/

/-- The wait of a fence: every earlier access of the seat has completed and is registered. -/
def fenced (s : State) (f : Act) : Act := if seatReqs s s.core s.seat.val = [] then f else .block

/-- `fence`: its invalidation comes with its completion, before which no memory access of the seat issues (R149). -/
def execFence (c : Ctl) (s : State) : Result :=
  issue c 2 { mem := true } (fun s => fenced s (.next (raise s .none true .plain (.value 0)))) s

/-- Adjacent sealed ranges merged (R174). -/
def mergeRanges : List (Nat × Nat) → List (Nat × Nat)
  | [] => []
  | (b, n) :: t =>
    match mergeRanges t with
    | (b', n') :: t' => if b' ≤ b + n then (b, max (b + n) (b' + n') - b) :: t' else (b, n) :: (b', n') :: t'
    | [] => [(b, n)]

/-- A range put in its place by base. -/
def insRange (r : Nat × Nat) : List (Nat × Nat) → List (Nat × Nat)
  | [] => [r]
  | q :: t => if r.1 ≤ q.1 then r :: q :: t else q :: insRange r t

/-- The seal table with a page sealed. -/
def sealAdd (l : List (Nat × Nat)) (pa n : Nat) : List (Nat × Nat) := mergeRanges (insRange (pa, n) l)

/-- The seal table with a page unsealed: a range that holds it is split. -/
def sealDel (l : List (Nat × Nat)) (pa n : Nat) : List (Nat × Nat) :=
  l.flatMap fun (b, m) =>
    if b + m ≤ pa ∨ pa + n ≤ b then [(b, m)]
    else (if b < pa then [(b, pa - b)] else []) ++ (if pa + n < b + m then [(pa + n, b + m - (pa + n))] else [])

/-- A page is marked: its homes and every L1 give up the owners and the copies of its words (R174, R192). The L1s
give up their Valid and Owned words of the page in the same step, where R174 says only that sealed words are not Owned
(DESIGN CHOICE, log 91). -/
def markPage (on : Bool) (pa n : Nat) (table : List (Nat × Nat)) (s : State) : State :=
  let s := dropReplicas { s with sealed := table } pa n
  if on then { s with owners := s.owners.filter fun o => !(decide (pa ≤ 4 * o.1) && decide (4 * o.1 < pa + n)) } else s

/-- The pages of a seal or unseal from `va` up to `hi`, in order, at most `fuel` of them: the state reached, the pages done,
and the trap that stops it or the walk that it awaits. A page must lie within the range, and the table holds 64 ranges (R152, R174). -/
def sealPages (on : Bool) (lo hi : Nat) : Nat → Nat → State → List (Nat × Nat) → State × List (Nat × Nat) × Option (BitVec 8 × Word)
  | 0, _, s, l => (s, l, none)
  | fuel + 1, va, s, l =>
    if hi ≤ va then (s, l, none)
    else match translate s s.me .read va with
    | .error f => (s, l, some (f, BitVec.ofNat 64 va))
    | .ok e =>
      let table := if on then sealAdd s.sealed e.pa e.size else sealDel s.sealed e.pa e.size
      if e.va < lo ∨ hi < e.va + e.size ∨ 64 < table.length then (s, l, some (0x11, BitVec.ofNat 64 e.va))
      else sealPages on lo hi fuel (e.va + e.size) (markPage on e.pa e.size table s) (l ++ [(e.pa, e.size)])

/-- The operand checks of `seal` and `unseal` (R152). -/
def checkSeal (a n : Word) : Option (BitVec 8 × Word) :=
  if tagOf a ≠ 0 || fld a 55 48 ≠ 0 || fld a 15 0 ≠ 0 then some (0x11, a)
  else if n = 0 || fld n 15 0 ≠ 0 || decide (2 ^ 48 < a.toNat + n.toNat) then some (0x11, a + n)
  else none

/-- `seal` and `unseal`: a fence, then page by page; the operation stays outstanding until R152's completion. -/
def sealOp (c : Ctl) (a b : BitVec 5) (on : Bool) (s : State) : Result :=
  issue c 2 { rx := [a, b], mem := true } (fun s =>
    let x := s.thisSeat.getX a
    let n := s.thisSeat.getX b
    match checkSeal x n with
    | some r => faultAct r
    | none => fenced s <|
      let s := acquireInv s s.core
      match sealPages on x.toNat (x.toNat + n.toNat) (n.toNat / 65536) x.toNat s [] with
      | (s', _, some (cause, v)) => if cause = walkCause then .walk v else .trapIn s' cause v
      | (s', l, none) => .next (raise s' .none true (.seal on l) (.value 0))) s

/-- `seal` (R152). -/
def execSeal (c : Ctl) (a b : BitVec 5) (s : State) : Result := sealOp c a b true s
/-- `unseal` (R152). -/
def execUnseal (c : Ctl) (a b : BitVec 5) (s : State) : Result := sealOp c a b false s

end Sys2Proof.Machine
end

