-- ==== Sys2Proof/Machine/VecMem.lean ====
section
/-! DEFINITION. Vector loads and stores, sidecars, gathers and scatters (R137 to R141). -/

namespace Sys2Proof.Machine

/-- Element size in bytes for the alignment of a vector access (R137). -/
def alignOf (tag : BitVec 4) : Nat := if tag = 3 || tag = 6 then 4 else if tag = 2 || tag = 4 || tag = 5 then 2 else 1

/-- The naturally aligned words of a contiguous access of `n` bytes at `a`, with the active bits of each and the data of
a store, under a placing of addresses (R138); words without an active bit are not accessed. -/
def wordsAt (place : Word → Place) (a : Word) (n : Nat) (active data : Nat) : List Piece :=
  let r := a.toNat % 4
  let base := a - BitVec.ofNat 64 r
  ((List.range ((n + r + 3) / 4)).map fun j =>
    let va := base + BitVec.ofNat 64 (4 * j)
    let bit : Int := 8 * ((4 * j : Nat) - (r : Int))
    mkPiece va (place va) 4 (BitVec.ofNat 64 (sliceAt active bit 32)) (BitVec.ofNat 64 (sliceAt data bit 32)) bit)
    |>.filter (·.mask != 0)

/-- The words of an access of the running core. -/
def wordPieces (s : State) (a : Word) (n : Nat) (active data : Nat) : List Piece := wordsAt (placeOf s s.me) a n active data

/-- The addresses of the bytes of `n` from `a` that hold an active bit. -/
def activeBytes (a : Word) (n : Nat) (active : Nat) : List Word :=
  ((List.range n).filter fun i => active / 2 ^ (8 * i) % 256 != 0).map fun i => a + BitVec.ofNat 64 i

/-- The checks of a contiguous vector access over its active bytes (R137). -/
def checkVec (s : State) (need : Need) (a : Word) (align n : Nat) (active : Nat) : Option (BitVec 8 × Word) :=
  if a.toNat % align ≠ 0 then some (0x10, a) else checkBytes s s.me need (activeBytes a n active)

/-- `vld` writes the tag at issue and raises `OUT`; with no active element it only writes the tag (R137, R138). -/
def execVld (c : Ctl) (d : BitVec 4) (a : BitVec 5) (x : BitVec 4) (k : BitVec 2) (s : State) : Result :=
  issue c 2 { rx := [a], wv := [d], mem := true } (fun s =>
    let ea := vecBase s a 512
    let act := (activeBits (tagWidth x) (s.thisSeat.getK k)).toNat
    let tagged (s : State) := s.updThisSeat fun t => t.setV d { t.getV d with tag := x }
    if act = 0 then .next (tagged s)
    else match checkVec s .read ea (alignOf x) 512 act with
      | some r => faultAct r
      | none =>
        let p := wordPieces s ea 512 act 0
        leave s p fun s => postLoad (tagged s) (.v d) false .vload p [0, 1, 2, 3]) s

/-- `vst` writes the active elements of v (R137, R138). -/
def execVst (c : Ctl) (d : BitVec 4) (a : BitVec 5) (k : BitVec 2) (s : State) : Result :=
  issue c 2 { rx := [a], rv := [d], mem := true } (fun s =>
    let ea := vecBase s a 512
    let v := s.thisSeat.getV d
    let act := (activeBits (tagWidth v.tag) (s.thisSeat.getK k)).toNat
    if act = 0 then .next s
    else match checkVec s .write ea (alignOf v.tag) 512 act with
      | some r => faultAct r
      | none =>
        let p := wordPieces s ea 512 act v.data.toNat
        leave s p fun s => postStore s p) s

/-- `vld.sc` loads the 32-byte sidecar (R139). -/
def execVldSc (c : Ctl) (d : BitVec 4) (a : BitVec 5) (s : State) : Result :=
  issue c 2 { rx := [a], wv := [d], mem := true } (fun s =>
    let ea := vecBase s a 32
    match checkVec s .read ea 32 32 (2 ^ 256 - 1) with
    | some r => faultAct r
    | none =>
      let p := wordPieces s ea 32 (2 ^ 256 - 1) 0
      leave s p fun s => postLoad s (.sidecar d) false .vload p [0, 1, 2, 3]) s

/-- `vst.sc` stores it (R139). -/
def execVstSc (c : Ctl) (d : BitVec 4) (a : BitVec 5) (s : State) : Result :=
  issue c 2 { rx := [a], rv := [d], mem := true } (fun s =>
    let ea := vecBase s a 32
    match checkVec s .write ea 32 32 (2 ^ 256 - 1) with
    | some r => faultAct r
    | none =>
      let p := wordPieces s ea 32 (2 ^ 256 - 1) (s.thisSeat.getV d).sc.toNat
      leave s p fun s => postStore s p) s

/-! ### Gathers and scatters (R140, R141) -/

/-- The active lanes of `size` bytes with their addresses, in lane order. -/
def laneAddrs (t : Seat) (a : BitVec 5) (x : BitVec 4) (k : BitVec 2) (size : Nat) : List (Nat × Word) :=
  ((List.range (512 / size)).filter (t.getK k).getLsbD).map fun i =>
    (i, t.getX a + BitVec.ofInt 64 (sxt (8 * size) (elem (8 * size) (t.getV x).data i) * size))

/-- The tag check of an index register: i32 for words, i16 for halves, or raw. -/
def indexFault (t : Seat) (x : BitVec 4) (size : Nat) : Option Act :=
  let tag := (t.getV x).tag
  if tag = 0 || tag = (if size = 4 then 3 else 2) then none else some (formatTrap x tag)

/-- One piece per active lane; `data` is the source register of a scatter. -/
def lanePieces (s : State) (l : List (Nat × Word)) (size : Nat) (data : BitVec 4096) : List Piece :=
  l.map fun (i, va) =>
    mkPiece va (placeOf s s.me va) size (lowMask (8 * size)) (BitVec.ofNat 64 (elem (8 * size) data i)) (8 * size * i : Nat)

/-- A gather: every lane is checked before any leaves, the first failing lane traps. -/
def gather (c : Ctl) (d : BitVec 4) (a : BitVec 5) (x : BitVec 4) (k : BitVec 2) (size : Nat) (s : State) : Result :=
  issue c 2 { rx := [a], rv := [x], wv := [d], mem := true } (fun s =>
    match indexFault s.thisSeat x size with
    | some r => r
    | none =>
      let l := laneAddrs s.thisSeat a x k size
      match l.findSome? fun (_, va) => checkScalar s s.me .read va size with
      | some r => faultAct r
      | none =>
        let p := lanePieces s l size 0
        leave s p fun s => postLoad s (.v d) false .vload p [0, 1, 2, 3]) s

/-- A scatter: lanes to one address are written in lane order. -/
def scatter (c : Ctl) (d : BitVec 4) (a : BitVec 5) (x : BitVec 4) (k : BitVec 2) (size : Nat) (s : State) : Result :=
  issue c 2 { rx := [a], rv := [x, d], mem := true } (fun s =>
    match indexFault s.thisSeat x size with
    | some r => r
    | none =>
      let l := laneAddrs s.thisSeat a x k size
      match l.findSome? fun (_, va) => checkScalar s s.me .write va size with
      | some r => faultAct r
      | none =>
        let p := lanePieces s l size (s.thisSeat.getV d).data
        leave s p fun s => postStore s p) s

/-- `vgather.w` (R140). -/
def execVgatherW (c : Ctl) (d : BitVec 4) (a : BitVec 5) (x : BitVec 4) (k : BitVec 2) (s : State) : Result := gather c d a x k 4 s
/-- `vgather.h` (R140). -/
def execVgatherH (c : Ctl) (d : BitVec 4) (a : BitVec 5) (x : BitVec 4) (k : BitVec 2) (s : State) : Result := gather c d a x k 2 s
/-- `vscatter.w` (R140). -/
def execVscatterW (c : Ctl) (d : BitVec 4) (a : BitVec 5) (x : BitVec 4) (k : BitVec 2) (s : State) : Result := scatter c d a x k 4 s
/-- `vscatter.h` (R140). -/
def execVscatterH (c : Ctl) (d : BitVec 4) (a : BitVec 5) (x : BitVec 4) (k : BitVec 2) (s : State) : Result := scatter c d a x k 2 s

end Sys2Proof.Machine
end

