-- ==== Sys2Proof/Machine/Home.lean ====
section
/-! DEFINITION. What happens at the points of order: the order of arrival, loads, stores, ownership and revocations,
atomics, L1 fills, the waiters of scratchpad words, engine writes, peer rights, poison (R142 to R150, R161, R166, R180 to
R184, R350, R364, R378, R379). -/

namespace Sys2Proof.Machine

/-! ### Requests and pieces -/

/-- A request by number. -/
def findReq (s : State) (id : Nat) : Option Req := s.reqs.find? (·.id = id)

/-- A request changed. -/
def updReq (s : State) (id : Nat) (f : Req → Req) : State :=
  { s with reqs := s.reqs.map fun r => if r.id = id then f r else r }

/-- Piece `i` of a request changed. -/
def updPiece (s : State) (id i : Nat) (f : Piece → Piece) : State :=
  updReq s id fun r => { r with pieces := r.pieces.modify i f }

/-- Whether two pieces touch one naturally aligned word of one place. -/
def Piece.meets (p q : Piece) : Bool :=
  let overlap (a n b m : Nat) := decide (a / 4 * 4 < b + m) && decide (b / 4 * 4 < a + n)
  match p.dst, q.dst with
  | .sp c a, .sp d b => c == d && overlap a p.len b q.len
  | .ws c a, .ws d b => c == d && overlap a p.len b q.len
  | .co c a, .co d b => c == d && overlap a p.len b q.len
  | .hbm a _, .hbm b _ => lineNo a == lineNo b
  | _, _ => false

/-- The pieces that are older than piece `i` of request `id`, of requests that `f` takes, and still under way or held. -/
def olderPieces (s : State) (f : Req → Bool) (id i : Nat) : List Piece :=
  (s.reqs.takeWhile (·.id != id)).flatMap (fun r => if f r then r.pieces.filter (·.open) else []) ++
    ((findReq s id).map fun r => (r.pieces.take i).filter (·.open)).getD []

/-- Two requests of one seat, or of one other unit. -/
def sameUnit (r q : Req) : Bool := r.core = q.core && r.agent = q.agent && (r.agent != .seat || r.seat = q.seat)

/-- A piece reissued after a migration comes behind the requester's older ones to its line of addresses, reissued or not
(R366). -/
def Piece.follows (p q : Piece) : Bool :=
  (q.dst matches .hbm ..) && tagOf p.va = tagOf q.va && fld p.va 47 7 = fld q.va 47 7

/-- An arriving piece is next in its order: by number at an L2 slot or base die (R350, R364), behind its unit's older accesses
to the same word elsewhere (R95). -/
def inOrder (s : State) (r : Req) (i : Nat) (p : Piece) : Bool :=
  if p.dst.numbered then
    if p.mig then !(olderPieces s (fun q => q.who = r.who) r.id i).any p.follows
    else p.num == pget 0 s.expects (r.who, p.home)
  else !(olderPieces s (sameUnit r) r.id i).any (·.meets p)

/-- The home goes on to the next number (R364). -/
def arrived (s : State) (r : Req) (p : Piece) : State :=
  if p.dst.numbered && !p.mig then { s with expects := pset s.expects (r.who, p.home) (p.num + 1) } else s

/-- The copy of piece `i` that stands at the home of the piece, if any (R350). A copy on its way to a slice that a reconfiguration (R170) has
relieved of the line stays unserved there until a timeout sends the piece to its new home (DESIGN CHOICE, log 90). -/
def copyAt (s : State) (r : Req) (i : Nat) (p : Piece) : Option Packet :=
  match p.dst.home s with
  | none => none
  | some h => s.net.find? fun k => k.came && k.dst = homeEnd s h && (match k.body with
    | .memReq q j _ _ => q = r.id && j = i
    | _ => false)

/-- The mesh on which a copy was injected. -/
def Packet.inj (p : Packet) : Option Mesh := p.route.map (·.inj)

/-! ### Bytes and poison -/

/-- The memory that holds a place. -/
def Place.read (s : State) (n : Nat) : Place → Nat
  | .sp c a => getBytes (s.getCore c).sp a n
  | .ws g a => getBytes (s.getCluster g).ws a n
  | .co p a => getBytes (tget [] s.co p) a n
  | .hbm a _ => getBytes s.hbm a n
  | .walker _ => 0

/-- `n` bytes of a place written under a bit mask. -/
def maskedBytes (m : Memory) (a n : Nat) (mask data : BitVec 64) : Memory :=
  setBytes m a n (((BitVec.ofNat 64 (getBytes m a n) &&& ~~~mask) ||| (data &&& mask)).toNat)

/-- A place written; the weight store has no writer among the seats (R165). -/
def Place.write (s : State) (n : Nat) (mask data : BitVec 64) : Place → State
  | .sp c a => s.updCore c fun k => { k with sp := maskedBytes k.sp a n mask data }
  | .ws _ _ => s
  | .co p a => { s with co := tset s.co p (maskedBytes (tget [] s.co p) a n mask data) }
  | .hbm a _ => { s with hbm := maskedBytes s.hbm a n mask data }
  | .walker _ => s

/-- The granules of a place: words of a scratchpad, 32 bytes elsewhere (R378). -/
def Place.granules (n : Nat) : Place → List Nat
  | .sp _ a => (List.range ((n + 3) / 4)).map (a / 4 + ·)
  | .ws _ a => [a / 32]
  | .co _ a => [a / 32]
  | .hbm a _ => [a / 32]
  | .walker _ => []

/-- The poisoned granules of the storage of a place. -/
def Place.poison (s : State) : Place → List Nat
  | .sp c _ => (s.getCore c).spPoison
  | .ws g _ => (s.getCluster g).wsPoison
  | .co p _ => (s.coPoison.filter (·.1 = p)).map (·.2)
  | .hbm _ _ => s.hbmPoison
  | .walker _ => []

/-- A granule of the storage of a place is cleared. -/
def Place.unpoison (s : State) (g : Nat) : Place → State
  | .sp c _ => s.updCore c fun k => { k with spPoison := sdel k.spPoison g }
  | .ws n _ => s.updCluster n fun k => { k with wsPoison := sdel k.wsPoison g }
  | .co p _ => { s with coPoison := s.coPoison.filter (· != (p, g)) }
  | .hbm _ _ => { s with hbmPoison := sdel s.hbmPoison g }
  | .walker _ => s

/-- A place in a fenced weight-store bank, on a fenced stack, at a slot without a live slice (R384), or at a slot that the split of a
module has parted from the stack (DEDUCED, log 19). -/
def fencedPlace (s : State) : Place → Bool
  | .ws g a => (s.getCluster g).banksBad.contains (a / 2048 % 8)
  | .hbm a msa => s.stacksBad.contains (nbits a 36 4) ||
      (!msa && (deadSlot s (homeSlot s a) || splitFrom s (isLost s (slotSite (homeSlot s a))) a))
  | .co p a => deadSlot s (coHome s p a)
  | .walker page => deadSlot s (walkerSlot page)
  | .sp .. => false

/-- Whether a place reads poison over `n` bytes. -/
def poisoned (s : State) (d : Place) (n : Nat) : Bool := fencedPlace s d || (d.granules n).any (d.poison s).contains

/-- The first byte of a piece that its mask names and whose granule is poisoned, as an offset. -/
def poisonOffset (s : State) (p : Piece) : Nat :=
  ((List.range p.len).find? fun i => (p.mask.toNat / 2 ^ (8 * i)) % 256 != 0 &&
    (match p.dst with
    | .sp c a => poisoned s (.sp c (a + i)) 1
    | .ws c a => poisoned s (.ws c (a + i)) 1
    | .co c a => poisoned s (.co c (a + i)) 1
    | .hbm a m => poisoned s (.hbm (a + i) m) 1
    | .walker _ => false)).getD 0

/-- A piece that met poison keeps the offset of the first poisoned byte. -/
def spoiled (s : State) (st : PieceState) (p : Piece) : Piece := { p with st := st, data := BitVec.ofNat 64 (poisonOffset s p) }

/-- The byte offsets of a piece that its mask writes in full, as addresses in its storage. -/
def Piece.fullBytes (p : Piece) : List Nat :=
  let base := match p.dst with
    | .sp _ a => a
    | .ws _ a => a
    | .co _ a => a
    | .hbm a _ => a
    | .walker _ => 0
  ((List.range p.len).filter fun i => (p.mask.toNat / 2 ^ (8 * i)) % 256 == 255).map (base + ·)

/-- Whether the pieces of a store cover a granule of a place wholly (R379). -/
def coversGranule (pieces : List Piece) (d : Place) (g : Nat) : Bool :=
  let size := match d with
    | .sp .. => 4
    | _ => 32
  let same := pieces.filter fun q => match q.dst, d with
    | .sp c _, .sp c' _ => c == c'
    | .co c _, .co c' _ => c == c'
    | .hbm .., .hbm .. => true
    | _, _ => false
  let bytes := same.flatMap Piece.fullBytes
  (List.range size).all fun i => bytes.contains (size * g + i)

/-! ### The L1 (R166, R182) -/

/-- The words of a line as its home holds them, poisoned granules left out. -/
def homeWords (s : State) (line : Nat) : List (Nat × L1Word) :=
  (List.range 32).filterMap fun i =>
    if s.hbmPoison.contains ((128 * line + 4 * i) / 32) then none
    else some (i, { owned := false, value := BitVec.ofNat 32 (getBytes s.hbm (128 * line + 4 * i) 4) : L1Word })

/-- The way that a new line of a set takes: a free one, else the victim of an open policy. -/
def pickWay (k : Core) (set victim : Nat) : Nat :=
  let used := (k.l1.filter (·.line % 64 = set)).map (·.way)
  ((List.range 8).find? (!used.contains ·)).getD (victim % 8)

/-- A load miss fills the line: words become Valid, Owned words stay (R166, R182). -/
def fillL1 (s : State) (c : CoreId) (pa : Nat) : State :=
  let line := lineNo pa
  let words := homeWords s line
  let k := s.getCore c
  match findLine k pa with
  | some _ => s.setCore c (updLine k line fun l =>
      { l with words := words.foldl (fun ws (i, w) => if (tget? ws i).any (·.owned) then ws else tset ws i w) l.words })
  | none =>
    let way := pickWay k (line % 64) (Config.l1Victim s.tick)
    let kept := k.l1.filter fun l => !(l.line % 64 = line % 64 && l.way = way)
    s.ticked.setCore c { k with l1 := ⟨line, way, words⟩ :: kept }

/-- A revocation reaches a core: an Owned word is Invalid; one that is absent, or Valid since a new fill, is not changed
(R182). -/
def invalidateWord (k : Core) (word : Nat) : Core :=
  updLine k (word / 32) fun l =>
    if (tget? l.words (word % 32)).any (·.owned) then { l with words := tdel l.words (word % 32) } else l

/-- The own L1 word of a store that its home has performed: with no other own store to it under way, the word is Owned and
holds what the home holds (R182, R186). -/
def ownWord (s : State) (c : CoreId) (word : Nat) : State :=
  if storeBits s c (4 * word) != 0 then s
  else s.updCore c fun k => updLine k (word / 32) fun l =>
    match tget? l.words (word % 32) with
    | some _ => { l with words := tset l.words (word % 32) ⟨true, BitVec.ofNat 32 (getBytes s.hbm (4 * word) 4), 0⟩ }
    | none => l

/-! ### Ownership (R181) -/

/-- The 32-bit words that a masked write at a physical address touches. -/
def wordsTouched (pa n : Nat) (mask : BitVec 64) : List Nat :=
  (List.range ((n + pa % 4 + 3) / 4)).filterMap fun i =>
    let w := pa / 4 + i
    if sliceAt mask.toNat (8 * ((4 * w : Nat) - (pa : Int))) 32 = 0 then none else some w

/-- Marks a line that the L2 holds written. -/
def markDirty (s : State) (pa : Nat) : State := { s with dirty := sins s.dirty (lineNo pa) }

/-- A revocation leaves the home of a word for its former owner; piece `i` of request `id` awaits it (R181, R344). -/
def sendRev (s : State) (word : Nat) (o : CoreId) (id i : Nat) : State :=
  let s : State := { s with revs := s.revs ++ [⟨s.fresh, word, o, id, i, false⟩], fresh := s.fresh + 1 }
  addPacket s { id := 0, src := homeEnd s (homeSlot s (4 * word)), dst := o, rank := 0, tc := 5, body := .revoke (s.fresh - 1),
                m := BitVec.ofNat 2 (lineHash (word / 32)) }

/-- A word changes hands: its former owner, if another, gets a revocation that piece `i` of request `id` awaits (R181). -/
def takeWord (c : Option CoreId) (id i : Nat) (s : State) (word : Nat) : State :=
  let s : State := match tget? s.owners word with
    | some o => if some o = c then s else sendRev s word o id i
    | none => s
  { s with owners := match c with
    | some c => tset s.owners word c
    | none => tdel s.owners word }

/-- What a write to an ordinary page does to the cached copies of its words: a core's store makes it their owner and refreshes
its own words, any other write ends ownership, and a sealed line has no owners, only replicas, which go (R174, R181,
R182, R191). -/
def changeWords (owner : Option CoreId) (id i pa n : Nat) (words : List Nat) (s : State) : State :=
  let hidden := isSealed s pa
  let s := words.foldl (takeWord (if hidden then none else owner) id i) (markDirty s pa)
  if hidden then dropReplicas s pa n
  else match owner with
    | some c => words.foldl (fun s w => ownWord s c w) s
    | none => s

/-! ### Performing plain pieces -/

/-- A load piece at its point of order: poison, or the value; a seat's miss fills the L1, whose words are those of that instant
(DESIGN CHOICE, log 70). -/
def performLoad (s : State) (r : Req) (i : Nat) (p : Piece) : State :=
  if poisoned s p.dst p.len then updPiece s r.id i (spoiled s .poisoned)
  else
    let v := BitVec.ofNat 64 (p.dst.read s p.len)
    let s := updPiece s r.id i fun p => { p with st := .performed, data := v }
    match p.dst with
    | .hbm pa false => if r.agent = .seat then fillL1 s r.core pa else s
    | _ => s

/-- The pieces of a store that has been performed once piece `i` is. -/
def allDone (r : Req) (i : Nat) (d : Place) (g : Nat) : Bool :=
  (r.pieces.zipIdx).all fun (q, j) => j = i || q.st = .performed || !((q.dst.granules q.len).contains g) || q.dst.numbered != d.numbered

/-- The core whose store it is: a shell's drain is a write of its core (R181, R258). -/
def Req.writer (r : Req) : Option CoreId :=
  match r.agent with
  | .seat => some r.core
  | .shell _ => some r.core
  | .post _ => some r.core
  | _ => none

/-- A word that a shell drains or an `hl.post` writes, in the line of its own core, as a store of that core (R182, R258, R267). -/
def drainL1 (s : State) (r : Req) (p : Piece) (pa : Nat) : State :=
  if (r.agent matches .shell _ | .post _) && storeBits s r.core pa == 0 then s.updCore r.core fun k => l1Store k p else s

/-- An `l2.wb` at its home: the line is written back (R322). -/
def performWb (s : State) (r : Req) (i : Nat) (p : Piece) : State :=
  let s := updPiece s r.id i fun p => { p with st := .performed }
  match p.dst with
  | .hbm pa _ => { s with dirty := sdel s.dirty (lineNo pa) }
  | _ => s

/-- A store piece at its point of order: a partial store to poison is not performed; bytes are written; ordinary global
words change owner (R181, R379). -/
def performStore (s : State) (r : Req) (i : Nat) (p : Piece) : State :=
  let bad := (p.dst.granules p.len).filter (p.dst.poison s).contains
  if fencedPlace s p.dst || bad.any (fun g => !coversGranule r.pieces p.dst g) then updPiece s r.id i (spoiled s .rejected)
  else
    let s := p.dst.write s p.len p.mask p.data
    let s := bad.foldl (fun s g => if allDone r i p.dst g then p.dst.unpoison s g else s) s
    let s := updPiece s r.id i fun p => { p with st := .performed }
    match p.dst with
    | .hbm pa false =>
      changeWords r.writer r.id i pa p.len (wordsTouched pa p.len p.mask) (drainL1 s r p pa)
    | _ => s

/-! ### Atomics (R150) -/

/-- The new value of an atomic on `w` bits. -/
def amoValue (op : AmoOp) (w : Nat) (old b d : Nat) : Nat :=
  let b := b % 2 ^ w
  let d := d % 2 ^ w
  match op with
  | .add => (old + b) % 2 ^ w
  | .and => old &&& b
  | .or => old ||| b
  | .xor => old ^^^ b
  | .min => if sxt w b < sxt w old then b else old
  | .max => if sxt w old < sxt w b then b else old
  | .minu => min old b
  | .maxu => max old b
  | .swap => b
  | .cas => if old = d then b else old
  | .fadd => addF fmtF32 old b

/-- An atomic at its home: one indivisible read and write; every owner of its words is revoked, and the core's L1 copy of
the line goes (DEDUCED, log 41). -/
def performAmo (s : State) (r : Req) (i : Nat) (p : Piece) (op : AmoOp) (size : Nat) (b d : Word) : State :=
  if poisoned s p.dst p.len then updPiece s r.id i (spoiled s .poisoned)
  else
    let old := p.dst.read s size
    let new := amoValue op (8 * size) old b.toNat d.toNat
    let s := p.dst.write s size p.mask (BitVec.ofNat 64 new)
    let s := updPiece s r.id i fun p => { p with st := .performed, data := BitVec.ofNat 64 old }
    match p.dst with
    | .hbm pa false => (changeWords none r.id i pa size (wordsTouched pa size p.mask) s).updCore r.core fun k => l1Drop k pa
    | _ => s

/-! ### Scratchpad words (R142, R144, R146) -/

/-- The full/empty bit of a word. -/
def isFull (k : Core) (word : Nat) : Bool := k.full.contains word

/-- A synchronising access performed at its word, if the bit allows. -/
def trySync (s : State) (owner : CoreId) (word : Nat) (r : Req) (p : Piece) : Option State :=
  let k := s.getCore owner
  let done (s : State) (v : BitVec 64) := updPiece s r.id 0 fun p => { p with st := .performed, data := v }
  let value := BitVec.ofNat 64 (getBytes k.sp (4 * word) 4)
  let err (s : State) := updPiece s r.id 0 (spoiled s .poisoned)
  let fill (s : State) := s.updCore owner fun k =>
    { k with sp := setBytes k.sp (4 * word) 4 p.data.toNat, full := sins k.full word, spPoison := sdel k.spPoison word }
  match r.op with
  | .ldf =>
    if k.spPoison.contains word then some (err s)
    else if isFull k word then some (done s value) else none
  | .ldt =>
    if k.spPoison.contains word then some (err s)
    else if isFull k word then some (done (s.updCore owner fun k => { k with full := sdel k.full word }) value) else none
  | .ste => if isFull k word || k.spPoison.contains word then none else some (done (fill s) 0)
  | _ => some (done (fill s) 0)

/-- The earliest waiter of a word that can proceed is performed, again and again (R144). -/
def serveWord (owner : CoreId) (word : Nat) : Nat → State → State
  | 0, s => s
  | n + 1, s =>
    let next := ((s.getCore owner).waiters.filter (·.1 = word)).findSome? fun (_, id) =>
      match findReq s id with
      | some r => (r.pieces.head?.bind (trySync s owner word r)).map fun s' => (id, s')
      | none => none
    match next with
    | some (id, s') => serveWord owner word n (s'.updCore owner fun k => { k with waiters := k.waiters.filter (·.2 != id) })
    | none => s

/-- The waiters of a word are served after a write or a change of its bit. -/
def serve (s : State) (owner : CoreId) (word : Nat) : State := serveWord owner word (s.getCore owner).waiters.length s

/-- A synchronising access arrives at its word: performed if it can, held in arrival order otherwise. -/
def arriveSync (s : State) (r : Req) (p : Piece) (owner : CoreId) (word : Nat) : State :=
  match trySync s owner word r p with
  | some s' => serve s' owner word
  | none =>
    (updPiece s r.id 0 fun p => { p with st := .held }).updCore owner fun k =>
      { k with waiters := k.waiters ++ [(word, r.id)] }

/-- The bit of one word is set by `fe.fill` or cleared by `fe.clr` (R147). -/
def setFull (s : State) (owner : CoreId) (word : Nat) (full : Bool) : State :=
  serve (s.updCore owner fun k => { k with full := if full then sins k.full word else sdel k.full word }) owner word

/-- An engine write of scratchpad bytes: each word is written, set full, and its waiters served (R146). `none` if it
covers part of a poisoned word (R379). -/
def engineWrite (s : State) (c : CoreId) (off : Nat) (bytes : List Byte) : Option State :=
  let words := (List.range ((off % 4 + bytes.length + 3) / 4)).map (off / 4 + ·)
  let partly (w : Nat) : Bool := decide (4 * w < off) || decide (off + bytes.length < 4 * w + 4)
  if bytes = [] then some s
  else if words.any fun w => (s.getCore c).spPoison.contains w && partly w then none
  else
    let s := s.updCore c fun k =>
      { k with sp := setList k.sp off bytes, spPoison := k.spPoison.filter (!words.contains ·) }
    some (words.foldl (fun s w => setFull s c w true) s)

/-! ### Peer rights (R154, R158, R161) -/

/-- Two cores are members of one live group that neither has exited. -/
def shareGroup (s : State) (a b : CoreId) : Bool :=
  s.groups.any fun g =>
    g.members.any (·.2 = a) && g.members.any (·.2 = b) && !g.exited.contains a && !g.exited.contains b

/-- A peer access is refused at its target: no live group in common, or the target is fenced (R384). -/
def refused (s : State) (r : Req) (p : Piece) : Bool :=
  match p.dst with
  | .sp c _ => c != r.core && ((s.getCore c).fenced || !shareGroup s r.core c)
  | _ => false

/-! ### Global writes by agents without an L1 (R191) -/

/-- The owner of a word loses it in the same step in which another agent writes the word (R181, R182) (DESIGN CHOICE,
log 71). -/
def revokeNow (s : State) (word : Nat) : State :=
  match tget? s.owners word with
  | some o => { s with owners := tdel s.owners word }.updCore o fun k => invalidateWord k word
  | none => s

/-- A byte of a write of `n` bytes at `pa` that is not performed: its granule is poisoned and covered in part, or its stack is fenced
or, for the west basecamp, out of reach (R379, R384, R386). -/
def spoiledByte (s : State) (pa n a : Nat) : Bool :=
  s.stacksBad.contains (nbits a 36 4) || isLost s (0x100 + nbits a 36 4) || (splitFrom s false a && !memorySide s a) ||
    (s.hbmPoison.contains (a / 32) && (decide (32 * (a / 32) < pa) || decide (pa + n < 32 * (a / 32) + 32)))

/-- Bytes written to HBM where they are performed; granules that are covered wholly lose their poison (R379). -/
def hbmPut (s : State) (pa : Nat) (bytes : List Byte) : State :=
  { s with hbm := putBytes (fun a => !spoiledByte s pa bytes.length a) s.hbm pa bytes,
           hbmPoison := s.hbmPoison.filter fun g => !(decide (pa ≤ 32 * g) && decide (32 * g + 32 ≤ pa + bytes.length)) }

/-- Bytes written to global memory at their point of order by the host, the loader or basecamp firmware; the
write ends with every revocation acknowledged (R181, R191). Of the host or a loader that writes a sealed line the manual states no
outcome: the bytes are written, and every replica goes (DESIGN CHOICE, log 83). -/
def agentWrite (s : State) (pa : Nat) (bytes : List Byte) : State :=
  let s := hbmPut s pa bytes
  let s := if isSealed s pa then dropReplicas s pa bytes.length else s
  ((List.range ((pa % 4 + bytes.length + 3) / 4)).map (pa / 4 + ·)).foldl revokeNow s

/-- A write of some bytes is not performed in whole (R379, R384). -/
def spoiledWrite (s : State) (pa n : Nat) : Bool := (List.range n).any fun i => spoiledByte s pa n (pa + i)

/-- A basecamp's firmware writes global memory; where a part is not performed, its store error is the orphan-error event of the
basecamp's core 0 (R379) (DESIGN CHOICE, log 84). -/
def firmwareBytes (s : State) (b pa : Nat) (bytes : List Byte) : State :=
  let s' := agentWrite s pa bytes
  if spoiledWrite s pa bytes.length then queueEvent s' (4096 + 2 * b) 0x35 0 [BitVec.ofNat 64 pa, 0x61] else s'

end Sys2Proof.Machine
end

