-- ==== Sys2Proof/Machine/MemEvents.lean ====
section
/-! DEFINITION. The steps of the memory system: arrivals at points of order, revocations, acknowledgements, returned and
deferred errors, walks, refresh windows, page migration (R144, R161, R163, R179, R181, R363 to R366, R374, R377). A step
that is not due leaves the state as it is. -/

namespace Sys2Proof.Machine

/-- A request and its piece `i`. -/
def findPiece (s : State) (req i : Nat) : Option (Req × Piece) :=
  match findReq s req with
  | none => none
  | some r => (r.pieces[i]?).map fun p => (r, p)

/-- The migration whose old page a physical address lies in (R366). -/
def migrationAt (s : State) (pa : Nat) : Option Migration :=
  s.migrations.find? fun m => decide (m.oldPa ≤ pa) && decide (pa < m.oldPa + m.size)

/-- The old home holds a piece that arrives at a page under migration. -/
def heldByMigration (s : State) (p : Piece) : Bool :=
  match p.dst with
  | .hbm pa _ => !p.mig && (migrationAt s pa).isSome
  | _ => false

/-- A weight-store bank that a read cannot use now: its window is open (R163). -/
def bankClosed (s : State) (g off : Nat) : Bool :=
  (s.getCluster g).wsOpen && (s.getCluster g).bank.toNat == off / 2048 % 8

/-- A place that can serve now. -/
def servable (s : State) (d : Place) : Bool :=
  match d with
  | .ws g off => !bankClosed s g off
  | _ => true

/-- Whether a place is the scratchpad of a peer of the seat that asks. -/
def isPeer (r : Req) (d : Place) : Bool :=
  match d with
  | .sp c _ => r.agent = .seat && c != r.core
  | _ => false

/-- Whether an engine writes a scratchpad word, which sets it full (R146). -/
def isEngineFill (r : Req) (d : Place) : Bool :=
  match d with
  | .sp .. => r.agent != .seat && r.op = .store
  | _ => false

/-- The revocations that piece `i` of a request awaits (R181). -/
def pieceRevs (s : State) (req i : Nat) : Bool := s.revs.any fun v => v.req = req && v.piece = i

/-- The answer of a performed or refused piece leaves its home; that of a store once it is registered (R181). -/
def sendAnswer (s : State) (req i : Nat) : State :=
  match findPiece s req i with
  | none => s
  | some (r, p) => if p.open || (r.op = .store && pieceRevs s req i) then s else answerPiece s r i p

/-- The copy of a piece that stands at its home is taken. -/
def takeCopy (s : State) (r : Req) (i : Nat) (p : Piece) : State :=
  match copyAt s r i p with
  | none => s
  | some k => updPiece (dropPacket s k.id) r.id i fun p => { p with via := k.inj }

/-- An older access of the requester to the same line of addresses waits at the old home of a page that has moved, or comes from
there (R95, R366). -/
def behindMoved (s : State) (r : Req) (i : Nat) (p : Piece) : Bool :=
  (olderPieces s (fun q => q.who = r.who) r.id i).any fun q => q.dst.numbered && (q.mig || q.st = .held) && p.follows q

/-- Whether a piece has come to its point of order, next in its order. -/
def atOrder (s : State) (r : Req) (i : Nat) (p : Piece) : Bool :=
  p.st = .waiting && inOrder s r i p &&
    (!p.dst.numbered || ((copyAt s r i p).isSome && (heldByMigration s p || !behindMoved s r i p)))

/-- Another copy of a piece that its home has answered (R364): a load or walk is served again with the present value, anything else,
and a load of a page that has moved, is answered from the stored reply; below the window, or answered already, it is
discarded. -/
def again (s : State) (r : Req) (i : Nat) (p : Piece) (f : State → Req → Nat → Piece → State) : State :=
  let s' := takeCopy s r i p
  if p.back || !(p.mig || inWindow p.num (pget 0 s.expects (r.who, p.home))) then s'
  else if (r.op matches .load .. | .vload | .walk _) && !p.mig && !heldByMigration s p then sendAnswer (f s' r i p) r.id i
  else sendAnswer s' r.id i

/-- A piece at its point of order: held when its page is being moved, else performed by `f` and answered; another copy of an
answered one is answered again (R180, R350, R364, R366). -/
def atHome (s : State) (req i : Nat) (ok : Req → Piece → Bool) (f : State → Req → Nat → Piece → State) : State :=
  match findPiece s req i with
  | none => s
  | some (r, p) =>
    if !ok r p then s
    else if atOrder s r i p then
      let s := takeCopy (arrived s r p) r i p
      if heldByMigration s p then updPiece s req i fun p => { p with st := .held }
      else sendAnswer (f s r i p) req i
    else if !p.open && (copyAt s r i p).isSome then again s r i p f
    else s

/-- LOAD_AT_HOME: a load piece reaches its point of order outside the peers (R180, R181, R350). -/
def execLoadAtHome (req piece : Nat) (s : State) : Result :=
  .next (atHome s req piece (fun r p => (r.op matches .load .. | .vload) && !isPeer r p.dst && servable s p.dst) performLoad)

/-- STORE_AT_HOME: a store piece reaches its point of order outside the peers (R181), or an `l2.wb` its home (R322, R341). -/
def execStoreAtHome (req piece : Nat) (s : State) : Result :=
  .next (atHome s req piece (fun r p => r.op = .wb || (r.op = .store && !isPeer r p.dst && !isEngineFill r p.dst))
    fun s r i p => if r.op = .wb then performWb s r i p else performStore s r i p)

/-- ATOMIC_AT_HOME (R150). -/
def execAtomicAtHome (req : Nat) (s : State) : Result :=
  .next (atHome s req 0 (fun r _ => r.op matches .amo ..) fun s r i p => match r.op with
    | .amo op size b d => performAmo s r i p op size b d
    | _ => s)

/-- A plain access of a seat at a peer: performed, or refused (R161). -/
def peerPlain (s : State) (r : Req) (i : Nat) (p : Piece) : State :=
  if refused s r p then updPiece s r.id i fun p => { p with st := .refused }
  else if r.op = .store then performStore s r i p else performLoad s r i p

/-- PEER_ACCESS_ARRIVAL: the target's interface checks a plain access and performs or refuses it (R161). -/
def execPeerAccessArrival (req piece : Nat) (s : State) : Result :=
  .next (atHome s req piece (fun r p => (r.op matches .load .. | .vload | .store) && isPeer r p.dst) peerPlain)

/-- A synchronising access, a range event or an engine's word at a scratchpad word (R142, R144, R146, R147). -/
def syncWord (s : State) (r : Req) (i : Nat) (p : Piece) : State :=
  match p.dst with
  | .sp c off =>
    if r.op = .store then
      let s := performStore s r i p
      if ((findPiece s r.id i).map (·.2.st)) = some .performed then setFull s c (off / 4) true else s
    else if refused s r p then updPiece s r.id i fun p => { p with st := .refused }
    else if isSyncOp r.op then arriveSync s r p c (off / 4)
    else setFull (updPiece s r.id i fun p => { p with st := .performed }) c (off / 4) (r.op = .feFill)
  | _ => s

/-- SYNC_ACCESS_ARRIVAL: a synchronising access, a range event in its turn, or an engine's word reaches its word (R142, R144,
R146, R147, R161). -/
def execSyncAccessArrival (req piece : Nat) (s : State) : Result :=
  .next (atHome s req piece (fun r p =>
    isSyncOp r.op || (isRangeOp r.op && (r.pieces.take piece).all (·.st != .waiting)) || isEngineFill r p.dst) syncWord)

/-- REVOCATION: the former owner's word becomes Invalid, and the acknowledgement leaves on the mesh of the revocation (R181,
R182, R344). -/
def execRevocation (rev : Nat) (s : State) : Result :=
  .next <| match s.net.find? fun k => k.came && k.body = .revoke rev, s.revs.find? (·.id = rev) with
    | some k, some v =>
      let s := (dropPacket s k.id).updCore v.core fun c => invalidateWord c v.word
      let s : State := { s with revs := s.revs.map fun w => if w.id = rev then { w with seen := true } else w }
      addPacket s { id := 0, src := k.dst, dst := k.src, rank := 0, tc := 5, body := .revokeAck rev, m := k.m, via := k.inj }
    | _, _ => s

/-- REVOCATION_ACK: the home takes the acknowledgement, and with the last one of a store answers it (R181). -/
def execRevocationAck (rev : Nat) (s : State) : Result :=
  .next <| match s.net.find? fun k => k.came && k.body = .revokeAck rev, s.revs.find? (·.id = rev) with
    | some k, some v =>
      let s := { dropPacket s k.id with revs := s.revs.filter (·.id != rev) }
      match findReq s v.req with
      | some r => if r.op = .store && !pieceRevs s v.req v.piece then sendAnswer s v.req v.piece else s
      | none => s
    | _, _ => s

/-- Every piece of a request has been dealt with, and its answer has come back to the requester. -/
def settled (r : Req) : Bool := r.pieces.all fun p => !p.open && (p.back || !p.dst.numbered)

/-- The address of the lowest byte that a piece accesses (R138, R161). -/
def Piece.first (p : Piece) : Word :=
  p.va + BitVec.ofNat 64 (((List.range p.len).find? fun i => p.mask.toNat / 2 ^ (8 * i) % 256 != 0).getD 0)

/-- The error of a settled request, if any: the piece of the lowest address decides; the cause and the address (R161, R365,
R378, R379). -/
def pieceError (p : Piece) : Option (BitVec 8 × Word) :=
  match p.st with
  | .refused => some (0x23, p.first)
  | .poisoned => some (0x60, p.va + p.data)
  | .rejected => some (0x61, p.va + p.data)
  | .failed => some (0x24, p.first)
  | _ => none

/-- The error of lowest address among some (DEDUCED, log 39). -/
def lowestError : List (BitVec 8 × Word) → Option (BitVec 8 × Word)
  | [] => none
  | e :: t => match lowestError t with
    | some f => some (if e.2.ule f.2 then e else f)
    | none => some e

def reqError (r : Req) : Option (BitVec 8 × Word) := lowestError (r.pieces.filterMap pieceError)

/-- A request leaves the table. -/
def dropReq (s : State) (id : Nat) : State := { s with reqs := s.reqs.filter (·.id != id) }

/-- Revocations that a request awaits. -/
def awaitsRevs (s : State) (id : Nat) : Bool := s.revs.any (·.req = id)

/-- The lowest write of a packet that is under way or has met an error: no byte from there on counts as delivered (R308, R310). -/
def HaulPkt.lowest (p : HaulPkt) : Option HaulWr :=
  match p.wr.head?, p.err with
  | none, e => e.map (·.2.2)
  | some w, none => some w
  | some w, some (_, _, e) => some (if e.progress < w.progress then e else w)

/-- The write pointer of a haul channel passes what its writes have delivered in address order (R188, R268, R308). -/
def haulPointer (c : Channel) : Channel :=
  match c.pkt with
  | none => c
  | some p => { c with wp := (p.lowest.map (·.wp)).getD p.top }

/-- The FAULT of a haul channel for an error of its request: poison 7, a failed request 8 (R309). -/
def haulFault (cause : BitVec 8) : Nat := if cause = 0x24 then 8 else 7

/-- A write of a packet is registered; of several errors that of the earliest beat stays (R310). -/
def haulWritten (r : Req) (p : HaulPkt) : HaulPkt :=
  let err := match p.wr.find? (·.id = r.id), reqError r with
    | some w, some (cause, x) => match p.err with
      | some e => some (if w.progress < e.2.2.progress then (haulFault cause, x, w) else e)
      | none => some (haulFault cause, x, w)
    | _, _ => p.err
  { p with wr := p.wr.filter (·.id != r.id), err := err }

/-- An engine's write is registered: its channel or command counts it out, and keeps its error, and the `sh.bow` or `sh.stroke` whose
sums it wrote is done (R188, R260, R308, R379). The error of a header's write reaches nobody (R300); an `hl.post` and an optical
chiplet take their answers themselves. -/
def engineAck (s : State) (r : Req) : State :=
  match r.agent with
  | .haul cl ch =>
    (dropReq s r.id).updCluster cl fun g =>
      let c := g.chans.getD ch {}
      { g with chans := g.chans.setIfInBounds ch (haulPointer { c with pkt := c.pkt.map (haulWritten r) }) }
  | .shell cmd =>
    let s := (dropReq s r.id).updCore r.core fun k => { k with shell := { k.shell with cmds := k.shell.cmds.map fun c =>
      if c.id = cmd then { c with wr := c.wr.filter (· != r.id), err := c.err.or (reqError r) } else c } }
    match findOut s cmd with
    | some (c, n, _) => answer s c n cmd (.value 0)
    | none => s
  | .header .. => dropReq s r.id
  | .seat => s
  | .post op => if (findOut s op).isNone then dropReq s r.id else s
  | .far _ => s
  | .walk _ => s

/-- STORE_ACK: a store, or an atomic whose value has returned, is registered (R181). A `st.rel` is then complete, and an
engine's write is counted. -/
def execStoreAck (req : Nat) (s : State) : Result :=
  .next <| match findReq s req with
    | none => s
    | some r =>
      if !settled r || awaitsRevs s req then s
      else if r.agent != .seat then (if r.op = .store || (r.agent matches .post _) then engineAck s r else s)
      else match findOut s req with
        | none => if (reqError r).isSome && r.op = .store then s else dropReq s req
        | some (c, n, _) =>
          if r.op = .store && (reqError r).isNone then answer (dropReq s req) c n req (.value 0) else s

/-! ### Errors -/

/-- An operation is outstanding no more, without any check of the seat's status. -/
def dropOut (s : State) (c : CoreId) (n id : Nat) : State :=
  s.updSeatAt c n fun t => { t with outs := t.outs.filter (·.id != id) }

/-! ### Walks and refresh -/

/-- The answers of walks that the units of one group hold, and that `p` takes, are dropped. -/
def dropAnswers (s : State) (group : Nat) (p : Ask → Bool) : State :=
  { s with asks := s.asks.filter fun a => !(walkGroup a.unit.core == group && p a) }

/-- A page of an address space leaves a core's cache and its cluster's, or an optical chiplet's, and what its units have just been
answered of it. -/
def dropTlb (s : State) (c : CoreId) (p : Tlb → Bool) : State :=
  let s := dropAnswers s (walkGroup c) fun a => match a.ans with
    | .leaf e => p e
    | _ => false
  if 8192 ≤ c then { s with farTlb := tset s.farTlb (c - 8192) ((tget [] s.farTlb (c - 8192)).filter (!p ·)) }
  else
    let s := s.updCore c fun k => { k with tlb := k.tlb.filter (!p ·) }
    if isBc c then s else s.updCluster (clusterOf c) fun g => { g with tlb := g.tlb.filter (!p ·) }

/-- A translation enters the caches of a unit that has waited for it (R179, R361). -/
def fillFor (s : State) (u : Asker) (e : Tlb) : State :=
  match u with
  | .seat c _ => fillTlb s c e
  | .op c _ => fillTlb s c e
  | .chan cl _ => s.ticked.updCluster cl fun g => { g with tlb := addTlb 1024 (Config.tlbVictim s.tick) g.tlb e }
  | .far chip _ => { s.ticked with farTlb := tset s.farTlb chip (addTlb 64 (Config.tlbVictim s.tick) (tget [] s.farTlb chip) e) }

/-- The walks that the walker of a slot runs. -/
def walksAt (s : State) (slot : Nat) : Nat :=
  (s.reqs.filter fun r => isWalk r.op && r.pieces.any fun p => p.st = .held && p.dst.home s = some slot).length

/-- The walk that has come to a walker in its order and waits there longest (R179). -/
def nextWalk (s : State) (slot : Nat) : Option Nat :=
  s.net.findSome? fun k => match k.body with
    | .memReq q i _ _ => ((findPiece s q i).filter fun (r, p) =>
        k.came && isWalk r.op && p.dst.home s = some slot && atOrder s r i p).map (·.1.id)
    | _ => none

/-- A walk comes about at its walker, whose entries are read in this one step (DESIGN CHOICE, log 93). -/
def performWalk (s : State) (r : Req) (i : Nat) (p : Piece) : State :=
  let put (st : PieceState) (w : BitVec 64) := updPiece s r.id i fun p => { p with st := st, data := w }
  match r.op, p.dst with
  | .walk root, .walker page =>
    if fencedPlace s p.dst then put .poisoned 0
    else match walk s root (page * 65536) (isLost s (slotSite (walkerSlot page))) with
      | .leaf e => put .performed (packLeaf e)
      | .fault c => if c = 0x60 then put .poisoned 0 else put .performed 0
      | .waiting => s
  | _, _ => s

/-- What a walk whose answer has come back gives: of one that failed after its reissues the manual says nothing; its accesses take the
link-failure trap, as a failed load (R365) (DESIGN CHOICE, log 93). -/
def walkAnswer (root : Word) (p : Piece) : WalkAns :=
  match p.st with
  | .performed => unpackLeaf root (fld p.va 47 16) p.data
  | .poisoned => .fault 0x60
  | _ => .fault 0x24

/-- The answer of a walk is delivered to every unit that waits for it: a leaf enters their caches, a fault none (R179). -/
def deliverWalk (s : State) (r : Req) (root : Word) (p : Piece) : State :=
  let ans := walkAnswer root p
  let units := (s.asks.filter (·.walk = r.id)).map (·.unit)
  let s := dropReq { s with asks := s.asks.map fun a => if a.walk = r.id then { a with ans := ans } else a } r.id
  match ans with
  | .leaf e => units.foldl (fun s u => fillFor s u e) s
  | _ => s

/-- A walk goes on: it takes one of the 32 places of its walker, is performed there and answered, and its answer is delivered
(R179). -/
def walkOn (s : State) (r : Req) (root : Word) (p : Piece) : State :=
  if settled r then deliverWalk s r root p
  else match p.st with
    | .held => sendAnswer (performWalk s r 0 p) r.id 0
    | .waiting =>
      if (p.dst.home s).any fun h => walksAt s h < 32 && nextWalk s h = some r.id then
        updPiece (takeCopy (arrived s r p) r 0 p) r.id 0 fun p => { p with st := .held }
      else s
    | _ => if (copyAt s r 0 p).isSome then again s r 0 p performWalk else s

/-- TRANSLATION_WALK: a walk goes on; for a number that no walk has, an entry leaves the caches by replacement (R179). -/
def execTranslationWalk (at' : WalkAt) (va : Word) (s : State) : Result :=
  .next <| match findReq s at'.req with
    | none =>
      let core := at'.core
      let root := if 8192 ≤ core then s.farTt else (s.getCore core).ttRoot
      if isCore core || decide (8192 ≤ core ∧ core < 8200) then dropTlb s core fun e => e.covers (rootAsid root) (fld va 47 0) else s
    | some r => match r.op, r.pieces with
      | .walk root, [p] => walkOn s r root p
      | _, _ => s

/-- WS_REFRESH_OPEN: the window of the cluster's next bank opens (R163). -/
def execWsRefreshOpen (cluster : Nat) (s : State) : Result :=
  .next (if isCluster cluster then s.updCluster cluster fun g => { g with wsOpen := true } else s)

/-- WS_REFRESH_CLOSE: the open window closes, and the next bank's is awaited (R163). -/
def execWsRefreshClose (cluster : Nat) (s : State) : Result :=
  .next (if isCluster cluster && (s.getCluster cluster).wsOpen then
    s.updCluster cluster fun g => { g with wsOpen := false, bank := g.bank + 1 } else s)

/-! ### Page migration (R366) -/

/-- Whether a leaf entry can be moved to a page. -/
def canMigrate (s : State) (entry level newPa : Nat) : Bool :=
  let e := getDouble s.hbm entry
  decide (level < 3) && e.getLsbD 0 && e.getLsbD 1 && !badEntry e && leafOk e level &&
    newPa % pageSize level == 0 && decide (newPa < 2 ^ 40) && decide (newPa % 2 ^ 36 + pageSize level ≤ populated) &&
    !s.migrations.any (·.entry = entry)

/-- Every translation cache drops the entries of a page. -/
def dropTlbAll (s : State) (pa n : Nat) : State :=
  let hit (e : Tlb) : Bool := decide (pa ≤ e.pa) && decide (e.pa < pa + n)
  { s with asks := s.asks.filter fun a => !(match a.ans with
             | .leaf e => hit e
             | _ => false),
           cores := s.cores.map fun (c, k) => (c, { k with tlb := k.tlb.filter (!hit ·) }),
           clusters := s.clusters.map fun (c, g) => (c, { g with tlb := g.tlb.filter (!hit ·) }),
           farTlb := s.farTlb.map fun (c, l) => (c, l.filter (!hit ·)) }

/-- A piece that still lies on a page. -/
def onPage (pa n : Nat) (p : Piece) : Bool :=
  match p.dst with
  | .hbm q _ => (p.st = .waiting || p.st = .held) && decide (pa ≤ q) && decide (q < pa + n)
  | _ => false

/-- The poisoned granules after the copy of a page: those of the old page, all of it on a fenced stack, at their new places, the
granules of the new page otherwise written whole (R378, R379, R384). -/
def movePoison (s : State) (m : Migration) : List Nat :=
  let l := s.hbmPoison
  let old := if s.stacksBad.contains (nbits m.oldPa 36 4) then (List.range (m.size / 32)).map (m.oldPa / 32 + ·)
    else l.filter fun g => decide (m.oldPa ≤ 32 * g) && decide (32 * g < m.oldPa + m.size)
  let kept := l.filter fun g => !(decide (m.newPa ≤ 32 * g) && decide (32 * g < m.newPa + m.size))
  old.foldl (fun l g => sins l (g - m.oldPa / 32 + m.newPa / 32)) kept

/-- The subscriptions of queue headers on a page that has moved stand at its new home (DEDUCED, log 68). -/
def moveHeaders (m : Migration) (g : Cluster) : Cluster :=
  { g with chans := g.chans.map fun c =>
      if m.oldPa ≤ c.hpa ∧ c.hpa < m.oldPa + m.size then { c with hpa := m.newPa + (c.hpa - m.oldPa) } else c }

/-- PAGE_MIGRATION: step 1 marks the page, step 2 copies it and rewrites the entry, step 3 marks it moved, step 4 empties
the translation caches, once the walks under way have delivered (R323); the mark goes once no request to the old page is left. -/
def execPageMigration (entry level newPa stage : Nat) (s : State) : Result :=
  .next <| match stage, s.migrations.find? (·.entry = entry) with
    | 1, none =>
      if canMigrate s entry level newPa then
        { s with migrations := s.migrations ++
          [⟨entry, fld (getDouble s.hbm entry) 39 8 * 256, newPa, pageSize level, false⟩] }
      else s
    | 2, some m =>
      if m.moved then s
      else
        let page := takeRange s.hbm m.oldPa (m.oldPa + m.size)
        let cleared := clearRange s.hbm m.newPa (m.newPa + m.size)
        let copied := page.foldl (fun h c => setByte h (m.newPa + (c.1 - m.oldPa)) c.2) cleared
        let e := getDouble s.hbm entry
        let e' : Word := (e &&& ~~~0xFFFFFFFF00#64) ||| BitVec.ofNat 64 m.newPa
        { s with hbm := setDouble copied entry e', hbmPoison := movePoison s m }
    | 3, some m => { s with
        clusters := if m.moved then s.clusters else s.clusters.map fun (c, g) => (c, moveHeaders m g)
        migrations := s.migrations.map fun m => if m.entry = entry then { m with moved := true } else m }
    | 4, some m =>
      if !m.moved || s.reqs.any (isWalk ·.op) then s
      else
        let s := dropTlbAll s m.oldPa m.size
        if s.reqs.any fun r => r.pieces.any (onPage m.oldPa m.size) then s
        else { s with migrations := s.migrations.filter (·.entry != entry) }
    | _, _ => s

/-- What a request asks of its pages. -/
def ReqOp.need : ReqOp → Need
  | .store => .write
  | .amo .. => .both
  | _ => .read

/-- The unit that translates again for a request whose page has moved (R299, R359, R366). -/
def Req.unit (r : Req) : Asker :=
  match r.agent with
  | .haul cl ch => if 8192 ≤ r.core then .far (r.core - 8192) (chanWho cl ch) else .chan cl ch
  | .header cl ch => .chan cl ch
  | .far who => .far (r.core - 8192) who
  | _ => .op r.core r.id

/-- The translation of an address under which a unit reissues. -/
def unitLeaf (s : State) (r : Req) (va : Word) : Leaf := leafOf s r.unit (fld va 47 0)

/-- Whether a piece is outstanding to a page that has been moved, and not reissued yet. -/
def movedPiece (s : State) (p : Piece) : Bool :=
  match p.dst with
  | .hbm pa _ => p.open && !p.mig && (migrationAt s pa).any (·.moved)
  | _ => false

/-- A piece outstanding to a moved page goes to its new place with its old number, its old home and the MIG flag; an address
that no longer translates stays (DEDUCED, log 68). -/
def reissue (s : State) (r : Req) (p : Piece) : Piece :=
  match movedPiece s p, unitLeaf s r p.va with
  | true, .hit e =>
    if (permFault r.op.need e).isSome then p
    else { p with dst := e.place s (fld p.va 47 0), st := .waiting, mig := true }
  | _, _ => p

/-- The address of a request whose page has moved and whose new translation the unit still lacks. -/
def untranslated (s : State) (r : Req) : Option Word :=
  (r.pieces.find? fun p => movedPiece s p && unitLeaf s r p.va = .miss).map (·.va)

/-- Every outstanding piece of one unit's request to moved pages is reissued, in order, or a walk of its page is awaited; the answers
of the walks are the unit's no more once it needs none. -/
def reissueReq (s : State) (r : Req) : State :=
  let ps := r.pieces.map (reissue s r)
  let left := untranslated s r
  let s := updReq s r.id fun r => { r with pieces := ps }
  let s := ((r.pieces.zip ps).zipIdx).foldl (fun s (pq, i) => if pq.2.mig && !pq.1.mig then sendPiece s r i pq.2 else s) s
  match left with
  | some va => askWalk s r.unit (rootFor s r.unit) (fld va 47 0)
  | none => s.forget r.unit

/-- MOVED_REPLY: the requester of a held piece drops its translations of the page, translates again, which may take a walk, and reissues,
in issue order, every request that it has outstanding to the page (R366). -/
def execMovedReply (req : Nat) (s : State) : Result :=
  .next <| match findReq s req with
    | none => s
    | some r =>
      let old := r.pieces.filterMap fun p => match p.st, p.dst with
        | .held, .hbm pa _ => (migrationAt s pa).filter (·.moved)
        | _, _ => none
      if old.isEmpty then s
      else
        let s := dropTlb s r.core fun e => old.any fun m => decide (m.oldPa ≤ e.pa) && decide (e.pa < m.oldPa + m.size)
        (s.reqs.filter fun q => q.who = r.who).foldl (fun s q => reissueReq s q) s

end Sys2Proof.Machine
end

