-- ==== Sys2Proof/Machine/Scalar.lean ====
section
/-! DEFINITION. Compares, predicate logic, branches, the end of a firing and scalar floating point, with their 16-bit
forms (R18, R34 to R37, R63 to R71, R84 to R91). -/

namespace Sys2Proof.Machine

/-! ### Compares -/

/-- pd and pe from xa and xb. -/
def cmpReg (c : Ctl) (p e : BitVec 3) (a b : BitVec 5) (f : Word → Word → Bool) (s : State) : Result :=
  issue c 2 { rx := [a, b], wp := [p, e] } (fun s => putCond s p e (f (s.thisSeat.getX a) (s.thisSeat.getX b))) s

/-- pd and pe from xa and a sign-extended immediate. -/
def cmpImm (c : Ctl) (p e : BitVec 3) (a : BitVec 5) (i : BitVec 6) (f : Word → Word → Bool) (s : State) : Result :=
  issue c 2 { rx := [a], wp := [p, e] } (fun s => putCond s p e (f (s.thisSeat.getX a) (simm i))) s

/-- A floating compare reads the low bits of its operands (R63, R85). -/
def cmpFloat (c : Ctl) (p e : BitVec 3) (a b : BitVec 5) (t : BitVec 2) (k : FCond) (s : State) : Result :=
  let f := scalarFmt t
  cmpReg c p e a b (fun x y => k.holds f (low x f.width) (low y f.width)) s

/-- `cmp.eq` (R84). -/
def execCmpEq (c : Ctl) (p e : BitVec 3) (a b : BitVec 5) (s : State) : Result := cmpReg c p e a b Cond.eq.holds s
/-- `cmp.ne` (R84). -/
def execCmpNe (c : Ctl) (p e : BitVec 3) (a b : BitVec 5) (s : State) : Result := cmpReg c p e a b Cond.ne.holds s
/-- `cmp.lt` (R84). -/
def execCmpLt (c : Ctl) (p e : BitVec 3) (a b : BitVec 5) (s : State) : Result := cmpReg c p e a b Cond.lt.holds s
/-- `cmp.ge` (R84). -/
def execCmpGe (c : Ctl) (p e : BitVec 3) (a b : BitVec 5) (s : State) : Result := cmpReg c p e a b Cond.ge.holds s
/-- `cmp.ltu` (R84). -/
def execCmpLtu (c : Ctl) (p e : BitVec 3) (a b : BitVec 5) (s : State) : Result := cmpReg c p e a b Cond.ltu.holds s
/-- `cmp.geu` (R84). -/
def execCmpGeu (c : Ctl) (p e : BitVec 3) (a b : BitVec 5) (s : State) : Result := cmpReg c p e a b Cond.geu.holds s
/-- `cmp.le` (R84). -/
def execCmpLe (c : Ctl) (p e : BitVec 3) (a b : BitVec 5) (s : State) : Result := cmpReg c p e a b Cond.le.holds s
/-- `cmp.gt` (R84). -/
def execCmpGt (c : Ctl) (p e : BitVec 3) (a b : BitVec 5) (s : State) : Result := cmpReg c p e a b Cond.gt.holds s
/-- `cmp.leu` (R84). -/
def execCmpLeu (c : Ctl) (p e : BitVec 3) (a b : BitVec 5) (s : State) : Result := cmpReg c p e a b Cond.leu.holds s
/-- `cmp.gtu` (R84). -/
def execCmpGtu (c : Ctl) (p e : BitVec 3) (a b : BitVec 5) (s : State) : Result := cmpReg c p e a b Cond.gtu.holds s
/-- `cmp.tst` (R84). -/
def execCmpTst (c : Ctl) (p e : BitVec 3) (a b : BitVec 5) (s : State) : Result := cmpReg c p e a b Cond.tst.holds s
/-- `cmp.eq` with an immediate (R84). -/
def execCmpEqImm (c : Ctl) (p e : BitVec 3) (a : BitVec 5) (i : BitVec 6) (s : State) : Result :=
  cmpImm c p e a i Cond.eq.holds s
/-- `cmp.ne` with an immediate (R84). -/
def execCmpNeImm (c : Ctl) (p e : BitVec 3) (a : BitVec 5) (i : BitVec 6) (s : State) : Result :=
  cmpImm c p e a i Cond.ne.holds s
/-- `cmp.lt` with an immediate (R84). -/
def execCmpLtImm (c : Ctl) (p e : BitVec 3) (a : BitVec 5) (i : BitVec 6) (s : State) : Result :=
  cmpImm c p e a i Cond.lt.holds s
/-- `cmp.ge` with an immediate (R84). -/
def execCmpGeImm (c : Ctl) (p e : BitVec 3) (a : BitVec 5) (i : BitVec 6) (s : State) : Result :=
  cmpImm c p e a i Cond.ge.holds s
/-- `cmp.ltu` with an immediate (R84). -/
def execCmpLtuImm (c : Ctl) (p e : BitVec 3) (a : BitVec 5) (i : BitVec 6) (s : State) : Result :=
  cmpImm c p e a i Cond.ltu.holds s
/-- `cmp.geu` with an immediate (R84). -/
def execCmpGeuImm (c : Ctl) (p e : BitVec 3) (a : BitVec 5) (i : BitVec 6) (s : State) : Result :=
  cmpImm c p e a i Cond.geu.holds s
/-- `cmp.le` with an immediate (R84). -/
def execCmpLeImm (c : Ctl) (p e : BitVec 3) (a : BitVec 5) (i : BitVec 6) (s : State) : Result :=
  cmpImm c p e a i Cond.le.holds s
/-- `cmp.gt` with an immediate (R84). -/
def execCmpGtImm (c : Ctl) (p e : BitVec 3) (a : BitVec 5) (i : BitVec 6) (s : State) : Result :=
  cmpImm c p e a i Cond.gt.holds s
/-- Floating `cmp.eq` (R85). -/
def execCmpEqFloat (c : Ctl) (p e : BitVec 3) (a b : BitVec 5) (t : BitVec 2) (s : State) : Result :=
  cmpFloat c p e a b t .eq s
/-- Floating `cmp.lt` (R85). -/
def execCmpLtFloat (c : Ctl) (p e : BitVec 3) (a b : BitVec 5) (t : BitVec 2) (s : State) : Result :=
  cmpFloat c p e a b t .lt s
/-- Floating `cmp.le` (R85). -/
def execCmpLeFloat (c : Ctl) (p e : BitVec 3) (a b : BitVec 5) (t : BitVec 2) (s : State) : Result :=
  cmpFloat c p e a b t .le s
/-- Floating `cmp.un` (R85). -/
def execCmpUnFloat (c : Ctl) (p e : BitVec 3) (a b : BitVec 5) (t : BitVec 2) (s : State) : Result :=
  cmpFloat c p e a b t .un s

/-! ### Predicates -/

/-- pd from pa and pb, read before the write (R86). -/
def predOp (c : Ctl) (d a b : BitVec 3) (f : Bool → Bool → Bool) (s : State) : Result :=
  issue c 2 { rp := [a, b], wp := [d] }
    (fun s => .next (s.updThisSeat fun t => t.setP d (f (t.getP a) (t.getP b)))) s

/-- The predicates as bits [7:0], p7 in bit 7 (R35). -/
def predBits (t : Seat) : Word := BitVec.ofNat 64 (pack 1 ((List.range 8).map fun i => (t.getP (BitVec.ofNat 3 i)).toNat))

/-- Every predicate that can be written. -/
def allPreds : List (BitVec 3) := [0, 1, 2, 3, 4, 5, 6]

/-- `pand` (R86). -/
def execPand (c : Ctl) (d a b : BitVec 3) (s : State) : Result := predOp c d a b (fun a b => a && b) s
/-- `por` (R86). -/
def execPor (c : Ctl) (d a b : BitVec 3) (s : State) : Result := predOp c d a b (fun a b => a || b) s
/-- `pxor` (R86). -/
def execPxor (c : Ctl) (d a b : BitVec 3) (s : State) : Result := predOp c d a b (fun a b => a != b) s
/-- `pandn` (R86). -/
def execPandn (c : Ctl) (d a b : BitVec 3) (s : State) : Result := predOp c d a b (fun a b => a && !b) s
/-- `porn` (R86). -/
def execPorn (c : Ctl) (d a b : BitVec 3) (s : State) : Result := predOp c d a b (fun a b => a || !b) s
/-- `pnot` (R86). -/
def execPnot (c : Ctl) (d a : BitVec 3) (s : State) : Result := predOp c d a a (fun a _ => !a) s
/-- `pget` writes p7 to p0 to the low byte of x (R86). -/
def execPget (c : Ctl) (x : BitVec 5) (s : State) : Result :=
  issue c 2 { rp := allPreds, wx := [x] } (fun s => putX s x (predBits s.thisSeat)) s
/-- `pset` loads p0 to p6 at once (R86). -/
def execPset (c : Ctl) (x : BitVec 5) (s : State) : Result :=
  issue c 2 { rx := [x], wp := allPreds }
    (fun s => .next (s.updThisSeat fun t => { t with p := (t.getX x).setWidth 8 &&& 0x7F })) s

/-! ### Branches (R87) -/

/-- A target that lies in the code store and begins an instruction, or the bad-target trap. -/
def branchTo (s : State) (target : Int) : Act :=
  if 0 ≤ target ∧ target ≤ 0xFFFF ∧ s.thisCore.starts target.toNat then .goto s (BitVec.ofInt 16 target)
  else .trap 0x01 (BitVec.ofInt 64 target)

/-- The link is written once the target has been accepted. -/
def linked (len : Nat) (s : State) : Act → Act
  | .goto s' a => .goto (s'.updThisSeat fun t => t.setX 31 (s.thisSeat.pc.setWidth 64 + BitVec.ofNat 64 len)) a
  | r => r

/-- The target of `jr` and `callr`: xa[63:16] must be zero. -/
def branchReg (s : State) (a : BitVec 5) : Act :=
  let w := s.thisSeat.getX a
  if fld w 63 16 = 0 then branchTo s w.toNat else .trap 0x01 w

/-- `br` (R87). -/
def execBr (c : Ctl) (o : BitVec 20) (s : State) : Result :=
  issue c 2 {} (fun s => branchTo s (branchTarget s.thisSeat.pc o)) s
/-- `call` writes the link to x31 (R87). -/
def execCall (c : Ctl) (o : BitVec 20) (s : State) : Result :=
  issue c 2 { wx := [31] } (fun s => linked 2 s (branchTo s (branchTarget s.thisSeat.pc o))) s
/-- `jr` (R87). -/
def execJr (c : Ctl) (a : BitVec 5) (s : State) : Result := issue c 2 { rx := [a] } (fun s => branchReg s a) s
/-- `callr` reads xa before it writes x31 (R87). -/
def execCallr (c : Ctl) (a : BitVec 5) (s : State) : Result :=
  issue c 2 { rx := [a], wx := [31] } (fun s => linked 2 s (branchReg s a)) s
/-- `h.br` is `br` (R18). -/
def execHBr (sw : Bool) (o : BitVec 9) (s : State) : Result :=
  issue (halfCtl sw) 1 {} (fun s => branchTo s (branchTarget s.thisSeat.pc o)) s
/-- `h.bp pN, target` is `(pN) br target` (R18). -/
def execHBp (sw : Bool) (p : BitVec 3) (o : BitVec 6) (s : State) : Result :=
  issue ⟨sw, false, p⟩ 1 {} (fun s => branchTo s (branchTarget s.thisSeat.pc o)) s

/-! ### The end of a firing (R88), `nop` and `brk` (R89) -/

/-- A trap value of the layout REASON, detail, subject (R195, R264, R313). -/
def reasonVal (reason : Nat) (detail : Nat) (subject : Nat) : Word :=
  BitVec.ofNat 64 (reason * 2 ^ 56 + detail % 2 ^ 40 * 2 ^ 16 + subject % 2 ^ 16)

/-- The message trap with an unstated subject (R195). -/
def msgTrapOpen (s : State) (reason : Nat) : Act :=
  .trap 0x20 (reasonVal reason 0 (low ((Config.subject s.tick).setWidth 64) 16))

/-- The haul trap, whose detail and subject are not stated (R264). -/
def haulTrap (s : State) (reason : BitVec 8) : Act := .trap 0x41 (reason ++ Config.subject s.tick)

/-- `done`: the assembly queues in the order q4, q0, q2, q6, then DRAINING, or the end at once with `OUT` 0 (R88). -/
def doneBody (s : State) : Act :=
  let t := s.thisSeat
  if t.q4 ≠ [] then msgTrapOpen s 9
  else if t.q0 ≠ [] then .trap 0x40 (reasonVal 1 0 t.q0.length)
  else if t.q2 ≠ [] then haulTrap s 5
  else if t.q6 ≠ [] then .trap 0x42 (reasonVal 1 0 1)
  else .stop (settle (s.updThisSeat fun t => { t with status := .draining }) s.core s.seat.val)

/-- `done` (R88). -/
def execDone (c : Ctl) (s : State) : Result := issue c 2 {} doneBody s
/-- `h.done` (R18). -/
def execHDone (sw : Bool) (s : State) : Result := issue (halfCtl sw) 1 {} doneBody s
/-- `nop` (R89). -/
def execNop (c : Ctl) (s : State) : Result := issue c 2 {} (fun s => .next s) s
/-- `h.nop` (R18). -/
def execHNop (sw : Bool) (s : State) : Result := issue (halfCtl sw) 1 {} (fun s => .next s) s
/-- `brk` (R89). -/
def execBrk (c : Ctl) (code : BitVec 15) (s : State) : Result := issue c 2 {} (fun _ => .trap 0x05 (uimm code)) s

/-! ### Scalar floating point -/

/-- A floating result of xa and xb, zero-extended (R63). -/
def fp2 (c : Ctl) (d a b : BitVec 5) (t : BitVec 2) (op : FFmt → Nat → Nat → Nat) (s : State) : Result :=
  let f := scalarFmt t
  issue c 2 { rx := [a, b], wx := [d] } (fun s =>
    putX s d (BitVec.ofNat 64 (op f (low (s.thisSeat.getX a) f.width) (low (s.thisSeat.getX b) f.width)))) s

/-- A floating result of xa. -/
def fp1 (c : Ctl) (d a : BitVec 5) (t : BitVec 2) (op : FFmt → Nat → Nat) (s : State) : Result :=
  let f := scalarFmt t
  issue c 2 { rx := [a], wx := [d] } (fun s =>
    putX s d (BitVec.ofNat 64 (op f (low (s.thisSeat.getX a) f.width)))) s

/-- A scalar conversion of xa (R71). -/
def conv (c : Ctl) (d a : BitVec 5) (op : Word → Word) (s : State) : Result :=
  issue c 2 { rx := [a], wx := [d] } (fun s => putX s d (op (s.thisSeat.getX a))) s

/-- The magnitude of a pattern with a given sign (R91). -/
def withSign (f : FFmt) (a : Nat) (neg : Bool) : Nat := a % 2 ^ (f.eb + f.fb) + if neg then 2 ^ (f.eb + f.fb) else 0

/-- `fadd` (R90). -/
def execFadd (c : Ctl) (d a b : BitVec 5) (t : BitVec 2) (s : State) : Result := fp2 c d a b t addF s
/-- `fsub` (R90). -/
def execFsub (c : Ctl) (d a b : BitVec 5) (t : BitVec 2) (s : State) : Result := fp2 c d a b t subF s
/-- `fmul` (R90). -/
def execFmul (c : Ctl) (d a b : BitVec 5) (t : BitVec 2) (s : State) : Result := fp2 c d a b t mulF s
/-- `fdiv` (R90). -/
def execFdiv (c : Ctl) (d a b : BitVec 5) (t : BitVec 2) (s : State) : Result := fp2 c d a b t divF s
/-- `fmin` (R90). -/
def execFmin (c : Ctl) (d a b : BitVec 5) (t : BitVec 2) (s : State) : Result := fp2 c d a b t minF s
/-- `fmax` (R90). -/
def execFmax (c : Ctl) (d a b : BitVec 5) (t : BitVec 2) (s : State) : Result := fp2 c d a b t maxF s
/-- `fma` adds the old xd, with one rounding (R90). -/
def execFma (c : Ctl) (d a b : BitVec 5) (t : BitVec 2) (s : State) : Result :=
  let f := scalarFmt t
  issue c 2 { rx := [a, b, d], wx := [d] } (fun s =>
    putX s d (BitVec.ofNat 64
      (fmaF f (low (s.thisSeat.getX a) f.width) (low (s.thisSeat.getX b) f.width) (low (s.thisSeat.getX d) f.width)))) s
/-- `fsqrt` (R90). -/
def execFsqrt (c : Ctl) (d a : BitVec 5) (t : BitVec 2) (s : State) : Result := fp1 c d a t sqrtF s
/-- `fclass` (R91). -/
def execFclass (c : Ctl) (d a : BitVec 5) (t : BitVec 2) (s : State) : Result := fp1 c d a t classF s
/-- `fsgn.cp` (R91). -/
def execFsgnCp (c : Ctl) (d a b : BitVec 5) (t : BitVec 2) (s : State) : Result :=
  fp2 c d a b t (fun f x y => withSign f x (signField f y)) s
/-- `fsgn.neg` (R91). -/
def execFsgnNeg (c : Ctl) (d a b : BitVec 5) (t : BitVec 2) (s : State) : Result :=
  fp2 c d a b t (fun f x y => withSign f x (!signField f y)) s
/-- `fsgn.xor` (R91). -/
def execFsgnXor (c : Ctl) (d a b : BitVec 5) (t : BitVec 2) (s : State) : Result :=
  fp2 c d a b t (fun f x y => withSign f x (signField f x != signField f y)) s
/-- `frint` (R91). -/
def execFrint (c : Ctl) (d a : BitVec 5) (t : BitVec 2) (s : State) : Result := fp1 c d a t rintF s
/-- `cvt.f32.f16` (R71). -/
def execCvtF32F16 (c : Ctl) (d a : BitVec 5) (s : State) : Result :=
  conv c d a (fun w => BitVec.ofNat 64 (roundF fmtF32 (decodeF fmtF16 (low w 16)))) s
/-- `cvt.f32.bf16` (R71). -/
def execCvtF32Bf16 (c : Ctl) (d a : BitVec 5) (s : State) : Result :=
  conv c d a (fun w => BitVec.ofNat 64 (roundF fmtF32 (decodeF fmtBf16 (low w 16)))) s
/-- `cvt.f16.f32` (R71). -/
def execCvtF16F32 (c : Ctl) (d a : BitVec 5) (s : State) : Result :=
  conv c d a (fun w => BitVec.ofNat 64 (roundF fmtF16 (decodeF fmtF32 (low w 32)))) s
/-- `cvt.bf16.f32` (R71). -/
def execCvtBf16F32 (c : Ctl) (d a : BitVec 5) (s : State) : Result :=
  conv c d a (fun w => BitVec.ofNat 64 (roundF fmtBf16 (decodeF fmtF32 (low w 32)))) s
/-- `cvt.f32.w` (R71). -/
def execCvtF32W (c : Ctl) (d a : BitVec 5) (s : State) : Result :=
  conv c d a (fun w => BitVec.ofNat 64 (roundF fmtF32 (ofIntV (sxt 32 w.toNat)))) s
/-- `cvt.f32.wu` (R71). -/
def execCvtF32Wu (c : Ctl) (d a : BitVec 5) (s : State) : Result :=
  conv c d a (fun w => BitVec.ofNat 64 (roundF fmtF32 (ofIntV (low w 32)))) s
/-- `cvt.w.f32` (R71). -/
def execCvtWF32 (c : Ctl) (d a : BitVec 5) (s : State) : Result :=
  conv c d a (fun w => BitVec.ofInt 64 (toIntV .ne (-2 ^ 31) (2 ^ 31 - 1) (decodeF fmtF32 (low w 32)))) s
/-- `cvt.wu.f32` (R71). -/
def execCvtWuF32 (c : Ctl) (d a : BitVec 5) (s : State) : Result :=
  conv c d a (fun w => BitVec.ofInt 64 (toIntV .ne 0 (2 ^ 32 - 1) (decodeF fmtF32 (low w 32)))) s
/-- `cvt.w.f32.rz` (R71). -/
def execCvtWF32Rz (c : Ctl) (d a : BitVec 5) (s : State) : Result :=
  conv c d a (fun w => BitVec.ofInt 64 (toIntV .tz (-2 ^ 31) (2 ^ 31 - 1) (decodeF fmtF32 (low w 32)))) s
/-- `cvt.wu.f32.rz` (R71). -/
def execCvtWuF32Rz (c : Ctl) (d a : BitVec 5) (s : State) : Result :=
  conv c d a (fun w => BitVec.ofInt 64 (toIntV .tz 0 (2 ^ 32 - 1) (decodeF fmtF32 (low w 32)))) s

end Sys2Proof.Machine
end

