-- ==== Sys2Proof/Machine/Messages.lean ====
section
/-! DEFINITION. Message headers, the rank table, packets leaving a core, groups, and the sending instructions (R193 to
R195, R201 to R208, R216 to R218, R360). -/

namespace Sys2Proof.Machine

/-! ### Headers (R193) -/

/-- The fields of a header: destination rank, port, class, tag, payload words, traffic class, release-before. -/
def hDest (h : Word) : BitVec 16 := h.extractLsb' 48 16
def hPort (h : Word) : Nat := fld h 47 42
def hClass (h : Word) : BitVec 8 := h.extractLsb' 34 8
def hTag (h : Word) : Nat := fld h 33 26
def hWords (h : Word) : Nat := fld h 25 20 + 1
def hTc (h : Word) : Nat := fld h 19 18
def hRb (h : Word) : Bool := h.getLsbD 16

/-- A header with another destination rank. -/
def withDest (h : Word) (r : BitVec 16) : Word := r ++ h.extractLsb' 0 48

/-- The header of a count or message made by the module: rank, port, class, words, RB; traffic class 0 and tag 0. -/
def mkHeader (dest : BitVec 16) (port : Nat) (cls : BitVec 8) (words : Nat) (rb : Bool) (src : BitVec 16) : Word :=
  BitVec.ofNat 64 (dest.toNat * 2 ^ 48 + port % 64 * 2 ^ 42 + cls.toNat * 2 ^ 34 + (words - 1) % 64 * 2 ^ 20 +
    (if rb then 2 ^ 16 else 0) + src.toNat)

/-- The rank of a core as a source (R194). -/
def rankOf (s : State) (c : CoreId) : BitVec 16 :=
  if isBc c then (if c < 4098 then 0xFFFE else 0xFFFF) else (s.getCore c).rank

/-- The header as it leaves: SRC is the sending core's rank (R194). -/
def stamp (s : State) (c : CoreId) (h : Word) : Word := h.extractLsb' 16 48 ++ rankOf s c

/-! ### The rank table (R218) -/

/-- The entry of a rank, zero when it has none. -/
def rankEntry (s : State) (r : BitVec 16) : Word := tget 0 s.ranks r.toNat
def eValid (e : Word) : Bool := e.getLsbD 63
def eTransit (e : Word) : Bool := e.getLsbD 62
def eDead (e : Word) : Bool := e.getLsbD 61
def eModule (e : Word) : Nat := fld e 31 24
def eCore (e : Word) : CoreId := 52 * fld e 15 8 + fld e 23 16

/-- This module's number (R361). -/
def ownModule (s : State) : Nat := fld s.farCfg 39 32

/-- What a rank resolves to in an interface (R201, R218). -/
inductive Dest where
  | absent | dead | hold
  | core (c : CoreId)
  | far (m : Nat)
  deriving DecidableEq, Repr

/-- Resolution of a rank at an interface; the basecamp ranks need no entry (R201), and a core that the west basecamp has lost is dead to
those that it has not (R384, R386). -/
def resolve (s : State) (src : CoreId) (r : BitVec 16) : Dest :=
  if r = 0xFFFE then .core 4096
  else if r = 0xFFFF then .core 4098
  else
    let e := rankEntry s r
    if !eValid e then .absent
    else if eDead e || (eModule e = ownModule s && cutOff s src (eCore e)) then .dead
    else if eTransit e then .hold
    else if eModule e = ownModule s then .core (eCore e)
    else .far (eModule e)

/-- The trap of a rank that no instruction can name (R201). -/
def destFault (s : State) (r : BitVec 16) : Option (BitVec 8 × Word) :=
  match resolve s s.core r with
  | .absent => some (0x20, reasonVal 1 0 r.toNat)
  | .dead => some (0x21, r.setWidth 64)
  | _ => none

/-- The message trap (R195). -/
def msgTrap (reason subject : Nat) : Act := .trap 0x20 (reasonVal reason 0 subject)

/-- The hold buffer of a core has no room for `n` messages more; while it is full, no sending instruction issues, whatever its
rank (R201). -/
def holdFull (s : State) (c : CoreId) (n : Nat) : Bool :=
  let held := (s.waiting.filter (·.src = c)).length
  decide (16 ≤ held) || decide (16 < held + n)

/-! ### Packets -/

/-- The header a packet carries, for notices. -/
def Body.header : Body → Word
  | .msg h _ => h
  | .unread h _ => h
  | .count h _ => h
  | _ => 0

/-- A spawn or remote command that cannot reach its target is answered as by a fenced one; a message gives a notice of
the given code, which for one of another module goes back there from its optical chiplet (R206, R207, R263, R360, R365). -/
def undeliverable (s : State) (code : BitVec 8) (src : CoreId) (rank : BitVec 16) (body : Body) : State :=
  if !isCore src then (if 8192 ≤ src then { s with reply := .notice code rank body.header } else s)
  else match body with
  | .spawnReq seat op _ _ => addPacket s { id := 0, src := src, dst := src, rank := rank, tc := 0, body := .spawnAns seat op false }
  | .rcmd seat op _ => addPacket s { id := 0, src := src, dst := src, rank := rank, tc := 0, body := .rcmdAns seat op 255 }
  | .msg h _ | .unread h _ | .count h _ => queueEvent s src code 0 [rank.setWidth 64, h]
  | _ => s

/-- A message leaves its interface: to its core, to the optical chiplet of its module, or into the hold buffer; one whose
rank is gone or unreachable turns into a notice (R201, R206, R360, R361). -/
def emit (s : State) (src : CoreId) (rank : BitVec 16) (tc : Nat) (body : Body) (mc : Option Nat := none) : State :=
  match resolve s src rank with
  | .hold => { s with waiting := s.waiting ++ [⟨src, rank, tc, body, s.fresh, mc⟩], fresh := s.fresh + 1 }
  | .core d => newPacket s src d rank tc body mc
  | .far m =>
    let e := tget 0 s.farRoute m
    if s.farCfg.getLsbD 0 && e.getLsbD 7 then newPacket s src (8192 + (e.toNat % 8)) rank tc body mc (some m)
    else undeliverable s 0x34 src rank body
  | .absent | .dead => undeliverable s 0x33 src rank body

/-- The payload of an operation's messages has been read; `none` when the read failed and nothing leaves (R202, R378). -/
def fillUnread (s : State) (op : Nat) (payload : Option (List Word)) : State :=
  let fill (b : Body) : Body := match b, payload with
    | .unread h o, some w => if o = op then .msg h w else b
    | _, _ => b
  let keep (b : Body) : Bool := match b with
    | .unread _ o => payload.isSome || o != op
    | _ => true
  { s with net := (s.net.filter fun p => keep p.body).map fun p => { p with body := fill p.body },
           sent := (s.sent.filter fun e => keep e.pkt.body).map fun e => { e with pkt := { e.pkt with body := fill e.pkt.body } },
           waiting := (s.waiting.filter fun p => keep p.body).map fun p => { p with body := fill p.body } }

/-- Held messages of a rank leave in order (R222). -/
def releaseHeld (s : State) (rank : BitVec 16) : State :=
  let (out, kept) := s.waiting.partition (·.rank = rank)
  out.foldl (fun s w => emit s w.src w.rank w.tc w.body w.mc) { s with waiting := kept }

/-! ### Groups (R216) -/

/-- A live group. -/
def findGroup (s : State) (gid : Nat) : Option Group := s.groups.find? (·.gid = gid)

/-- The live group of which a core is a member that has not exited (R153). -/
def activeGroup (s : State) (c : CoreId) (gid : Nat) : Option Group :=
  (findGroup s gid).filter fun g => g.members.any (·.2 = c) && !g.exited.contains c

/-- The members of a group that have not exited. -/
def Group.active (g : Group) : List (BitVec 16 × CoreId) := g.members.filter fun m => !g.exited.contains m.2

/-! ### Checks of a send (R194) -/

/-- Traffic class 3, and class 2 outside seat 7; `word` is the instruction word (DEDUCED, log 28). -/
def headerFault (s : State) (word h : Word) : Option (BitVec 8 × Word) :=
  if hTc h = 3 then some (0x20, reasonVal 2 0 (hDest h).toNat)
  else if hTc h = 2 && s.seat ≠ 7 then some (0x02, word)
  else none

/-- The waits of a send: release-before under R189, room in the hold buffer. -/
def sendWaits (s : State) (h : Word) : Bool :=
  (hRb h && unreleased s s.core s.seat.val) || holdFull s s.core 0

/-- The checks of a header that names a rank. -/
def sendFault (s : State) (word h : Word) : Option (BitVec 8 × Word) :=
  match headerFault s word h with
  | some r => some r
  | none => destFault s (hDest h)

/-- The checks of a payload in memory: alignment, then every byte as a plain load (R202). -/
def payloadFault (s : State) (a : Word) (n : Nat) : Option (BitVec 8 × Word) :=
  if a.toNat % 8 ≠ 0 then some (0x10, a) else checkBytes s s.me .read (byteAddrs a n)

/-- A read of `n` bytes that an instruction makes for itself: `OUT` is raised until it has come back. -/
def postRead (s : State) (what : Pending) (pieces : List Piece) : State :=
  post (raise s .none false what) s.fresh .vload (serveL1 s pieces)

/-- All of `n` bytes at `a` as pieces of a read. -/
def readPieces (s : State) (a : Word) (n : Nat) : List Piece := wordPieces s a n (2 ^ (8 * n) - 1) 0

/-! ### Sends (R202 to R204) -/

/-- The words of the first `n` doubles of a register. -/
def vecWords (v : BitVec 4096) (n : Nat) : List Word := (List.range n).map fun i => v.extractLsb' (64 * i) 64

/-- `send`: the payload is read as plain accesses, `OUT` raised until it has been read (R202). -/
def execSend (c : Ctl) (a b : BitVec 5) (s : State) : Result :=
  issue c 2 { rx := [a, b], mem := true } (fun s =>
    let h := s.thisSeat.getX a
    let addr := s.thisSeat.getX b
    match sendFault s ((wordA c 0x2D 0 a b 0).setWidth 64) h with
    | some r => faultAct r
    | none => match payloadFault s addr (8 * hWords h) with
      | some r => faultAct r
      | none =>
        if sendWaits s h then .block
        else
          let p := readPieces s addr (8 * hWords h)
          leave s p fun s => emit (postRead s .send p) s.core (hDest h) (hTc h) (.unread (stamp s s.core h) s.fresh)) s

/-- `sendv`: the payload is read from the register at issue (R202). -/
def execSendv (c : Ctl) (a : BitVec 5) (b : BitVec 4) (s : State) : Result :=
  issue c 2 { rx := [a], rv := [b] } (fun s =>
    let h := s.thisSeat.getX a
    match sendFault s ((wordA c 0x2D 0 a (b.setWidth 5) 1).setWidth 64) h with
    | some r => faultAct r
    | none =>
      if sendWaits s h then .block
      else .next (emit s s.core (hDest h) (hTc h)
        (.msg (stamp s s.core h) (vecWords (s.thisSeat.getV b).data (hWords h))))) s

/-- `sendc`: a count message (R203). -/
def execSendc (c : Ctl) (a b : BitVec 5) (s : State) : Result :=
  issue c 2 { rx := [a, b] } (fun s =>
    let h := s.thisSeat.getX a
    match headerFault s ((wordA c 0x2D 0 a b 2).setWidth 64) h with
    | some r => faultAct r
    | none =>
      if hWords h ≠ 1 || h.getLsbD 17 then msgTrap 2 (hDest h).toNat
      else match destFault s (hDest h) with
        | some r => faultAct r
        | none =>
          if sendWaits s h then .block
          else .next (emit s s.core (hDest h) (hTc h) (.count (stamp s s.core h) ((s.thisSeat.getX b).setWidth 32)))) s

/-- One message per member of a multicast, with DEST rewritten (R204). -/
def emitAll (gid : Nat) (h : Word) (op : Nat) : List (BitVec 16 × CoreId) → State → State
  | [], s => s
  | (r, _) :: t, s => emitAll gid h op t (emit s s.core r (hTc h) (.unread (withDest (stamp s s.core h) r) op) (some gid))

/-- `mcast`: one message to every member that has not exited; every member's rank is resolved (R201, R204) (DEDUCED, log 28). -/
def execMcast (c : Ctl) (a b : BitVec 5) (s : State) : Result :=
  issue c 2 { rx := [a, b], mem := true } (fun s =>
    let h := s.thisSeat.getX a
    let addr := s.thisSeat.getX b
    match headerFault s ((wordA c 0x2D 0 a b 3).setWidth 64) h with
    | some r => faultAct r
    | none =>
      if fld h 63 56 ≠ 0 then msgTrap 2 (hDest h).toNat
      else match activeGroup s s.core (fld h 55 48) with
        | none => .trap 0x22 h
        | some g => match g.active.findSome? fun m => destFault s m.1 with
          | some r => faultAct r
          | none => match payloadFault s addr (8 * hWords h) with
            | some r => faultAct r
            | none =>
              if (hRb h && unreleased s s.core s.seat.val) ||
                  holdFull s s.core (g.active.filter fun m => resolve s s.core m.1 = .hold).length then .block
              else
                let p := readPieces s addr (8 * hWords h)
                leave s p fun s => emitAll g.gid h s.fresh g.active (postRead s .send p)) s

/-! ### Spawn (R207) -/

/-- `spawn`: a request with release effect; pd is written by the answer. -/
def execSpawn (c : Ctl) (p : BitVec 3) (a b : BitVec 5) (s : State) : Result :=
  issue c 2 { rx := [a, b, 24, 25, 26, 27], wp := [p] } (fun s =>
    let t := s.thisSeat
    let x := t.getX a
    let y := t.getX b
    let r : BitVec 16 := x.setWidth 16
    let cls := fld y 18 16
    if fld x 63 16 ≠ 0 || fld y 63 19 ≠ 0 || (4 ≤ cls && cls ≤ 6) || decide (0xFFFE ≤ r.toNat) then
      msgTrap 2 (fld x 15 0)
    else if cls = 7 && s.seat ≠ 7 then .trap 0x02 ((wordA c 0x2D (p.setWidth 5) a b 4).setWidth 64)
    else match destFault s r with
      | some f => faultAct f
      | none =>
        if eModule (rankEntry s r) ≠ ownModule s then msgTrap 10 r.toNat
        else if unreleased s s.core s.seat.val || holdFull s s.core 0 then .block
        else .next (emit (raise s (.pred p) false .spawn) s.core r 0
          (.spawnReq s.seat.val s.fresh (y &&& 0x7FFFF) [t.getX 24, t.getX 25, t.getX 26, t.getX 27]))) s

/-- `myrank`: the rank that the launch gave (R217). -/
def execMyrank (c : Ctl) (d : BitVec 5) (s : State) : Result :=
  issue c 2 { wx := [d] } (fun s => putX s d (s.thisCore.rank.setWidth 64)) s

end Sys2Proof.Machine
end

