-- ==== Sys2Proof/Machine/Ports.lean ====
section
/-! DEFINITION. Ports, their storage and arrivals, the overflow ring, pattern entries, and the port, pattern, ring and
rank instructions (R209 to R215, R219 to R222, R229 to R235, R239). -/

namespace Sys2Proof.Machine

/-! ### Port entries (R209) -/

def pKind (e : Word) : Nat := fld e 63 62
def pEn (e : Word) : Bool := e.getLsbD 61
def pSize (e : Word) : Nat := fld e 55 52
def pSlot (e : Word) : Nat := fld e 51 46
def pMlen (e : Word) : Nat := fld e 45 40
def pMtag (e : Word) : Nat := fld e 39 32
def pBase (e : Word) : Nat := fld e 19 0

/-- A FIFO or tag-match port. -/
def isStore (e : Word) : Bool := pKind e == 0 || pKind e == 3

/-- A port of a core. -/
def Core.port (k : Core) (n : Nat) : Port := tget {} k.ports n
def Core.setPort (k : Core) (n : Nat) (p : Port) : Core := { k with ports := tset k.ports n p }

/-- Bytes of a ring port or of the overflow ring with a SIZE field. -/
def ringBytes (size : Nat) : Nat := 2 ^ (size + 6)

/-- Whether a port entry is valid (R209). -/
def portOk (e : Word) : Bool :=
  let unused := pMlen e == 0 && pMtag e == 0
  let off := fld e 31 20 == 0
  fld e 60 56 == 0 &&
    match pKind e with
    | 0 => unused && off && pBase e % 8 == 0 && decide (pBase e + (pSize e + 1) * (8 * (pSlot e + 2)) ≤ 2 ^ 20)
    | 1 => unused && pSize e == 0 && pSlot e == 0
    | 2 => unused && off && pSlot e == 0 && decide (pSize e ≤ 13) && pBase e % ringBytes (pSize e) == 0
    | _ => off && pBase e % 8 == 0 && decide (pBase e + (pSize e + 1) * (8 * (pSlot e + 2)) ≤ 2 ^ 20)

/-! ### Pattern entries (R212) -/

/-- Slot `i` of a pattern. -/
def patSlot (d1 : Word) (i : Nat) : BitVec 16 := d1.extractLsb' (16 * i) 16
def slotUse (b : BitVec 16) : Bool := b.getLsbD 15
def slotCount (b : BitVec 16) : Nat := fld b 11 8
def slotPort (b : BitVec 16) : Nat := fld b 5 0

/-- The used slots of a pattern in order, as port and count. -/
def patUses (d1 : Word) : List (Nat × Nat) :=
  ((List.range 4).map (patSlot d1)).filterMap fun b => if slotUse b then some (slotPort b, slotCount b) else none

/-- Largest payload of a binding of a pattern, in words, where each port has one of some entries (R239). -/
def patWords (entries : Nat → List Word) (d1 : Word) : Nat :=
  ((patUses d1).map fun u => (entries u.1).foldl (fun m e => max m (if isStore e then u.2 * (pSlot e + 1) else 0)) 0).sum

/-- Whether a pattern entry is valid under given port entries, and those that are to follow (R212, R239). -/
def patOk (entry : Nat → Word) (more : Nat → List Word) (d0 d1 : Word) : Bool :=
  let slots := (List.range 4).map (patSlot d1)
  let uses := patUses d1
  !d0.getLsbD 63 ||
    (fld d0 62 56 == 0 && fld d0 41 0 == 0 && (fld d0 44 42 ≤ 3 || fld d0 44 42 == 7) &&
      !uses.isEmpty && slots.all (fun b => if slotUse b then fld b 14 12 == 0 && fld b 7 6 == 0 else b == 0) &&
      uses.all (fun u => u.2 != 0 && pKind (entry u.1) != 2) && decide ((uses.map (·.1)).Nodup) &&
      decide (patWords (fun n => entry n :: more n) d1 ≤ 960))

/-- The port entries of a core as a function. -/
def Core.entryAt (k : Core) (n : Nat) : Word := (k.port n).entry

/-- The entries that `port.wr` under way will give a port, and the patterns of `pat.wr` under way (R210, R213). -/
def Core.nextEntries (k : Core) (n : Nat) : List Word :=
  k.seats.toList.flatMap fun t => t.outs.filterMap fun o => match o.what with
    | .portWr m e => if m = n then some e else none
    | _ => none
def Core.nextPatterns (k : Core) : List (Word × Word) :=
  k.seats.toList.flatMap fun t => t.outs.filterMap fun o => match o.what with
    | .patWr _ d0 d1 => some (d0, d1)
    | _ => none

/-! ### Rings (R214, R233) -/

/-- Doubles written at byte count `tail` of a ring, wrapping at its end, as engine writes (R146). -/
def writeRing (s : State) (c : CoreId) (base bytes tail : Nat) : List Word → State
  | [] => s
  | w :: t =>
    let b := (List.range 8).map fun i => w.extractLsb' (8 * i) 8
    writeRing ((engineWrite s c (base + tail % bytes) b).getD s) c base bytes (tail + 8) t

/-- Free bytes of a ring. -/
def ringFree (bytes : Nat) (head tail : BitVec 32) : Nat := bytes - (tail - head).toNat

/-- A record enters the overflow ring and a port-overflow firing is queued; `none` when it does not fit (R233, R235). -/
def overflow (s : State) (c : CoreId) (reason port : Nat) (words : List Word) : Option State :=
  let k := s.getCore c
  let bytes := ringBytes (fld k.ovfCfg 23 20)
  let n := 8 * (words.length + 1)
  if ringFree bytes k.ovfHead k.ovfTail < n then none
  else
    let s := writeRing s c (fld k.ovfCfg 19 0) bytes k.ovfTail.toNat (BitVec.ofNat 64 (reason + 256 * port) :: words)
    let s := s.updCore c fun k =>
      { (if reason = 4 then k else k.setPort port { k.port port with ovf := true }) with
        ovfTail := k.ovfTail + BitVec.ofNat 32 n }
    some (queueEvent s c 0x30 0 [])

/-! ### Arrivals (R229 to R231) -/

/-- The offset of a slot of a FIFO or tag-match port. -/
def slotOff (e : Word) (slot : Nat) : Nat := pBase e + 8 * (pSlot e + 2) * slot

/-- Plain doubles in a scratchpad: full/empty bits stay, poison of the words goes (R229, R379). -/
def spPlain (k : Core) (off : Nat) (ws : List Word) : Core :=
  let words := (List.range (2 * ws.length)).map (off / 4 + ·)
  { k with sp := setDoubles k.sp off ws, spPoison := k.spPoison.filter (!words.contains ·) }

/-- A message is stored in the next slot. -/
def storeSlot (k : Core) (port : Nat) (rb : Bool) (h : Word) (payload : List Word) : Core :=
  let p := k.port port
  let k := spPlain k (slotOff p.entry p.next) (h :: payload)
  k.setPort port { p with held := p.held ++ [⟨p.next, payload.length, rb⟩], next := (p.next + 1) % (pSize p.entry + 1) }

/-- A count arrives at a counter port: the new count, and whether a token is due (R230). -/
def counted (p : Port) (n : BitVec 32) : BitVec 32 × Bool := (p.count + n, p.count + n == 0 && n != 0)

/-- A message or count message is dealt with at a core, by the table of R231; `none` when its record does not fit the
overflow ring. `acq` says that the module's loader sent it (R190). A token acquires when one of the counts added since the last
token carried release-before (R185, DEDUCED, log 73). -/
def arrive (s : State) (c : CoreId) (acq : Bool) (h : Word) (payload : List Word) (n : Option (BitVec 32)) : Option State :=
  let port := hPort h
  let k := s.getCore c
  let p := k.port port
  let e := p.entry
  let spill (s : State) (reason : Nat) := overflow s c reason port (h :: payload)
  if !pEn e then spill s 4
  else if isStore e then
    if pSlot e + 1 < payload.length then spill s 2
    else if pKind e == 3 && (hTag h != pMtag e || hWords h != pMlen e + 1) then spill s 3
    else if pSize e + 1 ≤ p.held.length then spill s 1
    else some (s.setCore c (storeSlot k port (hRb h || acq) h payload))
  else if pKind e == 1 then
    match n with
    | none => spill s 8
    | some n =>
      let (v, due) := counted p n
      let rb := p.rb || hRb h || acq
      let set (q : Port) : State := s.setCore c (k.setPort port q)
      if due && p.tokens.length == 255 then spill (set { p with count := v, rb := rb }) 6
      else some (set { p with count := v, rb := rb && !due, tokens := if due then p.tokens ++ [rb] else p.tokens })
  else
    let bytes := ringBytes (pSize e)
    let len := 8 * (payload.length + 1)
    if ringFree bytes p.head p.tail < len then spill s 5
    else
      let s := writeRing s c (pBase e) bytes p.tail.toNat (h :: payload)
      some (s.updCore c fun k => k.setPort port { p with tail := p.tail + BitVec.ofNat 32 len })

/-- A packet's payload as it reaches a port: the words of a message, or the one word of a count (R203). -/
def Body.payload : Body → Option (Word × List Word × Option (BitVec 32))
  | .msg h w => some (h, w, none)
  | .count h n => some (h, [n.signExtend 64], some n)
  | _ => none

/-- A packet that stands at the interface of its core is dealt with; `none` when it must be held (DEDUCED, log 35). -/
def deliver (s : State) (p : Packet) : Option State :=
  match p.body.payload with
  | none => some s
  | some (h, w, n) =>
    (arrive (s.updCore p.dst Core.news) p.dst (isBc p.src) h w n).map fun s => takePacket s p

/-- Arrivals held at the input are dealt with in order until a message does not fit, or one that is no message, whose own
event deals with it, comes first; FULL clears once none remains (R234). -/
def dealInput (c : CoreId) : List Nat → State → State
  | [], s => s.updCore c fun k => { k with input := [], ovfFull := false }
  | id :: t, s =>
    let wait := s.updCore c fun k => { k with input := id :: t }
    match s.net.find? (·.id = id) with
    | none => dealInput c t s
    | some p =>
      if p.body.payload.isNone then wait
      else if (duePacket s id).isNone then dealInput c t s
      else match deliver s p with
        | some s' => dealInput c t s'
        | none => wait

/-- An arrival that is no message at a core with FULL set is held in its place, in every traffic class; `none` when it may be
dealt with now (R234). -/
def holdArrival (s : State) (p : Packet) : Option State :=
  let k := s.getCore p.dst
  if 3 ≤ p.tc || !k.ovfFull || k.input.head? = some p.id then none
  else some (if k.input.contains p.id then s else s.updCore p.dst fun k => { k with input := k.input ++ [p.id] })

/-- The arrivals behind a held one that has been dealt with follow; a remote command that waits for `q0` has been. -/
def inputDone (s : State) (c : CoreId) (id : Nat) : State :=
  let k := s.getCore c
  if k.input.head? = some id && ((s.net.find? (·.id = id)).isNone || k.shell.passed.any (·.1 = id)) then dealInput c (k.input.drop 1) s else s

/-- A packet that is no message and has come in its order: held while FULL is set, else dealt with by `f`. -/
def onArrival (s : State) (p : Option Packet) (f : Packet → State) : State :=
  match p with
  | none => s
  | some p => match holdArrival s p with
    | some s' => s'
    | none => inputDone (f p) p.dst p.id

/-- A write of OVF_HD moves HEAD only forward and not past TAIL (R233), then the held arrivals are dealt with (R234). -/
def writeOvfHd (s : State) (c : CoreId) (v : Word) : State :=
  let k := s.getCore c
  let d : BitVec 32 := v.setWidth 32 - k.ovfHead
  if (k.ovfTail - k.ovfHead).toNat < d.toNat then s
  else
    let s := s.setCore c { k with ovfHead := v.setWidth 32 }
    if k.ovfFull then dealInput c k.input s else s

/-! ### `port.wr` (R210) -/

/-- The words of a message that a port holds, as they stand in its slot. -/
def heldWords (k : Core) (e : Word) (m : Held) : List Word :=
  (List.range (m.len + 1)).map fun i => getDouble k.sp (slotOff e m.slot + 8 * i)

/-- Step 1 of `port.wr`: held messages move to the overflow ring with reason 7 while they fit. -/
def drainPort (c : CoreId) (port : Nat) : List Held → State → State
  | [], s => s
  | m :: t, s =>
    let k := s.getCore c
    let p := k.port port
    match overflow s c 7 port (heldWords k p.entry m) with
    | none => s
    | some s => drainPort c port t (s.updCore c fun k => k.setPort port { k.port port with held := t })

/-- A port after `port.wr`: its entry and a reset of everything else. -/
def freshPort (e : Word) : Port := { entry := e, count := if pKind e = 1 then e.setWidth 32 else 0 }

/-- The effect of `port.wr` once no held message is left; otherwise only step 1 has gone on. -/
def applyPortWr (s : State) (c : CoreId) (port : Nat) (e : Word) : State × Bool :=
  let s := drainPort c port ((s.getCore c).port port).held s
  if ((s.getCore c).port port).held.isEmpty then (s.updCore c fun k => k.setPort port (freshPort e), true) else (s, false)

/-- A new entry keeps every valid pattern within 960 payload words, with the entries and patterns under way (R239). -/
def portFits (k : Core) (port : Nat) (e : Word) : Bool :=
  (k.patterns.map (·.2) ++ k.nextPatterns).all fun (d0, d1) =>
    !d0.getLsbD 63 ||
      decide (patWords (fun n => (if n = port then e else k.entryAt n) :: k.nextEntries n) d1 ≤ 960)

/-- A supervisor instruction on a port, pattern or rank: its operand checks give the trap, or its effect. -/
def execPortWr (c : Ctl) (a b : BitVec 5) (s : State) : Result :=
  issueS (wordA c 0x2E 0 a b 1) c { rx := [a, b] } (fun s =>
    let x := s.thisSeat.getX a
    let e := s.thisSeat.getX b
    if fld x 63 6 ≠ 0 then msgTrap 2 (fld x 15 0)
    else if !portOk e || !portFits s.thisCore x.toNat e then msgTrap 7 x.toNat
    else .next (raise s .none false (.portWr x.toNat e) (.value 0))) s

/-- The status of a port (R211). -/
def portStatus (p : Port) : Word :=
  let held := if pKind p.entry = 1 then p.tokens.length else p.held.length
  (p.entry &&& 0xE000000000000000) ||| BitVec.ofNat 64
    ((if p.ovf then 2 ^ 60 else 0) + held % 256 * 2 ^ 48 + (if pKind p.entry = 1 then p.count.toNat else 0))

/-- `port.rd` (R211). -/
def execPortRd (c : Ctl) (d a : BitVec 5) (s : State) : Result :=
  issue c 2 { rx := [a], wx := [d] } (fun s =>
    let x := s.thisSeat.getX a
    if fld x 63 6 ≠ 0 then msgTrap 2 (fld x 15 0) else putX s d (portStatus (s.thisCore.port x.toNat))) s

/-! ### Reads at issue -/

/-- An older access of the seat to a word of the pieces has not been performed yet (R95, R189). -/
def pendingTo (s : State) (pieces : List Piece) (writesOnly : Bool) : Bool :=
  (seatReqs s s.core s.seat.val).any fun r => (!writesOnly || isWriteOp r.op || isSyncOp r.op) &&
    r.pieces.any fun q => q.open && pieces.any q.meets

/-- The value of a piece as a load of the core reads it now. -/
def pieceNow (s : State) (p : Piece) : Nat :=
  match l1Load s s.core s.seat.val p with
  | some w => w.toNat % 2 ^ (8 * p.len)
  | none => p.dst.read s p.len

/-- The bytes of contiguous pieces that begin at a word boundary, as a number. -/
def readNow (s : State) (pieces : List Piece) : Nat :=
  pieces.foldl (fun v p => v + pieceNow s p * 2 ^ p.bit.toNat) 0

/-- A table read by an instruction whose contents decide a precise trap: poison comes back as a returned error. -/
def readTable (s : State) (a : Word) (n : Nat) (f : Nat → Act) : Act :=
  let p := readPieces s a n
  if pendingTo s p true then .block
  else if p.any fun p => poisoned s p.dst p.len then leave s p fun s => postRead s .plain p
  else f (readNow s p)

/-- `pat.wr` reads the entry as plain loads and takes effect at its completion (R213). -/
def execPatWr (c : Ctl) (a b : BitVec 5) (s : State) : Result :=
  issueS (wordA c 0x2E 0 a b 2) c { rx := [a, b], mem := true } (fun s =>
    let x := s.thisSeat.getX a
    let addr := s.thisSeat.getX b
    if fld x 63 5 ≠ 0 then msgTrap 2 (fld x 15 0)
    else if addr.toNat % 16 ≠ 0 then .trap 0x10 addr
    else if tagOf addr ≠ 1 then .trap 0x11 addr
    else match checkBytes s s.me .read (byteAddrs addr 16) with
      | some r => faultAct r
      | none => readTable s addr 16 fun v =>
        let d0 := BitVec.ofNat 64 v
        let d1 := BitVec.ofNat 64 (v / 2 ^ 64)
        if patOk s.thisCore.entryAt s.thisCore.nextEntries d0 d1 then .next (raise s .none false (.patWr x.toNat d0 d1) (.value 0))
        else msgTrap 7 x.toNat) s

/-! ### Ring ports (R215) -/

/-- A ring instruction: its port, or the message trap. -/
def withRing (s : State) (x : Word) (f : Nat → Port → Act) : Act :=
  if fld x 63 6 ≠ 0 then msgTrap 2 (fld x 15 0)
  else
    let p := s.thisCore.port x.toNat
    if pKind p.entry = 2 && pEn p.entry then f x.toNat p else msgTrap 3 x.toNat

/-- `ring.hd` (R215). -/
def execRingHd (c : Ctl) (d a : BitVec 5) (s : State) : Result :=
  issue c 2 { rx := [a], wx := [d] } (fun s =>
    withRing s (s.thisSeat.getX a) fun _ p => putX s d (p.head.setWidth 64)) s
/-- `ring.tl` (R215). -/
def execRingTl (c : Ctl) (d a : BitVec 5) (s : State) : Result :=
  issue c 2 { rx := [a], wx := [d] } (fun s =>
    withRing s (s.thisSeat.getX a) fun _ p => putX s d (p.tail.setWidth 64)) s
/-- `ring.wait` waits until the ring holds a record (R215). -/
def execRingWait (c : Ctl) (d a : BitVec 5) (s : State) : Result :=
  issue c 2 { rx := [a], wx := [d] } (fun s =>
    withRing s (s.thisSeat.getX a) fun _ p => if p.tail = p.head then .block else putX s d (p.tail.setWidth 64)) s
/-- `ring.adv` issues after the seat's earlier loads and stores are done (R215). -/
def execRingAdv (c : Ctl) (a b : BitVec 5) (s : State) : Result :=
  issue c 2 { rx := [a, b] } (fun s =>
    withRing s (s.thisSeat.getX a) fun n p =>
      let y := s.thisSeat.getX b
      if y.toNat % 8 ≠ 0 || decide ((p.tail - p.head).toNat < y.toNat) then msgTrap 4 n
      else if unreleased s s.core s.seat.val then .block
      else .next (s.updThisCore fun k => k.setPort n { p with head := p.head + y.setWidth 32 })) s

/-! ### The rank table (R219 to R222) -/

/-- Step of a rank instruction whose xa names a rank. -/
def withRank (x : Word) (f : BitVec 16 → Act) : Act :=
  if fld x 63 16 ≠ 0 then msgTrap 2 (fld x 15 0) else f (x.setWidth 16)

/-- The limits of a rank entry (R220). -/
def rankOk (e : Word) : Bool :=
  !e.getLsbD 62 && fld e 60 32 == 0 && fld e 7 0 == 0 && decide (fld e 23 16 ≤ 51) && decide (fld e 15 8 ≤ 51)

/-- An entry written for a rank; V = 0 removes it. -/
def writeRank (s : State) (rank : Nat) (e : Word) : State :=
  { s with ranks := if eValid e then tset s.ranks rank e else tdel s.ranks rank }

/-- The write of `rank.wr` as the interfaces take it: a mark that `rank.hold` has set since stays, and messages held for a
rank that is removed turn into notices (R201, R220, R221) (DEDUCED, log 29). -/
def finishRankWr (s : State) (rank : Nat) (e : Word) : State :=
  let held := eTransit (rankEntry s (BitVec.ofNat 16 rank))
  if held && eValid e then writeRank s rank (e ||| 0x4000000000000000)
  else if held then releaseHeld (writeRank s rank e) (BitVec.ofNat 16 rank)
  else writeRank s rank e

/-- New ranks that `rank.wr` and `rank.rel` under way will add to the table. -/
def pendingRanks (s : State) : List Nat :=
  (s.cores.flatMap fun (_, k) => k.seats.toList.flatMap fun t => t.outs.filterMap fun o => match o.what with
    | .rankWr r e | .rankRel r e => if eValid e && (tget? s.ranks r).isNone then some r else none
    | _ => none).eraseDups

/-- The rank table has room for some ranks beside those under way (R218). -/
def rankRoom (s : State) (new : List Nat) : Bool :=
  decide (s.ranks.length + ((new.filter fun r => (tget? s.ranks r).isNone) ++ pendingRanks s).eraseDups.length ≤ 4096)

/-- `rank.rd` (R219). -/
def execRankRd (c : Ctl) (d a : BitVec 5) (s : State) : Result :=
  issue c 2 { rx := [a], wx := [d] } (fun s => withRank (s.thisSeat.getX a) fun r => putX s d (rankEntry s r)) s
/-- `rank.wr` (R220). -/
def execRankWr (c : Ctl) (a b : BitVec 5) (s : State) : Result :=
  issueS (wordA c 0x2F 0 a b 1) c { rx := [a, b] } (fun s =>
    let e := s.thisSeat.getX b
    withRank (s.thisSeat.getX a) fun r =>
      if !rankOk e then msgTrap 2 r.toNat
      else if eTransit (rankEntry s r) then msgTrap 6 r.toNat
      else if eValid e && (tget? s.ranks r.toNat).isNone && !rankRoom s [r.toNat] then msgTrap 5 r.toNat
      else .next (raise s .none false (.rankWr r.toNat e) (.value 0))) s
/-- `rank.hold` sets the mark; it completes once no earlier message to the rank is under way (R221) (DEDUCED, log 29). -/
def execRankHold (c : Ctl) (a : BitVec 5) (s : State) : Result :=
  issueS (wordA c 0x2F 0 a 0 2) c { rx := [a] } (fun s =>
    withRank (s.thisSeat.getX a) fun r =>
      let e := rankEntry s r
      if !eValid e || eTransit e then msgTrap 6 r.toNat
      else .next (raise { s with ranks := tset s.ranks r.toNat (e ||| 0x4000000000000000) } .none false
        (.rankHold r.toNat) (.value 0))) s
/-- `rank.rel` (R222). -/
def execRankRel (c : Ctl) (a b : BitVec 5) (s : State) : Result :=
  issueS (wordA c 0x2F 0 a b 3) c { rx := [a, b] } (fun s =>
    let e := s.thisSeat.getX b
    withRank (s.thisSeat.getX a) fun r =>
      if !rankOk e || !eValid e then msgTrap 2 r.toNat
      else if !eTransit (rankEntry s r) then msgTrap 6 r.toNat
      else .next (raise s .none false (.rankRel r.toNat e) (.value 0))) s

/-! ### Packets that have arrived -/

/-- A message or count reaches its core (R231); with FULL set, or when its record does not fit, it is held at the input
(R234). A multicast to a member that has exited meanwhile may be dropped (R204). -/
def coreArrival (s : State) (p : Packet) : State :=
  let k := s.getCore p.dst
  let left := p.mc.any fun g => (findGroup s g).all fun g => g.exited.contains p.dst
  if !isGridCore p.dst || k.fenced || p.body.payload.isNone || k.input.contains p.id then s
  else if left && !Config.mcastReaches s.tick then takePacket s.ticked p
  else
    let s := if left then s.ticked else s
    if k.ovfFull then s.updCore p.dst fun k => { k with input := k.input ++ [p.id] }
    else match deliver s p with
      | some s' => s'
      | none => s.updCore p.dst fun k => { k with ovfFull := true, input := [p.id] }

/-- OVF_HD_WRITE: seat 7 of a core moves HEAD (R233, R234). -/
def execOvfHdWrite (core : Nat) (v : Word) (s : State) : Result := .next (if isCore core then writeOvfHd s core v else s)

end Sys2Proof.Machine
end

