-- ==== Sys2Proof/Machine/Vector.lean ====
section
/-! DEFINITION. Vector instructions on registers: lane-wise arithmetic, logic, shifts and selection, compares, reductions,
widening and narrowing, moves, mask logic, conversion, transpose and retagging (R55 to R75, R122 to R136). -/

namespace Sys2Proof.Machine

/-! ### Lane-wise instructions -/

/-- vd from the elements of type ty of va and vb under a mask (R123). -/
def lanes2 (c : Ctl) (d a b : BitVec 4) (k : BitVec 2) (t : BitVec 3) (f : Nat → Nat → Nat) (s : State) : Result :=
  let w := tyWidth t
  issue c 2 { rv := [a, b], wv := [d] } (fun s =>
    let r := s.thisSeat
    match tagFaults r t [a, b] with
    | some v => .trap 0x03 v
    | none => putV s d (tyTag t) (merge w (r.getK k) (r.getV d).data fun i =>
        f (elem w (r.getV a).data i) (elem w (r.getV b).data i))) s

/-- vd from the elements of va alone. -/
def lanes1 (c : Ctl) (d a : BitVec 4) (k : BitVec 2) (t : BitVec 3) (f : Nat → Nat) (s : State) : Result :=
  let w := tyWidth t
  issue c 2 { rv := [a], wv := [d] } (fun s =>
    let r := s.thisSeat
    match tagFaults r t [a] with
    | some v => .trap 0x03 v
    | none => putV s d (tyTag t) (merge w (r.getK k) (r.getV d).data fun i => f (elem w (r.getV a).data i))) s

/-- vd from the elements of va, vb and vd. -/
def lanes3 (c : Ctl) (d a b : BitVec 4) (k : BitVec 2) (t : BitVec 3) (f : Nat → Nat → Nat → Nat) (s : State) : Result :=
  let w := tyWidth t
  issue c 2 { rv := [a, b, d], wv := [d] } (fun s =>
    let r := s.thisSeat
    match tagFaults r t [a, b, d] with
    | some v => .trap 0x03 v
    | none => putV s d (tyTag t) (merge w (r.getK k) (r.getV d).data fun i =>
        f (elem w (r.getV a).data i) (elem w (r.getV b).data i) (elem w (r.getV d).data i))) s

/-- Type-free lanes of the width of va's tag; the result tag is va's (R123, R126). -/
def lanesRaw (c : Ctl) (d a b : BitVec 4) (k : BitVec 2) (f : Nat → Nat → Nat) (s : State) : Result :=
  issue c 2 { rv := [a, b], wv := [d] } (fun s =>
    let r := s.thisSeat
    let w := tagWidth (r.getV a).tag
    putV s d (r.getV a).tag (merge w (r.getK k) (r.getV d).data fun i =>
      f (elem w (r.getV a).data i) (elem w (r.getV b).data i))) s

/-- The smaller or larger of two elements, signed or as they stand. -/
def minS (w a b : Nat) : Nat := if sxt w b < sxt w a then b else a
def maxS (w a b : Nat) : Nat := if sxt w a < sxt w b then b else a
/-- A value clamped to the signed range of `w` bits, as an element. -/
def clampS (w : Nat) (i : Int) : Nat := wrap w (max (-(2 ^ (w - 1) : Nat)) (min ((2 ^ (w - 1) : Nat) - 1) i))

/-- Integer `vadd` (R124); elements are packed modulo 2^w. -/
def execVaddInt (c : Ctl) (d a b : BitVec 4) (k : BitVec 2) (t : BitVec 3) (s : State) : Result :=
  lanes2 c d a b k t (fun a b => a + b) s
/-- Integer `vsub` (R124); elements are packed modulo 2^w. -/
def execVsubInt (c : Ctl) (d a b : BitVec 4) (k : BitVec 2) (t : BitVec 3) (s : State) : Result :=
  lanes2 c d a b k t (fun a b => a + (2 ^ tyWidth t - b)) s
/-- Integer `vmul` (R124); elements are packed modulo 2^w. -/
def execVmulInt (c : Ctl) (d a b : BitVec 4) (k : BitVec 2) (t : BitVec 3) (s : State) : Result :=
  lanes2 c d a b k t (fun a b => a * b) s
/-- Integer `vmin` (R124); elements are packed modulo 2^w. -/
def execVminInt (c : Ctl) (d a b : BitVec 4) (k : BitVec 2) (t : BitVec 3) (s : State) : Result :=
  lanes2 c d a b k t (fun a b => minS (tyWidth t) a b) s
/-- Integer `vmax` (R124); elements are packed modulo 2^w. -/
def execVmaxInt (c : Ctl) (d a b : BitVec 4) (k : BitVec 2) (t : BitVec 3) (s : State) : Result :=
  lanes2 c d a b k t (fun a b => maxS (tyWidth t) a b) s
/-- Integer `vminu` (R124); elements are packed modulo 2^w. -/
def execVminu (c : Ctl) (d a b : BitVec 4) (k : BitVec 2) (t : BitVec 3) (s : State) : Result :=
  lanes2 c d a b k t (fun a b => min a b) s
/-- Integer `vmaxu` (R124); elements are packed modulo 2^w. -/
def execVmaxu (c : Ctl) (d a b : BitVec 4) (k : BitVec 2) (t : BitVec 3) (s : State) : Result :=
  lanes2 c d a b k t (fun a b => max a b) s
/-- Integer `vadds` (R124); elements are packed modulo 2^w. -/
def execVadds (c : Ctl) (d a b : BitVec 4) (k : BitVec 2) (t : BitVec 3) (s : State) : Result :=
  lanes2 c d a b k t (fun a b => clampS (tyWidth t) (sxt (tyWidth t) a + sxt (tyWidth t) b)) s
/-- Floating `vadd` (R125). -/
def execVaddFloat (c : Ctl) (d a b : BitVec 4) (k : BitVec 2) (t : BitVec 3) (s : State) : Result :=
  lanes2 c d a b k t (addF (tyFmt t)) s
/-- Floating `vsub` (R125). -/
def execVsubFloat (c : Ctl) (d a b : BitVec 4) (k : BitVec 2) (t : BitVec 3) (s : State) : Result :=
  lanes2 c d a b k t (subF (tyFmt t)) s
/-- Floating `vmul` (R125). -/
def execVmulFloat (c : Ctl) (d a b : BitVec 4) (k : BitVec 2) (t : BitVec 3) (s : State) : Result :=
  lanes2 c d a b k t (mulF (tyFmt t)) s
/-- Floating `vmin` (R125). -/
def execVminFloat (c : Ctl) (d a b : BitVec 4) (k : BitVec 2) (t : BitVec 3) (s : State) : Result :=
  lanes2 c d a b k t (minF (tyFmt t)) s
/-- Floating `vmax` (R125). -/
def execVmaxFloat (c : Ctl) (d a b : BitVec 4) (k : BitVec 2) (t : BitVec 3) (s : State) : Result :=
  lanes2 c d a b k t (maxF (tyFmt t)) s
/-- Floating `vdiv` (R125). -/
def execVdiv (c : Ctl) (d a b : BitVec 4) (k : BitVec 2) (t : BitVec 3) (s : State) : Result :=
  lanes2 c d a b k t (divF (tyFmt t)) s
/-- `vfma` reads vd as a third source (R125). -/
def execVfma (c : Ctl) (d a b : BitVec 4) (k : BitVec 2) (t : BitVec 3) (s : State) : Result :=
  lanes3 c d a b k t (fmaF (tyFmt t)) s
/-- `vsqrt` (R125). -/
def execVsqrt (c : Ctl) (d a : BitVec 4) (k : BitVec 2) (t : BitVec 3) (s : State) : Result :=
  lanes1 c d a k t (sqrtF (tyFmt t)) s
/-- `vand` (R126). -/
def execVand (c : Ctl) (d a b : BitVec 4) (k : BitVec 2) (s : State) : Result := lanesRaw c d a b k (fun a b => a &&& b) s
/-- `vor` (R126). -/
def execVor (c : Ctl) (d a b : BitVec 4) (k : BitVec 2) (s : State) : Result := lanesRaw c d a b k (fun a b => a ||| b) s
/-- `vxor` (R126). -/
def execVxor (c : Ctl) (d a b : BitVec 4) (k : BitVec 2) (s : State) : Result := lanesRaw c d a b k (fun a b => a ^^^ b) s
/-- `vandn` (R126). -/
def execVandn (c : Ctl) (d a b : BitVec 4) (k : BitVec 2) (s : State) : Result := lanesRaw c d a b k (fun a b => a - (a &&& b)) s
/-- `vsll` shifts by the count modulo the width (R126, R66). -/
def execVsll (c : Ctl) (d a b : BitVec 4) (k : BitVec 2) (t : BitVec 3) (s : State) : Result :=
  lanes2 c d a b k t (fun a b => a * 2 ^ (b % tyWidth t)) s
/-- `vsrl` shifts by the count modulo the width (R126, R66). -/
def execVsrl (c : Ctl) (d a b : BitVec 4) (k : BitVec 2) (t : BitVec 3) (s : State) : Result :=
  lanes2 c d a b k t (fun a b => a / 2 ^ (b % tyWidth t)) s
/-- `vsra` shifts by the count modulo the width (R126, R66). -/
def execVsra (c : Ctl) (d a b : BitVec 4) (k : BitVec 2) (t : BitVec 3) (s : State) : Result :=
  lanes2 c d a b k t (fun a b => wrap (tyWidth t) (sxt (tyWidth t) a / (2 ^ (b % tyWidth t) : Nat))) s
/-- `vsel` takes each lane from va where the mask is 1 and from vb elsewhere; every element is written (R126). -/
def execVsel (c : Ctl) (d a b : BitVec 4) (k : BitVec 2) (s : State) : Result :=
  issue c 2 { rv := [a, b], wv := [d] } (fun s =>
    let r := s.thisSeat
    let w := tagWidth (r.getV a).tag
    putV s d (r.getV a).tag (build w fun i =>
      if (r.getK k).getLsbD i then elem w (r.getV a).data i else elem w (r.getV b).data i)) s

/-! ### Compares (R127) -/

/-- kd from a condition on the elements of va and vb: 0 where the mask is 0 and from the element count up. -/
def vcmp (c : Ctl) (d : BitVec 2) (a b : BitVec 4) (k : BitVec 2) (t : BitVec 3) (cond : VCond) (s : State) : Result :=
  let w := tyWidth t
  issue c 2 { rv := [a, b] } (fun s =>
    let r := s.thisSeat
    match tagFaults r t [a, b] with
    | some v => .trap 0x03 v
    | none => putK s d (maskOf (count w) fun i =>
        (r.getK k).getLsbD i && cond.holds t (elem w (r.getV a).data i) (elem w (r.getV b).data i))) s

/-- `vcmp.eq` (R127). -/
def execVcmpEq (c : Ctl) (d : BitVec 2) (a b : BitVec 4) (k : BitVec 2) (t : BitVec 3) (s : State) : Result :=
  vcmp c d a b k t .eq s
/-- `vcmp.ne` (R127). -/
def execVcmpNe (c : Ctl) (d : BitVec 2) (a b : BitVec 4) (k : BitVec 2) (t : BitVec 3) (s : State) : Result :=
  vcmp c d a b k t .ne s
/-- `vcmp.lt` (R127). -/
def execVcmpLt (c : Ctl) (d : BitVec 2) (a b : BitVec 4) (k : BitVec 2) (t : BitVec 3) (s : State) : Result :=
  vcmp c d a b k t .lt s
/-- `vcmp.le` (R127). -/
def execVcmpLe (c : Ctl) (d : BitVec 2) (a b : BitVec 4) (k : BitVec 2) (t : BitVec 3) (s : State) : Result :=
  vcmp c d a b k t .le s
/-- `vcmp.ltu` (R127). -/
def execVcmpLtu (c : Ctl) (d : BitVec 2) (a b : BitVec 4) (k : BitVec 2) (t : BitVec 3) (s : State) : Result :=
  vcmp c d a b k t .ltu s
/-- `vcmp.leu` (R127). -/
def execVcmpLeu (c : Ctl) (d : BitVec 2) (a b : BitVec 4) (k : BitVec 2) (t : BitVec 3) (s : State) : Result :=
  vcmp c d a b k t .leu s
/-- `vcmp.un` (R127). -/
def execVcmpUn (c : Ctl) (d : BitVec 2) (a b : BitVec 4) (k : BitVec 2) (t : BitVec 3) (s : State) : Result :=
  vcmp c d a b k t .un s

/-! ### Reductions (R72 to R74, R128) -/

/-- One level of the pairwise tree. -/
def pairUp (f : Nat → Nat → Nat) : List Nat → List Nat
  | a :: b :: t => f a b :: pairUp f t
  | l => l

/-- The pairwise tree, level by level. -/
def treeFold (f : Nat → Nat → Nat) : Nat → List Nat → Nat
  | 0, l => l.headD 0
  | n + 1, l => treeFold f n (pairUp f l)

/-- The tree over all elements of a type: 7, 8 or 9 levels. -/
def reduce (w : Nat) (f : Nat → Nat → Nat) (leaf : Nat → Nat) : Nat :=
  treeFold f (count w).log2 ((List.range (count w)).map leaf)

/-- The sum of one type, as a 32-bit pattern: f32 sums for floating types, modulo 2^32 for integers. -/
def sumOf (t : BitVec 3) (k : BitVec 1024) (leaf : Nat → Nat) : Nat :=
  if t.toNat ≤ 2 then reduce (tyWidth t) (fun a b => (a + b) % 2 ^ 32) fun i => if k.getLsbD i then leaf i else 0
  else reduce (tyWidth t) (addF fmtF32) fun i => if k.getLsbD i then leaf i else 0x80000000

/-- An element as a summand: sign-extended to 32 bits, or exact in f32. -/
def summand (t : BitVec 3) (e : Nat) : Nat :=
  if t.toNat ≤ 2 then wrap 32 (sxt (tyWidth t) e)
  else if t = 5 then e else roundF fmtF32 (decodeF (tyFmt t) e)

/-- A product as a summand: modulo 2^32, or exact and rounded once to f32. -/
def product (t : BitVec 3) (a b : Nat) : Nat :=
  if t.toNat ≤ 2 then wrap 32 (sxt (tyWidth t) a * sxt (tyWidth t) b)
  else roundF fmtF32 (mulV (decodeF (tyFmt t) a) (decodeF (tyFmt t) b))

/-- The tag of a sum: f32 or i32 (R74). -/
def sumTag (t : BitVec 3) : BitVec 4 := if t.toNat ≤ 2 then 3 else 6

/-- A reduction writes element 0 and zeros elsewhere (R74). -/
def putReduced (s : State) (d : BitVec 4) (tag : BitVec 4) (r : Nat) : Act := putV s d tag (BitVec.ofNat 4096 r)

/-- `vredsum` (R72, R128). -/
def execVredsum (c : Ctl) (d a : BitVec 4) (k : BitVec 2) (t : BitVec 3) (s : State) : Result :=
  issue c 2 { rv := [a], wv := [d] } (fun s =>
    let r := s.thisSeat
    match tagFaults r t [a] with
    | some v => .trap 0x03 v
    | none => putReduced s d (sumTag t)
        (sumOf t (r.getK k) fun i => summand t (elem (tyWidth t) (r.getV a).data i))) s

/-- A reduction of maxima or minima: a masked-off lane gives the identity of R73. -/
def extremum (c : Ctl) (d a : BitVec 4) (k : BitVec 2) (t : BitVec 3) (f : Nat → Nat → Nat) (unit : Nat) (s : State) : Result :=
  let w := tyWidth t
  issue c 2 { rv := [a], wv := [d] } (fun s =>
    let r := s.thisSeat
    match tagFaults r t [a] with
    | some v => .trap 0x03 v
    | none => putReduced s d (tyTag t) (reduce w f fun i =>
        if (r.getK k).getLsbD i then elem w (r.getV a).data i else unit)) s

/-- `vredmax` (R73). -/
def execVredmax (c : Ctl) (d a : BitVec 4) (k : BitVec 2) (t : BitVec 3) (s : State) : Result :=
  if t.toNat ≤ 2 then extremum c d a k t (maxS (tyWidth t)) (2 ^ (tyWidth t - 1)) s
  else extremum c d a k t (maxF (tyFmt t)) (tyFmt t).nan s
/-- `vredmin` (R73). -/
def execVredmin (c : Ctl) (d a : BitVec 4) (k : BitVec 2) (t : BitVec 3) (s : State) : Result :=
  if t.toNat ≤ 2 then extremum c d a k t (minS (tyWidth t)) (2 ^ (tyWidth t - 1) - 1) s
  else extremum c d a k t (minF (tyFmt t)) (tyFmt t).nan s
/-- `vdot` (R72, R128). -/
def execVdot (c : Ctl) (d a b : BitVec 4) (k : BitVec 2) (t : BitVec 3) (s : State) : Result :=
  issue c 2 { rv := [a, b], wv := [d] } (fun s =>
    let r := s.thisSeat
    let w := tyWidth t
    match tagFaults r t [a, b] with
    | some v => .trap 0x03 v
    | none => putReduced s d (sumTag t)
        (sumOf t (r.getK k) fun i => product t (elem w (r.getV a).data i) (elem w (r.getV b).data i))) s

/-! ### Register groups -/

/-- The registers of a group of `r` from `v`. -/
def group (v : BitVec 4) (r : Nat) : List (BitVec 4) := (List.range r).map fun j => v + BitVec.ofNat 4 j

/-- Element `i` of a group of `r` registers: register v + (i mod r), position i div r (R129, R130, R133). -/
def groupElem (t : Seat) (w : Nat) (v : BitVec 4) (r i : Nat) : Nat :=
  elem w (t.getV (v + BitVec.ofNat 4 (i % r))).data (i / r)

/-- The registers of a group written element by element under a mask, interleaved as in R129; `old` is the seat before
the instruction, from which every source is read. -/
def putGroup (old : Seat) (w : Nat) (d : BitVec 4) (r : Nat) (tag : BitVec 4) (k : BitVec 1024) (f : Nat → Nat) (t : Seat) : Seat :=
  (List.range r).foldl (fun t j =>
    let v := d + BitVec.ofNat 4 j
    t.setV v { old.getV v with
      tag := tag, data := build w fun p =>
        if k.getLsbD (p * r + j) then f (p * r + j) else elem w (old.getV v).data p }) t

/-- `vwiden` and `vwiden4`: r destination registers of elements of width `w` and tag `tag` (R129). -/
def widen (c : Ctl) (d a : BitVec 4) (k : BitVec 2) (t : BitVec 3) (r : Nat) (w : Nat) (tag : BitVec 4) (f : Nat → Nat) (s : State) : Result :=
  issue c 2 { rv := [a], wv := group d r } (fun s =>
    let old := s.thisSeat
    match tagFaults old t [a] with
    | some v => .trap 0x03 v
    | none => .next (s.setThisSeat
        (putGroup old w d r tag (old.getK k) (fun i => f (elem (tyWidth t) (old.getV a).data i)) old))) s

/-- `vwiden` (R129). -/
def execVwiden (c : Ctl) (d a : BitVec 4) (k : BitVec 2) (t : BitVec 3) (s : State) : Result :=
  if t = 0 then widen c d a k t 2 16 2 (fun e => wrap 16 (sxt 8 e)) s
  else if t = 1 then widen c d a k t 2 32 3 (fun e => wrap 32 (sxt 16 e)) s
  else widen c d a k t 2 32 6 (fun e => roundF fmtF32 (decodeF (tyFmt t) e)) s
/-- `vwiden4` (R129). -/
def execVwiden4 (c : Ctl) (d a : BitVec 4) (k : BitVec 2) (t : BitVec 3) (s : State) : Result :=
  widen c d a k t 4 32 3 (fun e => wrap 32 (sxt 8 e)) s

/-- `vnarrow` and `vnarrow4`: from r source registers to elements of width `w`, clamped (R130). -/
def narrow (c : Ctl) (d a : BitVec 4) (k : BitVec 2) (t : BitVec 3) (r : Nat) (w : Nat) (tag : BitVec 4) (s : State) : Result :=
  issue c 2 { rv := group a r, wv := [d] } (fun s =>
    let old := s.thisSeat
    match tagFaults old t (group a r) with
    | some v => .trap 0x03 v
    | none => putV s d tag (merge w (old.getK k) (old.getV d).data fun i =>
        clampS w (sxt (tyWidth t) (groupElem old (tyWidth t) a r i)))) s

/-- `vnarrow` (R130). -/
def execVnarrow (c : Ctl) (d a : BitVec 4) (k : BitVec 2) (t : BitVec 3) (s : State) : Result :=
  if t = 1 then narrow c d a k t 2 8 1 s else narrow c d a k t 2 16 2 s
/-- `vnarrow4` (R130). -/
def execVnarrow4 (c : Ctl) (d a : BitVec 4) (k : BitVec 2) (t : BitVec 3) (s : State) : Result := narrow c d a k t 4 8 1 s

/-! ### Moves, scalars and masks (R131, R132) -/

/-- `vmov` copies data, tag and sidecar. -/
def execVmov (c : Ctl) (d a : BitVec 4) (s : State) : Result :=
  issue c 2 { rv := [a], wv := [d] } (fun s => .next (s.updThisSeat fun t => t.setV d (t.getV a))) s
/-- `vbcast` writes every element. -/
def execVbcast (c : Ctl) (d : BitVec 4) (a : BitVec 5) (t : BitVec 3) (s : State) : Result :=
  issue c 2 { rx := [a], wv := [d] } (fun s =>
    putV s d (tyTag t) (build (tyWidth t) fun _ => (s.thisSeat.getX a).toNat)) s
/-- `vext` reads element idx of the vector register in field d into the scalar register in field a. -/
def execVext (c : Ctl) (d : BitVec 4) (a : BitVec 5) (i : BitVec 5) (t : BitVec 3) (s : State) : Result :=
  issue c 2 { rv := [d], wx := [a] } (fun s =>
    match tagFaults s.thisSeat t [d] with
    | some v => .trap 0x03 v
    | none =>
      let e := elem (tyWidth t) (s.thisSeat.getV d).data i.toNat
      putX s a (if t.toNat ≤ 2 then BitVec.ofInt 64 (sxt (tyWidth t) e) else BitVec.ofNat 64 e)) s
/-- `vins` writes element idx and the tag of ty. -/
def execVins (c : Ctl) (d : BitVec 4) (a : BitVec 5) (i : BitVec 5) (t : BitVec 3) (s : State) : Result :=
  issue c 2 { rx := [a], rv := [d], wv := [d] } (fun s =>
    let r := s.thisSeat
    match tagFaults r t [d] with
    | some v => .trap 0x03 v
    | none => putV s d (tyTag t) (build (tyWidth t) fun j =>
        if j = i.toNat then (r.getX a).toNat else elem (tyWidth t) (r.getV d).data j)) s

/-- kd from ka and kb. -/
def maskOp (c : Ctl) (d a b : BitVec 2) (f : BitVec 1024 → BitVec 1024 → BitVec 1024) (s : State) : Result :=
  issue c 2 {} (fun s => putK s d (f (s.thisSeat.getK a) (s.thisSeat.getK b))) s
/-- `kand`. -/
def execKand (c : Ctl) (d a b : BitVec 2) (s : State) : Result := maskOp c d a b (fun a b => a &&& b) s
/-- `kor`. -/
def execKor (c : Ctl) (d a b : BitVec 2) (s : State) : Result := maskOp c d a b (fun a b => a ||| b) s
/-- `kxor`. -/
def execKxor (c : Ctl) (d a b : BitVec 2) (s : State) : Result := maskOp c d a b (fun a b => a ^^^ b) s
/-- `knot`. -/
def execKnot (c : Ctl) (d a : BitVec 2) (s : State) : Result := maskOp c d a a (fun a _ => ~~~a) s

/-! ### Element formats (R55 to R59, R67 to R70) -/

/-- A value times 2^k. -/
def scaleV (k : Int) : Val → Val
  | .fin n m e => .fin n m (e + k)
  | v => v

/-- The magnitudes of R58 in halves: index to twice the value. -/
def halves01 (i : Nat) : Nat := [0, 1, 2, 3, 4, 6, 8, 12].getD i 0

/-- The value of an SB4 code of a block type, before its scale (R58). -/
def sb4Code (ty c : Nat) : Val :=
  let neg := decide (8 ≤ c)
  let i := c % 8
  match ty with
  | 0 => ofIntV (sxt 4 c)
  | 1 => .fin neg (halves01 i) (-1)
  | 2 => if i = 0 then .fin neg 0 0 else .fin neg 1 ((i : Int) - 4)
  | _ => .fin neg (halves01 i) 0

/-- Element `i` of a register of format `tag`, as an exact value. -/
def decodeElem (tag : BitVec 4) (v : VReg) (i : Nat) : Val :=
  let e := elem (tagWidth tag) v.data i
  let sc := scaleByte v.sc (i / 32)
  match tag.toNat with
  | 1 => ofIntV (sxt 8 e)
  | 2 => ofIntV (sxt 16 e)
  | 3 => ofIntV (sxt 32 e)
  | 4 => decodeF fmtF16 e
  | 5 => decodeF fmtBf16 e
  | 6 => decodeF fmtF32 e
  | 7 => decodeF fmtE4m3 e
  | 8 => decodeF fmtE5m2 e
  | 9 => if sc % 64 = 63 then .nan else scaleV ((sc % 64 : Nat) - 31) (sb4Code (sc / 64) e)
  | 10 => if sc = 255 then .nan else scaleV ((sc : Int) - 127) (.fin (decide (8 ≤ e)) (halves01 (e % 8)) (-1))
  | 11 => if sc = 255 then .nan else scaleV ((sc : Int) - 127) (decodeF fmtE4m3 e)
  | _ => ofIntV (sxt 4 e)

/-- The rounding mode of a `vcvt` (R43, R68). -/
def cvtMode (m : BitVec 2) : CvtMode := if m = 0 then .sat else if m = 1 then .inf else .tz

/-- Encoding to an element that is no block element (R68, R69). -/
def encodeElem (tag : BitVec 4) (mode : CvtMode) (v : Val) : Nat :=
  let int (w : Nat) := wrap w (toIntV (cvtRnd mode) (-(2 ^ (w - 1) : Nat)) ((2 ^ (w - 1) : Nat) - 1) v)
  match tag.toNat with
  | 1 => int 8
  | 2 => int 16
  | 3 => int 32
  | 4 => encodeF fmtF16 mode v
  | 5 => encodeF fmtBf16 mode v
  | 6 => encodeF fmtF32 mode v
  | 7 => encodeF fmtE4m3 mode v
  | 8 => encodeF fmtE5m2 mode v
  | _ => int 4

/-- E2M1: the elements of mx4 and of SB4 blocks of type 01 (R59, R70). -/
def fmtE2m1 : FFmt := ⟨2, 1, 1, 7, 7, false⟩

def isFinV : Val → Bool
  | .fin .. => true
  | _ => false

def isZeroV : Val → Bool
  | .fin _ m _ => m == 0
  | _ => false

/-- floor (log2 |v|) of a non-zero finite value. -/
def log2V : Val → Int
  | .fin _ m e => m.log2 + e
  | _ => 0

/-- The largest floor (log2) of the non-zero values. -/
def maxLog2 : List Val → Option Int
  | [] => none
  | v :: t => if isZeroV v then maxLog2 t else some (max (log2V v) ((maxLog2 t).getD (log2V v)))

/-- The scale byte and the codes of one block of 32 values (R70). -/
def encodeBlock (tag : BitVec 4) (mode : CvtMode) (vs : List Val) : Nat × List Nat :=
  let sb4 := tag == 9
  let f := if tag = 11 then fmtE4m3 else fmtE2m1
  let emax : Int := if tag = 11 then 8 else 2
  let bias : Int := if sb4 then 31 else 127
  let top : Int := if sb4 then 62 else 254
  let invalid := if sb4 then 0x7F else 0xFF
  let byte (s : Int) : Nat := if sb4 then 0x40 + s.toNat else s.toNat
  let elemMode := if mode = .tz then CvtMode.tz else .sat
  if !vs.all isFinV then (invalid, vs.map fun _ => 0)
  else match maxLog2 vs with
    | none => (byte bias, vs.map (encodeF f .sat))
    | some l =>
      let s := max 0 (l - emax + bias)
      if top < s && sb4 && mode = .inf then (invalid, vs.map fun _ => 0)
      else
        let s := min s top
        (byte s, vs.map fun v => encodeF f elemMode (scaleV (bias - s) v))

/-- A register of a block format from its element values; the sidecar bytes that the format does not use are 0 (R60). -/
def encodeBlocks (tag : BitVec 4) (mode : CvtMode) (f : Nat → Val) : VReg :=
  let w := tagWidth tag
  let bs := (List.range (count w / 32)).map fun b => encodeBlock tag mode ((List.range 32).map fun j => f (32 * b + j))
  { data := ofElems w (bs.flatMap (·.2)), tag := tag, sc := BitVec.ofNat 256 (pack 8 (bs.map (·.1))) }

/-! ### Conversion, transpose, retagging (R133 to R136) -/

/-- The registers that a `vcvt` reads: r when the destination has more elements (R133). -/
def cvtReads (srcTag f : BitVec 4) : Nat := max 1 (count (tagWidth f) / count (tagWidth srcTag))

/-- The registers that a `vcvt` writes. -/
def cvtWrites (srcTag f : BitVec 4) : Nat := max 1 (count (tagWidth srcTag) / count (tagWidth f))

/-- The format trap of a `vcvt`, if any: a source tag that names no format, a group that is not aligned, or a register of
the source group with another tag (R133, R134). With several of these TRAP_VAL names the misaligned register, va before vd, as
the manual gives no order (DESIGN CHOICE, log 74). -/
def cvtFault (t : Seat) (d a : BitVec 4) (f : BitVec 4) : Option Act :=
  let tag := (t.getV a).tag
  let r := cvtReads tag f
  if tag = 0 || decide (13 ≤ tag.toNat) then some (formatTrap a tag)
  else if a.toNat % r ≠ 0 then some (formatTrap a tag)
  else if d.toNat % cvtWrites tag f ≠ 0 then some (formatTrap d tag)
  else ((group a r).find? fun v => (t.getV v).tag != tag).map fun v => formatTrap v (t.getV v).tag

/-- The registers that `vcvt` writes. -/
def cvtResult (old : Seat) (d a f : BitVec 4) (k : BitVec 1024) (mode : CvtMode) : Seat :=
  let tag := (old.getV a).tag
  let r := cvtReads tag f
  let q := cvtWrites tag f
  let src (i : Nat) : Val := decodeElem tag (old.getV (a + BitVec.ofNat 4 (i % r))) (i / r)
  if isBlockTag f then
    (List.range q).foldl (fun t j => t.setV (d + BitVec.ofNat 4 j) (encodeBlocks f mode fun p => src (p * q + j))) old
  else putGroup old (tagWidth f) d q f k (fun i => encodeElem f mode (src i)) old

/-- `vcvt` (R133, R134). -/
def execVcvt (c : Ctl) (d a f : BitVec 4) (k m : BitVec 2) (s : State) : Result :=
  let tag := (s.thisSeat.getV a).tag
  issue c 2 { rv := group a (cvtReads tag f), wv := group d (cvtWrites tag f) } (fun s =>
    let old := s.thisSeat
    match cvtFault old d a f with
    | some r => r
    | none => .next (s.setThisSeat (cvtResult old d a f (old.getK k) (cvtMode m)))) s

/-- The transposed register vd + j: its element 8c + i is element 8c + j of va + i (R135). -/
def transposed (old : Seat) (w : Nat) (a : BitVec 4) (j : Nat) : BitVec 4096 :=
  build w fun n => elem w (old.getV (a + BitVec.ofNat 4 (n % 8))).data (n / 8 * 8 + j)

/-- `vtr` (R135). -/
def execVtrW (c : Ctl) (d a f : BitVec 4) (s : State) : Result :=
  issue c 2 { rv := group a 8, wv := group d 8 } (fun s =>
    let old := s.thisSeat
    .next (s.setThisSeat ((List.range 8).foldl (fun t j =>
      let v := d + BitVec.ofNat 4 j
      t.setV v { old.getV v with tag := (old.getV a).tag, data := transposed old (tagWidth f) a j }) old))) s

/-- `vtag` copies data and sidecar under another tag (R136). -/
def execVtag (c : Ctl) (d a f : BitVec 4) (s : State) : Result :=
  issue c 2 { rv := [a], wv := [d] } (fun s => .next (s.updThisSeat fun t => t.setV d { t.getV a with tag := f })) s

end Sys2Proof.Machine
end

