-- ==== Sys2Proof/Machine/Shell.lean ====
section
/-! DEFINITION. Shell commands: their fields, checks and acceptance into q0, the shell instructions (R249 to R263), and what
a command computes: entries and weights of lines, the squares of the cells, tiles, ACC40 sums and drains (R282 to R292). -/

namespace Sys2Proof.Machine

/-! ### Command fields (R249) -/

def Cmd.word (c : Cmd) (i : Nat) : Word := c.words.getD i 0
def cOp (w0 : Word) : Nat := fld w0 63 60
def cFmt (w0 : Word) : BitVec 4 := w0.extractLsb' 56 4
def cTile (w0 : Word) : Nat := fld w0 55 53
def cBsel (w0 : Word) : Nat := fld w0 52 51
def cPass (w0 : Word) : Bool := w0.getLsbD 50
def cZaft (w0 : Word) : Bool := w0.getLsbD 49
def cSeq (w0 : Word) : BitVec 16 := w0.setWidth 16

/-- Double 0 of a command. -/
def cmdWord (op : Nat) (fmt : BitVec 4) (tile : BitVec 3) (bsel : Nat) (pass zaft : Bool) : Word :=
  BitVec.ofNat 64 (op * 2 ^ 60 + fmt.toNat * 2 ^ 56 + tile.toNat * 2 ^ 53 + bsel * 2 ^ 51 +
    (if pass then 2 ^ 50 else 0) + (if zaft then 2 ^ 49 else 0))

/-- Formats of an MMA operand (R250). -/
def mmaFmt (f : BitVec 4) : Bool := [1, 4, 5, 7, 8, 9, 10, 11, 12].contains f.toNat

/-- Bytes of a tile of a format (R252). -/
def tileBytes (f : BitVec 4) : Nat :=
  128 * tagWidth f + if isBlockTag f then 32 else 0

/-- Every byte of a range lies within its space (R159, R250). -/
def rangeIn (s : State) (c : CoreId) (a : Word) (n : Nat) : Bool := (byteAddrs a n).all (layoutOk s c)

/-- An operand address: an allowed tag, a multiple of 64, every byte in its space. -/
def operandOk (s : State) (c : CoreId) (tag : Nat) (a : Word) (n : Nat) : Bool :=
  tagOf a == tag && a.toNat % 64 == 0 && rangeIn s c a n

/-- A drain destination in memory (R250). -/
def drainOk (s : State) (u : Asker) (a : Word) (n : Nat) : Bool :=
  a == 0 || (a.toNat % 64 == 0 && (tagOf a == 0 || tagOf a == 1 || tagOf a == 4) &&
    (checkBytes s u .write (byteAddrs a n)).isNone)

/-- The address of a drain's destination whose translation its unit still awaits. -/
def drainWalk (s : State) (u : Asker) (ws : List Word) : Option Word :=
  let a := ws.getD 1 0
  if cOp (ws.getD 0 0) = 1 ∧ a ≠ 0 ∧ a.toNat % 64 = 0 ∧ tagOf a = 0 then
    match checkBytes s u .write (byteAddrs a (tileBytes (cFmt (ws.getD 0 0)))) with
    | some (cause, v) => if cause = walkCause then some v else none
    | none => none
  else none

/-- The first field of a command that breaks R250 (numbers of R264): 1 OP, 2 FMT, 3 ADDR1, 4 ADDR2, 5 any other. -/
def badField (s : State) (u : Asker) (ws : List Word) : Option Nat :=
  let w0 := ws.getD 0 0
  let a1 := ws.getD 1 0
  let a2 := ws.getD 2 0
  let op := cOp w0
  let n := tileBytes (cFmt w0)
  if 5 ≤ op then some 1
  else if !(match op with
      | 0 => mmaFmt (cFmt w0)
      | 1 => 1 ≤ (cFmt w0).toNat && (cFmt w0).toNat ≤ 12
      | 4 => mmaFmt (cFmt w0)
      | _ => cFmt w0 == 0) then some 2
  else if !(match op with
      | 0 => operandOk s u.core 1 a1 n
      | 1 => drainOk s u a1 n
      | 4 => operandOk s u.core 1 a1 n || operandOk s u.core 3 a1 n
      | _ => a1 == 0) then some 3
  else if !(match op, cBsel w0 with
      | 0, 0 => operandOk s u.core 1 a2 n
      | 0, 1 => operandOk s u.core 3 a2 n
      | 0, 3 => true
      | _, _ => a2 == 0) then some 4
  else if (op != 0 && (cBsel w0 != 0 || cPass w0)) || cBsel w0 == 3 || (cPass w0 && cBsel w0 != 2) ||
      (cZaft w0 && op != 1) || (3 ≤ op && cTile w0 != 0) || (op != 4 && cSeq w0 != 0) ||
      fld w0 48 16 != 0 || fld (ws.getD 3 0) 63 32 != 0 then some 5
  else none

/-! ### Acceptance (R253, R255) -/

/-- The kind that an MMA of a format gives a tile. -/
def fmtKind (f : BitVec 4) : TileKind := if f = 1 || f = 12 then .int else .scaled

/-- The recorded kind of a tile. -/
def Shell.kindOf (h : Shell) (tile : Nat) : TileKind := h.kinds.getD tile .empty

/-- The format trap of an MMA whose format does not fit the tile's recorded kind. -/
def kindFault (h : Shell) (w0 : Word) : Option Word :=
  if cOp w0 = 0 && h.kindOf (cTile w0) != .empty && h.kindOf (cTile w0) != fmtKind (cFmt w0) then
    some (BitVec.ofNat 64 ((0xF0 + cTile w0) * 256 + (cFmt w0).toNat))
  else none

/-- SH_LINK.EN (R261) (DEDUCED, log 44). -/
def linkOn (h : Shell) : Bool := h.link.getLsbD 63

/-- q0 holds eight commands that have not begun (R249) (DEDUCED, log 30). -/
def q0Full (h : Shell) : Bool := decide (8 ≤ (h.cmds.filter (·.stage = .queued)).length)

/-- A command enters q0: its tile's kind is recorded (R255). -/
def acceptCmd (s : State) (c : CoreId) (ws : List Word) (deps : List Nat) : State :=
  let w0 := ws.getD 0 0
  let mma := cOp w0 == 0
  let s' := s.updCore c fun k =>
    let h := k.shell
    let kind := if mma then (if h.kindOf (cTile w0) = .empty then fmtKind (cFmt w0) else h.kindOf (cTile w0)) else .empty
    let sets := mma || cOp w0 == 2 || (cOp w0 == 1 && cZaft w0)
    let seen (l : List Word) : List Word := if mma && h.ran then l else []
    { k with shell := { h with cmds := h.cmds ++ [{ id := s.fresh, words := ws, deps := deps, seenB := seen h.bow, seenS := seen h.stroke }],
                               kinds := if sets then h.kinds.setIfInBounds (cTile w0) kind else h.kinds,
                               lastMma := if mma then some s.fresh else h.lastMma } }
  s'.bump

/-- A write by a store. -/
def isStoreOp : ReqOp → Bool
  | .store | .ste | .stf => true
  | _ => false

/-- The seat's stores that a command's reads come after: those not yet performed that touch an operand (R189). -/
def operandDeps (s : State) (ws : List Word) : List Nat :=
  let n := tileBytes (cFmt (ws.getD 0 0))
  let hit (off : Nat) (p : Piece) : Bool := match p.dst with
    | .sp c o => c == s.core && decide (o < off + n) && decide (off < o + p.len) && p.open
    | _ => false
  let offs := ([ws.getD 1 0, ws.getD 2 0].filter (tagOf · == 1)).map (fld · 19 0)
  if cOp (ws.getD 0 0) = 0 || cOp (ws.getD 0 0) = 4 then
    ((seatReqs s s.core s.seat.val).filter fun r => isStoreOp r.op && r.pieces.any fun p => offs.any (hit · p)).map (·.id)
  else []

/-- `q0` takes no command: it is full, or a launch switch has stopped acceptance (R297). -/
def q0Shut (h : Shell) : Bool := h.closed || q0Full h

/-- `q0` takes a local command: nothing shuts it, and no remote command that came before waits for it (R253). -/
def q0Open (h : Shell) : Bool := !q0Shut h && h.passed.isEmpty

/-- A local command goes into q0, or its seat waits. -/
def pushCmd (s : State) (ws : List Word) : Act :=
  if q0Open s.thisCore.shell then .next (acceptCmd s s.core ws (operandDeps s ws)) else .block

/-- The shell trap (R264). -/
def shellTrap (reason detail subject : Nat) : Act := .trap 0x40 (reasonVal reason detail subject)

/-- The checks of a command pushed by `qw q0` at its fourth push (R251). -/
def pushWords (s : State) (ws : List Word) : Act :=
  let w0 := ws.getD 0 0
  match drainWalk s s.me ws, badField s s.me ws with
  | some va, _ => .walk va
  | none, some f => shellTrap 3 (f * 2 ^ 32) (cTile w0)
  | none, none =>
    if 3 ≤ cOp w0 && !linkOn s.thisCore.shell then shellTrap 4 0 (cOp w0)
    else match kindFault s.thisCore.shell w0 with
      | some v => .trap 0x03 v
      | none => pushCmd s ws

/-! ### Instructions (R256 to R260) -/

/-- `sh.mma` and `sh.mmap`: both alignments, both spaces, the kind, SH_LINK, then the push (R256). -/
def shMma (c : Ctl) (d : BitVec 3) (a : BitVec 5) (b : Option (BitVec 5)) (bsel : Nat) (pass : Bool) (f : BitVec 4)
    (s : State) : Result :=
  issue c 2 { rx := a :: b.toList } (fun s =>
    let a1 := s.thisSeat.getX a
    let a2 := (b.map s.thisSeat.getX).getD 0
    let n := tileBytes f
    let w0 := cmdWord 0 f d bsel pass false
    if a1.toNat % 64 ≠ 0 then .trap 0x10 a1
    else if a2.toNat % 64 ≠ 0 then .trap 0x10 a2
    else if !operandOk s s.core 1 a1 n then .trap 0x11 a1
    else if b.isSome && !operandOk s s.core (2 * bsel + 1) a2 n then .trap 0x11 a2
    else match kindFault s.thisCore.shell w0 with
      | some v => .trap 0x03 v
      | none => if pass && !linkOn s.thisCore.shell then shellTrap 4 0 0 else pushCmd s [w0, a1, a2, 0]) s

/-- `sh.mma` with B in the scratchpad. -/
def execShMmaSp (c : Ctl) (d : BitVec 3) (a b : BitVec 5) (f : BitVec 4) (s : State) : Result :=
  shMma c d a (some b) 0 false f s
/-- `sh.mma` with B in the weight store. -/
def execShMmaWs (c : Ctl) (d : BitVec 3) (a b : BitVec 5) (f : BitVec 4) (s : State) : Result :=
  shMma c d a (some b) 1 false f s
/-- `sh.mma` with B in the latch. -/
def execShMmaLt (c : Ctl) (d : BitVec 3) (a : BitVec 5) (f : BitVec 4) (s : State) : Result := shMma c d a none 2 false f s
/-- `sh.mmap` hands the latch tile on. -/
def execShMmap (c : Ctl) (d : BitVec 3) (a : BitVec 5) (f : BitVec 4) (s : State) : Result := shMma c d a none 2 true f s

/-- `sh.drain` and `sh.drainz` (R258). -/
def shDrain (c : Ctl) (d : BitVec 3) (a : BitVec 5) (f : BitVec 4) (zaft : Bool) (s : State) : Result :=
  issue c 2 { rx := [a] } (fun s =>
    let x := s.thisSeat.getX a
    let push := pushCmd s [cmdWord 1 f d 0 false zaft, x, 0, 0]
    if x = 0 then push
    else if x.toNat % 64 ≠ 0 then .trap 0x10 x
    else if !(tagOf x == 0 || tagOf x == 1 || tagOf x == 4) then .trap 0x11 x
    else match checkBytes s s.me .write (byteAddrs x (tileBytes f)) with
      | some (cause, v) => faultAct (cause, if cause = 0x11 then x else v)
      | none => push) s

/-- `sh.drain`. -/
def execShDrain (c : Ctl) (d : BitVec 3) (a : BitVec 5) (f : BitVec 4) (s : State) : Result := shDrain c d a f false s
/-- `sh.drainz`. -/
def execShDrainz (c : Ctl) (d : BitVec 3) (a : BitVec 5) (f : BitVec 4) (s : State) : Result := shDrain c d a f true s
/-- `sh.zero` (R259). -/
def execShZero (c : Ctl) (d : BitVec 3) (s : State) : Result :=
  issue c 2 {} (fun s => pushCmd s [cmdWord 2 0 d 0 false false, 0, 0, 0]) s
/-- `sh.pass` checks SH_LINK.EN (R262). -/
def execShPass (c : Ctl) (s : State) : Result :=
  issue c 2 {} (fun s =>
    if linkOn s.thisCore.shell then pushCmd s [cmdWord 3 0 0 0 false false, 0, 0, 0] else shellTrap 4 0 3) s

/-- A command names a tile (R253). -/
def Cmd.names (c : Cmd) (tile : Nat) : Bool := cOp (c.word 0) ≤ 2 && cTile (c.word 0) == tile

/-- `sh.wait`: every accepted command that names the tile, with acquire effect (R259). -/
def execShWait (c : Ctl) (d : BitVec 3) (s : State) : Result :=
  issue c 2 {} (fun s =>
    let ids := (s.thisCore.shell.cmds.filter (·.names d.toNat)).map (·.id)
    .next (raise s .none true (.shWait ids) (.value 0))) s

/-- `sh.bow` and `sh.stroke` (R260): the sums after the last MMA accepted before. -/
def shSums (c : Ctl) (a : BitVec 5) (stroke : Bool) (s : State) : Result :=
  issue c 2 { rx := [a] } (fun s =>
    let x := s.thisSeat.getX a
    let h := s.thisCore.shell
    if x.toNat % 8 ≠ 0 then .trap 0x10 x
    else if !(tagOf x == 1 && rangeIn s s.core x 256) then .trap 0x11 x
    else
      let sums := (List.range 32).map fun i => (if stroke then h.sampleS else h.sampleB).getD i 0
      let what := match h.lastMma with
        | some id => if h.cmds.any fun q => q.id = id && q.stage matches .queued | .occupying then
            Pending.bow stroke id (fld x 19 0) else .sums sums (fld x 19 0)
        | none => .sums sums (fld x 19 0)
      .next (raise s .none false what (.value 0))) s

/-- `sh.bow`. -/
def execShBow (c : Ctl) (a : BitVec 5) (s : State) : Result := shSums c a false s
/-- `sh.stroke`. -/
def execShStroke (c : Ctl) (a : BitVec 5) (s : State) : Result := shSums c a true s

/-- `sh.rcmd` (R263): the command is read as plain loads, sent, and answered by the target. -/
def execShRcmd (c : Ctl) (a b : BitVec 5) (s : State) : Result :=
  issue c 2 { rx := [a, b], mem := true } (fun s =>
    let x := s.thisSeat.getX a
    let y := s.thisSeat.getX b
    let r : BitVec 16 := x.setWidth 16
    if fld x 63 16 ≠ 0 || decide (0xFFFE ≤ r.toNat) then shellTrap 2 0 (fld x 15 0)
    else if y.toNat % 32 ≠ 0 then .trap 0x10 y
    else if !(tagOf y == 0 || tagOf y == 1) then .trap 0x11 y
    else match checkBytes s s.me .read (byteAddrs y 32) with
      | some f => faultAct f
      | none => match destFault s r with
        | some f => faultAct f
        | none =>
          if eModule (rankEntry s r) ≠ ownModule s then shellTrap 2 0 r.toNat
          else if unreleased s s.core s.seat.val || holdFull s s.core 0 then .block
          else
            let p := readPieces s y 32
            leave s p fun s => emit (postRead s (.rcmd r) p) s.core r 0 (.rcmd s.seat.val s.fresh [])) s

/-! ### Lines of an operand tile (R283 to R285) -/

/-- Bytes as one number, the first lowest. -/
def bytesNat (bs : List Byte) : Nat := pack 8 (bs.map (·.toNat))

/-- Code of element `k` of line `i`. -/
def lineCode (f : BitVec 4) (tile : Nat) (i k : Nat) : Nat :=
  let w := tagWidth f
  tile / 2 ^ (w * (32 * i + k)) % 2 ^ w

/-- The scale byte of line `i` of a block format. -/
def lineScale (f : BitVec 4) (tile : Nat) (i : Nat) : Nat := tile / 2 ^ (1024 * tagWidth f + 8 * i) % 256

/-- A value times 2^k, rounded toward zero (R283). -/
def truncV (k : Int) : Val → Int
  | .fin neg m e =>
    let r := roundInt .tz m (e + k)
    if neg then -(r : Int) else r
  | _ => 0

/-- The floating format of the elements of an aligned format, and its alignment constant (R283). -/
def alignFmt (f : BitVec 4) : Option (FFmt × Int) :=
  match f.toNat with
  | 4 => some (fmtF16, 25)
  | 5 => some (fmtBf16, 134)
  | 7 => some (fmtE4m3, 10)
  | 8 => some (fmtE5m2, 17)
  | 11 => some (fmtE4m3, 10)
  | _ => none

/-- One line: its 32 entries, its weight as a power of two, and whether it is poisoned. -/
def lineOf (f : BitVec 4) (tile : Nat) (i : Nat) : List Int × Int × Bool :=
  let codes := (List.range 32).map (lineCode f tile i)
  let sc := lineScale f tile i
  let spoil (bad : Bool) (es : List Int) (w : Int) := (if bad then es.map fun _ => 0 else es, w, bad)
  match alignFmt f with
  | some (ff, k) =>
    let e := codes.foldl (fun m c => max m (expField ff c)) 1
    let bad := codes.any (fun c => !isFinV (decodeF ff c)) || (f == 11 && sc == 255)
    let w : Int := (e : Int) - k + if f = 11 then (sc : Int) - 127 else 0
    spoil bad (codes.map fun c => truncV (k - e) (decodeF ff c)) w
  | none =>
    match f.toNat with
    | 1 => (codes.map (sxt 8), 0, false)
    | 12 => (codes.map (sxt 4), 0, false)
    | 10 => spoil (sc == 255)
        (codes.map fun c => truncV 1 (.fin (decide (8 ≤ c)) (halves01 (c % 8)) (-1))) ((sc : Int) - 128)
    | _ =>
      let k : Int := if sc / 64 = 1 then 1 else if sc / 64 = 2 then 3 else 0
      spoil (sc % 64 == 63) (codes.map fun c => truncV k (sb4Code (sc / 64) c)) ((sc % 64 : Nat) - 31 - k)

/-- Sum of squares of the entries of a line. -/
def squares (l : List Int) : Nat := (l.map fun x => (x * x).toNat).sum

/-- P of one cell: the squares of the sums of two lines (R282). -/
def cellSum (a b : List Int) : Nat := ((a.zip b).map fun (x, y) => ((x + y) * (x + y)).toNat).sum

/-- A command with the sums of its MMA (R282). -/
def mmaSums (c : Cmd) (f : BitVec 4) (a b : Nat) : Cmd :=
  let la := (List.range 32).map (lineOf f a)
  let lb := (List.range 32).map (lineOf f b)
  { c with stage := .occupying, bow := la.map (squares ·.1), stroke := lb.map (squares ·.1),
           cells := la.flatMap fun x => lb.map fun y => cellSum x.1 y.1,
           wts := (la ++ lb).map (·.2.1), bad := (la ++ lb).map (·.2.2) }

/-! ### Tiles (R287 to R289) -/

/-- ACC40 as a floating format (R288): 39 fraction bits under a significand of 40. -/
def fmtAcc : FFmt := ⟨11, 39, 1023, 2046 * 2 ^ 39 + (2 ^ 39 - 1), 2047 * 2 ^ 39 + 1, true⟩

/-- The raw layout of R297: S, X, and M with its leading bit. -/
def accRaw (p : Nat) : Word :=
  let x := p / 2 ^ 39 % 2 ^ 11
  let frac := p % 2 ^ 39
  let m := if x = 2047 then (if frac = 0 then 0 else 2 ^ 39) else if x = 0 then frac else 2 ^ 39 + frac
  BitVec.ofNat 64 (p / 2 ^ 50 % 2 * 2 ^ 63 + x * 2 ^ 52 + m)

/-- The value of a raw ACC40 (R288). -/
def accVal (w : Word) : Val :=
  let x := fld w 62 52
  let m := fld w 39 0
  if x = 2047 then (if m = 0 then .inf (w.getLsbD 63) else .nan)
  else .fin (w.getLsbD 63) m (if x = 0 then -1061 else (x : Int) - 1062)

/-- One element of a SCALED tile after an MMA: round40 of the sum, NaN for a poisoned row or column (R289). -/
def accStep (old : Word) (bad : Bool) (d : Int) (w : Int) : Word :=
  if bad then accRaw fmtAcc.nan else accRaw (roundF fmtAcc (addV (accVal old) (.fin (decide (d < 0)) d.natAbs w)))

/-- D of an element from its sums (R282). -/
def cellD (c : Cmd) (r q : Nat) : Int :=
  ((c.cells.getD (32 * r + q) 0 : Nat) - (c.bow.getD r 0 : Nat) - (c.stroke.getD q 0 : Nat) : Int) / 2

/-- Element indices in row-major order. -/
def cellIdx : List (Nat × Nat) := (List.range 32).flatMap fun r => (List.range 32).map fun q => (r, q)

/-- A tile after a command's MMA has finished (R287, R289). -/
def mmaTile (t : Tile) (c : Cmd) : Tile :=
  match fmtKind (cFmt (c.word 0)) with
  | .scaled =>
    let step (r q : Nat) := accStep (t.acc.getD (32 * r + q) 0) (c.bad.getD r false || c.bad.getD (32 + q) false)
      (cellD c r q) (c.wts.getD r 0 + c.wts.getD (32 + q) 0)
    { t with kind := .scaled, acc := cellIdx.map fun i => step i.1 i.2 }
  | _ =>
    let plus (l : List Word) (m : List Nat) (i : Nat) : Word := l.getD i 0 + BitVec.ofNat 64 (m.getD i 0)
    { kind := .int, acc := (List.range 1024).map (plus t.acc c.cells), row := (List.range 32).map (plus t.row c.bow),
      col := (List.range 32).map (plus t.col c.stroke) }

/-- The exact value of a tile element (R287, R288); an EMPTY tile holds zeros. -/
def tileVal (t : Tile) (r q : Nat) : Val :=
  match t.kind with
  | .empty => .fin false 0 0
  | .int => ofIntV ((t.acc.getD (32 * r + q) 0 - t.row.getD r 0 - t.col.getD q 0).sshiftRight 1).toInt
  | .scaled => accVal (t.acc.getD (32 * r + q) 0)

/-- The bytes of a drained tile (R252, R258, R290). -/
def drainBytes (t : Tile) (f : BitVec 4) : List Byte :=
  let w := tagWidth f
  let n : Nat :=
    if isBlockTag f then
      let rows := (List.range 32).map fun r => encodeBlock f .sat ((List.range 32).map (tileVal t r))
      pack w (rows.flatMap (·.2)) + 2 ^ (1024 * w) * pack 8 (rows.map (·.1))
    else pack w (cellIdx.map fun (r, q) => encodeElem f .sat (tileVal t r q))
  (List.range (tileBytes f)).map fun i => BitVec.ofNat 8 (n / 2 ^ (8 * i))

end Sys2Proof.Machine
end

