-- ==== Sys2Proof/Machine/ShellEvents.lean ====
section
/-! DEFINITION. What a shell does by itself: MMAs and their finish, drains, the latch and its transfers, remote commands
(R253 to R263, R282 to R296). A step that is not due leaves the state as it is. -/

namespace Sys2Proof.Machine

/-! ### Beginning a command (R253) -/

/-- PASS, INJECT and an MMA with BSEL 2. -/
def Cmd.latchUser (c : Cmd) : Bool :=
  let w := c.word 0
  cOp w == 3 || cOp w == 4 || (cOp w == 0 && cBsel w == 2)

/-- The stores of R189 that a command still waits for. -/
def depsOpen (s : State) (c : Cmd) : Bool :=
  s.reqs.any fun r => c.deps.contains r.id && r.pieces.any (·.open)

/-- A command of a shell. -/
def findCmd (s : State) (core : CoreId) (id : Nat) : Option Cmd := (s.getCore core).shell.cmds.find? (·.id = id)

/-- A queued command whose turn it is: no earlier unfinished command names its tile, or uses the latch as it does. -/
def inTurn (h : Shell) (c : Cmd) : Bool :=
  let earlier := h.cmds.takeWhile (·.id != c.id)
  c.stage = .queued && !(cOp (c.word 0) ≤ 2 && earlier.any (·.names (cTile (c.word 0)))) && !(c.latchUser && earlier.any (·.latchUser))

/-- A queued command that may begin now. -/
def mayBegin (s : State) (core : CoreId) (c : Cmd) : Bool :=
  inTurn (s.getCore core).shell c && !idle s core && !depsOpen s c

/-- The shell of a core changed. -/
def updShell (s : State) (core : CoreId) (f : Shell → Shell) : State := s.updCore core fun k => { k with shell := f k.shell }

/-- A command changed. -/
def updCmd (s : State) (core : CoreId) (id : Nat) (f : Cmd → Cmd) : State :=
  updShell s core fun h => { h with cmds := h.cmds.map fun c => if c.id = id then f c else c }

/-- A command has finished. -/
def finishCmd (s : State) (core : CoreId) (id : Nat) : State :=
  updShell s core fun h => { h with cmds := h.cmds.filter (·.id != id) }

/-! ### The latch (R262) -/

/-- The back tile moves to an empty front buffer. -/
def advanceLatch (h : Shell) : Shell :=
  match h.front, h.back with
  | none, some t => { h with front := some t, back := none }
  | _, _ => h

/-- The front buffer is emptied. -/
def takeFront (s : State) (core : CoreId) : State := updShell s core fun h => advanceLatch { h with front := none }

/-- LAST of SH_LINK. -/
def lastSeq (h : Shell) : BitVec 16 := h.link.setWidth 16

/-- A latch fault: received SEQ, LAST + 1, tag, kind (R262) (DEDUCED, log 32). -/
def latchFault (s : State) (core : CoreId) (seq : BitVec 16) (fmt : BitVec 4) (kind : Nat) : State :=
  let last := lastSeq (s.getCore core).shell + 1
  queueEvent s core 0x31 0 [BitVec.ofNat 64 (seq.toNat * 2 ^ 32 + last.toNat * 2 ^ 16 + fmt.toNat * 256 + kind)]

/-! ### Operands -/

/-- The place of a tile operand in the shell's own spaces. -/
def tilePlace (core : CoreId) (a : Word) : Place :=
  if tagOf a = 1 then .sp core (fld a 19 0) else .ws (clusterOf core) (fld a 25 0)

/-- The 32-bit words of a tile operand as pieces of a read, from bit `bit` of what is read. -/
def tilePieces (core : CoreId) (a : Word) (n bit : Nat) : List Piece :=
  (List.range (n / 4)).map fun i =>
    let va := a + BitVec.ofNat 64 (4 * i)
    mkPiece va (tilePlace core va) 4 (lowMask 32) 0 (bit + 32 * i : Nat)

/-- The bits that pieces have read, each at its place. -/
def readBits (l : List Piece) : Nat :=
  l.foldl (fun v p =>
    let b := (p.data &&& p.mask).toNat
    v + if 0 ≤ p.bit then b * 2 ^ p.bit.toNat else b / 2 ^ (-p.bit).toNat) 0

/-- A command posts a request of its shell, and keeps its number. -/
def postShell (s : State) (core : CoreId) (cmd : Nat) (op : ReqOp) (pieces : List Piece) : State :=
  postReq s.bump { id := s.fresh, core := core, seat := 0, firing := 0, pc := 0, op := op, pieces := pieces, agent := .shell cmd }

/-- The read of a command's operands, once every word of it has been read (R257). -/
def readDone (s : State) (c : Cmd) : Option Req := (c.rd.bind (findReq s)).filter settled

/-- The shell read error (R378). -/
def shellReadError (s : State) (core : CoreId) (a : Word) (tile : Nat) : State :=
  queueEvent s core 0x62 0 [a, BitVec.ofNat 64 tile]

/-! ### MMA (R256, R282 to R291) -/

/-- Pending `sh.bow` and `sh.stroke` of an MMA take their sums when it finishes (R291). -/
def settleSums (id : Nat) (bow stroke : List Word) (t : Seat) : Seat :=
  { t with outs := t.outs.map fun o => match o.what with
    | .bow st m off =>
      if m = id then { o with what := .sums ((List.range 32).map fun i => (if st then stroke else bow).getD i 0) off }
      else o
    | _ => o }

/-- An MMA has finished, with sums or without effect: what `sh.bow` and `sh.stroke` behind it report is `seenB` and `seenS`, no MMA
accepted later among them (R260, R291). -/
def sampleMma (s : State) (core : CoreId) (c : Cmd) : State :=
  s.updCore core fun k =>
    let h := k.shell
    let h := if h.lastMma = some c.id then { h with sampleB := c.seenB, sampleS := c.seenS } else h
    { k with shell := h, seats := k.seats.map (settleSums c.id c.seenB c.seenS) }

/-- The command ends, or hands its latch tile on (R256 step 4). -/
def afterMma (s : State) (core : CoreId) (c : Cmd) : State :=
  let s := sampleMma s core c
  if cPass (c.word 0) then updCmd s core c.id fun c => { c with stage := .sending } else finishCmd s core c.id

/-- The bytes of the operands of an MMA that are read from memory: A, then B where it is no latch tile. -/
def mmaPieces (core : CoreId) (c : Cmd) : List Piece :=
  let n := tileBytes (cFmt (c.word 0))
  tilePieces core (c.word 1) n 0 ++ if cBsel (c.word 0) = 2 then [] else tilePieces core (c.word 2) n (8 * n)

/-- The MMA reads its operands: word by word, as plain accesses (R257, R291). -/
def beginMma (s : State) (core : CoreId) (c : Cmd) : State :=
  postShell (updCmd s core c.id fun c => { c with stage := .occupying, rd := some s.fresh }) core c.id .vload (mmaPieces core c)

/-- The operands of an MMA have been read: its sums are formed, or an error of the read ends it (R282, R378). -/
def formMma (s : State) (core : CoreId) (c : Cmd) (r : Req) : State :=
  let w0 := c.word 0
  let n := tileBytes (cFmt w0)
  let latched := cBsel w0 = 2
  let s := updCmd (dropReq s r.id) core c.id fun c => { c with rd := none }
  let tile := (s.getCore core).shell.front
  let s := if latched && !cPass w0 then takeFront s core else s
  match reqError r with
  | some (_, x) => afterMma (shellReadError s core x (cTile w0)) core c
  | none =>
    let v := readBits r.pieces
    let b := if latched then bytesNat ((tile.map (·.bytes)).getD []) else v / 2 ^ (8 * n)
    updCmd s core c.id fun c => mmaSums c (cFmt w0) (v % 2 ^ (8 * n)) b

/-- The array is free (R253, R291). -/
def arrayFree (s : State) (core : CoreId) : Bool :=
  !(s.getCore core).shell.cmds.any fun c => cOp (c.word 0) == 0 && c.rd.isSome

/-- SHELL_MMA: the command begins to read its operands, and then forms its sums. -/
def execShellMma (core cmd : Nat) (s : State) : Result :=
  .next <| match findCmd s core cmd with
    | none => s
    | some c =>
      let w0 := c.word 0
      if cOp w0 ≠ 0 then s
      else match readDone s c with
        | some r => formMma s core c r
        | none =>
          if !mayBegin s core c || !arrayFree s core then s
          else if cBsel w0 = 2 then
            match (s.getCore core).shell.front with
            | none => s
            | some t =>
              if t.fmt ≠ cFmt w0 then finishCmd (sampleMma (latchFault s core t.seq t.fmt 2) core c) core cmd
              else beginMma s core c
          else beginMma s core c

/-- An MMA that was accepted after another one that has finished sees its sums (R291). -/
def seeSums (id : Nat) (bow stroke : List Word) (c : Cmd) : Cmd := if id ≤ c.id then { c with seenB := bow, seenS := stroke } else c

/-- MMA_FINISH: the sums reach the tile and the bow and stroke registers. -/
def execMmaFinish (core cmd : Nat) (s : State) : Result :=
  .next <| match findCmd s core cmd with
    | none => s
    | some c =>
      if cOp (c.word 0) ≠ 0 || c.stage ≠ .occupying || c.rd.isSome then s
      else
        let tile := cTile (c.word 0)
        let words (l : List Nat) : List Word := l.map (BitVec.ofNat 64)
        let put (h : Shell) : Shell :=
          { h with tiles := h.tiles.setIfInBounds tile (mmaTile (h.tiles.getD tile {}) c), bow := words c.bow,
                   stroke := words c.stroke, ran := true, cmds := h.cmds.map (seeSums cmd (words c.bow) (words c.stroke)) }
        afterMma (updShell s core put) core (seeSums cmd (words c.bow) (words c.stroke) c)

/-! ### DRAIN and ZERO (R258, R259) -/

/-- A tile becomes EMPTY. -/
def zeroTile (s : State) (core : CoreId) (tile : Nat) : State :=
  updShell s core fun h => { h with tiles := h.tiles.setIfInBounds tile {} }

/-- Doubles held in q1. -/
def q1Words (k : Core) : Nat := (k.q1.map (·.words.length)).sum

/-- Doubles of a drain enter q1 while there is room; after the last the command waits for the pops (R253, R258). -/
def pushDrain (s : State) (core : CoreId) (c : Cmd) : State :=
  let k := s.getCore core
  let ws := c.rest.take (128 - q1Words k)
  let left := c.rest.drop ws.length
  if ws.isEmpty then s
  else
    let q1 := match k.q1.getLast? with
      | some r => if r.cmd = c.id then k.q1.dropLast ++ [{ r with words := r.words ++ ws }]
        else k.q1 ++ [⟨ws, cFmt (c.word 0), 0, true, c.id⟩]
      | none => [⟨ws, cFmt (c.word 0), 0, true, c.id⟩]
    let s := s.setCore core ({ k with q1 := q1 }.news)
    updCmd s core c.id fun c => { c with rest := left, stage := if left.isEmpty then .popping else .occupying }

/-- The 32-bit words of a drained tile as pieces of a write. -/
def drainPieces (s : State) (u : Asker) (a : Word) (bytes : List Byte) : List Piece :=
  (List.range (bytes.length / 4)).map fun i =>
    let va := a + BitVec.ofNat 64 (4 * i)
    mkPiece va (placeOf s u va) 4 (lowMask 32) (BitVec.ofNat 64 (bytesNat ((bytes.drop (4 * i)).take 4))) 0

/-- A drain begins: its values are encoded, and its words leave as engine writes, or go to q1 (R188, R258). -/
def beginDrain (s : State) (core : CoreId) (c : Cmd) : State :=
  let w0 := c.word 0
  let bytes := drainBytes ((s.getCore core).shell.tiles.getD (cTile w0) {}) (cFmt w0)
  let s := if cZaft w0 then zeroTile s core (cTile w0) else s
  if c.word 1 = 0 then
    let words := (List.range (bytes.length / 8)).map fun i => BitVec.ofNat 64 (bytesNat ((bytes.drop (8 * i)).take 8))
    let c := { c with stage := .occupying, rest := words }
    pushDrain (updCmd s core c.id fun _ => c) core c
  else
    postShell (updCmd s core c.id fun c => { c with stage := .occupying, wr := [s.fresh] }) core c.id .store
      (drainPieces s (.op core c.id) (c.word 1) bytes)

/-- The drain path is free (R253): no drain has words left to hand out. -/
def drainFree (s : State) (core : CoreId) : Bool :=
  !(s.getCore core).shell.cmds.any fun d => cOp (d.word 0) == 1 && d.stage = .occupying && !d.rest.isEmpty

/-- SHELL_DRAIN: the drain begins; one to q1 goes on as far as there is room, and one to memory ends when its last write is
registered, with the shell read error if a write met an error, or if the destination translates no more or is sealed (R174, R253,
R258, R379) (DEDUCED, log 31). A destination that the caches no longer translate awaits a walk (R179). -/
def execShellDrain (core cmd : Nat) (s : State) : Result :=
  .next <| match findCmd s core cmd with
    | none => s
    | some c =>
      if cOp (c.word 0) ≠ 1 then s
      else if c.stage = .occupying then
        if c.word 1 = 0 then pushDrain s core c
        else if !c.wr.isEmpty then s
        else finishCmd (match c.err with
          | some (_, x) => shellReadError s core x (cTile (c.word 0))
          | none => s) core cmd
      else if !mayBegin s core c || !drainFree s core then s
      else match (if c.word 1 = 0 then none
          else firstFault (fun a => (pageFault s (.op core cmd) .write a).or (writeFault s (.op core cmd) .write a))
            (byteAddrs (c.word 1) (tileBytes (cFmt (c.word 0))))) with
        | some (cause, x) =>
          if cause = walkCause then askWalk s (.op core cmd) (s.getCore core).ttRoot (fld x 47 0)
          else finishCmd (shellReadError (s.forget (.op core cmd)) core x (cTile (c.word 0))) core cmd
        | none => (beginDrain s core c).forget (.op core cmd)

/-- SHELL_ZERO (R259). -/
def execShellZero (core cmd : Nat) (s : State) : Result :=
  .next <| match findCmd s core cmd with
    | none => s
    | some c =>
      if cOp (c.word 0) = 2 && mayBegin s core c then finishCmd (zeroTile s core (cTile (c.word 0))) core cmd else s

/-! ### Latch transfers (R262, R293, R294) -/

/-- NEXT of SH_LINK. -/
def linkNext (h : Shell) : BitVec 16 := h.link.extractLsb' 32 16

/-- A command that begins sending asks the receiver for its back buffer; with NEXT dead or not present it ends with a
latch fault of kind 3 (R262) (DEDUCED, log 31). -/
def askNext (s : State) (core : CoreId) (c : Cmd) (seq : BitVec 16) (fmt : BitVec 4) : State :=
  match resolve s core (linkNext (s.getCore core).shell) with
  | .hold => s
  | .core d =>
    if isBc d then finishCmd (latchFault s core seq fmt 3) core c.id
    else updShell (updCmd s core c.id fun c => { c with stage := .asked, dst := d }) d
      fun h => { h with asking := h.asking ++ [(core, c.id)] }
  | _ => finishCmd (latchFault s core seq fmt 3) core c.id

/-- A granted tile leaves for the receiver's latch. -/
def sendTile (s : State) (core : CoreId) (c : Cmd) (t : LatchTile) : State :=
  finishCmd (newPacket s core c.dst ((s.getCore c.dst).rank) 1 (.latch t) none) core c.id

/-- The receiver of a transfer that has asked was fenced before the tile left: it is DEAD, so nothing is sent (R262, R384). -/
def lostNext (s : State) (c : Cmd) : Bool := (c.stage matches .asked | .granted) && (s.getCore c.dst).fenced

/-- SHELL_PASS: a PASS, or an MMA that hands its tile on, asks, and once granted sends the front tile. -/
def execShellPass (core cmd : Nat) (s : State) : Result :=
  .next <| match findCmd s core cmd, (s.getCore core).shell.front with
    | some c, some t =>
      if cOp (c.word 0) = 4 then s
      else if lostNext s c then finishCmd (latchFault s core t.seq t.fmt 3) core cmd
      else if c.stage = .sending || (cOp (c.word 0) = 3 && mayBegin s core c) then askNext s core c t.seq t.fmt
      else if c.stage = .granted then takeFront (sendTile s core c t) core
      else s
    | _, _ => s

/-- The tile of an INJECT has been read: it is sent, or an error of the read ends the command and frees the back buffer. -/
def sendInject (s : State) (core : CoreId) (c : Cmd) (r : Req) : State :=
  let w0 := c.word 0
  let s := dropReq s r.id
  match reqError r with
  | some (_, x) => updShell (finishCmd (shellReadError s core x 0) core c.id) c.dst fun h => { h with reserved := false }
  | none =>
    let v := readBits r.pieces
    sendTile s core c ⟨cFmt w0, cSeq w0, (List.range (tileBytes (cFmt w0))).map fun i => BitVec.ofNat 8 (v / 2 ^ (8 * i))⟩

/-- SHELL_INJECT: an INJECT asks, and once granted reads its tile and sends it (DEDUCED, log 31). -/
def execShellInject (core cmd : Nat) (s : State) : Result :=
  .next <| match findCmd s core cmd with
    | none => s
    | some c =>
      let w0 := c.word 0
      if cOp w0 ≠ 4 then s
      else if lostNext s c then finishCmd (latchFault s core (cSeq w0) (cFmt w0) 3) core cmd
      else if c.stage = .queued then (if mayBegin s core c then askNext s core c (cSeq w0) (cFmt w0) else s)
      else if c.stage = .granted then
        match c.rd, readDone s c with
        | _, some r => sendInject s core c r
        | none, none =>
          postShell (updCmd s core cmd fun c => { c with rd := some s.fresh }) core cmd .vload
            (tilePieces core (c.word 1) (tileBytes (cFmt w0)) 0)
        | some _, none => s
      else s

/-- LATCH_GRANT: the receiver grants its back buffer to the first that asked (R293). -/
def execLatchGrant (core : Nat) (s : State) : Result :=
  .next <|
    let h := (s.getCore core).shell
    if h.reserved || h.back.isSome || (s.getCore core).fenced then s
    else match h.asking with
      | [] => s
      | (src, id) :: t =>
        match findCmd s src id with
        | none => updShell s core fun h => { h with asking := t }
        | some _ => updCmd (updShell s core fun h => { h with asking := t, reserved := true }) src id
            fun c => { c with stage := .granted }

/-- LATCH_ARRIVAL: the next tile of the series is taken, any other is discarded with a latch fault (R262, R294). -/
def execLatchArrival (pkt : Nat) (s : State) : Result :=
  .next <| onArrival s (duePacket s pkt) fun p => match p.body with
    | .latch t =>
      let s := updShell (takePacket s p) p.dst fun h => { h with reserved := false }
      let h := (s.getCore p.dst).shell
      if (s.getCore p.dst).fenced then s
      else if t.seq = lastSeq h + 1 then
        updShell s p.dst fun h => advanceLatch
          { h with back := some t, link := (h.link.extractLsb' 16 48) ++ t.seq }
      else latchFault s p.dst t.seq t.fmt 1
    | _ => s

/-- A write of SH_LINK: reserved fields stay 0 (R261, R295). -/
def writeShLink (s : State) (core : CoreId) (v : Word) : State :=
  updShell s core fun h => { h with link := v &&& 0x8000FFFF0000FFFF }

/-- SH_LINK_WRITE. -/
def execShLinkWrite (core : Nat) (v : Word) (s : State) : Result :=
  .next (if isCore core then writeShLink s core v else s)

/-! ### Remote commands (R263, R296) -/

/-- The first check of R263 that a remote command fails at its target, 0 for none. -/
def rcmdCheck (s : State) (p : Packet) (ws : List Word) : Nat :=
  let h := (s.getCore p.dst).shell
  let cap : BitVec 32 := (ws.getD 3 0).setWidth 32
  let w0 := ws.getD 0 0
  if cap = 0 || !h.caps.toList.contains cap then 1
  else if (badField s (.op p.dst p.id) ws).isSome then 2
  else if (kindFault h w0).isSome then 3
  else if 3 ≤ cOp w0 && !linkOn h then 4
  else 0

/-- A remote command is dealt with: one that failed a check is refused, and so is one whose kind no longer fits its tile at
acceptance (R255); any other enters q0. It is answered (R263). -/
def enterRcmd (s : State) (p : Packet) (seat op : Nat) (ws : List Word) (fail : Nat) : State :=
  let fail := if fail = 0 && (kindFault (s.getCore p.dst).shell (ws.getD 0 0)).isSome then 3 else fail
  let s := if fail = 0 then acceptCmd s p.dst ws [] else s
  let s := updShell (dropPacket s p.id) p.dst fun h => { h with passed := h.passed.filter (·.1 != p.id) }
  answerPacket (updSent s p.orig fun e => { e with reply := some (.rcmdAns seat op fail) }) p (.rcmdAns seat op fail)

/-- A remote command with its refusal or 0 waits: an accepted one for room in q0, and either behind those that came before it, so that
the answers leave in the order of the commands (R263). -/
def rcmdWaits (h : Shell) (fail : Nat) : Bool := !h.passed.isEmpty || (fail == 0 && q0Shut h)

/-- A remote command at its target: checked as it arrives, once, and refused, or taken as soon as q0 has room (R263, R295,
R296). The number of one that waits is passed (R364). -/
def arriveRcmd (s : State) (p : Packet) (seat op : Nat) (ws : List Word) : State :=
  let h := (s.getCore p.dst).shell
  let fail := rcmdCheck s p ws
  let s := { s.forget (.op p.dst p.id) with expects := pset s.expects (p.src, p.home) (p.num + 1) }
  if rcmdWaits h fail then updShell s p.dst fun h => { h with passed := h.passed ++ [(p.id, fail)] }
  else enterRcmd s p seat op ws fail

/-- REMOTE_SHELL_COMMAND: the target checks the command, whose destination may first await a walk, and takes it, or refuses it. -/
def execRemoteShellCommand (pkt : Nat) (s : State) : Result :=
  .next <| match s.net.find? (·.id = pkt) with
    | none => s
    | some p => match p.body with
      | .rcmd seat op ws =>
        let k := s.getCore p.dst
        if ws.isEmpty || k.fenced || !isGridCore p.dst then s
        else if k.shell.passed.any (·.1 = pkt) then
          match k.shell.passed.head? with
          | some (id, fail) => if id = pkt && (fail ≠ 0 || !q0Shut k.shell) then enterRcmd s p seat op ws fail else s
          | none => s
        else match (duePacket s pkt).bind fun p => drainWalk s (.op p.dst p.id) ws with
          | some va => askWalk s (.op p.dst pkt) k.ttRoot (fld va 47 0)
          | none => onArrival s (duePacket s pkt) fun p => arriveRcmd s p seat op ws
      | _ => s

/-- The error that a refused remote command gives its seat (R263). -/
def rcmdError (fail : Nat) (r : Nat) : Answer :=
  if fail = 255 then .error 0x21 (BitVec.ofNat 64 r) else .error 0x40 (reasonVal 2 (fail * 2 ^ 32) r)

/-- An earlier remote command of the core to the same rank has no answer yet: answers are taken in issue order (R263). -/
def answersBefore (k : Core) (seat op : Nat) : Bool :=
  match ((k.getSeat seat).outs.find? (·.id = op)).map (·.what) with
  | some w => k.seats.toList.any fun t => t.outs.any fun o => o.what = w && o.ans = .waiting && decide (o.id < op)
  | none => false

/-- RCMD_ANSWER: `OUT` is lowered, or the refusal becomes an error of the seat (R263). -/
def execRcmdAnswer (pkt : Nat) (s : State) : Result :=
  .next <| onArrival s ((dueAnswer s pkt).filter fun p => !(match p.body with
    | .rcmdAns seat op _ => answersBefore (s.getCore p.dst) seat op
    | _ => false)) fun p => match p.body with
    | .rcmdAns seat op fail =>
      let s := dropSent (dropPacket s pkt) p.orig
      match (s.seatAt p.dst seat).outs.find? (·.id = op) with
      | none => s
      | some o =>
        let r : Nat := match o.what with
          | .rcmd r => r.toNat
          | _ => 0
        if fail = 0 then lower s p.dst seat op else answer s p.dst seat op (rcmdError fail r)
    | _ => s

end Sys2Proof.Machine
end

