-- ==== Sys2Proof/Machine/Router.lean ====
section
/-! DEFINITION. The combining router: descriptors, q6 and q7, slots, trees, leaves, deliveries, the codec table, and the rt
instructions (R314 to R321, R352, R353, R406). -/

namespace Sys2Proof.Machine

/-! ### Descriptors (R315) -/

/-- GROUP, DELIVER and fn of a descriptor, with fn in [38:36]; the key is its low half. -/
def dGroup (d : Word) : Nat := fld d 7 0
def dDeliver (d : Word) : Nat := fld d 33 32
def dFn (d : Word) : Nat := fld d 38 36
def dKey (d : Word) : BitVec 32 := d.setWidth 32

/-- The system trap (R313). -/
def sysTrap (reason detail subject : Nat) : Act := .trap 0x42 (reasonVal reason detail subject)

/-- The result tag of fn, and the tag that vb may have beside raw (R315). -/
def redTag (fn : Nat) : BitVec 4 := if fn = 1 then 5 else if fn = 2 then 3 else 6

/-- One combination of two registers, element by element (R316). -/
def combineData (fn : Nat) (a b : BitVec 4096) : BitVec 4096 :=
  match fn with
  | 1 => build 16 fun i => addF fmtBf16 (elem 16 a i) (elem 16 b i)
  | 2 => build 32 fun i => elem 32 a i + elem 32 b i
  | 3 => build 32 fun i => maxF fmtF32 (elem 32 a i) (elem 32 b i)
  | 4 => build 32 fun i => minF fmtF32 (elem 32 a i) (elem 32 b i)
  | _ => build 32 fun i => addF fmtF32 (elem 32 a i) (elem 32 b i)

/-! ### Tree entries (R319) -/

def treeRoot (e : Word) : Bool := e.getLsbD 62
def treeParent (e : Word) : BitVec 16 := e.extractLsb' 32 16
def treeChildren (e : Word) : Nat := fld e 31 24

/-- The tree entry of a core for a group. -/
def treeOf (k : Core) (group : Nat) : Option Word := tget? k.trees group

/-- Whether a core has exited a group. -/
def hasExited (s : State) (c : CoreId) (gid : Nat) : Bool := (findGroup s gid).any fun g => g.exited.contains c

/-- The router of a core that has exited a group: its contributions pushed before come first (R320) (DEDUCED, log 33). -/
def routerExited (s : State) (c : CoreId) (gid : Nat) : Bool :=
  hasExited s c gid && !(s.getCore c).q6.any fun q => dGroup q.desc = gid

/-- Children that have sent a leave (R320). -/
def leftOf (k : Core) (group : Nat) : List CoreId := tget [] k.left group

/-! ### Pushing contributions (R315, R406) -/

/-- q6 has room for 64 more words (R196). -/
def q6Room (k : Core) : Bool := decide (k.q6.length < 2)

/-- Checks 2 and 3 of R315. -/
def groupFault (s : State) (xa : Word) (d : Word) : Option Act :=
  if (activeGroup s s.core (dGroup d)).isNone then some (.trap 0x22 xa)
  else if (treeOf s.thisCore (dGroup d)).isNone then some (sysTrap 2 0 (dGroup d))
  else none

/-- A whole contribution enters q6, or its seat waits. -/
def pushRed (s : State) (d : Word) (data : BitVec 4096) : Act :=
  if !q6Room s.thisCore then .block
  else
    let t := s.thisSeat
    .next (s.updThisCore fun k =>
      { k with q6 := k.q6 ++ [⟨s.fresh, d, data, s.seat.val, t.firingId, t.pc⟩] }).bump

/-- `rt.red`: the checks in their order, then the push (R315). -/
def rtRed (c : Ctl) (fn : Nat) (a : BitVec 5) (b : BitVec 4) (s : State) : Result :=
  issue c 2 { rx := [a], rv := [b] } (fun s =>
    let t := s.thisSeat
    let x := t.getX a
    let v := t.getV b
    if t.q6 ≠ [] || fld x 63 34 ≠ 0 || dDeliver x = 3 then sysTrap 1 0 fn
    else match groupFault s x x with
      | some r => r
      | none =>
        if v.tag ≠ 0 && v.tag ≠ redTag fn then formatTrap b v.tag
        else pushRed s (x ||| BitVec.ofNat 64 (fn * 2 ^ 36)) v.data) s

/-- `rt.red.add.f32`. -/
def execRtRedAddF32 (c : Ctl) (a : BitVec 5) (b : BitVec 4) (s : State) : Result := rtRed c 0 a b s
/-- `rt.red.add.bf16`. -/
def execRtRedAddBf16 (c : Ctl) (a : BitVec 5) (b : BitVec 4) (s : State) : Result := rtRed c 1 a b s
/-- `rt.red.add.i32`. -/
def execRtRedAddI32 (c : Ctl) (a : BitVec 5) (b : BitVec 4) (s : State) : Result := rtRed c 2 a b s
/-- `rt.red.max.f32`. -/
def execRtRedMaxF32 (c : Ctl) (a : BitVec 5) (b : BitVec 4) (s : State) : Result := rtRed c 3 a b s
/-- `rt.red.min.f32`. -/
def execRtRedMinF32 (c : Ctl) (a : BitVec 5) (b : BitVec 4) (s : State) : Result := rtRed c 4 a b s

/-- The result of q7 that `rt.res` selects: the key fits and none of its doubles has been popped (R318). -/
def findRes (k : Core) (key : BitVec 32) : Option Run := k.q7.find? fun r => r.key = key && r.full

/-- Doubles as register data, the first lowest. -/
def wordsData (ws : List Word) : BitVec 4096 := BitVec.ofNat 4096 (pack 64 (ws.map (·.toNat)))

/-- `rt.res` waits for its result and pops it (R318). -/
def execRtRes (c : Ctl) (d : BitVec 4) (a : BitVec 5) (s : State) : Result :=
  issue c 2 { rx := [a], wv := [d] } (fun s =>
    let x := s.thisSeat.getX a
    if fld x 63 32 ≠ 0 then sysTrap 1 0 8
    else match findRes s.thisCore (dKey x) with
      | none => .block
      | some r => putV (s.updThisCore fun k => { k with q7 := k.q7.erase r }) d r.tag (wordsData r.words)) s

/-- `rt.tree` (R319). -/
def execRtTree (c : Ctl) (a b : BitVec 5) (s : State) : Result :=
  issueS (wordA c 0x36 0 a b 9) c { rx := [a, b] } (fun s =>
    let x := s.thisSeat.getX a
    let e := s.thisSeat.getX b
    let k := s.thisCore
    let member := (findGroup s (fld x 7 0)).any fun g => g.members.any (·.2 = s.core) && !g.active.isEmpty
    if fld x 63 8 ≠ 0 || !member then .trap 0x22 x
    else if fld e 23 0 ≠ 0 || (e.getLsbD 63 && (treeOf k x.toNat).isNone && decide (4 ≤ k.trees.length)) then sysTrap 1 0 9
    else .next (raise s .none false (.tree x.toNat e) (.value 0))) s

/-! ### The codec table (R321) -/

/-- Sum of 2^(12 - length) of a code; 4096 stands for 1. -/
def kraft (l : List Nat) : Nat := (l.map fun n => 2 ^ (12 - n)).sum

/-- Byte `i` of a table read as a number. -/
def tableByte (v i : Nat) : Nat := v / 2 ^ (8 * i) % 256

/-- The codec table in 64 bytes, if it meets the limits that apply to it. -/
def codecTable (v : Nat) : Option Codec :=
  let bytes (lo n : Nat) := (List.range n).map fun i => tableByte v (lo + i)
  let zero (l : List Nat) := l.all (· == 0)
  let mode := tableByte v 0
  let n := tableByte v 1
  let syms := bytes 8 16
  let lens := bytes 24 16
  if !zero (bytes 2 6) || !zero (bytes 40 24) || 1 < mode then none
  else if mode = 0 then some {}
  else if 1 ≤ n && n ≤ 16 && decide ((syms.take n).Nodup) && zero (syms.drop n) && zero (lens.drop n) &&
      (lens.take n).all (fun l => 1 ≤ l && l ≤ 12) && decide (kraft (lens.take n) ≤ 4096) then
    some ⟨1, ((syms.take n).map (BitVec.ofNat 8)).zip (lens.take n)⟩
  else none

/-- `rt.codec` reads the table with the checks of a load (R321). -/
def execRtCodec (c : Ctl) (a : BitVec 5) (s : State) : Result :=
  issueS (wordA c 0x36 0 a 0 10) c { rx := [a], mem := true } (fun s =>
    let x := s.thisSeat.getX a
    if x.toNat % 64 ≠ 0 then .trap 0x10 x
    else if !(tagOf x == 0 || tagOf x == 1) then .trap 0x11 x
    else match checkBytes s s.me .read (byteAddrs x 64) with
      | some r => faultAct r
      | none => readTable s x 64 fun v => match codecTable v with
        | none => sysTrap 4 0 0
        | some t => .next (raise s .none false (.codec t) (.value 0))) s

/-! ### Slots (R314, R316) -/

/-- A slot is resolved: the local contribution and a partial of every awaited child are in. -/
def CombineSlot.resolved (t : CombineSlot) : Bool := t.localIn && decide (t.await ≤ t.children.length)

/-- The slots of a core changed by key. -/
def setSlot (k : Core) (t : CombineSlot) : Core :=
  { k with combine := k.combine.map fun u => if dKey u.desc = dKey t.desc then t else u }
def freeSlot (k : Core) (key : BitVec 32) : Core := { k with combine := k.combine.filter (dKey ·.desc != key) }

/-- The descriptor as a seat gives it, without fn (DEDUCED, log 34). -/
def plainDesc (d : Word) : Word := d &&& 0x3FFFFFFFF

/-- A combine fault: the arrival's descriptor and fn (R317). -/
def combineFault (s : State) (c : CoreId) (d : Word) : State :=
  queueEvent s c 0x32 0 [plainDesc d, BitVec.ofNat 64 (dFn d)]

/-- The message of a root delivery (R316). -/
def rootMessage (s : State) (c : CoreId) (t : CombineSlot) : State :=
  let r := rankOf s c
  let h := mkHeader r (fld t.entry 61 56) (t.entry.extractLsb' 48 8) 64 false r
  newPacket s c c r 0 (.msg h (vecWords t.data 64)) none

/-- A resolved slot forwards its sum to the parent, or delivers it at the root, and is freed (R316, R352). -/
def resolveSlot (s : State) (c : CoreId) (t : CombineSlot) : State :=
  let s := s.updCore c fun k => freeSlot k (dKey t.desc)
  if !treeRoot t.entry then emit s c (treeParent t.entry) 3 (.combine t.desc t.data)
  else
    let s := if dDeliver t.desc = 0 then s else rootMessage s c t
    if dDeliver t.desc = 1 then s else newPacket s c c (rankOf s c) 3 (.deliver t.desc t.data) none

/-- A slot of a core, resolved if it can be. -/
def checkSlot (s : State) (c : CoreId) (key : BitVec 32) : State :=
  match (s.getCore c).combine.find? (dKey ·.desc = key) with
  | some t => if t.resolved then resolveSlot s c t else s
  | none => s

/-- An arrival at a router: local with no child, or a partial of a child. `none` when it must wait for a slot (R314, R316,
R317). -/
def routerArrival (s : State) (c : CoreId) (child : Option CoreId) (d : Word) (data : BitVec 4096) : Option State :=
  let k := s.getCore c
  match k.combine.find? (dKey ·.desc = dKey d) with
  | some t =>
    if dFn t.desc ≠ dFn d || dDeliver t.desc ≠ dDeliver d then
      some (combineFault (s.setCore c (freeSlot k (dKey d))) c d)
    else
      let t := { t with data := combineData (dFn d) t.data data, localIn := t.localIn || child.isNone,
                        children := (t.children ++ child.toList).eraseDups }
      some (checkSlot (s.setCore c (setSlot k t)) c (dKey d))
  | none => match treeOf k (dGroup d) with
    | none => some (combineFault s c d)
    | some e =>
      if 8 ≤ k.combine.length then none
      else
        let t : CombineSlot := ⟨d, data, child.isNone || routerExited s c (dGroup d), child.toList,
          treeChildren e - (leftOf k (dGroup d)).length, e⟩
        some (checkSlot (s.setCore c { k with combine := k.combine ++ [t] }) c (dKey d))

/-- A local contribution at the head of q6; one whose key has its local contribution already is refused (R315) (DEDUCED, log 33). -/
def localArrival (s : State) (c : CoreId) (q : Contribution) : Option State :=
  let k := s.getCore c
  let rest := s.setCore c { k with q6 := k.q6.filter (·.id != q.id) }
  if k.combine.any fun t => dKey t.desc = dKey q.desc && t.localIn then
    let w := q.desc
    let detail := fld w 31 16 + dGroup w * 2 ^ 16
    let v := reasonVal 3 (detail) (fld w 15 8 * 256 + fld w 23 16)
    some (rest.updCore c fun k => { k with errs := k.errs ++ [⟨q.id, q.seat, q.firing, q.pc, 0x42, v⟩] })
  else routerArrival rest c none q.desc q.data

/-- The open slots of a group at a router that has exited hold its contribution as empty (R320). -/
def exitSlots (s : State) (c : CoreId) (gid : Nat) : State :=
  let keys := ((s.getCore c).combine.filter fun t => dGroup t.desc = gid).map (dKey ·.desc)
  let s := s.updCore c fun k =>
    { k with combine := k.combine.map fun t => if dGroup t.desc = gid then { t with localIn := true } else t }
  keys.foldl (fun s key => checkSlot s c key) s

/-- An exited router without children left sends a leave to its parent (R320). -/
def sendLeave (s : State) (c : CoreId) (gid : Nat) : State :=
  let k := s.getCore c
  match treeOf k gid with
  | some e =>
    if !treeRoot e && routerExited s c gid && decide (treeChildren e ≤ (leftOf k gid).length) then
      emit s c (treeParent e) 3 (.leave gid)
    else s
  | none => s

/-- The exit of a core reaches its router: at once, or when the last of its contributions in q6 has been taken. -/
def exitRouter (s : State) (c : CoreId) (gid : Nat) : State :=
  if routerExited s c gid then sendLeave (exitSlots s c gid) c gid else s

/-- The core whose q6 holds a contribution at its head. -/
def findQ6 (s : State) (id : Nat) : Option (CoreId × Contribution) :=
  s.cores.findSome? fun (c, _) => match (s.getCore c).q6.head? with
    | some q => if q.id = id then some (c, q) else none
    | none => none

/-- COMBINE_ARRIVAL: `pkt` is a partial from a child, or a contribution at the head of its core's q6. -/
def execCombineArrival (pkt : Nat) (s : State) : Result :=
  .next <| match findQ6 s pkt with
    | some (c, q) =>
      if (s.getCore c).fenced then s
      else match localArrival s c q with
        | some s' => exitRouter s' c (dGroup q.desc)
        | none => s
    | none => match duePacket s pkt with
      | none => s
      | some p => match p.body with
        | .combine d data =>
          if (s.getCore p.dst).fenced then s
          else (routerArrival (takePacket s p) p.dst (some p.src) d data).getD s
        | _ => s

/-! ### Delivery to every q7 (R316, R352) -/

/-- Doubles held in q7. -/
def q7Words (k : Core) : Nat := (k.q7.map (·.words.length)).sum

/-- The children of a core in a group's tree: members whose entry names its rank as parent, and under ROOT those without an
entry, in rank order (DEDUCED, log 33). -/
def childrenOf (s : State) (c : CoreId) (gid : Nat) : List (BitVec 16 × CoreId) :=
  let r := rankOf s c
  ((findGroup s gid).map fun g => g.members.filter fun m => m.2 != c &&
    match treeOf (s.getCore m.2) gid with
    | some e => !treeRoot e && treeParent e == r
    | none => c == g.root).getD []

/-- COMBINE_DELIVERY: a sum reaches a member: pushed into its q7 unless it has exited, and sent on to its children. -/
def execCombineDelivery (pkt : Nat) (s : State) : Result :=
  .next <| match duePacket s pkt with
    | none => s
    | some p => match p.body with
      | .deliver d data =>
        let k := s.getCore p.dst
        let live := (activeGroup s p.dst (dGroup d)).isSome
        if k.fenced || (live && 64 < q7Words k) then s
        else
          let run : Run := ⟨vecWords data 64, redTag (dFn d), dKey d, true, 0⟩
          let s := takePacket s p
          let s := if live then s.setCore p.dst ({ k with q7 := k.q7 ++ [run] }.news) else s
          (childrenOf s p.dst (dGroup d)).foldl (fun s m => newPacket s p.dst m.2 m.1 3 (.deliver d data) none) s
      | _ => s

/-! ### Leaves (R320) -/

/-- COMBINE_LEAVE: open slots without the child's partial await one child fewer, and the rule goes on upward. -/
def execCombineLeave (pkt : Nat) (s : State) : Result :=
  .next <| match duePacket s pkt with
    | none => s
    | some p => match p.body with
      | .leave gid =>
        if (s.getCore p.dst).fenced then s
        else
          let less (t : CombineSlot) : CombineSlot :=
            if dGroup t.desc = gid && !t.children.contains p.src then { t with await := t.await - 1 } else t
          let keys := ((s.getCore p.dst).combine.filter fun t => dGroup t.desc = gid).map (dKey ·.desc)
          let s := (takePacket s p).updCore p.dst fun k =>
            { k with combine := k.combine.map less, left := tset k.left gid (p.src :: leftOf k gid) }
          sendLeave (keys.foldl (fun s key => checkSlot s p.dst key) s) p.dst gid
      | _ => s

/-! ### Group barrier and exit (R153, R154) -/

/-- A group changed. -/
def updGroup (s : State) (gid : Nat) (f : Group → Group) : State :=
  { s with groups := s.groups.map fun g => if g.gid = gid then f g else g }

/-- The checks of `gbar` and `gexit`: the group trap with TRAP_VAL xa. -/
def withGroup (s : State) (x : Word) (f : Group → Act) : Act :=
  if fld x 63 8 ≠ 0 then .trap 0x22 x
  else match activeGroup s s.core x.toNat with
    | none => .trap 0x22 x
    | some g => if unreleased s s.core s.seat.val then .block else f g

/-- A core is the top of a group's tree: by its entry, or as the group's ROOT where it has none (DEDUCED, log 33). -/
def isTop (s : State) (g : Group) (c : CoreId) : Bool :=
  match treeOf (s.getCore c) g.gid with
  | some e => treeRoot e
  | none => c = g.root

/-- Where an arrival goes next on its way up the tree (R153). -/
def upOf (s : State) (g : Group) (c : CoreId) : CoreId :=
  match treeOf (s.getCore c) g.gid with
  | some e => match resolve s c (treeParent e) with
    | .core d => d
    | _ => g.root
  | none => g.root

/-- An arrival for an episode moves up from a core, or is at the top already. -/
def sendArrival (s : State) (g : Group) (c : CoreId) (ep : Nat) (member : CoreId) : State :=
  let d := if isTop s g c then c else upOf s g c
  newPacket s c d (rankOf s d) 0 (.gbarArrive g.gid ep member) none

/-- `gbar` arrives for the core's next episode, with release effect, and acquires at its completion (R153). -/
def execGbar (c : Ctl) (a : BitVec 5) (s : State) : Result :=
  issue c 2 { rx := [a] } (fun s =>
    withGroup s (s.thisSeat.getX a) fun g =>
      let ep := tget 0 g.issued s.core + 1
      let s := raise s .none true (.gbar g.gid ep)
      let s := updGroup s g.gid fun g => { g with issued := tset g.issued s.core ep }
      .next (sendArrival s g s.core ep s.core)) s

/-- The next episode is complete: someone has arrived for it, and every member that has not exited (R153, R154). -/
def Group.episodeDone (g : Group) : Bool :=
  g.arrived.any (fun a => decide (g.done < a.2)) && g.active.all fun m => decide (g.done < tget 0 g.arrived m.2)

/-- Episodes that are complete are told from the top of the tree (R153). -/
def completeEpisodes (gid : Nat) : Nat → State → State
  | 0, s => s
  | n + 1, s =>
    match findGroup s gid with
    | none => s
    | some g =>
      if g.episodeDone then
        let ep := g.done + 1
        let top := ((g.members.find? fun m => isTop s g m.2).map (·.2)).getD g.root
        let s := updGroup s gid fun g => { g with done := ep }
        completeEpisodes gid n (newPacket s top top (rankOf s top) 0 (.gbarDone gid ep) none)
      else s

/-- The most episodes that can complete at once. -/
def maxEpisodes (s : State) (gid : Nat) : Nat := ((findGroup s gid).map fun g => (g.arrived.map (·.2)).foldl max 0).getD 0

/-- `gexit` is recorded at the core's interface; the group is live no more after its last member (R154, R320). -/
def execGexit (c : Ctl) (a : BitVec 5) (s : State) : Result :=
  issue c 2 { rx := [a] } (fun s =>
    withGroup s (s.thisSeat.getX a) fun g =>
      let s := raise s .none false .plain (.value 0)
      let s := updGroup s g.gid fun g => { g with exited := g.exited ++ [s.core] }
      let s := exitRouter s s.core g.gid
      .next (completeEpisodes g.gid (maxEpisodes s g.gid) s)) s

/-- GBAR_ARRIVAL: an arrival is counted at the top of the tree, and goes on up elsewhere (R153). -/
def execGbarArrival (pkt : Nat) (s : State) : Result :=
  .next <| onArrival s (duePacket s pkt) fun p => match p.body with
    | .gbarArrive gid ep member =>
      if (s.getCore p.dst).fenced then s
      else
        let s := takePacket s p
        match findGroup s gid with
        | none => s
        | some g =>
          if isTop s g p.dst then
            let s := updGroup s gid fun g => { g with arrived := tset g.arrived member (max ep (tget 0 g.arrived member)) }
            completeEpisodes gid (maxEpisodes s gid) s
          else sendArrival s g p.dst ep member
    | _ => s

/-- GBAR_COMPLETION: the completion reaches a member and goes on to its children: `OUT` falls and the acquire takes place
(R153). -/
def execGbarCompletion (pkt : Nat) (s : State) : Result :=
  .next <| onArrival s (duePacket s pkt) fun p => match p.body with
    | .gbarDone gid ep =>
      let s := (childrenOf s p.dst gid).foldl (fun s m => newPacket s p.dst m.2 m.1 0 (.gbarDone gid ep) none) (takePacket s p)
      match (List.range 8).findSome? fun n => ((s.seatAt p.dst n).outs.find? (·.what = .gbar gid ep)).map fun o => (n, o.id) with
      | some (n, id) => lower (acquireInv s p.dst) p.dst n id
      | none => s
    | _ => s

end Sys2Proof.Machine
end

