-- ==== Sys2Proof/Machine/Queues.lean ====
section
/-! DEFINITION. The queue instructions, their 16-bit forms, and what each queue does with a push or a pop (R18, R196 to
R200, R251, R406). -/

namespace Sys2Proof.Machine

/-! ### Pushes -/

/-- A push into q0: the fourth word moves the command (R251). -/
def pushQ0 (s : State) (w : Word) : Act :=
  let ws := s.thisSeat.q0 ++ [w]
  if ws.length < 4 then .next (s.updThisSeat fun t => { t with q0 := ws })
  else match pushWords s ws with
    | .next s' => .next (s'.updThisSeat fun t => { t with q0 := [] })
    | r => r

/-- A push into q2; a ninth word takes the haul trap (R264, R265). -/
def pushQ2 (s : State) (w : Word) : Act :=
  if 8 ≤ s.thisSeat.q2.length then haulTrap s 1 else .next (s.updThisSeat fun t => { t with q2 := t.q2 ++ [w] })

/-- Words pushed into q4: a header is checked as it is pushed, and the last word of a message sends it (R199). -/
def pushQ4 (word : Word) : List Word → State → Act
  | [], s => .next s
  | w :: t, s =>
    match s.thisSeat.q4 with
    | [] => match sendFault s word w with
      | some r => faultAct r
      | none => pushQ4 word t (s.updThisSeat fun t => { t with q4 := [w] })
    | h :: held =>
      let payload := held ++ [w]
      if payload.length < hWords h then pushQ4 word t (s.updThisSeat fun t => { t with q4 := h :: payload })
      else match sendFault s word h with
        | some r => faultAct r
        | none =>
          if sendWaits s h then .block
          else pushQ4 word t
            (emit (s.updThisSeat fun t => { t with q4 := [] }) s.core (hDest h) (hTc h) (.msg (stamp s s.core h) payload))

/-- Words pushed into q6 by an instruction with an fn: a descriptor, then 64 doubles; the 65th word moves the contribution (R406, R313). -/
def pushQ6 (fn : Nat) : List Word → State → Act
  | [], s => .next s
  | w :: t, s =>
    match s.thisSeat.q6 with
    | [] =>
      if fld w 63 39 ≠ 0 || fld w 35 34 ≠ 0 || dDeliver w = 3 || decide (5 ≤ dFn w) then sysTrap 1 0 fn
      else pushQ6 fn t (s.updThisSeat fun t => { t with q6 := [w] })
    | d :: held =>
      let data := held ++ [w]
      if data.length < 64 then pushQ6 fn t (s.updThisSeat fun t => { t with q6 := d :: data })
      else match groupFault s d d with
        | some r => r
        | none => match pushRed s d (wordsData data) with
          | .next s' => pushQ6 fn t (s'.updThisSeat fun t => { t with q6 := [] })
          | r => r

/-- A push of words into a write queue; q4 holds 65 words, and a push waits for room for all of its own (R196, R197). -/
def push (s : State) (q : BitVec 3) (word : Word) (ws : List Word) : Act :=
  match q.toNat with
  | 0 => pushQ0 s (ws.getD 0 0)
  | 2 => pushQ2 s (ws.getD 0 0)
  | 4 => if 65 < s.thisSeat.q4.length + ws.length then .block else pushQ4 word ws s
  | _ => pushQ6 (if ws.length = 64 then 2 else 0) ws s

/-! ### Pops -/

/-- The first `n` doubles of a list of runs, and what is left; a run whose last double goes leaves the queue (R197). -/
def takeRuns : Nat → List Run → List Word × List Run
  | _, [] => ([], [])
  | n, r :: t =>
    if n = 0 then ([], r :: t)
    else if r.words.length ≤ n then
      let (ws, left) := takeRuns (n - r.words.length) t
      (r.words ++ ws, left)
    else (r.words.take n, { r with words := r.words.drop n, full := false } :: t)

/-- Drains to q1 whose last double has been popped have finished (R253). -/
def finishPopped (s : State) (core : CoreId) : State :=
  updShell s core fun h =>
    { h with cmds := h.cmds.filter fun c => c.stage != .popping || (s.getCore core).q1.any (·.cmd = c.id) }

/-- `n` words popped from a core-wide queue with the tag of the first, if it holds them. -/
def popCore (s : State) (q : BitVec 3) (n : Nat) : Option (State × List Word × BitVec 4) :=
  let k := s.thisCore
  let tag (l : List Run) : BitVec 4 := (l.head?.map (·.tag)).getD 0
  if q = 1 then
    if q1Words k < n then none
    else
      let (ws, left) := takeRuns n k.q1
      some (finishPopped (s.updThisCore fun k => { k with q1 := left }) s.core, ws, tag k.q1)
  else if q = 3 then
    if k.q3.length < n then none else some (s.updThisCore fun k => { k with q3 := k.q3.drop n }, k.q3.take n, 0)
  else if q7Words k < n then none
  else
    let (ws, left) := takeRuns n k.q7
    some (s.updThisCore fun k => { k with q7 := left }, ws, tag k.q7)

/-- The scratchpad offset of a seat's payload area (R239). -/
def payArea (k : Core) (seat : Nat) : Nat := k.seatArea.toNat + 8192 * seat

/-- Words of q5 from the payload area, from the ninth payload word on (R200) (DEDUCED, log 36). -/
def popQ5 (s : State) (n : Nat) : Option (State × List Word) :=
  let t := s.thisSeat
  let first := 8 + t.q5read
  if t.payWords < first + n then none
  else
    let base := payArea s.thisCore s.seat.val + 512
    some (s.updThisSeat fun t => { t with q5read := t.q5read + n },
      (List.range n).map fun i => getDouble s.thisCore.sp (base + 8 * (first + i)))

/-- A pop of `n` words, then the result is written; an empty queue blocks and q5 past its end traps (R197, R200). -/
def pop (s : State) (q : BitVec 3) (n : Nat) (f : State → List Word → BitVec 4 → Act) : Act :=
  if q = 5 then
    match popQ5 s n with
    | none => msgTrapOpen s 8
    | some (s, ws) => f s ws 0
  else match popCore s q n with
    | none => .block
    | some (s, ws, tag) => f s ws tag

/-! ### Instructions (R197) -/

/-- `qw` (R197). -/
def execQw (c : Ctl) (q : BitVec 3) (a : BitVec 5) (s : State) : Result :=
  issue c 2 { rx := [a] } (fun s => push s q ((wordA c 0x2C (q.setWidth 5) a 0 0).setWidth 64) [s.thisSeat.getX a]) s
/-- `qwv` pushes the 64 doubles of a register (R197). -/
def execQwv (c : Ctl) (q : BitVec 3) (b : BitVec 4) (s : State) : Result :=
  issue c 2 { rv := [b] } (fun s => push s q ((wordA c 0x2C (q.setWidth 5) 0 (b.setWidth 5) 2).setWidth 64)
    (vecWords (s.thisSeat.getV b).data 64)) s
/-- `qr` (R197). -/
def execQr (c : Ctl) (d : BitVec 5) (q : BitVec 3) (s : State) : Result :=
  issue c 2 { wx := [d] } (fun s => pop s q 1 fun s ws _ => putX s d (ws.getD 0 0)) s
/-- `qrv`: the tag is that of the first double's run (R197). -/
def execQrv (c : Ctl) (d : BitVec 4) (q : BitVec 3) (s : State) : Result :=
  issue c 2 { wv := [d] } (fun s => pop s q 64 fun s ws tag => putV s d tag (wordsData ws)) s
/-- `h.qw` (R18). -/
def execHQw (sw : Bool) (q a : BitVec 3) (s : State) : Result :=
  let w : Word := uimm ((encode (.hQw sw q a)).headD 0)
  issue (halfCtl sw) 1 { rx := [hx a] } (fun s => push s q w [s.thisSeat.getX (hx a)]) s
/-- `h.qr` (R18). -/
def execHQr (sw : Bool) (d q : BitVec 3) (s : State) : Result :=
  issue (halfCtl sw) 1 { wx := [hx d] } (fun s => pop s q 1 fun s ws _ => putX s (hx d) (ws.getD 0 0)) s

end Sys2Proof.Machine
end

