-- ==== Sys2Proof/Machine/Codec.lean ====
section
/-! DEFINITION. Codec chunks: prefix codes, encoding and decoding (R336, R355 to R358). Streams are numbers whose bit 0 is
the first bit. -/

namespace Sys2Proof.Machine

/-! ### Elements -/

/-- Width, exponent bits and fraction bits of an element type. -/
def ctWidth (ty : Nat) : Nat := if ty = 6 then 32 else 16
def ctExp (ty : Nat) : Nat := if ty = 4 then 5 else 8
def ctFrac (ty : Nat) : Nat := ctWidth ty - 1 - ctExp ty

/-- The exponent field of an element, and its remaining bits with the sign on top (R355). -/
def symOf (ty v : Nat) : Nat := v / 2 ^ ctFrac ty % 2 ^ ctExp ty
def restOf (ty v : Nat) : Nat := v / 2 ^ (ctWidth ty - 1) % 2 * 2 ^ ctFrac ty + v % 2 ^ ctFrac ty

/-- The element with an exponent field and remaining bits. -/
def joinElem (ty sym rest : Nat) : Nat :=
  rest / 2 ^ ctFrac ty % 2 * 2 ^ (ctWidth ty - 1) + sym * 2 ^ ctFrac ty + rest % 2 ^ ctFrac ty

/-! ### Codes -/

/-- Symbols with lengths in canonical order: by length, then by value (R356). -/
def insCanon (x : Nat × Nat) : List (Nat × Nat) → List (Nat × Nat)
  | [] => [x]
  | y :: t => if x.2 < y.2 ∨ (x.2 = y.2 ∧ x.1 ≤ y.1) then x :: y :: t else y :: insCanon x t
def canonical (l : List (Nat × Nat)) : List (Nat × Nat) := l.foldr insCanon []

/-- Codes of symbols in canonical order: symbol, length, code (R336). -/
def assign (code len : Nat) : List (Nat × Nat) → List (Nat × Nat × Nat)
  | [] => []
  | (sym, l) :: t =>
    let c := code * 2 ^ (l - len)
    (sym, l, c) :: assign (c + 1) l t

/-- A node of the merge: weight, least symbol below, and the leaves below with their depths. -/
abbrev HNode := Nat × Nat × List (Nat × Nat)

/-- A node put in order of (weight, least symbol below). -/
def insNode (x : HNode) : List HNode → List HNode
  | [] => [x]
  | y :: t => if x.1 < y.1 ∨ (x.1 = y.1 ∧ x.2.1 ≤ y.2.1) then x :: y :: t else y :: insNode x t

/-- The two least nodes are merged until one is left (R357). -/
def mergeNodes : Nat → List HNode → List (Nat × Nat)
  | n + 1, a :: b :: t =>
    mergeNodes n (insNode (a.1 + b.1, min a.2.1 b.2.1, (a.2.2 ++ b.2.2).map fun l => (l.1, l.2 + 1)) t)
  | _, a :: _ => a.2.2
  | _, [] => []

/-- A list's distinct values. -/
def distinct : List Nat → List Nat
  | [] => []
  | x :: t => if t.contains x then distinct t else x :: distinct t

/-- The Huffman lengths of the values of a list; one distinct value has length 1. -/
def huffman (syms : List Nat) : List (Nat × Nat) :=
  match distinct syms with
  | [x] => [(x, 1)]
  | ds => mergeNodes ds.length ((ds.map fun x => (syms.count x, x, [(x, 0)])).foldr insNode [])

/-! ### Streams -/

/-- A code's bits at increasing positions, the most significant first. -/
def revCode : Nat → Nat → Nat
  | 0, _ => 0
  | n + 1, c => c % 2 * 2 ^ n + revCode n (c / 2)

/-- The exponent stream of symbols, and its length; `none` when a symbol has no code. -/
def putCodes (codes : List (Nat × Nat × Nat)) : List Nat → Option (Nat × Nat)
  | [] => some (0, 0)
  | x :: t => do
    let (_, l, c) ← codes.find? (·.1 = x)
    let (v, n) ← putCodes codes t
    some (revCode l c + v * 2 ^ l, n + l)

/-- One code read from a stream at a position: its symbol and length; at most `fuel` bits. -/
def readCode (codes : List (Nat × Nat × Nat)) (stream pos : Nat) : Nat → Nat → Nat → Option (Nat × Nat)
  | 0, _, _ => none
  | fuel + 1, len, acc =>
    let acc := 2 * acc + stream / 2 ^ (pos + len) % 2
    match codes.find? (·.2 = (len + 1, acc)) with
    | some (x, _) => some (x, len + 1)
    | none => readCode codes stream pos fuel (len + 1) acc

/-- `n` symbols read from a stream, and where they end. -/
def readCodes (codes : List (Nat × Nat × Nat)) (stream : Nat) : Nat → Nat → Option (List Nat × Nat)
  | 0, pos => some ([], pos)
  | n + 1, pos => do
    let (x, l) ← readCode codes stream pos 12 0 0
    let (xs, e) ← readCodes codes stream n (pos + l)
    some (x :: xs, e)

/-! ### Chunks (R355) -/

/-- A number as `n` doubles. -/
def natWords (n v : Nat) : List Word := (List.range n).map fun i => BitVec.ofNat 64 (v / 2 ^ (64 * i))

/-- Doubles as a number. -/
def wordsNat (ws : List Word) : Nat := pack 64 (ws.map (·.toNat))

/-- The header of a chunk. -/
def chunkHeader (ebits cnt clen nsym ty raw : Nat) : Word :=
  BitVec.ofNat 64 (ebits * 2 ^ 52 + cnt * 2 ^ 32 + clen * 2 ^ 20 + nsym * 2 ^ 16 + ty * 2 ^ 4 + raw)

/-- A raw chunk of 1 to 256 elements. -/
def rawChunk (ty : Nat) (es : List Nat) : List Word :=
  let w := ctWidth ty
  let n := (es.length * w + 63) / 64
  chunkHeader 0 (es.length - 1) (1 + n) 0 ty 1 :: natWords n (pack w es)

/-- A coded chunk under a code in canonical order; `none` when an exponent has no code. -/
def codedChunk (ty : Nat) (code : List (Nat × Nat)) (es : List Nat) : Option (List Word) := do
  let (ex, ebits) ← putCodes (assign 0 0 code) (es.map (symOf ty))
  let r := ctFrac ty + 1
  let ne := (ebits + 63) / 64
  let nr := (es.length * r + 63) / 64
  some (chunkHeader ebits (es.length - 1) (4 + ne + nr) (code.length - 1) ty 0 ::
    (natWords 2 (pack 8 (code.map (·.1))) ++ natWords 1 (pack 4 (code.map (·.2))) ++ natWords ne ex ++
      natWords nr (pack r (es.map (restOf ty)))))

/-- The chunk that an encoder chooses under a code table (R357). -/
def encodeChunk (table : Codec) (ty : Nat) (es : List Nat) : List Word :=
  let raw := rawChunk ty es
  let syms := es.map (symOf ty)
  let code := if table.mode = 0 then (if 16 < (distinct syms).length then none else some (canonical (huffman syms)))
    else some (canonical (table.syms.map fun s => (s.1.toNat, s.2)))
  match code.bind fun c => codedChunk ty c es with
  | some ws => if ws.length < raw.length then ws else raw
  | none => raw

/-- The length in doubles that a chunk's header gives. -/
def chunkLen (h : Word) : Nat := fld h 31 20

/-- Header fields that hold for every chunk of a stream expecting `n` elements of a type (R358). -/
def headerOk (ty n : Nat) (h : Word) : Bool :=
  fld h 51 40 == 0 && fld h 15 8 == 0 && fld h 3 1 == 0 && fld h 7 4 == ty && fld h 39 32 + 1 == n &&
    (if h.getLsbD 0 then fld h 63 52 == 0 && fld h 19 16 == 0 && chunkLen h == 1 + (n * ctWidth ty + 63) / 64
     else chunkLen h == 4 + (fld h 63 52 + 63) / 64 + (n * (ctFrac ty + 1) + 63) / 64)

/-- Whether symbols with lengths stand in canonical order. -/
def isCanonical : List (Nat × Nat) → Bool
  | a :: b :: t => (decide (a.2 < b.2) || (a.2 == b.2 && decide (a.1 < b.1))) && isCanonical (b :: t)
  | _ => true

/-- The elements of a chunk; `none` when it is malformed (R358). -/
def decodeChunk (ty n : Nat) (ws : List Word) : Option (List Nat) :=
  let h := ws.headD 0
  if !headerOk ty n h || ws.length ≠ chunkLen h then none
  else if h.getLsbD 0 then
    let v := wordsNat (ws.drop 1)
    if v / 2 ^ (n * ctWidth ty) ≠ 0 then none
    else some ((List.range n).map fun i => v / 2 ^ (ctWidth ty * i) % 2 ^ ctWidth ty)
  else
    let ns := fld h 19 16 + 1
    let ebits := fld h 63 52
    let r := ctFrac ty + 1
    let ne := (ebits + 63) / 64
    let syms := wordsNat ((ws.drop 1).take 2)
    let lens := (ws.getD 3 0).toNat
    let ex := wordsNat ((ws.drop 4).take ne)
    let rest := wordsNat (ws.drop (4 + ne))
    let code := (List.range ns).map fun i => (syms / 2 ^ (8 * i) % 256, lens / 2 ^ (4 * i) % 16)
    if syms / 2 ^ (8 * ns) ≠ 0 || lens / 2 ^ (4 * ns) ≠ 0 || code.any (fun c => c.2 = 0 || decide (12 < c.2)) ||
        !isCanonical code || (ty == 4 && code.any fun c => decide (31 < c.1)) ||
        decide (4096 < (code.map fun c => 2 ^ (12 - c.2)).sum) ||
        ex / 2 ^ ebits ≠ 0 || rest / 2 ^ (n * r) ≠ 0 then none
    else match readCodes (assign 0 0 code) ex n 0 with
      | some (xs, e) =>
        if e ≠ ebits then none
        else some (xs.zipIdx.map fun (x, i) => joinElem ty x (rest / 2 ^ (r * i) % 2 ^ r))
      | none => none

end Sys2Proof.Machine
end

