-- ==== Sys2Proof/Machine/Haul.lean ====
section
/-! DEFINITION. The haul engine: queues and their subscription, packets, beats, completion, faults and resume, far addresses
of the own module, and the hl instructions (R264 to R272, R276 to R279, R298 to R311, R359). A step that is not due leaves
the state as it is. -/

namespace Sys2Proof.Machine

/-! ### Channels -/

/-- A channel of a cluster. -/
def State.chan (s : State) (cl ch : Nat) : Channel := (s.getCluster cl).chans.getD ch {}
def State.updChan (s : State) (cl ch : Nat) (f : Channel → Channel) : State :=
  s.updCluster cl fun g => { g with chans := g.chans.setIfInBounds ch (f (g.chans.getD ch {})) }

/-- QH of HL_Q_c (R298). -/
def qHead (v : Word) : Nat := fld v 47 7 * 128

/-- The double that `hl.stat` reads (R270). -/
def statWord (c : Channel) : Word := BitVec.ofNat 64 (c.st.toNat * 2 ^ 62 + c.fault.toNat * 2 ^ 48 + c.done.toNat)

/-- A channel's request for a double of its queue's header leaves for the header's base die (R300, R363). -/
def postHeader (s : State) (cl ch off : Nat) (op : ReqOp) (data : Word) : State :=
  let c := s.chan cl ch
  postReq s.bump { id := s.fresh, core := coreAt cl 0, seat := 0, firing := 0, pc := 0, op := op, agent := .header cl ch,
                   pieces := [mkPiece (BitVec.ofNat 64 (qHead c.hlq + off)) (.hbm (c.hpa + off) true) 8 (lowMask 64) data 0] }

/-- A double of the queue header is written by the engine (R300). -/
def putHeader (s : State) (cl ch off : Nat) (v : Word) : State := postHeader s cl ch off .store v

/-- RIX, and then QCFG, are read from the header. -/
def askHeader (s : State) (cl ch off : Nat) : State :=
  (postHeader s cl ch off (.load 8 false) 0).updChan cl ch fun c => { c with hd := some s.fresh }

/-- The accesses that a channel has under way for what it looks at are given up. -/
def dropRead (s : State) (cl ch : Nat) : State :=
  let c := s.chan cl ch
  let s := c.hd.elim s (dropReq s)
  let s := c.rd.elim s fun r => dropSent (dropReq s r.1) r.1
  s.updChan cl ch fun c => { c with rd := none, hd := none }

/-- STATE and FAULT change, and STAT is written (R300) (DEDUCED, log 48). -/
def setStat (s : State) (cl ch : Nat) (st : BitVec 2) (fault : BitVec 8) : State :=
  let s := s.updChan cl ch fun c => { c with st := st, fault := fault }
  if qSub (s.chan cl ch).hlq then putHeader s cl ch 0x18 (statWord (s.chan cl ch)) else s

/-- A write of HL_Q_c: without effect while STATE is 1 or 2; clearing EN ends the subscription (R298). -/
def writeHlq (s : State) (cl ch : Nat) (v : Word) : State :=
  let c := s.chan cl ch
  if c.st = 1 || c.st = 2 then s
  else (dropRead s cl ch).updChan cl ch fun c =>
    { c with hlq := v &&& 0x8000FFFFFFFFFF80, asked := qEn v, look := false, slotBad := false, known := 0, owner := none }

/-- HL_Q_WRITE. -/
def execHlQWrite (cluster ch : Nat) (v : Word) (s : State) : Result :=
  .next (if isCluster cluster && decide (ch < 4) then writeHlq s cluster ch v else s)

/-! ### Translation for the engine (R299, R306, R359) -/

/-- What stands in the place of a FAULT where an access awaits a walk: no channel stops with it (R309). -/
def walkFault : Nat := 0

/-- The fault of a page as source or destination: translation 3, permission 4, copy-on-write 5, seal 11 (R306); where the walk
read poison 7, and where it failed 8 (DESIGN CHOICE, logs 75 and 93). -/
def leafFault (s : State) (wr : Bool) (va : Nat) : Leaf → Option Nat
  | .miss => some walkFault
  | .fault c => some (if c = 0x60 then 7 else if c = 0x24 then 8 else 3)
  | .hit e =>
    if wr then
      if e.cow then some 5 else if !e.wr then some 4 else if isSealed s (e.phys va) then some 11 else none
    else if e.rd then none else some 4

/-- The optical chiplet that serves the own module's far addresses. -/
def ownChip (s : State) : Nat := (tget 0 s.farRoute (ownModule s)).toNat % 8

/-- A far address, and one of another module. -/
def isFar (a : Word) : Bool := tagOf a == 0x10
def isRemote (s : State) (a : Word) : Bool := isFar a && fld a 55 48 != ownModule s

/-- The unit that translates for a channel: the channel, or for a far address of the own module the chiplet that serves it (R299,
R359). -/
def engineUnit (s : State) (cl ch : Nat) (a : Word) : Asker := if isFar a then .far (ownChip s) (chanWho cl ch) else .chan cl ch

/-- The leaf of an address for a channel under a root. -/
def engineLeaf (s : State) (cl ch : Nat) (root a : Word) : Leaf :=
  leafUnder s (engineUnit s cl ch a) (if isFar a then s.farTt else root) (fld a 47 0)

/-- A channel awaits the translation of an address (R179, R299). -/
def engineWalk (s : State) (cl ch : Nat) (root a : Word) : State :=
  askWalk s (engineUnit s cl ch a) (if isFar a then s.farTt else root) (fld a 47 0)

/-- The FAULT of one byte as a source or destination of an engine (R306); other modules check their own. -/
def engineFault (s : State) (cl ch : Nat) (root : Word) (wr : Bool) (a : Word) : Option Nat :=
  match tagOf a with
  | 0 => if fld a 55 48 ≠ 0 then some 6 else leafFault s wr (fld a 47 0) (engineLeaf s cl ch root a)
  | 2 => if fld a 55 24 = 0 then none else some 6
  | 3 => if !wr && fld a 55 26 = 0 && fld a 25 0 < 0x3000000 then none else some 6
  | 4 => if fld a 55 34 = 0 && fld a 33 30 < partitions s && fld a 29 0 < coSize s (fld a 33 30) then none else some 6
  | 0x10 =>
    if !s.farCfg.getLsbD 0 then some 8
    else if isRemote s a then (if (tget 0 s.farRoute (fld a 55 48)).getLsbD 7 then none else some 8)
    else if chipSilent s (0x110 + ownChip s) then some 8
    else leafFault s wr (fld a 47 0) (engineLeaf s cl ch root a)
  | _ => some 6

/-- Where a byte of an engine's access lies. -/
def enginePlace (s : State) (cl ch : Nat) (root : Word) (a : Word) : Place :=
  match tagOf a with
  | 2 => .sp (coreAt cl (fld a 23 20)) (fld a 19 0)
  | 3 => .ws cl (fld a 25 0)
  | 4 => .co (fld a 33 30) (fld a 29 0)
  | _ => match engineLeaf s cl ch root a with
    | .hit e => e.place s (fld a 47 0)
    | _ => .hbm 0 false

/-- The first byte of a range that fails its check (R306, R310): of a range in another module only whether requests leave for it, the
rest being that module's to check; a range of the own module does not run on into the next one (R359). -/
def rangeFault (s : State) (cl ch : Nat) (root : Word) (wr : Bool) (a : Word) (n : Nat) : Option (Nat × Word) :=
  if isRemote s a then (if n = 0 then none else (engineFault s cl ch root wr a).map fun f => (f, a))
  else (byteAddrs a n).findSome? fun x =>
    (if isFar a && (!isFar x || isRemote s x) then some 6 else engineFault s cl ch root wr x).map fun f => (f, x)

/-- What a range gives a channel: it is under way in the state given, or met a FAULT, or has been read. -/
inductive Got where
  | wait (s : State)
  | bad (fault : Nat) (addr : Word)
  | ok (s : State) (bytes : List Byte)
  deriving DecidableEq, Repr

/-- The FAULT codes that a far module answers (R359, R378) (DEDUCED, log 18). -/
def farCode (c : BitVec 8) : Bool := [3, 4, 5, 6, 7, 11].contains c.toNat

/-- The interface by which a channel's access of an address leaves: the cox core's, or for a far address of the own module one
of its optical chiplets (R359). -/
def engineEnd (s : State) (cl : Nat) (a : Word) : CoreId := if isFar a then 8192 + ownChip s else coreAt cl 0

/-- A channel posts a request of its own (R363). -/
def postHaul (s : State) (cl ch : Nat) (root : Word) (op : ReqOp) (a : Word) (n data : Nat) : State :=
  let pieces := wordsAt (enginePlace s cl ch root) a n (2 ^ (8 * n) - 1) data
  postReq (s.bump.forget (engineUnit s cl ch a))
    { id := s.fresh, core := engineEnd s cl a, seat := 0, firing := 0, pc := 0, op := op, pieces := pieces, agent := .haul cl ch }

/-- A request to another module leaves for the optical chiplet that carries traffic there (R359, R361, R362). -/
def postFar (s : State) (cl ch : Nat) (a : Word) (n : Nat) (data : Option (List Byte)) : State :=
  newPacket s (coreAt cl 0) (8192 + (tget 0 s.farRoute (fld a 55 48)).toNat % 8) 0 4 (.farMem cl ch a n data) none none
    (BitVec.ofNat 2 (lineHash (fld a 47 0 / 128)))

/-- A channel asks for a range (R306, R363). -/
def askRange (s : State) (cl ch : Nat) (root : Word) (a : Word) (n : Nat) (data : Option (List Byte)) : State :=
  let s' := s.updChan cl ch fun c => { c with rd := some (s.fresh, a, n) }
  if isRemote s a then postFar s' cl ch a n data else postHaul s' cl ch root .vload a n 0

/-- The far module's answer to a request that has left on a fibre. -/
def farAnswer (s : State) (id : Nat) (far : Option FarReply) : Option FarReply :=
  if (findSent s id).any (·.away) then far else none

/-- A source range of a channel: its checks, then its read, or another module's answer (R306, R359). -/
def fetchRange (s : State) (cl ch : Nat) (root : Word) (far : Option FarReply) (a : Word) (n : Nat) : Got :=
  if n = 0 then .ok s []
  else match (s.chan cl ch).rd with
  | none => match rangeFault s cl ch root false a n with
    | some (f, x) => .bad f x
    | none => .wait (askRange s cl ch root a n none)
  | some (id, b, m) =>
    if b ≠ a ∨ m ≠ n then .wait (dropRead s cl ch)
    else if isRemote s a then
      match farAnswer s id far with
      | some (.data bs) => if bs.length = n then .ok (dropRead s cl ch) bs else .wait s
      | some (.fault c off) => if farCode c && decide (off < n) then .bad c.toNat (a + BitVec.ofNat 64 off) else .wait s
      | some .lost => .bad 8 a
      | _ => .wait s
    else match (findReq s id).filter settled with
      | none => .wait s
      | some r => match reqError r with
        | some (cause, x) => .bad (haulFault cause) x
        | none =>
          let v := readBits r.pieces
          .ok (dropRead s cl ch) ((List.range n).map fun i => BitVec.ofNat 8 (v / 2 ^ (8 * i)))

/-- The piece of a byte list up to the next multiple of 32 (R378: one granule). -/
def granuleLen (a : Word) (l : List Byte) : Nat := min l.length (32 - a.toNat % 32)

/-- The first byte, as an offset, at which a write of `n` bytes within one granule covers part of poison (R310, R379). -/
def partAt (s : State) (n : Nat) : Place → Option Nat
  | .sp c off => (((List.range ((off % 4 + n + 3) / 4)).map (off / 4 + ·)).find? fun w =>
      (s.getCore c).spPoison.contains w && (decide (4 * w < off) || decide (off + n < 4 * w + 4))).map fun w => 4 * w - off
  | .co p off => if fencedPlace s (.co p off) || (s.coPoison.contains (p, off / 32) && n != 32) then some 0 else none
  | .hbm pa m => if fencedPlace s (.hbm pa m) || (s.hbmPoison.contains (pa / 32) && n != 32) then some 0 else none
  | _ => none

/-- Whether a write of `n` bytes within one granule covers part of poison (R379). -/
def partOf (s : State) (n : Nat) (d : Place) : Bool := (partAt s n d).isSome

/-- Whether a range may be written: its checks, then poison covered in part, granule by granule. -/
def poisonPart (s : State) (cl ch : Nat) (root : Word) : Nat → Word → List Byte → Option Word
  | 0, _, _ => none
  | fuel + 1, a, l =>
    let n := granuleLen a l
    if n = 0 then none
    else match partAt s n (enginePlace s cl ch root a) with
      | some i => some (a + BitVec.ofNat 64 i)
      | none => poisonPart s cl ch root fuel (a + BitVec.ofNat 64 n) (l.drop n)

/-- The check of a destination in the own module (R306, R379). -/
def writeCheck (s : State) (cl ch : Nat) (root : Word) (a : Word) (l : List Byte) : Option (Nat × Word) :=
  match rangeFault s cl ch root true a l.length with
  | some r => some r
  | none => (poisonPart s cl ch root l.length a l).map fun x => (7, x)

/-! ### Stops (R309, R310) and `q3` (R272) -/

/-- STATQ and its rank in double 0 of a packet. -/
def statqOn (p : HaulPkt) : Bool := (p.words.getD 0 0).getLsbD 6
def statqRank (p : HaulPkt) : BitVec 16 := (p.words.getD 0 0).extractLsb' 16 16

/-- Queue `q3` has room for another double (R196) (DEDUCED, log 48). -/
def pushQ3 (s : State) (core : CoreId) (w : Word) : Option State :=
  if (s.getCore core).q3.length < 16 then some (s.updCore core fun k => ({ k with q3 := k.q3 ++ [w] }).news) else none

/-- The `q3` entry of a packet: pushed, kept until there is room, or dropped when its rank names no live core of this
module. -/
def sendStatq (s : State) (cl ch : Nat) (p : HaulPkt) (event : Nat) : State :=
  let r := statqRank p
  let e := rankEntry s r
  let c := s.chan cl ch
  let w := BitVec.ofNat 64 (event * 2 ^ 62 + ch * 2 ^ 60 + c.fault.toNat * 2 ^ 48 + p.claim % 2 ^ 32)
  if !statqOn p || decide (0xFF00 ≤ r.toNat) || !eValid e || eDead e || eModule e ≠ ownModule s ||
      !isGridCore (eCore e) || (s.getCore (eCore e)).fenced then s
  else
    let wait := s.updChan cl ch fun c => { c with statq := c.statq ++ [(eCore e, w)] }
    if c.statq.isEmpty then (pushQ3 s (eCore e) w).getD wait else wait

/-- The oldest `q3` entry that waits is tried again, and one to a core that has been fenced is dropped. -/
def retryStatq (s : State) (cl ch : Nat) : State :=
  match (s.chan cl ch).statq with
  | [] => s
  | (core, w) :: t =>
    if (s.getCore core).fenced then s.updChan cl ch fun c => { c with statq := t }
    else ((pushQ3 s core w).map fun s' => s'.updChan cl ch fun c => { c with statq := t }).getD s

/-- N of a queue, by its QCFG (R300). -/
def queueSize (qcfg : Word) : Nat := 2 ^ fld qcfg 39 36

/-- The address of a claim's slot, by the QCFG that the channel last read (R266). -/
def slotAddr (c : Channel) (claim : Nat) : Word := BitVec.ofNat 64 (qHead c.hlq + 128 + 64 * (claim % queueSize c.qcfg))

/-- A channel stops: STATE, FAULT, FK, FPROG, STAT, the `q3` entry and the fault firing of the cox core (R310). -/
def stopChannel (s : State) (cl ch : Nat) (fault : Nat) (x19 : Word) (claim progress : Nat) : State :=
  let s := (dropRead s cl ch).updChan cl ch fun c =>
    { c with look := false, pkt := c.pkt.map fun p => { p with buf := none, idx := none, err := none } }
  let s := setStat s cl ch 2 (BitVec.ofNat 8 fault)
  let s := putHeader (putHeader s cl ch 0x20 (BitVec.ofNat 64 claim)) cl ch 0x28 (BitVec.ofNat 64 progress)
  let s := match (s.chan cl ch).pkt with
    | some p => sendStatq s cl ch p 2
    | none => s
  queueEvent s (coreAt cl 0) 0x50 (BitVec.ofNat 64 ch)
    [x19, BitVec.ofNat 64 (fault * 2 ^ 56 + claim % 2 ^ 32), BitVec.ofNat 64 progress]

/-- The packet of a channel stops it, once the beats begun before have completed their writes, or awaits a walk. -/
def stopPkt (s : State) (cl ch : Nat) (p : HaulPkt) (fault : Nat) (x19 : Word) : State :=
  if fault = walkFault then engineWalk s cl ch p.root x19
  else if p.wr.isEmpty then stopChannel s cl ch fault x19 p.claim p.progress else s

/-- The error of a write stops the channel where the packet stood before that beat (R310). -/
def stopWrite (s : State) (cl ch : Nat) (p : HaulPkt) (fault : Nat) (x19 : Word) (w : HaulWr) : State :=
  if !p.wr.isEmpty then s
  else
    let q := { p with progress := w.progress, srcDone := w.srcDone, outDone := w.outDone, written := w.written, top := w.wp }
    stopPkt (s.updChan cl ch fun c => { c with pkt := some q, wp := w.wp }) cl ch q fault x19

/-! ### Subscription and slots (R298, R299) -/

/-- A W line has a subscriber. -/
def lineTaken (s : State) (hpa : Nat) : Bool :=
  s.clusters.any fun (_, g) => g.chans.toList.any fun c => qSub c.hlq && c.hpa == hpa

/-- W_LINE_SUBSCRIPTION: QH is translated, and the header's base die takes the channel's subscription, unless the line has one or the
page is not on the memory side; RIX is then to be loaded (R298, R299). -/
def execWLineSubscription (cluster ch : Nat) (s : State) : Result :=
  .next <|
    let c := s.chan cluster ch
    if !isCluster cluster || 4 ≤ ch || !c.asked || c.st = 3 then s
    else
      let root := (s.getCore (coreAt cluster 0)).ttRoot
      let qh := BitVec.ofNat 64 (qHead c.hlq)
      let done := (s.forget (.chan cluster ch)).updChan cluster ch fun c => { c with asked := false }
      match engineLeaf s cluster ch root qh with
      | .miss => engineWalk s cluster ch root qh
      | .fault _ => done
      | .hit e =>
        let hpa := e.phys (qHead c.hlq)
        if !e.msa || lineTaken s hpa then done
        else done.updChan cluster ch fun c =>
          { c with hlq := c.hlq ||| 0x4000000000000000, hpa := hpa, known := 0, seenW := getDouble s.hbm hpa }

/-- W_LINE_NOTIFY: the base die reports a write to the W line. -/
def execWLineNotify (cluster ch : Nat) (s : State) : Result :=
  .next <|
    let c := s.chan cluster ch
    let w := getDouble s.hbm c.hpa
    if qSub c.hlq && w ≠ c.seenW then s.updChan cluster ch fun c => { c with seenW := w, look := true } else s

/-- HAUL_POLL_TIMER: 65,536 cycles have passed since the last read. -/
def execHaulPollTimer (cluster ch : Nat) (s : State) : Result :=
  .next (if qSub (s.chan cluster ch).hlq then s.updChan cluster ch fun c => { c with look := true } else s)

/-- Doubles 0 and 7 of a packet keep the limits common to all kinds (R276, R302). -/
def commonOk (p : HaulPkt) : Bool :=
  let w0 := p.words.getD 0 0
  fld w0 3 0 ≤ 4 && fld w0 5 4 == 0 && fld w0 15 8 == 0 && fld w0 63 32 == 0 && fld (p.words.getD 7 0) 40 32 == 0

/-- A packet begins, or stops its channel as invalid (R302) (DEDUCED, log 45). -/
def beginPacket (s : State) (cl ch : Nat) (p : HaulPkt) : State :=
  if commonOk p then setStat s cl ch 1 0 else stopPkt s cl ch p 1 (slotAddr (s.chan cl ch) p.claim)

/-- The channel looks at its slot no more: QCFG is read again before the next look. -/
def lookedAt (s : State) (cl ch : Nat) : State := s.updChan cl ch fun c => { c with look := false, known := min c.known 1 }

/-- RIX goes on, and is written to the header. -/
def nextSlot (s : State) (cl ch : Nat) : State :=
  let s := s.updChan cl ch fun c => { c with rix := c.rix + 1 }
  putHeader s cl ch 8 (s.chan cl ch).rix

/-- A slot read fails, or the read of RIX or QCFG before it: FK is RIX, and x19 the slot's address (R299, R310) (DEDUCED, log 48). -/
def slotFault (s : State) (cl ch fault : Nat) : State :=
  let c := s.chan cl ch
  stopChannel ((lookedAt s cl ch).updChan cl ch fun c => { c with slotBad := true, pkt := none }) cl ch fault
    (slotAddr c c.rix.toNat) c.rix.toNat 0

/-- RIX and QCFG are read from the header, one after the other, as plain loads (R299) (DEDUCED, log 48). -/
def readHeader (s : State) (cl ch : Nat) (c : Channel) : State :=
  match c.hd with
  | none => askHeader s cl ch (if c.known = 0 then 8 else 0x10)
  | some id => match (findReq s id).filter settled with
    | none => s
    | some r =>
      let v := BitVec.ofNat 64 (readBits r.pieces)
      match reqError r with
      | some (cause, _) => slotFault s cl ch (haulFault cause)
      | none => (dropRead s cl ch).updChan cl ch fun c =>
        if c.known = 0 then { c with rix := v, known := 1 } else { c with qcfg := v, known := 2 }

/-- Double 0 of slot RIX carries the PHASE of its turn (R299). -/
def slotReady (c : Channel) (w0 : Word) : Bool := w0.getLsbD 7 == ((c.rix.toNat / queueSize c.qcfg + 1) % 2 == 1)

/-- The packet of slot RIX is taken. -/
def takeSlot (s : State) (cl ch : Nat) (root : Word) (words : List Word) : State :=
  let p : HaulPkt := { claim := (s.chan cl ch).rix.toNat, words := words, root := root, top := words.getD 2 0 }
  let s := (lookedAt (nextSlot s cl ch) cl ch).updChan cl ch fun c => { c with pkt := some p, wp := words.getD 2 0 }
  beginPacket s cl ch p

/-- HAUL_SLOT_TAKE: a channel reads QCFG, double 0 of slot RIX, then, when the slot is ready, all of it, and takes the packet
(R299) (DEDUCED, log 48). -/
def execHaulSlotTake (cluster ch : Nat) (s : State) : Result :=
  .next <|
    let s := retryStatq s cluster ch
    let c := s.chan cluster ch
    if !(qSub c.hlq && qEn c.hlq && (c.look || c.rd.isSome) && c.st = 0 && c.statq.isEmpty) || (s.getChiplet cluster).cur = 7 then s
    else
      let root := (s.getCore (coreAt cluster 0)).ttRoot
      let a := slotAddr c c.rix.toNat
      if c.known < 2 then readHeader s cluster ch c
      else
        let n := (c.rd.map (·.2.2)).getD 8
        match fetchRange s cluster ch root none a n with
        | .wait s => s.updChan cluster ch fun c => { c with look := c.look && c.rd.isNone }
        | .bad f x => if f = walkFault then engineWalk s cluster ch root x else slotFault s cluster ch f
        | .ok s bytes =>
          let words := natWords (n / 8) (pack 8 (bytes.map (·.toNat)))
          if !slotReady c (words.getD 0 0) then s.updChan cluster ch fun c => { c with known := 1 }
          else if n = 8 then askRange s cluster ch root a 64 none
          else takeSlot s cluster ch root words

/-! ### Checks of the kinds (R276, R277, R302 to R305) -/

/-- Double `i` of a packet. -/
def HaulPkt.word (p : HaulPkt) (i : Nat) : Word := p.words.getD i 0
def HaulPkt.kind (p : HaulPkt) : Nat := fld (p.word 0) 3 0

/-- Multiples of `n`. -/
def mult (n : Nat) (l : List Word) : Bool := l.all fun w => w.toNat % n == 0

/-- A packet whose kind is to be checked: its channel runs it and it has not begun its beats. -/
def toBegin (s : State) (cl ch kind : Nat) : Option HaulPkt :=
  (s.chan cl ch).pkt.filter fun p => (s.chan cl ch).st = 1 && !p.begun && p.kind = kind

/-- The beats of a packet begin, or it stops its channel with FAULT 1. -/
def startBeats (s : State) (cl ch : Nat) (p : HaulPkt) (ok : Bool) : State :=
  if ok then s.updChan cl ch fun c => { c with pkt := some { p with begun := true } }
  else stopPkt (s.updChan cl ch fun c => { c with pkt := some p }) cl ch p 1 (slotAddr (s.chan cl ch) p.claim)

/-- HAUL_COPY (R303). -/
def execHaulCopy (cluster ch : Nat) (s : State) : Result :=
  .next <| match toBegin s cluster ch 0 with
    | none => s
    | some p => startBeats s cluster ch p
        (mult 4 [p.word 1, p.word 2, p.word 3] && fld (p.word 3) 63 32 == 0 && p.word 4 == 0 && p.word 5 == 0 && p.word 6 == 0)

/-- HAUL_FILL (R303). -/
def execHaulFill (cluster ch : Nat) (s : State) : Result :=
  .next <| match toBegin s cluster ch 3 with
    | none => s
    | some p =>
      let e := fld (p.word 3) 33 32
      startBeats s cluster ch p ((e == 2 || e == 3) && fld (p.word 3) 63 34 == 0 &&
        mult (2 ^ e) [p.word 2, (p.word 3).setWidth 32 |>.setWidth 64] && p.word 4 == 0 && p.word 5 == 0 && p.word 6 == 0)

/-- HAUL_GATHER (R304). -/
def execHaulGather (cluster ch : Nat) (s : State) : Result :=
  .next <| match toBegin s cluster ch 2 with
    | none => s
    | some p =>
      let rowb := fld (p.word 4) 63 32
      startBeats s cluster ch p (rowb != 0 && rowb % 4 == 0 && mult 4 [p.word 1, p.word 2, p.word 3, p.word 5])

/-- HAUL_CODEC (R305). -/
def execHaulCodec (cluster ch : Nat) (s : State) : Result :=
  .next <| match toBegin s cluster ch 4 with
    | none => s
    | some p =>
      let w := p.word 3
      startBeats s cluster ch p (fld w 63 37 == 0 && [4, 5, 6].contains (fld w 35 32) && fld w 31 0 != 0 &&
        mult 8 [p.word 1, p.word 2, p.word 4] && fld (p.word 5) 63 32 == 0 && p.word 6 == 0 &&
        (!w.getLsbD 36 || (p.word 4 == 0 && p.word 5 == 0)))

/-- The element size of a shape record in bytes (R277). -/
def recEsz (r : List Word) : Nat := 2 ^ fld (r.getD 7 0) 1 0

/-- Extent `d` of a record, or coordinate halves: 32-bit field `i` of doubles. -/
def half32 (l : List Word) (i : Nat) : Nat := fld (l.getD (i / 2) 0) (32 * (i % 2) + 31) (32 * (i % 2))

/-- Extent of a dimension. -/
def recDim (r : List Word) (d : Nat) : Nat := half32 r (2 + d)

/-- A valid shape record (R277). -/
def recordOk (r : List Word) : Bool :=
  (List.range 4).all (fun d => recDim r d != 0) && fld (r.getD 7 0) 63 2 == 0 &&
    decide ((r.getD 6 0).toNat < 2 ^ (8 * recEsz r)) && mult (recEsz r) [r.getD 0 0, r.getD 3 0, r.getD 4 0, r.getD 5 0]

/-- Box extent of a dimension. -/
def boxExt (p : HaulPkt) (d : Nat) : Nat := fld (p.word 5) (16 * d + 15) (16 * d)

/-- The record cache after a use of an entry: the entry stands last, and at most 32 stay (R307). -/
def cacheRecord (l : List ((Word × BitVec 16) × List Word)) (key : Word × BitVec 16) (r : List Word) :=
  let l := l.filter (·.1 != key) ++ [(key, r)]
  l.drop (l.length - 32)

/-- The DST and DSTRIDE check of a `BOX` once its record is taken; then its beats begin. -/
def startBox (s : State) (cl ch : Nat) (p : HaulPkt) : State :=
  let n := recEsz p.record
  startBeats s cl ch p (mult n [p.word 2] && fld (p.word 6) 31 0 % n == 0 && fld (p.word 6) 63 32 % n == 0)

/-- The record at an address leaves the cache of a cluster, or with address 0 every record; one whose read is under way for a packet
begun before is not kept when it comes (R269, R279, R307). -/
def dropRecords (g : Cluster) (a : Word) : Cluster :=
  let hit (p : HaulPkt) : Bool := p.kind == 1 && (a == 0 || p.word 1 == a)
  { g with records := if a = 0 then [] else g.records.filter (·.1.1 != a),
           chans := g.chans.map fun c => { c with pkt := c.pkt.map fun p => if hit p then { p with stale := true } else p } }

/-- HAUL_BOX: the packet's own fields, then the record of its copy, the cache or memory (R276, R277, R279, R307). -/
def execHaulBox (cluster ch : Nat) (s : State) : Result :=
  .next <| match toBegin s cluster ch 1 with
    | none => s
    | some p =>
      let a := p.word 1
      if tagOf a ≠ 0 || a.toNat % 64 ≠ 0 || (List.range 4).any (fun d => boxExt p d = 0) then startBeats s cluster ch p false
      else if p.record ≠ [] then startBox s cluster ch p
      else
        let key := (a, rootAsid p.root)
        let keep (s : State) (r : List Word) : State :=
          s.updCluster cluster fun g => { g with records := cacheRecord g.records key r }
        let start (s : State) (r : List Word) : State := startBox s cluster ch { p with record := r, stale := false }
        match (s.chan cluster ch).rd, (s.getCluster cluster).records.find? (·.1 = key) with
        | none, some (_, r) => start (keep s r) r
        | rd, _ => match fetchRange s cluster ch p.root none a 64 with
          | .wait s => if rd.isNone then s.updChan cluster ch fun c => { c with pkt := some { p with stale := false } } else s
          | .bad f _ => stopPkt s cluster ch p f a
          | .ok s bytes =>
            let r := natWords 8 (pack 8 (bytes.map (·.toNat)))
            if recordOk r then start (if p.stale then s else keep s r) r else stopPkt s cluster ch p 2 a

/-! ### Beats (R303 to R306, R308) -/

/-- The units of a packet in all (R308). -/
def totalUnits (p : HaulPkt) : Nat :=
  match p.kind with
  | 1 => boxExt p 0 * boxExt p 1 * boxExt p 2 * boxExt p 3
  | 2 => fld (p.word 4) 31 0
  | 4 => (fld (p.word 3) 31 0 + 255) / 256
  | _ => fld (p.word 3) 31 0

/-- The write pointer for the progress of a packet (R308). -/
def writePtr (p : HaulPkt) : Word :=
  p.word 2 + BitVec.ofNat 64 (match p.kind with
    | 1 => recEsz p.record * p.progress
    | 2 => fld (p.word 4) 63 32 * p.progress
    | 4 => p.outDone
    | _ => p.progress)

/-- A beat is over: the packet stands behind it, and the write pointer with the last write still under way. -/
def beatDone (s : State) (cl ch : Nat) (p' : HaulPkt) (wr : List HaulWr) : State :=
  s.updChan cl ch fun c =>
    haulPointer { c with pkt := some { p' with buf := none, idx := none, wr := wr, top := writePtr p' }, rd := none }

/-- Where a packet stands, for a write with a request number. -/
def HaulPkt.mark (p : HaulPkt) (id : Nat) : HaulWr := ⟨id, writePtr p, p.progress, p.srcDone, p.outDone, p.written⟩

/-- A beat's bytes in a far module: the write leaves, and the beat is over with its acknowledgement (R359). -/
def landFar (s : State) (cl ch : Nat) (p p' : HaulPkt) (far : Option FarReply) (dst : Word) (bytes : List Byte) : State :=
  match (s.chan cl ch).rd with
  | none => match rangeFault s cl ch p.root true dst bytes.length with
    | some (f, x) => stopPkt s cl ch p f x
    | none => askRange (s.updChan cl ch fun c => { c with pkt := some { p with buf := some bytes } }) cl ch p.root dst bytes.length (some bytes)
  | some (id, _, _) => match farAnswer s id far with
    | some .ack => beatDone (dropRead s cl ch) cl ch p' p.wr
    | some (.fault c off) =>
      if farCode c && decide (off < bytes.length) then stopPkt s cl ch p c.toNat (dst + BitVec.ofNat 64 off) else s
    | some .lost => stopPkt s cl ch p 8 dst
    | _ => s

/-- A beat's bytes reach their destination: their words leave as engine writes, in any order (R188, R278), or go to a far
module. `p'` is the packet after the beat. -/
def land (s : State) (cl ch : Nat) (p p' : HaulPkt) (far : Option FarReply) (dst : Word) (bytes : List Byte) : State :=
  if bytes.isEmpty then beatDone s cl ch p' p.wr
  else if isRemote s dst then landFar s cl ch p p' far dst bytes
  else match writeCheck s cl ch p.root dst bytes with
    | some (f, x) => stopPkt s cl ch p f x
    | none => beatDone (postHaul s cl ch p.root .store dst bytes.length (pack 8 (bytes.map (·.toNat)))) cl ch p'
        (p.wr ++ [p.mark s.fresh])

/-- What a beat reads of a range: the range it reads and the range `dst` it will write pass their checks before the read (R306, R308);
then `k` goes on with the bytes. The length that a compressed chunk will have is not known before its source is read: `dst` is then
empty. -/
def readSource (s : State) (cl ch : Nat) (p : HaulPkt) (far : Option FarReply) (a : Word) (n : Nat) (dst : Word × Nat)
    (k : State → List Byte → State) : State :=
  match (if (s.chan cl ch).rd.isNone then
      (rangeFault s cl ch p.root false a n).or (rangeFault s cl ch p.root true dst.1 dst.2) else none) with
  | some (f, x) => stopPkt s cl ch p f x
  | none => match fetchRange s cl ch p.root far a n with
    | .wait s => s
    | .bad f x => stopPkt s cl ch p f x
    | .ok s b => k s b

/-- A beat with a source range: what it has read before, or what it reads now, goes through `k`. -/
def withSource (s : State) (cl ch : Nat) (p : HaulPkt) (far : Option FarReply) (src : Option (Word × Nat)) (dst : Word × Nat)
    (k : State → List Byte → Option FarReply → State) : State :=
  match p.buf, src with
  | some b, _ => k s b far
  | none, none => k s [] far
  | none, some (a, n) => readSource s cl ch p far a n dst fun s b => k s b none

/-- The length of the next beat of a `COPY` or `FILL`. -/
def copyLen (p : HaulPkt) : Nat :=
  let at' := (p.word 2).toNat + p.progress
  min (fld (p.word 3) 31 0 - p.progress) (64 - at' % 64)

/-- Bytes of a value, `n` of them. -/
def valueBytes (v n : Nat) : List Byte := (List.range n).map fun i => BitVec.ofNat 8 (v / 2 ^ (8 * i))

/-- A beat of `COPY` or `FILL` (R303). -/
def copyBeat (s : State) (cl ch : Nat) (p : HaulPkt) (far : Option FarReply) : State :=
  let n := copyLen p
  let off := BitVec.ofNat 64 p.progress
  let p' := { p with progress := p.progress + n }
  if p.kind = 0 then
    withSource s cl ch p far (some (p.word 1 + off, n)) (p.word 2 + off, n) fun s b far => land s cl ch p p' far (p.word 2 + off) b
  else
    let e := 2 ^ fld (p.word 3) 33 32
    let elem := valueBytes (p.word 1).toNat e
    land s cl ch p p' far (p.word 2 + off) ((List.range (n / e)).flatMap fun _ => elem)

/-- A signed 32-bit number. -/
def s32 (n : Nat) : Int := sxt 32 n

/-- A beat of `BOX`: consecutive elements of one run of dimension 0; those outside the tensor are PAD (R278). -/
def boxBeat (s : State) (cl ch : Nat) (p : HaulPkt) (far : Option FarReply) : State :=
  let r := p.record
  let e := recEsz r
  let i0 := p.progress % boxExt p 0
  let q := p.progress / boxExt p 0
  let i1 := q % boxExt p 1
  let i2 := q / boxExt p 1 % boxExt p 2
  let i3 := q / boxExt p 1 / boxExt p 2
  let n := min (64 / e) (boxExt p 0 - i0)
  let at' (d i : Nat) : Int := s32 (half32 [p.word 3, p.word 4] d) + i
  let inside (d i : Nat) : Bool := decide (0 ≤ at' d i) && decide (at' d i < recDim r d)
  let ds1 := fld (p.word 6) 31 0
  let ds2 := fld (p.word 6) 63 32
  let dst := p.word 2 + BitVec.ofNat 64 (i0 * e + i1 * ds1 + i2 * ds2 + i3 * ds2 * boxExt p 2)
  let live := if inside 1 i1 && inside 2 i2 && inside 3 i3 then (List.range n).filter fun i => inside 0 (i0 + i) else []
  let addr (i : Nat) : Word := r.getD 0 0 + BitVec.ofInt 64 (at' 0 (i0 + i) * e) + BitVec.ofInt 64 (at' 1 i1) * r.getD 3 0 +
    BitVec.ofInt 64 (at' 2 i2) * r.getD 4 0 + BitVec.ofInt 64 (at' 3 i3) * r.getD 5 0
  let src := live.head?.map fun i => (addr i, e * live.length)
  let pad := valueBytes (r.getD 6 0).toNat e
  let first := live.headD 0
  let fill (b : List Byte) : List Byte := (List.range n).flatMap fun i =>
    if live.contains i then (b.drop (e * (i - first))).take e else pad
  let k (s : State) (b : List Byte) (far : Option FarReply) :=
    land s cl ch p { p with progress := p.progress + n } far dst (if p.buf.isSome then b else fill b)
  withSource s cl ch p far src (dst, n * e) k

/-- A row of `GATHER` once its index is known (R304). -/
def gatherRow (s : State) (cl ch : Nat) (p : HaulPkt) (far : Option FarReply) (x : Word) : State :=
  let rowb := fld (p.word 4) 63 32
  let dst := p.word 2 + BitVec.ofNat 64 (p.progress * rowb)
  let i := s32 (fld x 31 0)
  let inside := decide (0 ≤ i) && decide (i < fld (p.word 6) 31 0)
  let pad := valueBytes (fld (p.word 6) 63 32) 4
  let src := if inside then some (p.word 1 + BitVec.ofInt 64 i * p.word 5, rowb) else none
  withSource (s.updChan cl ch fun c => { c with pkt := some { p with idx := some x } }) cl ch { p with idx := some x } far src (dst, rowb)
    fun s b far => land s cl ch { p with idx := some x } { p with progress := p.progress + 1 } far dst
      (if inside || p.buf.isSome then b else (List.range (rowb / 4)).flatMap fun _ => pad)

/-- A beat of `GATHER`: its index is read as a plain load, then its row (DEDUCED, log 39). -/
def gatherBeat (s : State) (cl ch : Nat) (p : HaulPkt) (far : Option FarReply) : State :=
  match p.idx with
  | some x => gatherRow s cl ch p far x
  | none =>
    let rowb := fld (p.word 4) 63 32
    readSource s cl ch p far (p.word 3 + BitVec.ofNat 64 (4 * p.progress)) 4 (p.word 2 + BitVec.ofNat 64 (p.progress * rowb), rowb)
      fun s b => gatherRow s cl ch p none (BitVec.ofNat 64 (pack 8 (b.map (·.toNat))))

/-- Bytes of doubles. -/
def wordsBytes (ws : List Word) : List Byte := ws.flatMap fun w => (List.range 8).map fun i => w.extractLsb' (8 * i) 8

/-- Elements of the chunk that comes next. -/
def chunkCount (p : HaulPkt) : Nat := min 256 (fld (p.word 3) 31 0 - 256 * p.progress)

/-- The bytes of a chunk whose header is known. -/
def chunkBytes (h : Word) : Nat := 8 * chunkLen h

/-- A chunk to decompress: its header is read first, and kept, then all of it; a malformed one stops the channel (R305). -/
def chunkIn (s : State) (cl ch : Nat) (p : HaulPkt) (far : Option FarReply) (a : Word) (dst : Word × Nat)
    (k : State → List Byte → State) : State :=
  match p.idx with
  | none => readSource s cl ch p far a 8 dst fun s b =>
      let h : Word := BitVec.ofNat 64 (pack 8 (b.map (·.toNat)))
      if headerOk (fld (p.word 3) 35 32) (chunkCount p) h then s.updChan cl ch fun c => { c with pkt := some { p with idx := some h } }
      else stopPkt s cl ch p 9 a
  | some h => readSource s cl ch p far a (chunkBytes h) dst k

/-- A chunk of `CODEC` (R305). -/
def codecBeat (s : State) (cl ch : Nat) (p : HaulPkt) (far : Option FarReply) : State :=
  let w := p.word 3
  let ty := fld w 35 32
  let n := chunkCount p
  let e := ctWidth ty / 8
  let dst := p.word 2 + BitVec.ofNat 64 p.outDone
  if !w.getLsbD 36 then
    withSource s cl ch p far (some (p.word 1 + BitVec.ofNat 64 (256 * p.progress * e), n * e)) (dst, 0) fun s b far =>
      let out := if p.buf.isSome then b else
        let v := pack 8 (b.map (·.toNat))
        wordsBytes (encodeChunk s.codec ty ((List.range n).map fun i => v / 2 ^ (8 * e * i) % 2 ^ (8 * e)))
      if fld (p.word 5) 31 0 < p.outDone + out.length then stopPkt s cl ch p 9 dst
      else land s cl ch p { p with progress := p.progress + 1, outDone := p.outDone + out.length } far dst out
  else
    let a := p.word 1 + BitVec.ofNat 64 p.srcDone
    let next (used : Nat) (b : List Byte) (s : State) (far : Option FarReply) : State :=
      land s cl ch p { p with progress := p.progress + 1, srcDone := p.srcDone + used, outDone := p.outDone + n * e } far dst b
    match p.buf with
    | some b => next ((p.idx.map chunkBytes).getD 0) b s far
    | none => chunkIn s cl ch p far a (dst, n * e) fun s b =>
        match decodeChunk ty n (natWords (b.length / 8) (pack 8 (b.map (·.toNat)))) with
        | none => stopPkt s cl ch p 9 a
        | some es => next b.length (valueBytes (pack (8 * e) es) (n * e)) s none

/-- The stream's byte count is written at OUTLEN after the last chunk (R305). -/
def owesLength (p : HaulPkt) : Bool := p.kind == 4 && !(p.word 3).getLsbD 36 && p.word 4 != 0 && !p.written

/-- HAUL_BEAT: one beat of the packet that the channel runs; `far` is what another module answers it. -/
def execHaulBeat (cluster ch : Nat) (far : Option FarReply) (s : State) : Result :=
  .next <| match (s.chan cluster ch).pkt with
    | none => s
    | some p =>
      if (s.chan cluster ch).st ≠ 1 || !p.begun then s
      else match p.err with
      | some (f, x, w) => stopWrite s cluster ch p f x w
      | none =>
      if p.progress < totalUnits p then
        match p.kind with
        | 1 => boxBeat s cluster ch p far
        | 2 => gatherBeat s cluster ch p far
        | 4 => codecBeat s cluster ch p far
        | _ => copyBeat s cluster ch p far
      else if owesLength p then
        land s cluster ch p { p with written := true } far (p.word 4) (valueBytes p.outDone 8)
      else s

/-! ### Completion (R308) -/

/-- HAUL_COMPLETION: the completion count leaves, DONE rises, and the channel goes on to its next slot. -/
def execHaulCompletion (cluster ch : Nat) (s : State) : Result :=
  .next <| match (s.chan cluster ch).pkt with
    | none => s
    | some p =>
      if (s.chan cluster ch).st ≠ 1 || !p.begun || p.progress < totalUnits p || owesLength p || !p.wr.isEmpty || p.err.isSome then s
      else
        let w := p.word 7
        let cox := coreAt cluster 0
        let r : BitVec 16 := w.extractLsb' 48 16
        if w.getLsbD 41 && (resolve s cox r = .absent || resolve s cox r = .dead) then stopPkt s cluster ch p 10 w
        else
          let h := mkHeader r (fld w 47 42) 0 1 true (rankOf s cox)
          let s := if w.getLsbD 41 then emit s cox r 0 (.count h (w.setWidth 32)) else s
          let s := s.updChan cluster ch fun c => { c with pkt := none, done := c.done + 1, look := true }
          sendStatq (setStat s cluster ch 0 0) cluster ch p 1

/-! ### `hl.resume` (R271, R311) -/

/-- A stopped channel goes on with its packet or slot, or skips it. -/
def resumeChannel (s : State) (cl ch : Nat) (skip : Bool) : State :=
  let c := s.chan cl ch
  let idle (s : State) : State := setStat (s.updChan cl ch fun c => { c with slotBad := false, pkt := none, look := true }) cl ch 0 0
  match c.pkt with
  | some p =>
    if skip then idle s
    else if p.begun then setStat s cl ch 1 0 else beginPacket s cl ch p
  | none => if skip && c.slotBad then idle (nextSlot s cl ch) else idle s

/-- `hl.resume` (R311) (DEDUCED, log 29). -/
def execHlResume (c : Ctl) (a : BitVec 5) (s : State) : Result :=
  issueS (wordA c 0x34 0 a 0 3) c { rx := [a] } (fun s =>
    let x := s.thisSeat.getX a
    if isBc s.core || fld x 63 3 ≠ 0 then haulTrap s 2
    else if (s.chan (clusterOf s.core) (fld x 1 0)).st ≠ 2 then haulTrap s 4
    else .next (raise (resumeChannel s (clusterOf s.core) (fld x 1 0) (x.getLsbD 2)) .none false .plain (.value 0))) s

/-! ### `hl.post`, `hl.wp`, `hl.rfence`, `hl.stat` (R267 to R270) -/

/-- The packet in `q2` as it is posted: a STATQ packet carries the poster's rank. -/
def postedWords (s : State) (ws : List Word) : List Word :=
  let w0 := ws.getD 0 0
  if w0.getLsbD 6 then ws.set 0 ((w0 &&& ~~~0xFFFF0000#64) ||| ((rankOf s s.core).setWidth 64 <<< 16)) else ws

/-- `hl.post` (R267): at issue the packet leaves `q2`; the claim, the wait and the writes follow. -/
def execHlPost (c : Ctl) (a : BitVec 5) (s : State) : Result :=
  issue c 2 { rx := [a], mem := true, rel := true } (fun s =>
    let ws := s.thisSeat.q2
    let x := s.thisSeat.getX a
    if ws.length ≠ 8 then haulTrap s 1
    else match checkAtomic s s.me x 128 8 with
      | some r => faultAct r
      | none =>
        .next ((raise s .none false (.haulPost x (postedWords s ws) .config none) (.value 0)).updThisSeat fun t => { t with q2 := [] })) s

/-- `hl.wp` (R268). -/
def execHlWp (c : Ctl) (d a : BitVec 5) (s : State) : Result :=
  issue c 2 { rx := [a], wx := [d] } (fun s =>
    let x := s.thisSeat.getX a
    if isBc s.core || fld x 63 2 ≠ 0 then haulTrap s 2
    else .next (raise s (.x d) true (.haulWp (clusterOf s.core) (fld x 1 0)) (.value 0))) s

/-- `hl.rfence` (R269). -/
def execHlRfence (c : Ctl) (a : BitVec 5) (s : State) : Result :=
  issue c 2 { rx := [a], rel := true } (fun s =>
    let x := s.thisSeat.getX a
    if isBc s.core || (x ≠ 0 && (tagOf x ≠ 0 || x.toNat % 64 ≠ 0)) then haulTrap s 2
    else .next (raise s .none false (.rfence x) (.value 0))) s

/-- `hl.stat` (R270). -/
def execHlStat (c : Ctl) (d a : BitVec 5) (s : State) : Result :=
  issue c 2 { rx := [a], wx := [d] } (fun s =>
    let x := s.thisSeat.getX a
    if isBc s.core || fld x 63 2 ≠ 0 then haulTrap s 2
    else putX s d (statWord (s.chan (clusterOf s.core) (fld x 1 0)))) s

/-! ### What `hl.post` does after its issue (R267) -/

/-- The outstanding operation ends in an error that its seat takes at a boundary. -/
def fails (s : State) (c : CoreId) (n id : Nat) (cause : BitVec 8) (v : Word) : State := answer s c n id (.error cause v)

/-- The haul trap taken after issue; its detail and subject are open (R264). -/
def lateHaulTrap (s : State) (c : CoreId) (n id : Nat) (reason : BitVec 8) : State :=
  (fails s c n id 0x41 (reason ++ Config.subject s.tick)).ticked

/-- EN set and SP clear in a QCFG (R267, R300). -/
def queueOpen (q : Word) : Bool := q.getLsbD 63 && !q.getLsbD 62

/-- An `hl.post` stands at a stage, with a request under way or none. -/
def atStage (s : State) (c : CoreId) (n id : Nat) (x : Word) (ws : List Word) (st : PostStage) (sub : Option Nat) : State :=
  updOut s c n id fun o => { o with what := .haulPost x ws st sub }

/-- An access of an `hl.post` after its issue: checked as an access of its seat, it ends the operation in an error, awaits a walk, or
leaves (R93, R267). The checks take `n` bytes at `a`; the doubles from `at'` on are accessed. -/
def postAccess (s : State) (c : CoreId) (n id : Nat) (x : Word) (ws : List Word) (st : PostStage) (op : ReqOp) (need : Need)
    (a : Word) (size : Nat) (at' : Word) (data : List Word) : State :=
  match checkBytes s (.op c id) need (byteAddrs a size) with
  | some (cause, v) =>
    if cause = walkCause then askWalk s (.op c id) (s.getCore c).ttRoot (fld v 47 0)
    else fails (s.forget (.op c id)) c n id cause v
  | none =>
    let pieces := (data.zipIdx).map fun (w, i) =>
      let va := at' + BitVec.ofNat 64 (8 * i)
      mkPiece va (placeOf s (.op c id) va) 8 (lowMask 64) w 0
    let s' := postReq (s.bump.forget (.op c id))
      { id := s.fresh, core := c, seat := n, firing := 0, pc := 0, op := op, pieces := pieces, agent := .post id }
    atStage s' c n id x ws st (some s.fresh)

/-- The access of a stage: QCFG is read; W is advanced by an atomic; RIX is read; doubles 1 to 7 of the slot are written; double 0 is
written with its PHASE, which publishes the slot (R267). -/
def postStage (s : State) (c : CoreId) (n id : Nat) (x : Word) (ws : List Word) (st : PostStage) : State :=
  let slot (k size : Nat) : Word := x + BitVec.ofNat 64 (128 + 64 * (k % size))
  match st with
  | .config => postAccess s c n id x ws st (.load 8 false) .read (x + 0x10) 8 (x + 0x10) [0]
  | .claim _ => postAccess s c n id x ws st (.amo .add 8 1 0) .both x 8 x [0]
  | .room _ _ => postAccess s c n id x ws st (.load 8 false) .read (x + 8) 8 (x + 8) [0]
  | .body k size => postAccess s c n id x ws st .store .write (slot k size) 64 (slot k size + 8) (ws.drop 1)
  | .publish k size =>
    let w0 := (ws.getD 0 0 &&& ~~~0x80#64) ||| BitVec.ofNat 64 ((k / size + 1) % 2 * 128)
    postAccess s c n id x ws st .store .write (slot k size) 64 (slot k size) [w0]

/-- A stage is over with what its access has read: the queue's header is checked, the claim is taken, room is there or is asked for
again, the slot's doubles are registered, and with the last the operation ends (R267). -/
def stageDone (s : State) (c : CoreId) (n id : Nat) (x : Word) (ws : List Word) (st : PostStage) (msa : Bool) (v : Word) : State :=
  match st with
  | .config => if msa && queueOpen v then atStage s c n id x ws (.claim (queueSize v)) none else lateHaulTrap s c n id 3
  | .claim size => atStage s c n id x ws (.room v.toNat size) none
  | .room k size =>
    if 0 < (v + BitVec.ofNat 64 size - BitVec.ofNat 64 k).toInt then atStage s c n id x ws (.body k size) none
    else atStage s c n id x ws st none
  | .body k size => atStage s c n id x ws (.publish k size) none
  | .publish _ _ => lower s c n id

/-- A posted packet goes on: the stage's access leaves, or its answer has come back (R267). -/
def postOn (s : State) (c : CoreId) (n id : Nat) (x : Word) (ws : List Word) (st : PostStage) (sub : Option Nat) : State :=
  match sub with
  | none => postStage s c n id x ws st
  | some q => match findReq s q with
    | none => s
    | some r =>
      if !settled r || awaitsRevs s q then s
      else match reqError r with
        | some (cause, v) => fails (dropReq s q) c n id cause v
        | none => stageDone (dropReq s q) c n id x ws st (r.pieces.all fun p => p.dst matches .hbm _ true)
            ((r.pieces.head?.map (·.data)).getD 0)

end Sys2Proof.Machine
end

