-- ==== Sys2Proof/Machine/Tables.lean ====
section
/-! DEFINITION. Chiplets and links, and the route tables of the routers as firmware writes them: the spanning tree, the escape
entries, the network-select entries, and their rebuild after a fence (R331, R332, R339, R340, R346, R347, R349). -/

namespace Sys2Proof.Machine

/-! ### Chiplets (R331, R332) -/

/-- A chiplet number names a chiplet (R331). -/
def isChiplet (cn : Nat) : Bool := decide (cn < 169) || (decide (0x100 ≤ cn) && decide (cn < 0x118)) || cn == 0x120 || cn == 0x121

/-! ### Edge chiplets and links (R339, R340) -/

/-- The attachment routers of an edge chiplet by side and p (R340): first p, and how many. -/
def attachment (cn : Nat) : Nat × Nat :=
  if cn < 0x110 then ((cn - 0x100) / 4, 13 * ((cn - 0x100) % 4) + 4)
  else if cn < 0x120 then ((cn - 0x110) / 2, 26 * ((cn - 0x110) % 2) + 10)
  else (if cn = 0x120 then 3 else 1, 24)

/-- The router at p along a side: N, E, S, W. -/
def sideRouter (side p : Nat) : Nat × Nat :=
  match side with
  | 0 => (p, 0)
  | 1 => (51, p)
  | 2 => (p, 51)
  | _ => (0, p)

/-- Site of a router. -/
def siteOf (router : Nat) : Nat := 13 * (router / 52 / 4) + router % 52 / 4

/-- The router one step to a side (N 0, E 1, S 2, W 3) of a router, inside the grid. -/
def stepSide (r side : Nat) : Option Nat :=
  let (x, y) := (r % 52, r / 52)
  match side with
  | 0 => if y = 0 then none else some (r - 52)
  | 1 => if x = 51 then none else some (r + 1)
  | 2 => if y = 51 then none else some (r + 52)
  | _ => if x = 0 then none else some (r - 1)

/-- The four attachment routers of an edge chiplet. -/
def attachRouters (cn : Nat) : List Nat :=
  let (side, p) := attachment cn
  (List.range 4).map fun i => let (x, y) := sideRouter side (p + i); 52 * y + x

/-- The numbers of the edge chiplets. -/
def edgeChips : List Nat := (List.range 24).map (0x100 + ·) ++ [0x120, 0x121]

/-- The edge chiplet on a side of a router. -/
def edgeAt (r side : Nat) : Option Nat := edgeChips.find? fun cn => (attachment cn).1 == side && (attachRouters cn).contains r

/-- A link exists: to a neighbour or to an edge chiplet. -/
def linkExists (r side : Nat) : Bool := (stepSide r side).isSome || (edgeAt r side).isSome

/-- A link is fenced under the name of either of its ends (DEDUCED, log 58). -/
def linkBroken (s : State) (r side : Nat) : Bool :=
  s.linksBad.contains (4 * r + side) || match stepSide r side with
    | some n => s.linksBad.contains (4 * n + (side + 2) % 4)
    | none => false

/-- The router of a destination index as a point of the grid: an edge chiplet stands at its first attachment router. -/
def coordOf (i : Nat) : Nat × Nat :=
  if i < 2704 then (i % 52, i / 52)
  else let (side, p) := attachment (i - 2704 + 0x100); sideRouter side p

/-- The router at which traffic leaves for, or enters from, a destination index: of an edge chiplet, its attachment router
nearest to the other end, the lower p on a tie (DEDUCED, log 15). -/
def doorOf (i : Nat) (other : Nat × Nat) : Nat × Nat :=
  if i < 2704 then coordOf i
  else
    let (side, p) := attachment (i - 2704 + 0x100)
    let c := if side % 2 = 0 then other.1 else other.2
    sideRouter side (min (max c p) (p + 3))

/-- The number of a router. -/
def routerNo (r : Nat × Nat) : Nat := 52 * r.2 + r.1

/-! ### The tables of the full grid (R347, R369) -/

/-- Distance from the root (0, 24) in the full-grid tree (R347). -/
def treeDist (r : Nat × Nat) : Nat := r.1 + ((r.2 : Int) - 24).natAbs

/-- The router at which an edge chiplet hangs on the full-grid tree: nearest the root, the lower p on a tie (R347). -/
def hangRouter (cn : Nat) : Nat × Nat :=
  let (side, p) := attachment cn
  let rs := (List.range 4).map fun i => sideRouter side (p + i)
  rs.foldl (fun b r => if treeDist r < treeDist b then r else b) (sideRouter side p)

/-- The escape entry of router (x, y) towards position (dx, dy) in the full-grid tree: rows north of row 24 hang on column
0, columns south of it hang on row 24 (R347). -/
def treeHop (x y dx dy : Nat) : Nat :=
  if x = dx && y = dy then 5
  else if y < 24 then
    if x = 0 then (if dy < y then 8 else if dy = y then 9 else 2)
    else if dy = y && x < dx then 9 else 3
  else if y = 24 then
    if x = 0 then (if dy < 24 then 8 else if dx = 0 then 10 else 9)
    else if 24 ≤ dy && dx = x then 10 else if 24 ≤ dy && x < dx then 9 else 3
  else if dx = x && y < dy then 10 else 0

/-- The full-grid escape entry of a router for a destination index. -/
def fullGridEntry (router index : Nat) : BitVec 4 :=
  let (x, y) := (router % 52, router / 52)
  if index < 2704 then BitVec.ofNat 4 (treeHop x y (index % 52) (index / 52))
  else
    let h := hangRouter (index - 2704 + 0x100)
    if h = (x, y) then (if index = 2736 then 4 else 12) else BitVec.ofNat 4 (treeHop x y h.1 h.2)

/-! ### The tables after a rebuild (R346, R347, R349) -/

/-- A router that is fenced itself, or lies on a chiplet that carries nothing (R333, R346). -/
def routerDead (s : State) (r : Nat) : Bool := s.routersBad.contains r || chipSilent s (siteOf r)

/-- What firmware found when it last rebuilt the tables: the fenced links, the chiplets that were not READY, and the fenced
routers. -/
abbrev Found := List Nat × List Nat × List Nat

/-- A router that firmware found to be live. -/
def Found.live (f : Found) (r : Nat) : Bool := !f.2.1.contains (siteOf r) && !f.2.2.contains r

/-- A link from a router to the next one was live. -/
def liveHop (f : Found) (r side : Nat) : Option Nat :=
  (stepSide r side).filter fun n =>
    !f.1.contains (4 * r + side) && !f.1.contains (4 * n + (side + 2) % 4) && Found.live f n

/-- Breadth-first from the routers of a queue, neighbours in the order N, E, S, W: each router with the side that leads back
(R347). -/
def growTree (f : Found) : Nat → List Nat → List (Nat × Nat) → List (Nat × Nat)
  | 0, _, t => t
  | _ + 1, [], t => t
  | n + 1, r :: q, t =>
    let new := (List.range 4).filterMap fun side => (liveHop f r side).bind fun m =>
      if m = 1248 || (tget? t m).isSome then none else some (m, (side + 2) % 4)
    growTree f n (q ++ new.map (·.1)) (new.foldl (fun t e => tset t e.1 e.2) t)

/-- The spanning tree of the live routers, rooted at router (0, 24), as sides towards the parent. -/
def spanTree (f : Found) : List (Nat × Nat) := if Found.live f 1248 then growTree f 2704 [1248] [] else []

/-- The routers from one up to the root, itself first. -/
def climb (t : List (Nat × Nat)) : Nat → Nat → List Nat
  | 0, r => [r]
  | n + 1, r => r :: match (tget? t r).bind (stepSide r) with
    | some m => climb t n m
    | none => []

/-- A router belongs to the tree. -/
def inTree (t : List (Nat × Nat)) (r : Nat) : Bool := r == 1248 || (tget? t r).isSome

/-- The attachment router at which an edge chiplet hangs: of those in the tree with a live link to it, nearest the root, the lower
p on a tie (R347); a chiplet that was not READY hangs nowhere (R370). -/
def hangAt (f : Found) (t : List (Nat × Nat)) (cn : Nat) : Option Nat :=
  let side := (attachment cn).1
  let ok := (attachRouters cn).filter fun r => !f.2.1.contains cn && inTree t r && !f.1.contains (4 * r + side)
  ok.foldl (fun b r => match b with
    | some m => if (climb t 2704 r).length < (climb t 2704 m).length then some r else b
    | none => some r) none

/-- The side of a router that leads to a neighbour. -/
def sideTo (r m : Nat) : Nat := ((List.range 4).find? fun side => stepSide r side = some m).getD 0

/-- The entry of a router for another one: down the tree to a descendant, up to anything else. -/
def treeEntry (t : List (Nat × Nat)) (r d : Nat) : Option (BitVec 4) :=
  if r = d then some 5
  else if !inTree t r || !inTree t d then none
  else match ((climb t 2704 d).takeWhile (· != r)).getLast?, (climb t 2704 d).contains r with
    | some m, true => some (BitVec.ofNat 4 (8 + sideTo r m))
    | _, _ => (tget? t r).map (BitVec.ofNat 4)

/-- The escape entry of a router for a destination index; what the tree does not reach keeps the entry of the full grid
(DEDUCED, log 20). -/
def builtEscape (f : Found) (router index : Nat) : BitVec 4 :=
  let t := spanTree f
  let e := if index < 2704 then treeEntry t router index
    else (hangAt f t (index - 2704 + 0x100)).bind fun h =>
      if h = router then some (if index = 2736 then 4 else 12) else treeEntry t router h
  e.getD (fullGridEntry router index)

/-- A dimension-order path from a router to another is intact (R346). -/
def pathIntact (f : Found) (xFirst : Bool) (t : Nat × Nat) : Nat → Nat → Bool
  | 0, _ => false
  | n + 1, r =>
    let (x, y) := (r % 52, r / 52)
    if !Found.live f r then false
    else if (x, y) = t then true
    else
      let ew := if x < t.1 then 1 else 3
      let ns := if y < t.2 then 2 else 0
      let side := if xFirst then (if x = t.1 then ns else ew) else if y = t.2 then ew else ns
      match liveHop f r side with
      | some m => pathIntact f xFirst t n m
      | none => false

/-- The network-select entry of a router for a destination index (R346). -/
def builtSel (f : Found) (router index : Nat) : BitVec 2 :=
  let door := doorOf index (coordOf router)
  let cn := index - 2704 + 0x100
  let out := index < 2704 || !(f.1.contains (4 * routerNo door + (attachment cn).1) || f.2.1.contains cn)
  match out && pathIntact f true door 104 router, out && pathIntact f false door 104 router with
  | true, true => 2
  | true, false => 0
  | false, true => 1
  | false, false => 3

/-- The numbers of the chiplets. -/
def allChips : List Nat := List.range 169 ++ edgeChips

/-- What the west basecamp finds: the fenced links, the chiplets that are not READY or out of its reach, the fenced routers. -/
def survey (s : State) : Found := (s.linksBad, allChips.filter fun cn => bustState s cn != 5 || isLost s cn, s.routersBad)

/-- The west basecamp rewrites the tables of every router that it reaches for the links and chiplets as they stand (R349, R370); what
`rtab.wr` had written is written over (DEDUCED, log 20). -/
def rebuild (s : State) : State :=
  if chipSilent s 0x120 then s
  else { s with tables := some (survey s),
                netSel := s.netSel.filter fun e => isLost s (siteOf e.1.1), escape := s.escape.filter fun e => isLost s (siteOf e.1.1)
                chiplets := s.chiplets.map fun (n, h) => (n, if isLost s n then h else { h with plain := false }) }

/-- What the tables of a router were built from: by the last rebuild that reached it, if one came after the frame (R349, R369). -/
def builtFrom (s : State) (router : Nat) : Option Found :=
  if (s.getChiplet (siteOf router)).plain then none else if isLost s (siteOf router) then s.lostTables else s.tables

/-- A network-select entry and an escape entry (R333): what was written last, by `rtab.wr`, a rebuild, or an accepted frame
(R369) (DEDUCED, log 20). -/
def netSelOf (s : State) (router index : Nat) : BitVec 2 :=
  pget (if (s.getChiplet (siteOf router)).framed then (((builtFrom s router).map fun f => builtSel f router index).getD 2) else 0) s.netSel
    (router, index)
def escapeOf (s : State) (router index : Nat) : BitVec 4 :=
  pget (if (s.getChiplet (siteOf router)).framed then
    (((builtFrom s router).map fun f => builtEscape f router index).getD (fullGridEntry router index)) else 0) s.escape (router, index)

/-- The attachment router at which an edge chiplet enters the channel: the one whose own entry for it is PORT 4 (R347). -/
def hangOf (s : State) (cn : Nat) : Nat × Nat :=
  (((attachRouters cn).find? fun r => (escapeOf s r (cn - 0x100 + 2704)).toNat % 8 = 4).map coordOf).getD (hangRouter cn)

end Sys2Proof.Machine
end

