-- ==== Sys2Proof/Machine/System.lean ====
section
/-! DEFINITION. System registers, trap and return, waiting, capabilities, power requests, cache and translation
instructions, bring-up and route tables (R164, R169, R170, R172, R247, R313, R322 to R333, R347). -/

namespace Sys2Proof.Machine

/-! ### L2 modes (R169, R170, R172) -/

/-- The values that L2_CFG takes from a write: reserved SIZE or MODE keep the old field (DEDUCED, log 49). -/
def l2cfgOf (old v : Word) : Word :=
  let size := if fld v 3 2 = 3 then fld old 3 2 else fld v 3 2
  let mode := if 2 ≤ fld v 1 0 then fld old 1 0 else fld v 1 0
  BitVec.ofNat 64 (4 * size + mode)

/-- A launch is taken or running; one that is switched out is taken again (R170, R243). -/
def launchLive (s : State) : Bool :=
  s.launches.any fun l => l.state = .taken || l.state = .running || l.state = .switchedOut

/-- A partition reconfiguration; refused while a launch is taken or running. -/
def reconfigure (s : State) (cfg pmap : Word) : State :=
  if launchLive s then s
  else { s with l2cfg := l2cfgOf s.l2cfg cfg, l2pmap := pmap, l2co := 0, co := [], coPoison := [], owners := [], dirty := [],
                cores := s.cores.map fun (c, k) => (c, { k with l1 := [] }) }

/-- L2_RECONFIGURATION. -/
def execL2Reconfiguration (cfg pmap : Word) (s : State) : Result := .next (reconfigure s cfg pmap)

/-- The carve-out of a partition gets another number of ways; bytes beyond the new size are lost, and new offsets read zero. A partition
that a reconfiguration has taken away meanwhile has its field written all the same (DESIGN CHOICE, log 82). -/
def setWays (s : State) (p ways : Nat) : State :=
  let old := coWays s p
  let s' : State := { s with l2co := s.l2co + BitVec.ofNat 64 (ways * 2 ^ (4 * p)) - BitVec.ofNat 64 (old * 2 ^ (4 * p)) }
  let size := min (coSize s p) (coSize s' p)
  { s' with co := tset s.co p (takeRange (tget [] s.co p) 0 size),
            coPoison := s.coPoison.filter fun g => !(g.1 == p && decide (size ≤ 32 * g.2)) }

/-! ### System registers (R324, R325) -/

/-- The chiplet's clock runs: it has locked and is not parked. -/
def clockRuns (h : Chiplet) : Bool := fld h.bust 2 0 != 0 && h.cur != 7

/-- CYCLE read: the chiplet's count goes on by the cycles since the last read. -/
def readCycle (s : State) (n : Nat) : State × Word :=
  let h := s.getChiplet n
  let v := h.cycle + if clockRuns h then (Config.cycles s.tick).setWidth 64 else 0
  ((s.setChiplet n { h with cycle := v }).ticked, v)

/-- COREID (R325, R404). -/
def coreId (c : CoreId) : Word :=
  if isBc c then BitVec.ofNat 64 (0xFFFF00 + coreNo c)
  else BitVec.ofNat 64 (c % 52 * 2 ^ 16 + c / 52 * 2 ^ 8 + coreNo c)

/-- WSWIN (R164); REMAIN is open within its bound (DEDUCED, log 51). A basecamp core, which has no weight store, reads 0 (DESIGN
CHOICE, log 79). -/
def wsWin (s : State) (c : CoreId) : Word :=
  if isBc c then 0 else
  let g := s.getCluster (clusterOf c)
  let r := (Config.remain s.tick).toNat
  BitVec.ofNat 64 (if g.wsOpen then 2 ^ 31 + g.bank.toNat * 2 ^ 28 + r % 1025 else g.bank.toNat * 2 ^ 28 + r % 15361)

/-- PWR_STAT (R325). -/
def pwrStat (h : Chiplet) : Word :=
  BitVec.ofNat 64 ((if h.capped then 2 ^ 16 else 0) + (if h.busy then 2 ^ 8 else 0) + h.req.toNat * 16 + h.cur.toNat)

/-- Whether only seat 7 reads a register (R324). -/
def seat7Reads (r : Nat) : Bool := decide (0x10 ≤ r) && decide (r < 0x40)

/-- Whether `sr.wr` writes a register. -/
def srWritable (r : Nat) : Bool :=
  r == 8 || (decide (0x30 ≤ r) && decide (r ≤ 0x37)) || r == 0x39

/-- The value of a register without an effect of its reading. -/
def srValue (s : State) (r : Nat) : Word :=
  let k := s.thisCore
  let c := s.core
  let t := k.getSeat (r % 8)
  if r < 3 then (if r = 1 then coreId c else BitVec.ofNat 64 s.seat.val)
  else if r = 8 then k.dbgCtl
  else if r < 0x10 then wsWin s c
  else if r < 0x18 then t.trapPc.setWidth 64
  else if r < 0x20 then t.trapCause.setWidth 64
  else if r < 0x28 then t.trapVal
  else if r < 0x30 then t.rpc.setWidth 64
  else if r < 0x38 then match r with
    | 0x30 => k.ttRoot
    | 0x31 => k.seatCtl
    | 0x32 => k.shell.link
    | 0x33 => k.tretCtl
    | _ => if isBc c then 0 else (s.chan (clusterOf c) (r - 0x34)).hlq
  else match r with
    | 0x38 => k.ovfCfg
    | 0x39 => k.ovfHead.setWidth 64
    | 0x3A => BitVec.ofNat 64 (k.ovfTail.toNat + if k.ovfFull then 2 ^ 63 else 0)
    | 0x3C => k.bivBase
    | 0x3D => k.ctxBase
    | 0x40 => s.l2co
    | 0x41 => s.l2cfg
    | 0x42 => s.l2pmap
    | _ => pwrStat (s.getChiplet (chipOf c))

/-- `sr.rd`: a restricted register takes the privilege trap outside seat 7, whatever the guard (R30, R324). -/
def execSrRd (c : Ctl) (d : BitVec 5) (r : BitVec 10) (s : State) : Result :=
  if seat7Reads r.toNat && s.seat ≠ 7 then .next (precise s 0x02 ((wordX c 0x38 d 0 r).setWidth 64))
  else issue c 2 { wx := [d] } (fun s =>
    if r = 0 then let (s, v) := readCycle s (chipOf s.core); putX s d v
    else putX (if r = 9 then s.ticked else s) d (srValue s r.toNat)) s

/-- A write of SEAT_CTL: without effect while a request is pending; a request for seat 7, or for a FREE or TRAPPED seat,
is dropped (R247). -/
def writeSeatCtl (s : State) (c : CoreId) (v : Word) : State :=
  let k := s.getCore c
  let n := fld v 2 0
  let t := k.getSeat n
  if k.seatCtl.getLsbD 8 then s
  else
    let taken := v.getLsbD 8 && n != 7 && t.status != .free && t.status != .trapped
    s.setCore c { k with seatCtl := BitVec.ofNat 64 (n + if taken then 256 else 0) }

/-- SEAT_CTL_WRITE: seat 7 of a core requests a pre-emption. -/
def execSeatCtlWrite (core : Nat) (v : Word) (s : State) : Result :=
  .next (if isCore core then writeSeatCtl s core v else s)

/-- A write of a system register by the running seat 7. -/
def srWrite (s : State) (r : Nat) (v : Word) : State :=
  let c := s.core
  match r with
  | 8 => s.updThisCore fun k => { k with dbgCtl := v &&& 1 }
  | 0x30 => s.updThisCore fun k => { k with ttRoot := v &&& 0xFFFF00FFFFFFF001 }
  | 0x31 => writeSeatCtl s c v
  | 0x32 => writeShLink s c v
  | 0x33 => s.updThisCore fun k => { k with tretCtl := v &&& 0xFFFF0307 }
  | 0x39 => writeOvfHd s c v
  | 0x41 => reconfigure s v s.l2pmap
  | 0x42 => reconfigure s s.l2cfg v
  | _ => if isBc c then s else writeHlq s (clusterOf c) (r - 0x34) v

/-- The registers that `sr.wr` of a core writes: a basecamp core also L2_CFG and L2_PMAP (R169, R324). -/
def writesReg (c : CoreId) (r : Nat) : Bool := srWritable r || (isBc c && (r == 0x41 || r == 0x42))

/-- `sr.wr`: a register that it does not write takes the privilege trap, whatever the guard (R30, R324). -/
def execSrWr (c : Ctl) (a : BitVec 5) (r : BitVec 10) (s : State) : Result :=
  if s.seat = 7 && !writesReg s.core r.toNat then .next (precise s 0x02 ((wordX c 0x39 0 a r).setWidth 64))
  else issueS (wordX c 0x39 0 a r) c { rx := [a] } (fun s => .next (srWrite s r.toNat (s.thisSeat.getX a))) s

/-! ### Trap, return and waiting (R326 to R328) -/

/-- `trap` (R326). -/
def execTrap (c : Ctl) (a : BitVec 5) (s : State) : Result :=
  issue c 2 { rx := [a] } (fun s => .trap 0x06 (s.thisSeat.getX a)) s

/-- The parcels of the unit at an address: a 16-bit or 32-bit instruction, or a prefix and its instruction (R27). -/
def unitLen (k : Core) (a : Nat) : Nat :=
  let w := k.word a
  if isPrefix w then 4 else if w.getLsbD 31 then 2 else 1

/-- Where `tret` resumes the trapped seat, and with which repeat counter. -/
def resumePoint (k : Core) (t : Seat) (mode : Nat) : Nat × BitVec 11 :=
  match mode with
  | 0 => (t.rpc.toNat, t.rpt)
  | 1 => (t.rpc.toNat + unitLen k t.rpc.toNat, 0)
  | _ => (fld k.tretCtl 31 16, 0)

/-- `tret` (R327). -/
def execTret (c : Ctl) (s : State) : Result :=
  issueS (wordX c 0x3A 0 0 0) c {} (fun s =>
    let k := s.thisCore
    let n := fld k.tretCtl 2 0
    let t := k.getSeat n
    let mode := fld k.tretCtl 9 8
    if n = 7 || t.status ≠ .trapped then sysTrap 6 0 n
    else if mode = 3 then .next (killFiring s s.core n)
    else
      let (pc, rpt) := resumePoint k t mode
      if pc ≤ 0xFFFF && k.starts pc then
        .next (s.updSeatAt s.core n fun t => { t with status := .running, pc := BitVec.ofNat 16 pc, rpt := rpt })
      else .trap 0x01 (BitVec.ofNat 64 pc)) s

/-- `wfe` (R328). -/
def execWfe (c : Ctl) (s : State) : Result :=
  issue c 2 {} (fun s => if s.thisSeat.event then .next (s.updThisSeat fun t => { t with event := false }) else .block) s

/-! ### Capabilities and power (R329, R330) -/

/-- `cap.wr` (R329). -/
def execCapWr (c : Ctl) (n : BitVec 3) (a : BitVec 5) (s : State) : Result :=
  issueS (wordX c 0x3A (n.setWidth 5) a 3) c { rx := [a] } (fun s =>
    let x := s.thisSeat.getX a
    if fld x 63 32 ≠ 0 then sysTrap 1 0 3
    else .next (updShell s s.core fun h => { h with caps := h.caps.setIfInBounds n.toNat (x.setWidth 32) })) s

/-- The controller of a chiplet serves its requests in order while no transition runs: one for the current state is done at
once, a deeper state holds at once with the voltage to follow, and the request that parks is done when parking begins
(R330, R397) (DEDUCED, log 24). -/
def startPower (cn : Nat) : Nat → State → State
  | 0, s => s
  | fuel + 1, s =>
    let h := s.getChiplet cn
    match h.busy, h.queue with
    | false, (st, who) :: t =>
      let tell (s : State) : State := match who with
        | some (c, n, id) => answer s c n id (.value 0)
        | none => s
      let h := { h with req := st, target := st }
      if st = h.cur then startPower cn fuel (tell (s.setChiplet cn { h with queue := t }))
      else if st = 7 then tell (s.setChiplet cn { h with queue := t, cur := 7, busy := true })
      else s.setChiplet cn { h with cur := if h.cur.toNat < st.toNat then st else h.cur, busy := true }
    | _, _ => s

/-- A request joins the queue of a chiplet's controller. -/
def askPower (s : State) (cn : Nat) (st : BitVec 3) (who : Option (CoreId × Nat × Nat)) : State :=
  let s := s.updChiplet cn fun h => { h with queue := h.queue ++ [(st, who)] }
  startPower cn (s.getChiplet cn).queue.length s

/-- `pwr` (R330): the request joins the queue of the chiplet's controller (DEDUCED, log 50). -/
def execPwr (c : Ctl) (a : BitVec 5) (s : State) : Result :=
  issueS (wordX c 0x3A 0 a 2) c { rx := [a] } (fun s =>
    let x := s.thisSeat.getX a
    let cn := if x.getLsbD 3 then 13 * fld x 15 12 + fld x 11 8 else chipOf s.core
    let st : BitVec 3 := x.setWidth 3
    if fld x 63 16 ≠ 0 || fld x 7 4 ≠ 0 || (!x.getLsbD 3 && fld x 15 8 ≠ 0) || 12 < fld x 15 12 || 12 < fld x 11 8 then
      sysTrap 1 0 2
    else if !isCluster cn || bustState s cn ≠ 5 || (isLost s cn && !isLost s (chipOf s.core)) then sysTrap 8 0 cn
    else
      .next (askPower (raise s .none false (.pwr cn st)) cn st (some (s.core, s.seat.val, s.fresh)))) s

/-! ### Caches and translation (R322, R323) -/

/-- `l1.inv` (R322). -/
def execL1Inv (c : Ctl) (s : State) : Result :=
  issue c 2 { mem := true } (fun s => .next (raise s .none true .l1Inv (.value 0))) s

/-- `l2.wb`: a request to the line's home (R322, R341). -/
def execL2Wb (c : Ctl) (a : BitVec 5) (s : State) : Result :=
  issue c 2 { rx := [a], mem := true } (fun s =>
    let x := s.thisSeat.getX a
    if x.toNat % 128 ≠ 0 then .trap 0x10 x
    else if tagOf x ≠ 0 then .trap 0x11 x
    else match checkBytes s s.me .read (byteAddrs x 128) with
      | some r => faultAct r
      | none => .next (post (raise s .none false .plain) s.fresh .wb [mkPiece x (placeOf s s.me x) 8 0 0 0])) s

/-- `l2.ways` (R322). -/
def execL2Ways (c : Ctl) (a : BitVec 5) (s : State) : Result :=
  issueS (wordX c 0x3A 0 a 4) c { rx := [a] } (fun s =>
    let x := s.thisSeat.getX a
    if fld x 63 12 ≠ 0 || fld x 7 4 ≠ 0 then sysTrap 1 0 4
    else if partitions s ≤ fld x 3 0 || 12 < fld x 11 8 then sysTrap 5 0 (fld x 3 0)
    else .next (raise s .none false (.l2Ways (fld x 3 0) (fld x 11 8)) (.value 0))) s

/-- `tc.inv` (R323). -/
def execTcInv (c : Ctl) (a : BitVec 5) (s : State) : Result :=
  issueS (wordX c 0x3A 0 a 7) c { rx := [a] } (fun s =>
    let x := s.thisSeat.getX a
    if fld x 62 48 ≠ 0 || (x.getLsbD 63 && fld x 47 16 ≠ 0) then sysTrap 1 0 7
    else .next (raise s .none false (.tcInv x) (.value 0))) s

/-! ### BUST and route tables (R331 to R333, R347) -/

/-- `bust.rd` (R331). -/
def execBustRd (c : Ctl) (d a : BitVec 5) (s : State) : Result :=
  issueS (wordX c 0x3B d a 0) c { rx := [a], wx := [d] } (fun s =>
    let x := s.thisSeat.getX a
    if fld x 63 16 ≠ 0 then sysTrap 1 0 0
    else if !isChiplet x.toNat then sysTrap 7 0 x.toNat
    else .next (raise s (.x d) false (.bust x.toNat) (.value 0))) s

/-- KIND of a chiplet (R332). -/
def chipKind (cn : Nat) : Nat :=
  if cn < 169 then (if isCluster cn then 0 else 1)
  else if cn < 0x110 then 2 else if cn < 0x120 then 3 else 4

/-- The BUST value that `bust.rd` returns: a DARK chiplet's neighbour answers with zeros. -/
def bustValue (s : State) (cn : Nat) : Word :=
  if bustState s cn = 0 then 0 else (s.getChiplet cn).bust ||| BitVec.ofNat 64 (chipKind cn * 256)

/-- The BUST value that a core reads: a chiplet that its basecamp has lost reads FENCED (R384, R386). -/
def bustSeen (s : State) (c : CoreId) (cn : Nat) : Word :=
  if isLost s cn && !isLost s (chipOf c) then (bustValue s cn &&& ~~~7) ||| 6 else bustValue s cn

/-- The operand checks of `rtab.rd` and `rtab.wr`. -/
def withRouter (x : Word) (fn : Nat) (entryOk : Bool) (f : Nat → Nat → Nat → Act) : Act :=
  if fld x 63 34 ≠ 0 || 2 ≤ fld x 33 32 || 2737 < fld x 31 16 || !entryOk then sysTrap 1 0 fn
  else if 51 < fld x 15 8 || 51 < fld x 7 0 then sysTrap 7 0 (52 * fld x 15 8 + fld x 7 0)
  else f (fld x 33 32) (fld x 31 16) (52 * fld x 15 8 + fld x 7 0)

/-- `rtab.rd` (R333). -/
def execRtabRd (c : Ctl) (d a : BitVec 5) (s : State) : Result :=
  issueS (wordX c 0x3B d a 1) c { rx := [a], wx := [d] } (fun s =>
    withRouter (s.thisSeat.getX a) 1 true fun table index router =>
      .next (raise s (.x d) false (.rtab table index router none) (.value 0))) s

/-- An entry that a table may hold: SEL, or a PORT that is not reserved and DOWN (DEDUCED, log 50). -/
def tableEntryOk (table : Nat) (e : Word) : Bool :=
  if table = 0 then decide (e.toNat < 4) else decide (e.toNat < 16) && decide (fld e 2 0 < 6)

/-- `rtab.wr` (R333). -/
def execRtabWr (c : Ctl) (d a : BitVec 5) (s : State) : Result :=
  issueS (wordX c 0x3B d a 2) c { rx := [a, d] } (fun s =>
    let x := s.thisSeat.getX a
    let e := s.thisSeat.getX d
    withRouter x 2 (tableEntryOk (fld x 33 32) e) fun table index router =>
      .next (raise s .none false (.rtab table index router (some e)) (.value 0))) s

end Sys2Proof.Machine
end

