-- ==== Sys2Proof/Machine/Scheduling.lean ====
section
/-! DEFINITION. Binding of patterns, spawns, trap and event firings and resume entries, pre-emption with its context records,
count reports and completion counts (R107, R110 to R112, R118, R120, R190, R207, R208, R235, R238, R239, R245 to R248,
R405). A step that is not due leaves the state as it is. -/

namespace Sys2Proof.Machine

/-! ### Starting a firing (R111) -/

/-- The class of a seat (R110). -/
def seatClassOf (k : Core) (n : Nat) : Nat := if n = 7 then 7 else fld k.seatMap (2 * n + 1) (2 * n)

/-- The launch of a core. -/
def findLaunch (s : State) (id : Nat) : Option Launch := s.launches.find? (·.id = id)

/-- The rank of a basecamp. -/
def bcRank (b : Nat) : BitVec 16 := if b = 0 then 0xFFFE else 0xFFFF

/-- The completion port of a core's launch as `x4` shows it (R111). -/
def portWord (s : State) (c : CoreId) : Word :=
  match (s.getCore c).launch.bind (findLaunch s) with
  | some l => BitVec.ofNat 64 ((bcRank l.basecamp).toNat * 2 ^ 48 + l.cport * 2 ^ 42)
  | none => 0

/-- The registers of an entry: x1 to x4, then x16 on. -/
def entryRegs (head args : List Word) : Vector Word 32 :=
  Vector.ofFn fun i =>
    if 1 ≤ i.val ∧ i.val ≤ 4 then head.getD (i.val - 1) 0
    else if 16 ≤ i.val ∧ i.val ≤ 23 then args.getD (i.val - 16) 0 else 0

/-- A firing starts in a seat; its PC is checked against the start map, and a class without a handler (`entry` none)
traps before anything issues (R15, R112). -/
def startFiring (s : State) (c : CoreId) (n : Nat) (f : Firing) (entry : Option Parcel) (head args : List Word) : State :=
  let k := s.getCore c
  let pc : Parcel := entry.getD 0xFFFF
  let s := s.updSeatAt c n fun t =>
    { t with status := .running, x := entryRegs head args, p := 0, pc := pc, rpt := 0, outs := [], firing := some { f with id := s.fresh },
             preempt := false, slice := k.sliceLen, q0 := [], q2 := [], q4 := [], q6 := [], payWords := 0, items := 0,
             q5read := 0 }
  let s := s.bump
  match entry with
  | none => trapSeat s c n 0x01 (BitVec.ofNat 64 (0x10000 + f.cls.toNat)) pc pc
  | some e => if k.starts e.toNat then s else trapSeat s c n 0x01 (e.setWidth 64) pc pc

/-- The entry of a handler class (R112). -/
def handlerOf (k : Core) (cls : BitVec 8) : Option Parcel :=
  let e := tget 0 k.handlers cls.toNat
  if e.getLsbD 31 then some (e.setWidth 16) else none

/-- A supervisor firing of a trap or an event starts in seat 7 (R120). -/
def startSupervisor (s : State) (c : CoreId) (q : Queued) : State :=
  startFiring s c 7 ⟨0, q.cls, 7, 7, none⟩ (handlerOf (s.getCore c) q.cls) [q.cls.setWidth 64, 0, 0, 0] q.regs

/-- Seat 7 can bind. -/
def seat7Free (s : State) (c : CoreId) : Bool := (s.seatAt c 7).status = .free && !(s.seatAt c 7).fenced && !idle s c

/-- The trapped seat that a queued trap firing speaks of: its own core's, or one of a forwarding core (R380). -/
def trappedSeat (s : State) (c : CoreId) (q : Queued) : Seat :=
  match q.seat with
  | some n => s.seatAt c n
  | none =>
    let x := q.regs.getD 0 0
    s.seatAt (coreAt (clusterOf c) (fld x 15 8)) (fld x 7 0)

/-- TRAP_FIRING_BINDING: the oldest trap firing binds seat 7 once its seat's results have returned (R118). -/
def execTrapFiringBinding (core : Nat) (s : State) : Result :=
  .next <|
    let k := s.getCore core
    match k.traps with
    | [] => s
    | q :: t =>
      let v := trappedSeat s core q
      if !seat7Free s core || !v.outs.isEmpty then s
      else
        let q := if v.status = .trapped then { q with regs := q.regs.set 2 (v.trapCause.setWidth 64) } else q
        startSupervisor (s.setCore core { k with traps := t }) core q

/-- EVENT_FIRING_BINDING: the oldest event firing binds seat 7 after the trap firings; a port overflow finds TAIL in
x19 (R235, R377). -/
def execEventFiringBinding (core : Nat) (s : State) : Result :=
  .next <|
    let k := s.getCore core
    match k.events with
    | [] => s
    | q :: _ =>
      if !seat7Free s core || !k.traps.isEmpty then s
      else
        let from' : Core := if fld (q.regs.getD 0 0) 7 0 = 0xFF && fld (q.regs.getD 0 0) 15 8 ≠ 0 then
          s.getCore (coreAt (clusterOf core) (fld (q.regs.getD 0 0) 15 8)) else k
        let q := if q.code = 0x30 then { q with regs := q.regs.take 3 ++ [from'.ovfTail.setWidth 64] } else q
        startSupervisor (s.setCore core k.dropEvent) core q

/-! ### Patterns (R238, R239, R245) -/

/-- Fields of a pattern entry (R212). -/
def patClass (d0 : Word) : BitVec 8 := d0.extractLsb' 48 8
def patPrio (d0 : Word) : Nat := fld d0 47 45
def patSeatClass (d0 : Word) : Nat := fld d0 44 42

/-- Every used slot names an enabled port that holds its count. -/
def patReady (k : Core) (d0 d1 : Word) : Bool :=
  d0.getLsbD 63 && (patUses d1).all fun u =>
    let p := k.port u.1
    pEn p.entry && (if pKind p.entry = 1 then decide (u.2 ≤ p.tokens.length) else pKind p.entry != 2 && decide (u.2 ≤ p.held.length))

/-- The oldest resume entry that competes for a seat. -/
def waitingResume (k : Core) (n : Nat) : Option Resume := k.resumes.find? fun r => r.seat = n && !r.fresh

/-- A spawn has reserved a seat. -/
def reserved (k : Core) (n : Nat) : Bool := k.spawns.any (·.seat = n)

/-- A seat that a pattern of a class and priority may bind. -/
def seatOpen (k : Core) (cls prio n : Nat) : Bool :=
  let t := k.getSeat n
  t.status = .free && !t.fenced && seatClassOf k n == cls && !reserved k n &&
    (waitingResume k n).all (fun r => decide (r.firing.prio < prio)) && (n != 7 || (k.traps.isEmpty && k.events.isEmpty))

/-- The lowest-numbered seat for a pattern, first of those that no resume entry awaits (DEDUCED, log 67). -/
def seatFor (k : Core) (d0 : Word) : Option Nat :=
  let free := (List.range 8).filter (seatOpen k (patSeatClass d0) (patPrio d0))
  (free.find? fun n => (waitingResume k n).isNone).or free.head?

/-- A pattern can bind now. -/
def satisfiable (k : Core) (n : Nat) : Bool :=
  match tget? k.patterns n with
  | some (d0, d1) => patReady k d0 d1 && (seatFor k d0).isSome
  | none => false

/-- The pattern that binds: highest PRIO, then the first after RP. -/
def choosePattern (k : Core) : Option Nat :=
  let all := (List.range 32).filter (satisfiable k)
  let prio (n : Nat) : Nat := patPrio (tget (0, 0) k.patterns n).1
  let top := all.foldl (fun m n => max m (prio n)) 0
  let rp := k.rp.getD top 31
  let order := ((List.range 32).map fun i => (rp + 1 + i) % 32)
  order.find? fun n => all.contains n && prio n == top

/-- What a binding takes from one slot: header and payload of each item, and whether any carried release-before. -/
def takeItems (s : State) (c : CoreId) (cls : BitVec 8) (port count : Nat) : Core × List (Word × List Word) × Bool :=
  let k := s.getCore c
  let p := k.port port
  if pKind p.entry = 1 then
    let r := rankOf s c
    (k.setPort port { p with tokens := p.tokens.drop count },
      (List.range count).map fun _ => (mkHeader r port cls 1 false r, []), (p.tokens.take count).any id)
  else
    let taken := p.held.take count
    let words := taken.map fun m => heldWords k p.entry m
    (k.setPort port { p with held := p.held.drop count }, words.map fun w => (w.getD 0 0, w.drop 1), taken.any (·.rb))

/-- The items of all used slots in slot order. -/
def takeAll (c : CoreId) (cls : BitVec 8) : List (Nat × Nat) → State → State × List (Word × List Word) × Bool
  | [], s => (s, [], false)
  | (port, n) :: t, s =>
    let (k, items, rb) := takeItems s c cls port n
    let (s, more, rb') := takeAll c cls t (s.setCore c k)
    (s, items ++ more, rb || rb')

/-- Engine writes of doubles in a core's scratchpad. -/
def engineDoubles (s : State) (c : CoreId) (off : Nat) (ws : List Word) : State :=
  (engineWrite s c off (wordsBytes ws)).getD s

/-- A pattern binds its seat: items are taken, the payload area written, the event bit cleared, and the firing starts (R111, R239,
R328) (DEDUCED, log 55). -/
def bindPattern (s : State) (c : CoreId) (n : Nat) : State :=
  let k := s.getCore c
  let (d0, d1) := tget (0, 0) k.patterns n
  match seatFor k d0 with
  | none => s
  | some seat =>
    let cls := patClass d0
    let (s, items, rb) := takeAll c cls (patUses d1) s
    let words := items.flatMap (·.2)
    let area := payArea k seat
    let s := engineDoubles (engineDoubles s c area (items.map (·.1))) c (area + 512) words
    let s := if rb then acquireInv s c else s
    let s := s.updCore c fun k => { k with rp := k.rp.setIfInBounds (patPrio d0) n }
    let f : Firing := ⟨0, cls, patPrio d0, patSeatClass d0, if seat = 7 then none else k.launch⟩
    let x3 : Word := BitVec.ofNat 64 (2 ^ 56 + area + 512)
    let s := startFiring s c seat f (handlerOf k cls) [cls.setWidth 64, (items.head?.map (·.1)).getD 0, x3, portWord s c] (words.take 8)
    s.updSeatAt c seat fun t => { t with payWords := words.length, items := items.length, event := false }

/-- PATTERN_BINDING: at most one pattern binds; new resume entries compete from the next time on. -/
def execPatternBinding (core : Nat) (s : State) : Result :=
  .next <|
    let k := s.getCore core
    if idle s core || k.stopped || !isCore core then s
    else
      let s := match choosePattern k with
        | some n => bindPattern s core n
        | none => s
      s.updCore core fun k => { k with resumes := k.resumes.map fun r => { r with fresh := false } }

/-! ### Spawns (R207, R208) -/

/-- A free seat of a class that nothing has reserved: first one that no resume entry awaits (DEDUCED, log 43). -/
def spawnSeat (k : Core) (cls : Nat) : Option Nat :=
  let free := (List.range 8).filter fun n =>
    (k.getSeat n).status = .free && !(k.getSeat n).fenced && seatClassOf k n == cls && !reserved k n
  (free.find? fun n => !k.resumes.any (·.seat = n)).or free.head?

/-- SPAWN_REQUEST_ARRIVAL: the target's interface accepts, reserving a seat and sending the count, or refuses (DEDUCED, log 52). -/
def execSpawnRequestArrival (pkt : Nat) (s : State) : Result :=
  .next <| onArrival s (duePacket s pkt) fun p => match p.body with
      | .spawnReq seat op operand args =>
        let k := s.getCore p.dst
        let cls := fld operand 18 16
        if !isGridCore p.dst then s
        else match (if k.fenced || 4 ≤ k.spawns.length then none else spawnSeat k cls) with
          | none => takePacket s p (.spawnAns seat op false)
          | some n =>
            let bc := (k.launch.bind (findLaunch s)).map fun l => (l.basecamp, l.cport)
            let caller := rankOf s p.src
            let counted := cls ≠ 7 && bc.isSome
            let e : SpawnEntry := ⟨n, cls, operand.setWidth 16, caller, args, if counted then some s.fresh else none⟩
            let s := s.setCore p.dst { k with spawns := k.spawns ++ [e] }
            let s := match counted, bc with
              | true, some (b, port) =>
                newPacket s p.dst (4096 + 2 * b) (bcRank b) 0 (.count (mkHeader (bcRank b) port 0 1 false (rankOf s p.dst)) 1) none
              | _, _ => s
            takePacket s p (.spawnAns seat op true)
      | _ => s

/-- SPAWN_ANSWER: pd is written and `OUT` falls. -/
def execSpawnAnswer (pkt : Nat) (s : State) : Result :=
  .next <| onArrival s (dueAnswer s pkt) fun p => match p.body with
      | .spawnAns seat op ok =>
        let s := dropSent (dropPacket s pkt) p.orig
        match (s.seatAt p.dst seat).outs.find? (·.id = op) with
        | none => s
        | some o => match o.target with
          | .pred d => lower (s.updSeatAt p.dst seat fun t => t.setP d ok) p.dst seat op
          | _ => s
      | _ => s

/-- SPAWN_BINDING: the reserved seat binds once its count has been applied; in seat 7 after queued trap and port-overflow firings
(R118, R238). -/
def execSpawnBinding (core seat : Nat) (s : State) : Result :=
  .next <|
    let k := s.getCore core
    match k.spawns.find? (·.seat = seat) with
    | none => s
    | some e =>
      if (k.getSeat seat).status ≠ .free || (k.getSeat seat).fenced || e.count.isSome || idle s core ||
          (seat = 7 && (!k.traps.isEmpty || k.events.any (·.code = 0x30))) then s
      else
        let s := acquireInv (s.setCore core { k with spawns := k.spawns.erase e }) core
        let f : Firing := ⟨0, 0, 7, e.seatCls, if seat = 7 then none else k.launch⟩
        let x2 : Word := rankOf s core ++ 0#32 ++ e.caller
        startFiring s core seat f (some e.entry) [BitVec.ofNat 64 (0x10000 + e.entry.toNat), x2, 0, portWord s core] e.args

/-! ### Context records (R248) -/

/-- The doubles of a bit vector, the first lowest. -/
def bitWords {w : Nat} (n : Nat) (v : BitVec w) : List Word := (List.range n).map fun i => v.extractLsb' (64 * i) 64

/-- A context record by offset; `area` is the seat's payload area. -/
def ctxRecord (t : Seat) (f : Firing) (n : Nat) (area : List Word) : List (Nat × List Word) :=
  let p := t.p ||| 0x80
  let state := BitVec.ofNat 64 (n * 2 ^ 61 + f.seatClass * 2 ^ 57 + 2 ^ 56 + f.cls.toNat * 2 ^ 48 + p.toNat * 2 ^ 40 +
    t.rpt.toNat * 2 ^ 16 + t.pc.toNat)
  let tags := BitVec.ofNat 64 (pack 4 (t.v.toList.map (·.tag.toNat)))
  let q5 := BitVec.ofNat 64 (t.q5read % 2 ^ 16 + t.payWords % 2 ^ 16 * 2 ^ 16 + t.items % 256 * 2 ^ 32)
  [(0, [state, tags, q5, BitVec.ofNat 64 t.q2.length]), (0x20, (List.range 8).map fun i => t.q2.getD i 0),
   (0x60, List.replicate 4 0), (0x80, (List.range 32).map fun i => t.getX (BitVec.ofNat 5 i)),
   (0x180, [1, 2, 3].flatMap fun i => bitWords 16 (t.getK (BitVec.ofNat 2 i))),
   (0x300, t.v.toList.flatMap fun v => bitWords 4 v.sc), (0x500, t.v.toList.flatMap fun v => bitWords 64 v.data),
   (0x2500, area), (0x4500, List.replicate 1888 0)]

/-- Doubles written to physical memory that no translation maps. -/
def rawDoubles (s : State) (pa : Nat) (ws : List Word) : State := hbmPut s pa (wordsBytes ws)

/-- `n` doubles of a memory from an address. -/
def readDoubles (m : Memory) (a n : Nat) : List Word := (List.range n).map fun i => getDouble m (a + 8 * i)

/-- A bit vector from doubles. -/
def wordsBits (w : Nat) (ws : List Word) : BitVec w := BitVec.ofNat w (pack 64 (ws.map (·.toNat)))

/-- The address of a context slot of a core. -/
def ctxSlot (k : Core) (slot : Nat) : Nat := k.ctxBase.toNat + 32768 * slot

/-- Where the switch area of a core begins (R244), and the address of a record in it. -/
def switchArea (s : State) (c : CoreId) : Nat := fld s.switchBase 39 21 * 2 ^ 21 + 2 ^ 21 * c
def areaSlot (s : State) (c : CoreId) (slot : Nat) : Nat := switchArea s c + 0x130000 + 32768 * slot

/-- Where the record of a resume entry stands. -/
def recordAt (s : State) (c : CoreId) (area : Bool) (slot : Nat) : Nat :=
  if area then areaSlot s c slot else ctxSlot (s.getCore c) slot

/-- A record written at an address. -/
def putRecord (s : State) (pa : Nat) (l : List (Nat × List Word)) : State := l.foldl (fun s r => rawDoubles s (pa + r.1) r.2) s

/-- A seat's registers as a record holds them. -/
def ctxSeat (m : Memory) (pa : Nat) (t : Seat) : Seat :=
  let state := getDouble m pa
  let tags := getDouble m (pa + 8)
  let q5 := getDouble m (pa + 16)
  let vreg (i : Nat) : VReg :=
    ⟨wordsBits 4096 (readDoubles m (pa + 0x500 + 512 * i) 64), BitVec.ofNat 4 (tags.toNat / 2 ^ (4 * i)),
      wordsBits 256 (readDoubles m (pa + 0x300 + 32 * i) 4)⟩
  { t with
    x := Vector.ofFn fun i => getDouble m (pa + 0x80 + 8 * i.val)
    p := state.extractLsb' 40 8 &&& 0x7F
    v := Vector.ofFn fun i => vreg i.val
    k := Vector.ofFn fun i => if i.val = 0 then 0 else wordsBits 1024 (readDoubles m (pa + 0x180 + 128 * (i.val - 1)) 16)
    pc := state.setWidth 16
    rpt := state.extractLsb' 16 11
    q2 := readDoubles m (pa + 0x20) (fld (getDouble m (pa + 24)) 3 0)
    q5read := fld q5 15 0
    payWords := fld q5 31 16
    items := fld q5 39 32 }

/-- A context slot of a core that no resume entry holds. -/
def freeSlotOf (k : Core) : Option Nat := (List.range 16).find? fun n => !k.resumes.any (·.slot = n)

/-! ### Pre-emption (R246, R247) -/

/-- No assembly queue that a pre-emption waits for holds a part of a command, message or contribution. -/
def noPartial (t : Seat) : Bool := t.q0.isEmpty && t.q4.isEmpty && t.q6.isEmpty

/-- A seat that has stopped for a pre-emption and issues nothing. -/
def stopsIssue (t : Seat) : Bool := t.preempt && noPartial t

/-- The status of a firing that can be pre-empted. -/
def preemptible (t : Seat) : Bool := t.status = .running || t.status = .parked || t.status = .blocked

/-- A pattern of a class lacks only a seat. -/
def lacksSeat (k : Core) (cls : Nat) : Bool :=
  k.patterns.any fun (_, d0, d1) => patSeatClass d0 == cls && patReady k d0 d1 && (seatFor k d0).isNone

/-- SLICE_EXPIRY: the slice counter of a seat reaches zero; a core that is being switched out is `stopped` (DEDUCED, log 13). -/
def execSliceExpiry (core seat : Nat) (s : State) : Result :=
  .next <|
    let k := s.getCore core
    let t := k.getSeat seat
    if 7 ≤ seat || idle s core || k.sliceLen = 0 || t.status = .free || t.status = .trapped then s
    else if (lacksSeat k (seatClassOf k seat) || k.stopped) && (freeSlotOf k).isSome && preemptible t then
      s.updSeatAt core seat fun t => { t with preempt := true, slice := 0 }
    else s.updSeatAt core seat fun t => { t with slice := k.sliceLen }

/-- The firing of a seat is set aside in a context slot (R247), or, while its core is being switched out, in a slot of the switch
area (R244). -/
def saveFiring (s : State) (c : CoreId) (n slot : Nat) (f : Firing) : State :=
  let k := s.getCore c
  let t := k.getSeat n
  let s := putRecord (s.forget (.seat c n)) (recordAt s c k.stopped slot) (ctxRecord t f n (readDoubles k.sp (payArea k n) 1024))
  s.updCore c fun k =>
    let k := k.setSeat n { t with status := .free, firing := none, preempt := false, q2 := [] }
    { k with resumes := k.resumes ++ [⟨n, slot, f, true, k.stopped⟩],
             seatCtl := if fld k.seatCtl 2 0 = n then k.seatCtl &&& 7 else k.seatCtl }

/-- PREEMPTION: a pending request stops its seat once a context slot is free, and a stopped seat whose results have
returned is set aside (DEDUCED, log 13). -/
def execPreemption (core seat : Nat) (s : State) : Result :=
  .next <|
    let k := s.getCore core
    let t := k.getSeat seat
    let asked := k.seatCtl.getLsbD 8 && fld k.seatCtl 2 0 = seat
    let free := t.status = .free || t.status = .trapped
    match t.firing, freeSlotOf k with
    | some f, some slot =>
      if idle s core then s
      else if free then (if asked then s.setCore core { k with seatCtl := k.seatCtl &&& 7 } else s)
      else if !t.preempt then (if asked then s.updSeatAt core seat fun t => { t with preempt := true } else s)
      else if stopsIssue t && t.outs.isEmpty && preemptible t then saveFiring s core seat slot f
      else s
    | _, _ => if asked && free then s.setCore core { k with seatCtl := k.seatCtl &&& 7 } else s

/-- A satisfiable pattern of a seat's class with a PRIO above a resume entry's (DEDUCED, log 67). -/
def outranked (k : Core) (n prio : Nat) : Bool :=
  k.patterns.any fun (_, d0, d1) => decide (prio < patPrio d0) && patSeatClass d0 == seatClassOf k n && patReady k d0 d1

/-- The granules of `n` bytes of HBM at an address that read poison, as offsets. -/
def badGranules (s : State) (a n : Nat) : List Nat :=
  if !rangePoisoned s a n then [] else ((List.range (n / 32)).map (32 * ·)).filter fun o => readsPoison s (a + o)

/-- RESUME_ENTRY_BINDING: the oldest entry of a seat binds it again from its record (R247). The manual gives a poisoned record no
outcome: poison of the payload area goes on to the scratchpad, and a firing whose registers read poison takes the memory-error trap
before it issues, with the record's address as TRAP_VAL (R378) (DESIGN CHOICE, log 85). -/
def execResumeEntryBinding (core seat : Nat) (s : State) : Result :=
  .next <|
    let k := s.getCore core
    let t := k.getSeat seat
    match waitingResume k seat with
    | none => s
    | some r =>
      if t.status ≠ .free || t.fenced || idle s core || k.stopped || reserved k seat || outranked k seat r.firing.prio then s
      else
        let pa := recordAt s core r.area r.slot
        let area := readDoubles s.hbm (pa + 0x2500) 1024
        let state := getDouble s.hbm pa
        let bad := badGranules s pa 0x4500
        let t := ctxSeat s.hbm pa { t with status := .running, firing := some r.firing, outs := [], preempt := false, slice := k.sliceLen }
        let k := spPlain { k with resumes := k.resumes.erase r } (payArea k seat) area
        let k := { k with spPoison := ((bad.filter (0x2500 ≤ ·)).flatMap fun o =>
          (List.range 8).map ((payArea k seat + (o - 0x2500)) / 4 + ·)).foldl sins k.spPoison }
        let s := rawDoubles (s.setCore core ((k.setSeat seat t).news)) pa [state &&& ~~~(1#64 <<< 56)]
        if bad.any (· < 0x2500) then trapSeat s core seat 0x60 (BitVec.ofNat 64 pa) t.pc t.pc else s

/-! ### Counts (R107, R405) -/

/-- A launch whose ended firings a core is to report: they are 64 or more, or it holds no live firing of the launch (R107). -/
def dueReport (s : State) (k : Core) : Option (Launch × Nat) :=
  k.ended.findSome? fun e =>
    if decide (64 ≤ e.2) || k.noLive e.1 then (findLaunch s e.1).map fun l => (l, e.2) else none

/-- COUNT_REPORT: a core reports the ended firings of a launch to the completion port that the launch was given, whoever holds it
now (R405). The report is a count message of the number taken negative (DEDUCED, log 52). -/
def execCountReport (core : Nat) (s : State) : Result :=
  .next <|
    let k := s.getCore core
    match dueReport s k with
    | none => s
    | some (l, n) =>
      if k.fenced then s
      else
        let r := bcRank l.basecamp
        let h := mkHeader r l.cport 0 1 false (rankOf s core)
        newPacket (s.setCore core { k with ended := tdel k.ended l.id }) core (4096 + 2 * l.basecamp) r 0
          (.count h (BitVec.ofInt 32 (-(n : Int)))) none

/-- The basecamp that takes records: the west one, or the east one when the west one is fenced (DEDUCED, log 62). -/
def takingBasecamp (s : State) : Nat := if bustState s 0x120 = 6 then 1 else 0

/-- STATUS of a launch record (R102), with release effect. -/
def putStatus (s : State) (pa : Nat) (v : Word) : State := firmwareBytes s (takingBasecamp s) (pa + 0xF8) (wordsBytes [v])

/-- A launch changed. -/
def updLaunch (s : State) (id : Nat) (f : Launch → Launch) : State :=
  { s with launches := s.launches.map fun l => if l.id = id then f l else l }

/-- STATUS with a STATE and the old OVERRUN. -/
def statusWord (state reason : Nat) (l : Launch) : Word :=
  BitVec.ofNat 64 (state * 2 ^ 56 + reason * 2 ^ 48) ||| (l.status &&& 1)

/-- A launch ends in STATE 3 or 5: its completion port is the last to be given again. -/
def endLaunch (s : State) (l : Launch) (st : LaunchState) (state : Nat) : State :=
  let v := statusWord state 0 l
  let s := putStatus (updLaunch s l.id fun l => { l with state := st, status := v }) l.pa v
  { s with portEnds := s.portEnds.filter (· != (l.basecamp, l.cport)) ++ [(l.basecamp, l.cport)] }

/-- A count acts on the launch that holds a completion port, or sets OVERRUN after its end. -/
def applyCount (s : State) (l : Launch) (n : BitVec 32) : State :=
  match l.state with
  | .complete | .aborted =>
    let v := l.status ||| 1
    putStatus (updLaunch s l.id fun l => { l with status := v }) l.pa v
  | _ =>
    let c := l.counter + n.toInt
    let s := updLaunch s l.id fun l => { l with counter := c }
    if c ≤ 0 then endLaunch s { l with counter := c } .complete 3 else s

/-- The launch that holds a completion port of a basecamp: the last that was given it (R405). -/
def portHolder (s : State) (basecamp port : Nat) : Option Launch :=
  (s.launches.filter fun l => l.basecamp = basecamp && l.cport = port && l.state != .taken).foldl (fun b l => match b with
    | some o => if o.given < l.given then some l else b
    | none => some l) none

/-- COMPLETION_COUNT_ARRIVAL: a count reaches a basecamp; a spawn that waited for it may bind. -/
def execCompletionCountArrival (pkt : Nat) (s : State) : Result :=
  .next <| match duePacket s pkt with
    | none => s
    | some p => match p.body with
      | .count h n =>
        if !isBc p.dst || (s.getCore p.dst).fenced then s
        else
          let s := takePacket s p
          let s := s.updCore p.src fun k =>
            { k with spawns := k.spawns.map fun e => if e.count = some p.orig then { e with count := none } else e }
          match portHolder s ((p.dst - 4096) / 2) (hPort h) with
          | some l => applyCount s l n
          | none => s
      | _ => s

end Sys2Proof.Machine
end

