-- ==== Sys2Proof/Machine/Results.lean ====
section
/-! DEFINITION. The return of outstanding results: loads, vectors and atomics, table changes and other completions, returned
and deferred errors, and reply timeouts (R93, R114, R138, R149, R152, R172, R210, R221, R222, R259, R260, R267 to R269, R322,
R323, R330 to R333, R363, R365, R374, R377). A step that is not due leaves the state as it is. -/

namespace Sys2Proof.Machine

/-! ### Results of requests -/

/-- The value of a scalar result. -/
def scalarResult (op : ReqOp) (p : Piece) : Word :=
  match op with
  | .load size signed => if signed then BitVec.ofInt 64 (sxt (8 * size) p.data.toNat) else BitVec.ofNat 64 (low p.data (8 * size))
  | .amo _ size _ _ => if size = 4 then sext 32 p.data else p.data
  | _ => sext 32 p.data

/-- The bits of a destination of `n` bits that a piece covers, and their values; only bits that the access reads count. -/
def pieceBits (n : Nat) (p : Piece) : Nat × Nat :=
  (sliceAt p.mask.toNat (-p.bit) n, sliceAt (p.data &&& p.mask).toNat (-p.bit) n)

/-- A destination of `n` bits after the pieces, taken in order, within a window of bits. -/
def mergePieces (n : Nat) (window old : Nat) (ps : List Piece) : Nat :=
  ps.foldl (fun v p =>
    let (m, d) := pieceBits n p
    let m := m &&& window
    v - (v &&& m) + (d &&& m)) old

/-- Part `q` of a vector or sidecar destination: a quarter of it (R138). -/
def window (n q : Nat) : Nat := (2 ^ (n / 4) - 1) * 2 ^ (n / 4 * q)

/-- The destination of an operation after part `q` of its request has been written. -/
def writePart (t : Seat) (target : Target) (r : Req) (q : Nat) : Seat :=
  match target with
  | .x d => t.setX d (match r.pieces with
    | p :: _ => scalarResult r.op p
    | [] => 0)
  | .v d =>
    let v := t.getV d
    t.setV d { v with data := BitVec.ofNat 4096 (mergePieces 4096 (window 4096 q) v.data.toNat r.pieces) }
  | .sidecar d =>
    let v := t.getV d
    t.setV d { v with sc := BitVec.ofNat 256 (mergePieces 256 (window 256 q) v.sc.toNat r.pieces) }
  | _ => t

/-- The doubles that a request's pieces have read. -/
def readWords (r : Req) (n : Nat) : List Word := natWords n (mergePieces (64 * n) (2 ^ (64 * n) - 1) 0 r.pieces)

/-- The last part of a request has come back: `OUT` falls, an acquire invalidates, and what was read goes where it is
wanted. -/
def finishReq (s : State) (c : CoreId) (n : Nat) (o : Out) (r : Req) : State :=
  let keep := match r.op with
    | .amo .. => awaitsRevs s r.id
    | _ => false
  let s := if keep then s else dropReq s r.id
  let s := if o.acq then acquireInv s c else s
  match o.what with
  | .send => lower (fillUnread s o.id (some (readWords r (r.pieces.length / 2)))) c n o.id
  | .rcmd _ =>
    let ws := readWords r 4
    let fill (b : Body) : Body := match b with
      | .rcmd seat op _ => if op = o.id then .rcmd seat op ws else b
      | _ => b
    { s with net := s.net.map fun p => { p with body := fill p.body },
             sent := s.sent.map fun e => { e with pkt := { e.pkt with body := fill e.pkt.body } },
             waiting := s.waiting.map fun p => { p with body := fill p.body } }
  | _ => lower s c n o.id

/-- Part `q` of a request's result returns. -/
def returnPart (s : State) (c : CoreId) (n q : Nat) (o : Out) (r : Req) : State :=
  if r.op = .store || !settled r || (reqError r).isSome || !o.left.contains q then s
  else
    let s := s.updSeatAt c n fun t => writePart t o.target r q
    if o.left = [q] then finishReq s c n o r else updOut s c n o.id fun o => { o with left := o.left.erase q }

/-! ### Completions without a request -/

/-- A message, count, spawn or remote command. -/
def forRank (b : Body) : Bool := b matches .msg .. | .unread .. | .count .. | .spawnReq .. | .rcmd ..

/-- A message, count, spawn or remote command that left for a rank and has not been dealt with at its end (R221). -/
def underWay (s : State) (r : Nat) : Bool :=
  s.sent.any fun e => e.pkt.rank.toNat = r && e.reply.isNone && forRank e.pkt.body

/-- A piece lies on one of some pages. -/
def Piece.within (p : Piece) (pages : List (Nat × Nat)) : Bool :=
  match p.dst with
  | .hbm pa _ => pages.any fun g => decide (g.1 ≤ pa) && decide (pa < g.1 + g.2)
  | _ => false

/-- A byte of a command's destination lies on one of some pages. -/
def Cmd.within (s : State) (c : CoreId) (d : Cmd) (pages : List (Nat × Nat)) : Bool :=
  (byteAddrs (d.word 1) (tileBytes (cFmt (d.word 0)))).any fun a => tagOf a == 0 &&
    (presentLeaf s (.op c d.id) (fld a 47 0)).any fun e =>
      pages.any fun g => decide (g.1 ≤ e.phys (fld a 47 0)) && decide (e.phys (fld a 47 0) < g.1 + g.2)

/-- An accepted drain that has not finished writes to some pages (R152). -/
def drainsOpen (s : State) (pages : List (Nat × Nat)) : Bool :=
  s.cores.any fun (c, k) => k.shell.cmds.any fun d => cOp (d.word 0) == 1 && d.word 1 != 0 && d.within s c pages

/-- A store or atomic of any unit to some pages is not registered yet (R152). -/
def writesOpen (s : State) (pages : List (Nat × Nat)) : Bool :=
  drainsOpen s pages ||
    s.reqs.any fun r => isWriteOp r.op && (!settled r || awaitsRevs s r.id) && r.pieces.any (·.within pages)

/-- An access to a partition's carve-out that has passed its check is not served yet, or its answer has not come back (R172). -/
def carveOpen (s : State) (part : Nat) : Bool :=
  s.reqs.any fun r => r.pieces.any fun p => (p.open || !p.back) && (match p.dst with
    | .co q _ => q = part
    | _ => false)

/-- A walk of a core's cluster that began before an operation has not delivered (R323). -/
def walkBefore (s : State) (c : CoreId) (id : Nat) : Bool :=
  s.reqs.any fun r => isWalk r.op && walkGroup r.core == walkGroup c && decide (r.id < id)

/-- The entries that `tc.inv` names leave the core's cache and its cluster's, and so do the answers of earlier walks that accesses of
the cluster have not used yet (R323). -/
def invTlb (s : State) (c : CoreId) (x : Word) : State :=
  let asid : BitVec 16 := x.setWidth 16
  let s := dropTlb s c fun e => e.asid == asid && (x.getLsbD 63 || e.covers asid (fld x 47 16 * 65536))
  dropAnswers s (walkGroup c) fun a => (a.ans matches .fault _) && rootAsid a.root == asid && (x.getLsbD 63 || a.page == fld x 47 16)

/-- A completion that is due: the state after its effect, or `none` while it waits (DEDUCED, log 29). -/
def complete (s : State) (c : CoreId) (n : Nat) (o : Out) : Option State :=
  match o.what with
  | .patWr i d0 d1 => some (s.updCore c fun k => { k with patterns := tset k.patterns i (d0, d1) })
  | .rankWr r e => some (finishRankWr s r e)
  | .rankHold r => if underWay s r then none else some s
  | .rankRel r e => some (releaseHeld (writeRank s r e) (BitVec.ofNat 16 r))
  | .tree g e => some (s.updCore c fun k => { k with trees := if e.getLsbD 63 then tset k.trees g e else tdel k.trees g })
  | .codec t => some { s with codec := t }
  | .l1Inv => some (s.updCore c fun k => { k with l1 := k.l1.map fun l => { l with words := l.words.filter (·.2.owned) } })
  | .l2Ways p w => if w < coWays s p && carveOpen s p then none else some (setWays s p w)
  | .tcInv x => if walkBefore s c o.id then none else some (invTlb s c x)
  | .bust cn => some (s.updSeatAt c n fun t => match o.target with
    | .x d => t.setX d (bustSeen s c cn)
    | _ => t)
  | .rtab table index router entry =>
    if routerDead s router || (isLost s (siteOf router) && !isLost s (chipOf c)) then
      some (answer s c n o.id (.error 0x42 (reasonVal 7 0 router)))
    else match entry with
      | none => some (s.updSeatAt c n fun t => match o.target with
        | .x d => t.setX d (if table = 0 then (netSelOf s router index).setWidth 64 else (escapeOf s router index).setWidth 64)
        | _ => t)
      | some e => some (if table = 0 then { s with netSel := pset s.netSel (router, index) (e.setWidth 2) }
          else { s with escape := pset s.escape (router, index) (e.setWidth 4) })
  | .seal on pages => if on && writesOpen s pages then none else some s
  | .shWait ids => if (s.getCore c).shell.cmds.any fun q => ids.contains q.id then none else some s
  | .bow .. => none
  | .haulWp cl ch => some (s.updSeatAt c n fun t => match o.target with
    | .x d => t.setX d (s.chan cl ch).wp
    | _ => t)
  | .rfence a => some (s.updCluster (clusterOf c) fun g => dropRecords g a)
  | _ => some s

/-- The sums of `sh.bow` and `sh.stroke` leave as engine writes, word by word; the operation completes when they are registered
(R188, R260). -/
def writeSums (s : State) (c : CoreId) (n id : Nat) (ws : List Word) (off : Nat) : State :=
  postShell (updOut s c n id fun o => { o with what := .plain, ans := .waiting }) c id .store
    (drainPieces s (.op c id) (BitVec.ofNat 64 (2 ^ 56 + off)) (wordsBytes ws))

/-- An operation whose answer is in completes: its effect, an acquire's invalidation, and `OUT` falls. -/
def completeOut (s : State) (c : CoreId) (n : Nat) (o : Out) : State :=
  match o.what with
  | .haulPost x ws st sub => postOn s c n o.id x ws st sub
  | .sums ws off => writeSums s c n o.id ws off
  | .portWr port e =>
    let (s', done) := applyPortWr s c port e
    if done then lower s' c n o.id else s'
  | _ => match complete s c n o with
    | none => s
    | some s' =>
      if ((s'.seatAt c n).outs.find? (·.id = o.id)).any (·.ans matches .error ..) then s'
      else lower (if o.acq then acquireInv s' c else s') c n o.id

/-- RESULT_RETURN: part `part` of operation `op` returns, or the operation completes (R114) (DEDUCED, log 9). -/
def execResultReturn (op part : Nat) (s : State) : Result :=
  .next <| match findOut s op with
    | none => s
    | some (c, n, o) => match findReq s op with
      | some r => returnPart s c n part o r
      | none => match o.ans with
        | .value _ => completeOut s c n o
        | .gone => lower s c n op
        | _ => s

/-! ### Errors (R374, R377) -/

/-- Remote commands of an operation whose read failed are not sent. -/
def dropRcmd (s : State) (op : Nat) : State :=
  let keep (b : Body) : Bool := match b with
    | .rcmd _ o _ => o != op
    | _ => true
  { s with net := s.net.filter fun p => keep p.body, sent := s.sent.filter fun e => keep e.pkt.body,
           waiting := s.waiting.filter fun p => keep p.body }

/-- An operation is outstanding no more and its seat takes the error: a trap, or MORE and a fallen `OUT` while TRAPPED. -/
def takeError (s : State) (c : CoreId) (n op firing : Nat) (pc : Parcel) (cause : BitVec 8) (val : Word) : State :=
  lateError (dropOut s c n op) c n firing pc cause val

/-- The seat takes an error precisely at the operation that met it: TRAP_PC and RPC are the instruction, with the repeat counter under
which it issued. -/
def preciseOut (s : State) (r : Req) (cause : BitVec 8) (val : Word) : State :=
  let rpt := (((s.seatAt r.core r.seat).outs.find? (·.id = r.id)).map (·.rpt)).getD 0
  let s := (dropOut s r.core r.seat r.id).updSeatAt r.core r.seat fun t => { t with rpt := rpt }
  trapSeat s r.core r.seat cause val r.pc r.pc

/-- The error of a request. The memory error of an atomic is precise (R151); no later instruction has issued before it is known
(DEDUCED, log 41). -/
def requestError (s : State) (r : Req) (cause : BitVec 8) (val : Word) : State :=
  if (r.op matches .amo ..) && cause = 0x60 then preciseOut s r cause val
  else takeError s r.core r.seat r.id r.firing r.pc cause val

/-- RETURNED_ERROR_ARRIVAL: an error of operation `op` is taken by its seat at an instruction boundary: of a request, of
an outstanding result, or a deferred one (R374, R377). -/
def execReturnedErrorArrival (core seat op : Nat) (s : State) : Result :=
  .next <| match findReq s op with
    | some r =>
      if r.agent = .seat && r.core = core && r.seat = seat && settled r then
        match reqError r with
        | some (cause, v) =>
          let live := (findOut s op).isSome
          let s := dropRcmd (fillUnread (dropReq s op) op none) op
          if live || r.op = .store then requestError s r cause v else s
        | none => s
      else s
    | none =>
      match (s.seatAt core seat).outs.find? (·.id = op) with
      | some o => match o.ans with
        | .error cause v => takeError s core seat op (s.seatAt core seat).firingId o.pc cause v
        | _ => s
      | none => match (s.getCore core).errs.find? fun e => e.id = op && e.seat = seat with
        | some e =>
          if setAside s core e.firing then s else
          let s := s.updCore core fun k => { k with errs := k.errs.filter (·.id != op) }
          lateError s core seat e.firing e.pc e.cause e.val
        | none => s

/-! ### Timeouts (R363, R365) -/

/-- RETRY of FAR_CFG. -/
def retries (s : State) : Nat := fld s.farCfg 17 16

/-- A copy of piece `i` of a request has not departed: its timer does not run (R363). -/
def undeparted (s : State) (r : Req) (i : Nat) : Bool :=
  s.net.any fun k => k.route.isNone && (match k.body with
    | .memReq q j _ _ => q = r.id && j = i
    | _ => false)

/-- A piece whose reply is missed: it has departed to a numbered home, or stands at an interface whose chiplet carries nothing, and no
answer has been taken, or it is under way to a peer (R363). -/
def canTimeOut (s : State) (r : Req) (i : Nat) (p : Piece) : Bool :=
  if p.dst.numbered then !p.back && (!undeparted s r i || chipSilent s (endChip r.core)) else p.st = .waiting && isPeer r p.dst

/-- Piece `i` of a request fails after its reissues; whether its home performed it before is open (R365) (DEDUCED, log 66). -/
def failPiece (s : State) (r : Req) (i : Nat) (p : Piece) : State :=
  let reached := atOrder s r i p && !refused s r p && Config.replyLost s.tick
  let s' := if !reached then s else match r.op with
    | .store => performStore (takeCopy (arrived s r p) r i p) r i p
    | .amo op size b d => performAmo (takeCopy (arrived s r p) r i p) r i p op size b d
    | _ => s
  updPiece s'.ticked r.id i fun p => { p with st := .failed, back := true }

/-- A piece without a reply is sent again with its number, or fails after the reissues of its number (R363, R365). -/
def timeoutReq (s : State) (r : Req) (i : Nat) (p : Piece) : State :=
  if !canTimeOut s r i p then s
  else if p.tries < retries s then sendPiece (updPiece s r.id i fun p => { p with tries := p.tries + 1 }) r i p
  else failPiece s r i p

/-- A channel whose request to another module has failed stops with FAULT 8 (R309, R365). -/
def failFar (s : State) (cl ch : Nat) (addr : Word) : State :=
  s.updChan cl ch fun c => { c with pkt := c.pkt.map fun p => { p with err := p.err.or (some (8, addr, p.mark 0)) } }

/-- A request between interfaces without a reply is sent again from its source, or fails: a message is lost with a notice,
delivered or not, and one for a fenced core with the dead-rank notice (R206, R363, R365) (DEDUCED, log 63). -/
def timeoutSent (s : State) (e : Sent) : State :=
  if !e.gone || s.net.any (fun k => k.route.isNone && k.orig = e.pkt.orig && k.src = e.pkt.src) then s
  else if e.tries < retries s then
    addPacket (updSent s e.pkt.orig fun e => { e with tries := e.tries + 1 }) { e.pkt with route := none }
  else
    let s := dropSent s e.pkt.orig
    match e.pkt.body with
    | .farMem cl ch addr _ _ => failFar s cl ch addr
    | b => undeliverable s (if (s.getCore e.pkt.dst).fenced then 0x33 else 0x34) e.pkt.src e.pkt.rank b

/-- REQUEST_TIMEOUT: the reply timer of a number expires: of a piece of a memory request, or of a request between
interfaces. -/
def execRequestTimeout (a : AwaitedReply) (s : State) : Result :=
  .next <| match findPiece s a.id a.piece with
    | some (r, p) => timeoutReq s r a.piece p
    | none => match findSent s a.id with
      | some e => timeoutSent s e
      | none => s

end Sys2Proof.Machine
end

