-- ==== Sys2Proof/Machine/Fence.lean ====
section
/-! DEFINITION. Fencing, its effects and notices, dead-rank notices and uncorrectable errors (R206, R339, R340, R353, R368,
R378, R383, R384). An event that is not due leaves the state as it is. -/

namespace Sys2Proof.Machine

/-- The links that cross one side of a site. -/
def siteLinks (cn side : Nat) : List Nat :=
  (List.range 4).map fun i =>
    let n := match side with
      | 0 => i
      | 1 => 4 * i + 3
      | 2 => 12 + i
      | _ => 4 * i
    4 * coreAt cn n + side

/-- The links of a chiplet's bonds: sixteen of a site, four of an edge chiplet. -/
def chipLinks (cn : Nat) : List Nat :=
  if cn < 169 then (List.range 4).flatMap (siteLinks cn) else (attachRouters cn).map fun r => 4 * r + (attachment cn).1

/-! ### Effects of R384 -/

/-- A unit of a basecamp notice: both basecamps' firmware is told the FENCE_CMD value of the unit (DEDUCED, log 58). -/
def tellBasecamps (s : State) (unit index : Nat) : State :=
  let v := [BitVec.ofNat 64 (2 ^ 63 + unit * 2 ^ 56 + index)]
  toFirmware (toFirmware s 0 0 v) 1 0 v

/-- A seat of a fenced core: its firing is gone and uncounted. -/
def stillSeat (t : Seat) : Seat :=
  { t with status := .free, firing := none, outs := [], preempt := false, q0 := [], q2 := [], q4 := [], q6 := [], beyond := none }

/-- A peer access that waits at a word of a fenced core is refused. -/
def refuseHeld (c : CoreId) (r : Req) : Req :=
  { r with pieces := r.pieces.map fun p => match p.st, p.dst with
    | .held, .sp d _ => if d = c then { p with st := .refused } else p
    | _, _ => p }

/-- A core goes down: its firings and unsent counts are gone, DEAD is set for its ranks, and its words refuse peers. -/
def coreDown (s : State) (c : CoreId) : State :=
  let s := (List.range 8).foldl (fun s n => (withdraw s c n).forget (.seat c n)) s
  let s := s.updCore c fun k =>
    { k with seats := k.seats.map stillSeat, ended := [], resumes := [], spawns := [], traps := [], events := [], notices := [],
             waiters := [], errs := [], seatCtl := 0, fenced := true }
  { s with ranks := s.ranks.map fun (r, e) =>
             if eValid e && eModule e == ownModule s && eCore e == c && !isBc c then (r, e ||| 0x2000000000000000) else (r, e),
           reqs := s.reqs.map (refuseHeld c) }

/-- A channel is stopped for good. -/
def channelDown (s : State) (cl ch : Nat) : State :=
  (setStat (dropRead s cl ch) cl ch 3 0).updChan cl ch fun c => { c with pkt := none, asked := false, look := false, statq := [] }

/-- A weight-store bank reads poison. -/
def bankDown (s : State) (cl b : Nat) : State := s.updCluster cl fun g => { g with banksBad := sins g.banksBad b }

/-- The slice of a chiplet that takes over a slot: the live one that serves the fewest, the lower number on a tie (DEDUCED, log 58). -/
def newSlice (s : State) (slot : Nat) : Option Nat :=
  let load (n : Nat) : Nat := ((List.range 144).filter fun m => tget m s.slotMap m == n).length
  let live := ((List.range 16).map (slot / 16 * 16 + ·)).filter (!s.slotsBad.contains ·)
  live.foldl (fun b n => match b with
    | some m => if load n < load m then some n else b
    | none => some n) none

/-- A slot moves to another slice of its chiplet, if one is live. -/
def moveSlot (s : State) (slot : Nat) : State :=
  match newSlice s slot with
  | some n => { s with slotMap := tset s.slotMap slot n }
  | none => s

/-- The granules of a line. -/
def lineGranules (line : Nat) : List Nat := (List.range 4).map (4 * line + ·)

/-- A request piece outstanding to a slot is answered and not reissued: poison for a read, a store error for a store. -/
def answerPoison (slots : List Nat) (r : Req) : Req :=
  { r with pieces := r.pieces.map fun p =>
      if p.dst.numbered && (p.st matches .waiting | .held) && slots.contains p.home then
        { p with st := if r.op = .store then .rejected else .poisoned, back := true,
                 data := BitVec.ofNat 64 (((List.range p.len).find? fun i => (p.mask.toNat / 2 ^ (8 * i)) % 256 != 0).getD 0) }
      else p }

/-- The carve-out granules that slots serve. -/
def slotCarve (s : State) (slots : List Nat) : List (Nat × Nat) :=
  (List.range (partitions s)).flatMap fun p =>
    ((List.range (coSize s p / 128)).filter fun l => slots.contains (coHome s p (128 * l))).flatMap fun l =>
      (lineGranules l).map fun g => (p, g)

/-- What the slots held is lost: L1 words of their lines go, dirty lines and carve-out granules are poisoned, and what is
outstanding is answered. Which written lines are still dirty is open. -/
def loseSlots (s : State) (slots : List Nat) : State :=
  let mine (line : Nat) : Bool := slots.contains (homeSlot s (128 * line))
  let lost := s.dirty.filter fun l => mine l && Config.stillDirty s.tick l
  { s with
    cores := s.cores.map fun (c, k) => (c, { k with l1 := k.l1.map fun l => if mine l.line then { l with words := [] } else l })
    hbmPoison := (lost.flatMap lineGranules).foldl sins s.hbmPoison
    dirty := s.dirty.filter (!mine ·)
    coPoison := s.coPoison ++ (slotCarve s slots).filter (!s.coPoison.contains ·)
    owners := s.owners.filter fun o => !mine (o.1 / 32)
    reqs := s.reqs.map (answerPoison slots)
    expects := s.seqs.foldl (fun e q => if slots.contains q.1.2 then pset e q.1 q.2 else e) s.expects
    tick := s.tick + 1 }

/-- L2 slots go down, and every slot that their slices serve moves. -/
def slotsDown (s : State) (slots : List Nat) : State :=
  let moved := (List.range 144).filter fun m => slots.contains (tget m s.slotMap m)
  moved.foldl moveSlot (loseSlots { s with slotsBad := slots.foldl sins s.slotsBad } moved)

/-- An HBM stack goes down: its L2 lines are discarded. -/
def stackDown (s : State) (n : Nat) : State :=
  { s with stacksBad := sins s.stacksBad n, dirty := s.dirty.filter fun l => nbits (128 * l) 36 4 != n }

/-- Links go down on both meshes. -/
def linksDown (s : State) (l : List Nat) : State := { s with linksBad := l.foldl sins s.linksBad }

/-- STATE of a chiplet's BUST is written (R332, R368). -/
def setBustState (s : State) (cn state : Nat) : State :=
  s.updChiplet cn fun h => { h with bust := (h.bust &&& ~~~7) ||| BitVec.ofNat 64 state }

/-- The cox cores of other clusters that hold ranks of the launches on a chiplet. -/
def otherCox (s : State) (cn : Nat) : List CoreId :=
  let hit := s.launches.filter fun l => l.state = .running && l.cores.any fun c => clusterOf c.2 == cn
  (((hit.flatMap fun l => l.cores.map fun c => clusterOf c.2).filter (· != cn)).foldl sins []).map fun n => coreAt n 0

/-- Every unit of a chiplet goes down. -/
def chipDown (s : State) (cn : Nat) : State :=
  let s := linksDown (setBustState s cn 6) ((chipLinks cn).filter fun i => linkExists (i / 4) (i % 4))
  if isCluster cn then
    let s := (s.getChiplet cn).queue.foldl (fun s q => match q.2 with
      | some (c, n, id) => answer s c n id (.value 0)
      | none => s) (s.updChiplet cn fun h => { h with busy := false })
    let s := s.updChiplet cn fun h => { h with queue := [] }
    let s := (List.range 16).foldl (fun s n => coreDown s (coreAt cn n)) s
    let s := (List.range 4).foldl (fun s c => channelDown s cn c) s
    (List.range 8).foldl (fun s b => bankDown s cn b) s
  else if cn < 169 then slotsDown s ((List.range 16).map (16 * (3 * (cn / 13 - 5) + (cn % 13 - 5)) + ·))
  else if cn < 0x110 then stackDown s (cn - 0x100)
  else if 0x120 ≤ cn then coreDown (coreDown s (4096 + 2 * (cn - 0x120))) (4097 + 2 * (cn - 0x120))
  else s

/-! ### FENCE_CMD (R383) -/

/-- INDEX names a unit of its kind, and the unit is not fenced yet. -/
def canFence (s : State) (unit index : Nat) : Bool :=
  match unit with
  | 0 => isGridCore (index / 8) && !(s.seatAt (index / 8) (index % 8)).fenced && !(s.getCore (index / 8)).fenced
  | 1 => isGridCore index && !(s.getCore index).fenced
  | 2 => isCluster (index / 4) && (s.chan (index / 4) (index % 4)).st != 3
  | 3 => isCluster (index / 8) && !(s.getCluster (index / 8)).banksBad.contains (index % 8)
  | 4 => decide (index < 144) && !s.slotsBad.contains index
  | 5 => decide (index < 16) && !s.stacksBad.contains index
  | 6 => decide (index < 4 * 2704) && linkExists (index / 4) (index % 4) && !s.linksBad.contains index
  | _ => isChiplet index && bustState s index != 6 && !isLost s index

/-- A unit is fenced, and those whom R384 names are told. -/
def fenceOne (s : State) (unit index : Nat) : State :=
  match unit with
  | 0 => fenceNotice (fenceSeatAt s (index / 8) (index % 8)) (coxOf (index / 8)) 0 index
  | 1 => fenceNotice (coreDown s index) (coxOf index) 1 index
  | 2 => fenceNotice (channelDown s (index / 4) (index % 4)) (coreAt (index / 4) 0) 2 index
  | 3 => fenceNotice (bankDown s (index / 8) (index % 8)) (coreAt (index / 8) 0) 3 index
  | 4 => tellBasecamps (slotsDown s [index]) 4 index
  | 5 => tellBasecamps (stackDown s index) 5 index
  | 6 => tellBasecamps (linksDown s [index]) 6 index
  | _ => tellBasecamps ((otherCox s index).foldl (fun s c => fenceNotice s c 7 index) (chipDown s index)) 7 index

/-- A unit that is not fenced yet is fenced, and the west basecamp rebuilds the tables (R349, R384) (DEDUCED, log 53). -/
def fenceUnit (s : State) (unit index : Nat) : State :=
  if canFence s unit index then rebuild (fenceOne s unit index) else s

/-- An INDEX lies within its unit. -/
def indexOk (unit index : Nat) : Bool :=
  match unit with
  | 0 => isGridCore (index / 8)
  | 1 => isGridCore index
  | 2 => isCluster (index / 4)
  | 3 => isCluster (index / 8)
  | 4 => decide (index < 144)
  | 5 => decide (index < 16)
  | 6 => decide (index < 4 * 2704) && linkExists (index / 4) (index % 4)
  | _ => isChiplet index

/-- A write of FENCE_CMD: with GO the fence is done at once, and GO reads 0 again. -/
def writeFenceCmd (s : State) (v : Word) : State :=
  let unit := fld v 58 56
  let index := fld v 15 0
  if !indexOk unit index then s
  else
    let s := { s with fenceCmd := v &&& 0x70000000000FFFF }
    if v.getLsbD 63 then fenceUnit s unit index else s

/-- FENCE_SEAT. -/
def execFenceSeat (index : Nat) (s : State) : Result := .next (fenceUnit s 0 index)
/-- FENCE_CORE. -/
def execFenceCore (index : Nat) (s : State) : Result := .next (fenceUnit s 1 index)
/-- FENCE_HAUL_CHANNEL. -/
def execFenceHaulChannel (index : Nat) (s : State) : Result := .next (fenceUnit s 2 index)
/-- FENCE_WEIGHT_STORE_BANK. -/
def execFenceWeightStoreBank (index : Nat) (s : State) : Result := .next (fenceUnit s 3 index)
/-- FENCE_L2_SLOT. -/
def execFenceL2Slot (index : Nat) (s : State) : Result := .next (fenceUnit s 4 index)
/-- FENCE_HBM_STACK. -/
def execFenceHbmStack (index : Nat) (s : State) : Result := .next (fenceUnit s 5 index)
/-- FENCE_LINK. -/
def execFenceLink (index : Nat) (s : State) : Result := .next (fenceUnit s 6 index)
/-- FENCE_CHIPLET. -/
def execFenceChiplet (index : Nat) (s : State) : Result := .next (fenceUnit s 7 index)

/-! ### Dead-rank notices (R206, R353) -/

/-- What has left for a core that is fenced ends: its sender is told, unless it has been dealt with (R206). -/
def deadNotice (s : State) (orig : Nat) : State :=
  match findSent s orig with
  | none => s
  | some e =>
    if e.reply.isSome then s else undeliverable (dropSent s orig) 0x33 e.pkt.src e.pkt.rank e.pkt.body

/-- DEAD_RANK_NOTICE: a packet for a fenced core is not delivered, wherever it stands; or the chiplet of another module, to which
entry `pkt` has left, finds no live rank; the sender is told (R206, R360). -/
def execDeadRankNotice (pkt : Nat) (s : State) : Result :=
  .next <| match s.net.find? (·.id = pkt) with
    | some p => if (s.getCore p.dst).fenced && p.orig ≠ 0 && forRank p.body then deadNotice (dropPacket s pkt) p.orig else s
    | none => if (findSent s pkt).any fun e => e.away && forRank e.pkt.body then deadNotice s pkt else s

/-! ### Uncorrectable errors (R378) -/

/-- UNCORRECTABLE_ERROR: the granule is poisoned, the L1 word becomes Invalid, or the core is fenced. -/
def execUncorrectableError (store : Storage) (addr : Nat) (s : State) : Result :=
  .next <| match store with
    | .hbm => if addr < 2 ^ 40 then { s with hbmPoison := sins s.hbmPoison (addr / 32) } else s
    | .carveOut p =>
      if addr < coSize s p && !s.coPoison.contains (p, addr / 32) then { s with coPoison := s.coPoison ++ [(p, addr / 32)] } else s
    | .scratchpad c =>
      if isCore c && addr < 2 ^ 20 then
        setFull (s.updCore c fun k => { k with spPoison := sins k.spPoison (addr / 4) }) c (addr / 4) true
      else s
    | .weightStore n =>
      if isCluster n && addr < 0x3000000 then s.updCluster n fun g => { g with wsPoison := sins g.wsPoison (addr / 32) } else s
    | .l1 c => if isCore c then s.updCore c fun k => updLine k (lineNo addr) fun l => { l with words := tdel l.words (wordNo addr) } else s
    | .arrays c => if isBc c then coreDown s c else fenceUnit s 1 c

end Sys2Proof.Machine
end

