-- ==== Sys2Proof/Machine/Image.lean ====
section
/-! DEFINITION. Core images: their directory and sections, the checks on them, and the loader's writes (R14, R16, R103,
R105, R110, R112, R165, R216, R239, R351, R376, R384). -/

namespace Sys2Proof.Machine

/-! ### Sections (R103) -/

/-- A section: type, target, payload bytes, and where the payload stands. -/
structure Section where
  ty     : Nat
  target : Nat
  len    : Nat
  at'    : Nat
  deriving DecidableEq, Repr

/-- The sections of a core image from an address up to its end section; `none` when a header is malformed. -/
def readSections (m : Memory) : Nat → Nat → Option (List Section)
  | 0, _ => none
  | fuel + 1, a =>
    let ty := (getByte m a).toNat
    let len := getBytes m (a + 4) 4
    let target := getBytes m (a + 8) 8
    if 11 < ty || getBytes m (a + 1) 3 ≠ 0 || 2 ^ 40 ≤ a then none
    else if ty = 0 then (if target = 0 then some [] else none)
    else (readSections m fuel (a + 16 + (len + 15) / 16 * 16)).map (⟨ty, target, len, a + 16⟩ :: ·)

/-- More sections than memory can hold. -/
def maxSections : Nat := 2 ^ 36

/-- The rank of one directory entry with its core and sections. -/
structure Placed where
  rank : BitVec 16
  core : CoreId
  secs : List Section
  deriving DecidableEq, Repr

/-- Entries of `n` bytes in the payload of a section. -/
def Section.entries (x : Section) (m : Memory) (n : Nat) : List (Nat × Nat) :=
  (List.range (x.len / n)).map fun i => (x.target + i, getBytes m (x.at' + n * i) n)

/-- The sections of one type. -/
def ofType (secs : List Section) (ty : Nat) : List Section := secs.filter (·.ty = ty)

/-- The port entries that an image gives. -/
def imagePorts (m : Memory) (secs : List Section) : List (Nat × Word) :=
  (ofType secs 4).flatMap fun x => (x.entries m 8).map fun e => (e.1, BitVec.ofNat 64 e.2)

/-- A port's entry under an image; ports that it does not name are disabled. -/
def imageEntry (m : Memory) (secs : List Section) (n : Nat) : Word :=
  (((imagePorts m secs).filter (·.1 = n)).getLast?.map (·.2)).getD 0

/-- The pattern entries that an image gives. -/
def imagePatterns (m : Memory) (secs : List Section) : List (Nat × (Word × Word)) :=
  (ofType secs 5).flatMap fun x => (x.entries m 16).map fun e => (e.1, BitVec.ofNat 64 e.2, BitVec.ofNat 64 (e.2 / 2 ^ 64))

/-- A group record: number, root and members. -/
structure GroupRec where
  gid     : Nat
  root    : BitVec 16
  members : List (BitVec 16)
  deriving DecidableEq, Repr

/-- The group records of a section (R216). -/
def readGroups : Nat → List Word → Option (List GroupRec)
  | 0, _ => none
  | _, [] => some []
  | fuel + 1, h :: t =>
    let n := fld h 43 32
    let body := t.take ((n + 3) / 4)
    if n = 0 || 2560 < n || fld h 55 44 ≠ 0 || fld h 15 0 ≠ 0 || body.length ≠ (n + 3) / 4 then none
    else
      let ms := (List.range n).map fun i => (body.getD (i / 4) 0).extractLsb' (16 * (i % 4)) 16
      (readGroups fuel (t.drop ((n + 3) / 4))).map (⟨fld h 63 56, h.extractLsb' 16 16, ms⟩ :: ·)

/-- The group records of a core's image. -/
def imageGroups (m : Memory) (secs : List Section) : Option (List GroupRec) :=
  let all := (ofType secs 6).map fun x => readGroups (x.len / 8 + 1) ((x.entries m 8).map fun e => BitVec.ofNat 64 e.2)
  if all.any Option.isNone then none else some (all.filterMap id).flatten

/-- The doubles of each TYPE 11 section of an image, in order (R104, R105). -/
def imageRegs (m : Memory) (secs : List Section) : List (List Word) :=
  (ofType secs 11).map fun x => (x.entries m 8).map fun e => BitVec.ofNat 64 e.2

/-! ### Checks (R103, R105, R165, R216, R376, R384) -/

/-- A launch that occupies its cores: running, or switched out with its weight stores left in place (R165, R243). -/
def Launch.occupies (l : Launch) : Bool := l.state = .running || l.state = .switchedOut

/-- A cluster is in a launch. -/
def inLaunch (s : State) (cn : Nat) : Bool := s.launches.any fun l => l.occupies && l.cores.any fun c => clusterOf c.2 == cn

/-- A global range translates under a root, whatever the permissions; with EN 0 none does, be it empty (R103). -/
def rangeMaps (s : State) (root : Word) (a n : Nat) : Bool :=
  root.getLsbD 0 && decide (a + n ≤ 2 ^ 48) && (n == 0 ||
    (a :: (List.range ((a + n - 1) / 65536 - a / 65536)).map fun i => (a / 65536 + 1 + i) * 65536).all
      fun x => walk s root x matches .leaf _)

/-- The payload of a seat-class map: reserved bits, SEATAREA and the overflow ring (R239). A misaligned SEATAREA or a SIZE above 13 is
rejected; an OVF BASE that is no multiple of the ring's size is taken as it stands (DESIGN CHOICE, log 88). -/
def seatMapOk (w0 w1 : Word) : Bool :=
  fld w0 63 14 == 0 && fld w1 63 44 == 0 && fld w1 15 0 == 0 && decide (fld w1 43 40 ≤ 13) &&
    decide (fld w1 39 20 + ringBytes (fld w1 43 40) ≤ 2 ^ 20)

/-- A section may be loaded into a core (DEDUCED, log 61). A LENGTH that is no multiple of the entry size, a TARGET that is not 0 in a section
of type 6 or 10 and a type 10 section that is not 16 bytes long are rejected too, of which R103 says nothing (DESIGN CHOICE, log 88). -/
def sectionOk (s : State) (root : Word) (core : CoreId) (secs : List Section) (x : Section) : Bool :=
  let m := s.hbm
  let w (i : Nat) : Word := getDouble m (x.at' + 8 * i)
  let cn := clusterOf core
  !rangePoisoned s (x.at' - 16) 16 && (x.ty == 1 || !rangePoisoned s x.at' x.len) && match x.ty with
  | 1 => x.len % 2 == 0 && decide (x.target + x.len / 2 ≤ 0xF000)
  | 2 => decide (x.target + 8 * x.len ≤ 0xF000)
  | 3 => x.len % 4 == 0 && decide (x.target + x.len / 4 ≤ 0xF0)
  | 4 => x.len % 8 == 0 && decide (x.target + x.len / 8 ≤ 64) && (x.entries m 8).all fun e => portOk (BitVec.ofNat 64 e.2)
  | 5 => x.len % 16 == 0 && decide (x.target + x.len / 16 ≤ 32) &&
    (x.entries m 16).all fun e => patOk (imageEntry m secs) (fun _ => []) (BitVec.ofNat 64 e.2) (BitVec.ofNat 64 (e.2 / 2 ^ 64))
  | 6 => x.target == 0 && x.len % 8 == 0
  | 7 => decide (x.target + x.len ≤ 2 ^ 20)
  | 8 => decide (x.target + x.len ≤ 0x3000000) && !inLaunch s cn &&
    !(List.range (x.len / 2048 + 2)).any fun i =>
      decide (i * 2048 < x.len + x.target % 2048) && (s.getCluster cn).banksBad.contains ((x.target / 2048 + i) % 8)
  | 9 => rangeMaps s root x.target x.len
  | 10 => x.target == 0 && x.len == 16 && seatMapOk (w 0) (w 1)
  | _ => x.target == 0 && x.len == 64 && w 6 == 0 && w 7 == 0

/-- A channel that a TYPE 11 section may set (R105). -/
def channelFree (s : State) (cl ch : Nat) : Bool :=
  let c := s.chan cl ch
  c.st != 1 && c.st != 2 && !(c.owner.bind (findLaunch s)).any fun l => l.state = .running

/-- The channels that the sections of an image set, in order: cluster, channel and value. -/
def imageChannels (m : Memory) (p : Placed) : List ((Nat × Nat) × Word) :=
  (imageRegs m p.secs).flatMap fun ws => (List.range 4).filterMap fun i =>
    let v := ws.getD (2 + i) 0
    if v.getLsbD 63 then some ((clusterOf p.core, i), v) else none

/-- No channel is set to two values by two ranks, and each may be set (R105). -/
def channelsOk (s : State) (ps : List Placed) : Bool :=
  ps.all fun p => (imageChannels s.hbm p).all fun a => channelFree s a.1.1 a.1.2 &&
    ps.all fun q => p.rank == q.rank || (imageChannels s.hbm q).all fun b => a.1 != b.1 || a.2 == b.2

/-- A core that a launch may use: of the grid, live, on a READY chiplet. -/
def coreLive (s : State) (c : CoreId) : Bool :=
  isGridCore c && !(s.getCore c).fenced && bustState s (clusterOf c) == 5 && !isLost s (clusterOf c)

/-- The distinct group records of the images of a launch. -/
def launchGroups (s : State) (ps : List Placed) : Option (List GroupRec) :=
  let all := ps.map fun p => imageGroups s.hbm p.secs
  if all.any Option.isNone then none else some ((all.filterMap id).flatten).eraseDups

/-- The core of a rank in a directory. -/
def coreOfRank (ps : List Placed) (r : BitVec 16) : Option CoreId := (ps.find? (·.rank = r)).map (·.core)

/-- A group is live: a member has not exited (R216). -/
def groupLive (s : State) (gid : Nat) : Bool := (findGroup s gid).any fun g => !g.active.isEmpty

/-- The group records keep the rules of R216. -/
def groupsOk (s : State) (ps : List Placed) (gs : List GroupRec) : Bool :=
  let groupsOf (c : CoreId) : Nat :=
    (s.groups.filter fun g => !g.active.isEmpty && g.members.any (·.2 = c)).length +
      (gs.filter fun g => g.members.any fun r => coreOfRank ps r = some c).length
  decide ((gs.map (·.gid)).Nodup) && gs.all (fun g =>
    !groupLive s g.gid && decide g.members.Nodup && g.members.contains g.root &&
      g.members.all fun r => (coreOfRank ps r).isSome) &&
    ps.all fun p => decide (groupsOf p.core ≤ 4)

/-- Entry `i` of the directory at IMAGE; `none` when it breaks R103. IMAGE is read as a physical address (DEDUCED, log 61). -/
def readEntry (s : State) (image : Nat) (first : Nat) (i : Nat) : Option Placed :=
  let a := image + 16 * i
  let m := s.hbm
  let x := (getByte m (a + 2)).toNat
  let y := (getByte m (a + 3)).toNat
  let off := getBytes m (a + 8) 8
  if rangePoisoned s a 16 || getBytes m a 2 ≠ first + i || 51 < x || 51 < y || getBytes m (a + 4) 4 ≠ 0 || off % 16 ≠ 0 ||
      !coreLive s (52 * y + x) then none
  else (readSections m maxSections (image + off)).map fun secs => ⟨BitVec.ofNat 16 (first + i), 52 * y + x, secs⟩

/-- The images of a launch, when they pass every check; `none` is REASON 5. -/
def readImages (s : State) (root : Word) (image first ranks : Nat) : Option (List Placed) :=
  let all := (List.range ranks).map (readEntry s image first)
  if all.any Option.isNone then none
  else
    let ps := all.filterMap id
    match launchGroups s ps with
    | none => none
    | some gs =>
      if decide ((ps.map (·.core)).Nodup) && ps.all (fun p => p.secs.all (sectionOk s root p.core p.secs)) &&
          channelsOk s ps && groupsOk s ps gs then some ps
      else none

/-! ### Loading -/

/-- A parcel of a code store, kept canonical. -/
def setParcel (k : Core) (a : Nat) (p : Parcel) (bad : Bool) : Core :=
  { k with code := if p = 0 then tdel k.code a else tset k.code a p,
           codeBad := if bad then sins k.codeBad a else sdel k.codeBad a }

/-- Code parcels from a memory; a parcel from a poisoned granule is poisoned. -/
def loadCode (m : Memory) (bad : Nat → Bool) (x : Section) (k : Core) : Core :=
  (x.entries m 2).foldl (fun k e => setParcel k e.1 (BitVec.ofNat 16 e.2) (bad (x.at' + 2 * (e.1 - x.target)))) k

/-- Start-map bits: bit n mod 8 of byte n div 8 for parcel TARGET + n. -/
def loadStarts (m : Memory) (x : Section) (k : Core) : Core :=
  { k with start := (List.range (8 * x.len)).foldl (fun st n =>
      if (getByte m (x.at' + n / 8)).getLsbD (n % 8) then sins st (x.target + n) else sdel st (x.target + n)) k.start }

/-- Handler-table entries. Bits 30..16, which R112 reserves, are kept as the image writes them (DESIGN CHOICE, log 88). -/
def loadHandlers (m : Memory) (x : Section) (k : Core) : Core :=
  { k with handlers := (x.entries m 4).foldl (fun h e => tset h e.1 (BitVec.ofNat 32 e.2)) k.handlers }

/-- Of the granules of `size` bytes, a write of a section covers one wholly. -/
def Section.covers (x : Section) (size g : Nat) : Bool :=
  decide (x.target ≤ size * g) && decide (size * g + size ≤ x.target + x.len)

/-- Scratchpad bytes; full/empty bits stay, words written wholly lose their poison, and a poisoned word written in part stays as it is
(R379). -/
def loadBytes (m : Memory) (x : Section) (k : Core) : Core :=
  { k with sp := putBytes (fun a => !k.spPoison.contains (a / 4) || x.covers 4 (a / 4)) k.sp x.target (getList m x.at' x.len),
           spPoison := k.spPoison.filter fun w => !x.covers 4 w }

/-- The sections of an image that only touch the core: code, start map, handlers and scratchpad data, in their order. -/
def loadCore (m : Memory) (bad : Nat → Bool) (secs : List Section) (k : Core) : Core :=
  secs.foldl (fun k x => match x.ty with
    | 1 => loadCode m bad x k
    | 2 => loadStarts m x k
    | 3 => loadHandlers m x k
    | 7 => loadBytes m x k
    | _ => k) k

/-- Weight-store bytes of a section, likewise. -/
def loadWs (s : State) (cn : Nat) (x : Section) : State :=
  s.updCluster cn fun g =>
    { g with ws := putBytes (fun a => !g.wsPoison.contains (a / 32) || x.covers 32 (a / 32)) g.ws x.target (getList s.hbm x.at' x.len),
             wsPoison := g.wsPoison.filter fun n => !x.covers 32 n }

/-- Global bytes of a section, page by page under the record's root. -/
def loadGlobal (s : State) (root : Word) (x : Section) : State :=
  (List.range ((x.target % 65536 + x.len + 65535) / 65536)).foldl (fun s' i =>
    let lo := max x.target ((x.target / 65536 + i) * 65536)
    let hi := min (x.target + x.len) ((x.target / 65536 + i + 1) * 65536)
    match walk s root lo with
    | .leaf e => firmwareBytes s' (takingBasecamp s') (e.phys lo) (getList s.hbm (x.at' + (lo - x.target)) (hi - lo))
    | _ => s') s

/-- The supervisor image of the module as sections of core images (R376). -/
def supSections (s : State) : List Section := (readSections (setList [] 0 (s.supImage.drop 0x200)) maxSections 0).getD []

/-- The cores of the grid, and the four basecamp cores. -/
def gridCores : List CoreId := (List.range 2704).filter isGridCore
def bcCores : List CoreId := [4096, 4097, 4098, 4099]

/-- The supervisor image enters a core. -/
def loadSupervisor (s : State) (c : CoreId) : State :=
  s.updCore c (loadCore (setList [] 0 (s.supImage.drop 0x200)) (fun _ => false) (supSections s))

end Sys2Proof.Machine
end

