-- ==== Sys2Proof/Machine/Launch.lean ====
section
/-! DEFINITION. Launch queues, the choice and checks of a record, binding with its loads and start messages, aborts, and
messages that reach a core or a basecamp (R101 to R106, R165, R216, R218, R231, R240 to R243, R351, R376, R383, R385, R405).
A step that is not due leaves the state as it is. -/

namespace Sys2Proof.Machine

/-! ### The record (R101) -/

/-- `n` bytes of a record from an offset. -/
def recField (ws : List Word) (off n : Nat) : Nat := wordsNat ws / 2 ^ (8 * off) % 2 ^ (8 * n)

/-- TT_ROOT, IMAGE, FIRST_RANK and RANKS of a record. -/
def recRoot (ws : List Word) : Word := BitVec.ofNat 64 (recField ws 0x28 8)
def recImage (ws : List Word) : Nat := recField ws 0x10 8
def recFirst (ws : List Word) : Nat := recField ws 0x18 2
def recRanks (ws : List Word) : Nat := recField ws 0x1A 2

/-- A reserved field of the record, or of TT_ROOT (R178), is not zero. -/
def recReserved (ws : List Word) : Bool :=
  recField ws 0 1 % 128 != 0 || recField ws 2 1 / 8 != 0 || recField ws 3 1 / 8 != 0 || recField ws 5 1 / 64 != 0 ||
    recField ws 7 1 != 0 || recField ws 0x1E 2 != 0 || recField ws 0x30 16 != 0 || recField ws 0xC0 56 != 0 ||
    fld (recRoot ws) 47 40 != 0 || fld (recRoot ws) 11 1 != 0

/-- A field lies within its limits. Of IMAGE the manual gives the multiple of 256 and that it is not zero; an IMAGE whose tag bits are
not those of a global address is not counted here and ends as REASON 5 when the directory is read (DESIGN CHOICE, log 77). -/
def recLimits (ws : List Word) : Bool :=
  let args := recField ws 6 1
  let start := recField ws 0x1C 2
  let complete := recField ws 0x24 4
  decide (1 ≤ args) && decide (args ≤ 16) && decide (1 ≤ recRanks ws) && decide (recRanks ws ≤ 4096) &&
    decide (recFirst ws + recRanks ws - 1 ≤ 0xFEFF) &&
    (start == 0xFFFF || (decide (recFirst ws ≤ start) && decide (start < recFirst ws + recRanks ws))) &&
    decide (1 ≤ complete) && decide (complete < 2 ^ 31) && recImage ws != 0 && recImage ws % 256 == 0

/-- The ranks of a record. -/
def recordRanks (ws : List Word) : List Nat := (List.range (recRanks ws)).map (recFirst ws + ·)

/-- The checks of R102 in the order of their reasons: a reason, or the images (DEDUCED, log 62). -/
def checkRecord (s : State) (q : Nat) (ws : List Word) : Nat ⊕ List Placed :=
  if recField ws 1 1 ≠ 1 then .inl 1
  else if recField ws 2 1 % 8 ≠ q then .inl 2
  else if recReserved ws then .inl 3
  else if !recLimits ws then .inl 4
  else match readImages s (recRoot ws) (recImage ws) (recFirst ws) (recRanks ws) with
    | none => .inl 5
    | some ps => if rankRoom s (recordRanks ws) then .inr ps else .inl 6

/-! ### The choice (R240 to R242) -/

/-- A launch queue. -/
def State.queue (s : State) (q : Nat) : LQueue := s.queues.getD q {}
def State.setQueue (s : State) (q : Nat) (v : LQueue) : State := { s with queues := s.queues.setIfInBounds q v }

/-- The record that a queue holds ready; one on a poisoned granule is never ready (DEDUCED, log 62). -/
def readyRecord (s : State) (q : Nat) : Option Nat :=
  let v := s.queue q
  let n := qRecords v.cfg
  let r := v.rix.toNat
  let pa := qBase v.cfg + 256 * (r % n)
  if v.cfg.getLsbD 63 && !rangePoisoned s pa 256 && (getByte s.hbm pa).getLsbD 7 == ((r / n + 1) % 2 == 1) then some pa else none

/-- Records that wait for binding. -/
def waitingLaunches (s : State) : List Launch := s.launches.filter fun l => l.state = .taken || l.state = .switchedOut

/-- The queue that is chosen: highest PRIO, then the first after the one last chosen at that PRIO. -/
def chooseQueue (s : State) : Option Nat :=
  let ready := (List.range 8).filter fun q => (readyRecord s q).isSome
  let prio (q : Nat) : Nat := qPrio (s.queue q).cfg
  let top := ready.foldl (fun m q => max m (prio q)) 0
  ((List.range 8).map fun i => (tget 7 s.lastQueue top + 1 + i) % 8).find? fun q => ready.contains q && prio q == top

/-- RIX of a queue with its copy at BASE - 120. -/
def setRix (s : State) (q : Nat) (r : Word) : State :=
  let v := s.queue q
  let s := s.setQueue q { v with rix := r }
  if qBase v.cfg < 128 then s else firmwareBytes s (takingBasecamp s) (qBase v.cfg - 120) (wordsBytes [r])

/-- The module takes launch records: READY, and not the severed group (R386, R388). -/
def takesRecords (s : State) : Bool := fld s.modStat 2 0 == 3 && !(s.severed && takingBasecamp s == 1)

/-- A record that has passed its checks, with its launch priority (R106). -/
def takenLaunch (s : State) (pa : Nat) (ws : List Word) (prio : Nat) (ps : List Placed) : Launch :=
  { id := s.fresh, pa := pa, words := ws, prio := prio, basecamp := takingBasecamp s, cport := 0, counter := 0, state := .taken,
    status := BitVec.ofNat 64 (2 ^ 56), cores := ps.map fun p => (p.rank, p.core) }

/-- LAUNCH_CHOICE: a record is taken, checked, and rejected or given STATE 1. -/
def execLaunchChoice (s : State) : Result :=
  .next <|
    if !takesRecords s || 4 ≤ (waitingLaunches s).length then s
    else match chooseQueue s with
      | none => s
      | some q => match readyRecord s q with
        | none => s
        | some pa =>
          let cfg := (s.queue q).cfg
          let ws := readDoubles s.hbm pa 32
          let s := setRix { s with lastQueue := tset s.lastQueue (qPrio cfg) q } q ((s.queue q).rix + 1)
          match checkRecord s q ws with
          | .inl reason => putStatus s pa (BitVec.ofNat 64 (4 * 2 ^ 56 + reason * 2 ^ 48))
          | .inr ps =>
            let l := takenLaunch s pa ws (min (recField ws 3 1) (qPrio cfg)) ps
            putStatus ({ s with launches := s.launches ++ [l] }).bump pa l.status

/-! ### Binding (R104, R243, R405) -/

/-- Two launches share a core. -/
def Launch.meets (a b : Launch) : Bool := a.cores.any fun c => b.cores.any fun d => c.2 == d.2

/-- Another waiting record that needs some of the same cores goes first: of higher launch priority, or chosen earlier. -/
def overtaken (s : State) (l : Launch) : Bool :=
  (waitingLaunches s).any fun w => w.id != l.id && w.meets l &&
    (decide (l.prio < w.prio) || (w.prio == l.prio && ((waitingLaunches s).takeWhile (·.id != l.id)).any (·.id = w.id)))

/-- Every core of a waiting record belongs to no other running launch (R243). -/
def coresFree (s : State) (l : Launch) : Bool :=
  !(s.launches.any fun r => r.state = .running && r.id != l.id && r.meets l)

/-- The completion port of a launch that is about to run: a number never used, else the one whose launch ended first (DEDUCED, log 62). -/
def freePort (s : State) (b : Nat) : Option Nat :=
  let used := (s.launches.filter fun l => l.basecamp = b && l.state != .taken).map (·.cport)
  ((List.range 64).find? (!used.contains ·)).or ((s.portEnds.find? (·.1 = b)).map (·.2))

/-- The tables of a core as an image gives them: seat-class map, ports, patterns and an empty overflow ring (DEDUCED, log 62). -/
def loadTables (s : State) (p : Placed) (k : Core) : Core :=
  let m := s.hbm
  let map : Option (Word × Word) := (ofType p.secs 10).getLast?.map fun x => (getDouble m x.at', getDouble m (x.at' + 8))
  { k with
    seatMap := (map.map fun w => w.1.setWidth 14).getD 0
    seatArea := (map.map fun w => w.2.setWidth 20).getD 0xE0000
    ovfCfg := (map.map fun w => BitVec.ofNat 64 (fld w.2 43 20)).getD 0xAB0000
    ovfHead := 0
    ovfTail := 0
    ports := (imagePorts m p.secs).foldl (fun t e => if e.2 = 0 then tdel t e.1 else tset t e.1 (freshPort e.2)) []
    patterns := (imagePatterns m p.secs).foldl (fun t e => tset t e.1 e.2) []
    rp := Vector.replicate 8 31 }

/-- Step 1 of R104 for one rank: the start map and the handler table hold what the image sets and nothing else (R14). -/
def loadRank (s : State) (root : Word) (p : Placed) : State :=
  let bad (a : Nat) : Bool := rangePoisoned s a 2
  let s := s.updCore p.core fun k => loadCore s.hbm bad p.secs 
    { k with handlers := k.handlers.filter fun h => decide (0xF0 ≤ h.1), start := k.start.filter fun n => decide (0xF000 ≤ n) }
  let s := (ofType p.secs 8).foldl (fun s x => loadWs s (clusterOf p.core) x) s
  (ofType p.secs 9).foldl (fun s x => loadGlobal s root x) s

/-- The supervisor image is loaded again into every code store when some image of the launch writes code (R376). -/
def loadSupervisors (s : State) (ps : List Placed) : State :=
  if (ps.any fun p => p.secs.any fun x => x.ty = 1 || x.ty = 2) then (gridCores ++ bcCores).foldl loadSupervisor s else s

/-- Manhattan distance of two positions. -/
def distance (a b : CoreId) : Nat :=
  ((a % 52 : Int) - (b % 52 : Int)).natAbs + ((a / 52 : Int) - (b / 52 : Int)).natAbs

/-- Members in order of distance from the root, ties in rank order. -/
def insMember (root : CoreId) (x : BitVec 16 × CoreId) : List (BitVec 16 × CoreId) → List (BitVec 16 × CoreId)
  | [] => [x]
  | y :: t =>
    if distance x.2 root < distance y.2 root || (distance x.2 root == distance y.2 root && decide (x.1.toNat < y.1.toNat)) then
      x :: y :: t
    else y :: insMember root x t

/-- The parent of each member of a tree as R351 builds it: the nearest earlier member with fewer than four children. -/
def growGroup (tree : List ((BitVec 16 × CoreId) × Option (BitVec 16))) :
    List (BitVec 16 × CoreId) → List ((BitVec 16 × CoreId) × Option (BitVec 16))
  | [] => tree
  | x :: t =>
    let children (r : BitVec 16) : Nat := (tree.filter fun e => e.2 = some r).length
    let open' := (tree.map (·.1)).filter fun e => decide (children e.1 < 4)
    let best := open'.foldl (fun b e => match b with
      | none => some e
      | some o =>
        if distance e.2 x.2 < distance o.2 x.2 || (distance e.2 x.2 == distance o.2 x.2 && decide (e.1.toNat < o.1.toNat)) then some e
        else some o) none
    growGroup (tree ++ [(x, best.map (·.1))]) t

/-- The tree entries of a group's members (R319, R351). -/
def groupTree (root : BitVec 16 × CoreId) (members : List (BitVec 16 × CoreId)) : List (CoreId × Word) :=
  let others := (members.filter (·.1 != root.1)).foldl (fun l x => insMember root.2 x l) []
  let tree := growGroup [(root, none)] others
  tree.map fun e =>
    let n := (tree.filter fun c => c.2 = some e.1.1).length
    (e.1.2, match e.2 with
      | none => BitVec.ofNat 64 (3 * 2 ^ 62 + n * 2 ^ 24)
      | some r => BitVec.ofNat 64 (2 ^ 63 + r.toNat * 2 ^ 32 + n * 2 ^ 24))

/-- A group enters every interface, and its tree the routers of its members. -/
def addGroup (ps : List Placed) (s : State) (g : GroupRec) : State :=
  let ms := g.members.filterMap fun r => (coreOfRank ps r).map fun c => (r, c)
  match coreOfRank ps g.root with
  | none => s
  | some root =>
    let s := { s with groups := s.groups.filter (·.gid != g.gid) ++ [⟨g.gid, root, ms, [], [], [], 0⟩] }
    (groupTree (g.root, root) ms).foldl (fun s e => s.updCore e.1 fun k =>
      { k with trees := tset k.trees g.gid e.2, left := tdel k.left g.gid,
               combine := k.combine.filter fun c => dGroup c.desc != g.gid }) s

/-- The rank entry of a core of this module. -/
def entryFor (s : State) (c : CoreId) : Word :=
  BitVec.ofNat 64 (2 ^ 63 + ownModule s * 2 ^ 24 + c % 52 * 2 ^ 16 + c / 52 * 2 ^ 8)

/-- A seat's registers that step 3 clears (R110). -/
def clearSeat (t : Seat) : Seat := { t with v := Vector.replicate 16 {}, k := Vector.replicate 4 0 }

/-- Step 3 of R104 for one rank, with the TYPE 11 sections of its image in order (R105). All eight seats are cleared: a pattern of
class 7 binds seat 7, so it counts among those that the launch can bind, and clearing touches no firing that runs in it (DESIGN
CHOICE, log 78). The loader's writes happen before every firing of the launch, so the core's L1 keeps no word that is not Owned
(R185). -/
def prepareRank (s : State) (l : Launch) (p : Placed) : State :=
  let regs := imageRegs s.hbm p.secs
  let s := (acquireInv s p.core).updCore p.core fun k =>
    { k with seats := k.seats.map clearSeat, sliceLen := BitVec.ofNat 32 (recField l.words 0x20 4), ttRoot := recRoot l.words &&& 0xFFFF00FFFFFFF001,
             dbgCtl := ((regs.getLast?.map (·.getD 1 0)).getD 0) &&& 1, rank := p.rank, launch := some l.id, stopped := false }
  let s := regs.foldl (fun s ws => writeShLink s p.core (ws.getD 0 0)) s
  let s := (imageChannels s.hbm p).foldl (fun s c =>
    (writeHlq s c.1.1 c.1.2 c.2).updChan c.1.1 c.1.2 fun h => { h with owner := some l.id }) s
  s.updCluster (clusterOf p.core) fun g => dropRecords g 0

/-- The ranks that get a start message, in rank order. -/
def startRanks (ws : List Word) : List Nat :=
  let start := recField ws 0x1C 2
  if start = 0xFFFF then recordRanks ws else [start]

/-- The start messages (R104). -/
def sendStarts (s : State) (l : Launch) : State :=
  let args := (List.range (recField l.words 6 1)).map fun i => BitVec.ofNat 64 (recField l.words (0x40 + 8 * i) 8)
  (startRanks l.words).foldl (fun s r =>
    let rank := BitVec.ofNat 16 r
    let h := mkHeader rank (recField l.words 5 1) (BitVec.ofNat 8 (recField l.words 4 1)) args.length false (bcRank l.basecamp)
    emit s (4096 + 2 * l.basecamp) rank 0 (.msg h args)) s

/-- Steps 1 to 4 of R104. -/
def runLaunch (s : State) (l : Launch) (ps : List Placed) (port : Nat) : State :=
  let root := recRoot l.words
  let s := loadSupervisors (ps.foldl (fun s p => loadRank s root p) s) ps
  let s := { s with cores := s.cores.map fun (c, k) =>
    if (l.cores.any fun e => e.2 == c) then (c, { k with trees := k.trees.filter fun t => groupLive s t.1 }) else (c, k) }
  let s := ((launchGroups s ps).getD []).foldl (addGroup ps) s
  let s := ps.foldl (fun s p => writeRank s p.rank.toNat (entryFor s p.core)) s
  let s := ps.foldl (fun s p => s.updCore p.core (loadTables s p)) s
  let s := ps.foldl (fun s p => prepareRank s l p) s
  let l := { l with state := .running, cport := port, counter := recField l.words 0x24 4, status := statusWord 2 0 l, given := s.fresh }
  let s := (updLaunch { s with portEnds := s.portEnds.filter (· != (l.basecamp, port)) } l.id fun _ => l).bump
  let s := sendStarts (putStatus s l.pa l.status) l
  ps.foldl (fun s p => dealInput p.core (s.getCore p.core).input s) s

/-- A taken record is rejected after all. -/
def rejectTaken (s : State) (l : Launch) (reason : Nat) : State :=
  putStatus { s with launches := s.launches.filter (·.id != l.id) } l.pa (statusWord 4 reason l)

/-- LAUNCH_BINDING: taken record `n` binds once its cores are free; its images and the room of the rank table are checked again, and
a record that they no longer fit is rejected with REASON 5 or 6 (R102, R218). -/
def execLaunchBinding (n : Nat) (s : State) : Result :=
  .next <| match findLaunch s n with
    | none => s
    | some l =>
      if l.state ≠ .taken || !coresFree s l || overtaken s l then s
      else match freePort s l.basecamp, readImages s (recRoot l.words) (recImage l.words) (recFirst l.words) (recRanks l.words) with
        | none, _ => s
        | some _, none => rejectTaken s l 5
        | some port, some ps =>
          if !rankRoom s (recordRanks l.words) then rejectTaken s l 6
          else runLaunch s { l with cores := ps.map fun p => (p.rank, p.core) } ps port

/-! ### Abort (R385) -/

/-- A live launch by LAUNCH_ID: taken (switched out counts as taken), or running. -/
def launchById (s : State) (id : Word) : Option Launch :=
  s.launches.find? fun l => (l.state = .taken || l.state = .running || l.state = .switchedOut) && l.words.getD 1 0 == id

/-- The messages held at the input of a core are discarded; what else waits there is dealt with by its own event. -/
def discardInput (s : State) (c : CoreId) : State :=
  let s := (s.getCore c).input.foldl (fun s id => match s.net.find? (·.id = id) with
    | some p => if p.body.payload.isSome then takePacket s p else s
    | none => s) s
  s.updCore c fun k => { k with input := [], ovfFull := false }

/-- Every firing of a launch on a core is killed and counted; its resume entries, spawns and held messages go. -/
def clearCore (id : Nat) (s : State) (c : CoreId) : State :=
  let s := s.updCore c fun k => { k with stopped := true }
  let s := (List.range 8).foldl (fun s n =>
    if ((s.seatAt c n).firing.bind (·.launch)) = some id then killFiring s c n else s) s
  (discardInput s c).updCore c fun k =>
    let mine := k.resumes.filter (·.firing.launch = some id)
    { k.count (some id) mine.length with
             resumes := k.resumes.filter (·.firing.launch != some id), spawns := k.spawns.filter (·.seatCls = 7),
             ports := k.ports.map fun (n, p) => (n, { p with held := [], tokens := [] }), rank := 0xFF00 }

/-- An abort: firings and waiters end, what is held for the ranks is discarded, rank and group entries go, STATE 5. -/
def abortLaunch (s : State) (l : Launch) : State :=
  let ranks := l.cores.map (·.1)
  let drop (s : State) : State :=
    let gone := s.groups.filter fun g => g.members.any fun m => ranks.contains m.1
    { s with waiting := s.waiting.filter fun w => !ranks.contains w.rank,
             ranks := ranks.foldl (fun t r => tdel t r.toNat) s.ranks,
             groups := s.groups.filter fun g => !gone.contains g,
             cores := s.cores.map fun (c, k) => (c, { k with
               trees := k.trees.filter fun t => !gone.any (·.gid = t.1)
               combine := k.combine.filter fun q => !gone.any (·.gid = dGroup q.desc) }) }
  match l.state with
  | .taken => putStatus { s with launches := s.launches.filter (·.id != l.id) } l.pa (statusWord 5 0 l)
  | .switchedOut => endLaunch (drop s) l .aborted 5
  | _ => endLaunch (drop (l.cores.foldl (fun s c => clearCore l.id s c.2) s)) l .aborted 5

/-- LAUNCH_ABORT: the firmware of the basecamp aborts a launch. -/
def execLaunchAbort (id : Word) (s : State) : Result :=
  .next <| match launchById s id with
    | none => s
    | some l => abortLaunch s l

/-! ### Messages that have arrived (R231, R383, R385) -/

/-- A message at a basecamp: a FENCE_CMD value, an abort, or the firmware's. Counts are COMPLETION_COUNT_ARRIVAL's. -/
def basecampArrival (s : State) (p : Packet) : State :=
  match p.body with
  | .msg h ws =>
    let s := takePacket s p
    if hTc h = 2 && hClass h = 0xF8 then writeFenceCmd s (ws.getD 0 0)
    else if hTc h = 2 && hClass h = 0xF9 then
      match launchById s (ws.getD 0 0) with
      | some l => abortLaunch s l
      | none => s
    else toFirmware s ((p.dst - 4096) / 2) h ws
  | .sync _ => takePacket s p
  | _ => s

/-- MESSAGE_ARRIVAL: a message or count reaches a core's interface, or a message a basecamp. -/
def execMessageArrival (pkt : Nat) (s : State) : Result :=
  .next <| match duePacket s pkt with
    | none => s
    | some p => if isBc p.dst then (if (s.getCore p.dst).fenced then s else basecampArrival s p) else coreArrival s p

end Sys2Proof.Machine
end

