-- ==== Sys2Proof/Machine/Switch.lean ====
section
/-! DEFINITION. Switching a launch out and in with the switch area of each of its cores (R243, R244, R297). The first
LAUNCH_SWITCH_OUT of a victim holds its ranks and stops its cores; a later one, once every firing is set aside and the shells
are quiet, writes the areas. A step that is not due leaves the state as it is. -/

namespace Sys2Proof.Machine

/-! ### The switch area (R244) -/

/-- Table entries of `n` bytes written at an offset. -/
def putTable (m : Memory) (a n : Nat) (l : List (Nat × Nat)) : Memory := l.foldl (fun m e => setBytes m (a + n * e.1) n e.2) m

/-- A set of numbers written as bits, bit `i mod 8` of byte `i div 8`. -/
def putBits (m : Memory) (a : Nat) (l : List Nat) : Memory :=
  l.foldl (fun m i => setByte m (a + i / 8) (getByte m (a + i / 8) ||| (1 <<< (i % 8)))) m

/-- The numbers below `8 * n` whose bits are set. -/
def takeBits (m : Memory) (a n : Nat) : List Nat :=
  (takeRange m a (a + n)).flatMap fun e => ((List.range 8).filter e.2.getLsbD).map fun i => 8 * (e.1 - a) + i

/-- The two doubles of a port's state. -/
def portState (p : Port) : Word × Word :=
  (BitVec.ofNat 64 (p.count.toNat + p.tokens.length * 2 ^ 32 + p.ovf.toNat * 2 ^ 40),
    if pKind p.entry = 2 then p.tail ++ p.head
    else BitVec.ofNat 64 (p.held.length + ((p.held.head?.map (·.slot)).getD p.next) * 2 ^ 8))

/-- A port from its entry and its state; the messages held stand in the slots of the scratchpad. A restored token acquires
 (DEDUCED, log 12). -/
def portBack (k : Core) (e s0 s1 : Word) : Port :=
  let slots := pSize e + 1
  let oldest := fld s1 15 8
  let slot (i : Nat) : Held :=
    let h := getDouble k.sp (slotOff e ((oldest + i) % slots))
    ⟨(oldest + i) % slots, hWords h, hRb h⟩
  let n := fld s1 7 0
  { entry := e, ovf := s0.getLsbD 40, count := s0.setWidth 32, tokens := List.replicate (fld s0 39 32) true,
    head := if pKind e = 2 then s1.setWidth 32 else 0, tail := if pKind e = 2 then s1.extractLsb' 32 32 else 0,
    held := if isStore e then (List.range n).map slot else [], next := if isStore e then (oldest + n) % slots else 0 }

/-- The tables and registers of a core written to its area. -/
def putCore (m : Memory) (a : Nat) (k : Core) : Memory :=
  let m := k.sp.foldl (fun m e => setByte m (a + e.1) e.2) m
  let m := putTable m (a + 0x100000) 2 (k.code.map fun e => (e.1, e.2.toNat))
  let m := putBits m (a + 0x120000) k.start
  let m := putTable m (a + 0x122000) 4 (k.handlers.map fun e => (e.1, e.2.toNat))
  let m := putTable m (a + 0x122400) 8 (k.ports.map fun e => (e.1, e.2.entry.toNat))
  let m := k.ports.foldl (fun m e => setDoubles m (a + 0x122600 + 16 * e.1) [(portState e.2).1, (portState e.2).2]) m
  let m := k.patterns.foldl (fun m e => setDoubles m (a + 0x122A00 + 16 * e.1) [e.2.1, e.2.2]) m
  let m := putTable m (a + 0x122C00) 1 ((List.range 8).map fun i => (i, k.rp.getD i 31))
  let m := setDoubles m (a + 0x122C10) [k.seatMap.setWidth 64, (k.seatArea.setWidth 64) ||| (k.ovfCfg <<< 20),
    k.ttRoot, k.dbgCtl, k.ovfHead.setWidth 64, k.ovfTail.setWidth 64]
  let m := putTable m (a + 0x122C40) 4 ((List.range 8).map fun i => (i, (k.shell.caps.getD i 0).toNat))
  putBits (setDouble m (a + 0x122C60) (k.sliceLen.setWidth 64)) (a + 0x123000) k.full

/-- The tables and registers of a core from its area; reserved bits stay 0 (R7). -/
def takeCore (m : Memory) (a : Nat) (k : Core) : Core :=
  let w (o : Nat) : Word := getDouble m (a + o)
  let shift (lo hi : Nat) : List Host.Cell := (takeRange m (a + lo) (a + hi)).map fun e => (e.1 - (a + lo), e.2)
  let parcels := ((shift 0x100000 0x120000).map (·.1 / 2)).eraseDups
  let k := { k with
    sp := shift 0 0x100000
    code := parcels.map fun p => (p, BitVec.ofNat 16 (getBytes m (a + 0x100000 + 2 * p) 2))
    start := takeBits m (a + 0x120000) 0x2000
    handlers := ((List.range 256).map fun i => (i, BitVec.ofNat 32 (getBytes m (a + 0x122000 + 4 * i) 4))).filter (·.2 != 0)
    patterns := ((List.range 32).map fun i => (i, w (0x122A00 + 16 * i), w (0x122A08 + 16 * i))).filter (·.2 != (0, 0))
    rp := Vector.ofFn fun i => (getByte m (a + 0x122C00 + i.val)).toNat
    seatMap := (w 0x122C10).setWidth 14
    seatArea := (w 0x122C18).setWidth 20
    ovfCfg := BitVec.ofNat 64 (fld (w 0x122C18) 43 20)
    ttRoot := w 0x122C20 &&& 0xFFFF00FFFFFFF001
    dbgCtl := w 0x122C28 &&& 1
    ovfHead := (w 0x122C30).setWidth 32
    ovfTail := (w 0x122C38).setWidth 32
    shell := { k.shell with caps := Vector.ofFn fun i => BitVec.ofNat 32 (getBytes m (a + 0x122C40 + 4 * i.val) 4) }
    sliceLen := (w 0x122C60).setWidth 32
    full := takeBits m (a + 0x123000) 0x8000 }
  { k with ports := ((List.range 64).map fun i =>
      (i, portBack k (w (0x122400 + 8 * i)) (w (0x122600 + 16 * i)) (w (0x122608 + 16 * i)))).filter (·.2 != ({} : Port)) }

/-! ### The shell block (R297) -/

/-- The kind of a tile as the block codes it. -/
def kindCode : TileKind → Nat
  | .empty => 0
  | .int => 1
  | .scaled => 2

/-- A kept command: an MMA that has only its PASS left is kept as that PASS (DEDUCED, log 12). -/
def keptWords (c : Cmd) : List Word :=
  let ws := (List.range 4).map fun i => c.word i
  if cOp (c.word 0) = 0 && c.stage != .queued then [3#64 <<< 60, 0, 0, 0] else ws

/-- The commands that a switch keeps; a drain that waits in `q1` for its pops stays where it is (DEDUCED, log 12). -/
def keptCmds (h : Shell) : List Cmd := h.cmds.filter fun c => c.stage = .queued || c.stage = .sending || c.stage = .asked

/-- The shell block written. -/
def putShell (m : Memory) (a : Nat) (h : Shell) : Memory :=
  let padded (n : Nat) (l : List Word) : List Word := (List.range n).map fun i => l.getD i 0
  let tile (m : Memory) (i : Nat) : Memory :=
    let t := h.tiles.getD i {}
    let o := a + 0x2400 * i
    let m := setDouble m o (BitVec.ofNat 64 (kindCode t.kind * 2 ^ 62))
    let m := if t.kind = .int then setDoubles (setDoubles m (o + 0x100) (padded 32 t.row)) (o + 0x200) (padded 32 t.col) else m
    if t.kind = .empty then m else setDoubles m (o + 0x400) (padded 1024 t.acc)
  let m := (List.range 8).foldl tile m
  let m := setDoubles (setDoubles m (a + 0x12000) (padded 32 h.bow)) (a + 0x12100) (padded 32 h.stroke)
  let v (t : Option LatchTile) (valid fmt seq : Nat) : Nat :=
    (t.map fun t => 2 ^ valid + t.fmt.toNat * 2 ^ fmt + t.seq.toNat * 2 ^ seq).getD 0
  let latch := BitVec.ofNat 64 (v h.front 63 56 16 + v h.back 62 52 0)
  let kept := keptCmds h
  let m := setDoubles m (a + 0x12200) [h.link, latch, BitVec.ofNat 64 kept.length]
  let m := setDoubles m (a + 0x12220) (kept.flatMap keptWords)
  setList (setList m (a + 0x12400) ((h.front.map (·.bytes)).getD [])) (a + 0x13400) ((h.back.map (·.bytes)).getD [])

/-- A tile from the block. -/
def tileBack (m : Memory) (o : Nat) : Tile :=
  match fld (getDouble m o) 63 62 with
  | 1 => ⟨.int, readDoubles m (o + 0x400) 1024, readDoubles m (o + 0x100) 32, readDoubles m (o + 0x200) 32⟩
  | 2 => ⟨.scaled, readDoubles m (o + 0x400) 1024, [], []⟩
  | _ => {}

/-- The shell of a core from its block: the sums that `sh.bow` and `sh.stroke` report are zero until an MMA runs (R260), and
reserved bits stay 0 (R7, R297). Its kept commands re-enter `q0` afterwards. -/
def takeShell (m : Memory) (a : Nat) (h : Shell) : Shell :=
  let latch := getDouble m (a + 0x12208)
  let tiles : Vector Tile 8 := Vector.ofFn fun i => tileBack m (a + 0x2400 * i.val)
  let tile (valid fmt seq at' : Nat) : Option LatchTile :=
    let f : BitVec 4 := latch.extractLsb' fmt 4
    if latch.getLsbD valid then some ⟨f, latch.extractLsb' seq 16, getList m (a + at') (tileBytes f)⟩ else none
  let bow := readDoubles m (a + 0x12000) 32
  let stroke := readDoubles m (a + 0x12100) 32
  { h with tiles := tiles, kinds := tiles.map (·.kind), bow := bow, stroke := stroke, sampleB := [], sampleS := [], ran := false,
           lastMma := none,
           link := getDouble m (a + 0x12200) &&& 0x8000FFFF0000FFFF,
           front := tile 63 56 16 0x12400, back := tile 62 52 0 0x13400 }

/-- The kept commands of a block. -/
def blockCmds (m : Memory) (a : Nat) : List (List Word) :=
  (List.range (min 8 (getDouble m (a + 0x12210)).toNat)).map fun i => readDoubles m (a + 0x12220 + 32 * i) 4

/-! ### Switching out (R243) -/

/-- Firings and resume entries of a launch on a core (R244). -/
def liveOn (id : Nat) (k : Core) : Nat :=
  (k.seats.toList.filter fun t => t.firing.bind (·.launch) = some id).length + (k.resumes.filter (·.firing.launch = some id)).length

/-- R244 allows the launch to be switched out. -/
def mayLeave (s : State) (v : Launch) : Bool :=
  !(s.launches.any fun o => o.state = .switchedOut && o.meets v) && v.cores.all fun c => decide (liveOn v.id (s.getCore c.2) ≤ 16)

/-- A waiting record is owed the cores of a running launch. -/
def mayOust (s : State) (l v : Launch) : Bool :=
  (l.state = .taken || l.state = .switchedOut) && v.state = .running && decide (v.prio < l.prio) && l.meets v &&
    recField v.words 0x20 4 != 0 && !overtaken s l && mayLeave s v

/-- TRANSIT of a rank's entry set or cleared. -/
def setTransit (on : Bool) (s : State) (r : BitVec 16) : State :=
  let e := rankEntry s r
  writeRank s r.toNat (if on then e ||| 0x4000000000000000 else e &&& ~~~0x4000000000000000)

/-- Held ranks are released with their old entries. -/
def releaseRanks (s : State) (l : Launch) : State := l.cores.foldl (fun s c => releaseHeld (setTransit false s c.1) c.1) s

/-- Steps 1 and 2 of R243: the ranks are held and pattern binding stops. -/
def beginSwitch (s : State) (v : Launch) : State :=
  let s := v.cores.foldl (fun s c => setTransit true s c.1) s
  let s := v.cores.foldl (fun s c => s.updCore c.2 fun k => { k with stopped := true }) s
  updLaunch s v.id fun l => { l with switching := true }

/-- A queued command that can begin, so that the switch lets it run: nothing but a latch tile or a receiver's grant holds it back. -/
def canBegin (s : State) (c : CoreId) (d : Cmd) : Bool :=
  let h := (s.getCore c).shell
  let held : Bool := resolve s c (linkNext h) matches .hold
  inTurn h d && match cOp (d.word 0) with
    | 0 => cBsel (d.word 0) != 2 || h.front.isSome
    | 3 => h.front.isSome && !held
    | 4 => !held
    | _ => true

/-- The shell has nothing left that the switch waits for: every command that has begun, or can, has finished, a drain to `q1` with its
pops, and what is kept fits the block's eight commands (R253, R297) (DEDUCED, log 12). That of a fenced core does nothing more. -/
def shellQuiet (s : State) (c : CoreId) : Bool :=
  let h := (s.getCore c).shell
  let held : Bool := resolve s c (linkNext h) matches .hold
  (s.getCore c).fenced || (decide ((keptCmds h).length ≤ 8) && h.cmds.all fun d => match d.stage with
    | .queued => !canBegin s c d
    | .sending => held
    | .asked => true
    | .occupying | .granted | .popping => false)

/-- Every firing of the launch is set aside, and no message is on its way to the core or its rank. -/
def firingsAside (s : State) (v : Launch) (rank : BitVec 16) (c : CoreId) : Bool :=
  let k := s.getCore c
  k.seats.all (fun t => t.firing.bind (·.launch) != some v.id) && k.spawns.all (·.seatCls = 7) &&
    !(s.net.any fun p => p.dst = c && decide (p.tc < 4)) && !underWay s rank.toNat

/-- The shells of a launch's cores take commands into `q0`, or take none (R297). -/
def closeShells (s : State) (v : Launch) (on : Bool) : State :=
  v.cores.foldl (fun s c => updShell s c.2 fun h => { h with closed := on }) s

/-- Step 4 of R243 once the firings are set aside: acceptance into `q0` stops, and the areas are written when the shells are quiet. -/
def leaveCores (s : State) (v : Launch) (finish : State → State) : State :=
  if !v.cores.all fun c => (s.getCore c.2).shell.closed then closeShells s v true
  else if v.cores.all fun c => shellQuiet s c.2 then finish s
  else s

/-- Step 4 of R243 for one core: its area is written, and the context records of its launch move there (DEDUCED, log 12). -/
def saveCore (id : Nat) (s : State) (c : CoreId) : State :=
  let k := s.getCore c
  let mine := k.resumes.filter (·.firing.launch = some id)
  let a := switchArea s c
  let m := putShell (putCore (clearRange s.hbm a (a + 2 ^ 21)) a k) (a + 0x1E0000) k.shell
  let m := mine.foldl (fun m r => setDoubles m (areaSlot s c r.slot) (readDoubles s.hbm (recordAt s c r.area r.slot) 4096)) m
  let bad := k.spPoison.map (fun w => (a + 4 * w) / 32) ++ (k.codeBad.map fun p => (a + 0x100000 + 2 * p) / 32) ++
    mine.flatMap fun r => (badGranules s (recordAt s c r.area r.slot) 32768).map fun o => (areaSlot s c r.slot + o) / 32
  { s with hbm := m,
           hbmPoison := bad.foldl sins (s.hbmPoison.filter fun g => !(decide (a ≤ 32 * g) && decide (32 * g < a + 2 ^ 21))) }

/-- A transfer that has been asked of or by a core will be asked again. -/
def dropAsks (s : State) (c : CoreId) : State :=
  let ids := (s.getCore c).shell.cmds.map (·.id)
  let asks := (s.getCore c).shell.asking
  let s := { s with cores := s.cores.map fun (i, k) => (i, { k with shell := { k.shell with
    asking := k.shell.asking.filter fun q => !(q.1 == c && ids.contains q.2) } }) }
  let s := asks.foldl (fun s q => updCmd s q.1 q.2 fun d =>
    { d with stage := if cOp (d.word 0) = 0 then .sending else .queued }) s
  updShell s c fun h => { h with asking := [] }

/-- The context slot of an entry is free again: VALID is cleared and nothing else (R247). -/
def freeCtx (c : CoreId) (s : State) (r : Resume) : State :=
  let pa := ctxSlot (s.getCore c) r.slot
  if r.area then s else rawDoubles s pa [getDouble s.hbm pa &&& ~~~(1#64 <<< 56)]

/-- A core after its area is written: no launch, no rank, nothing of the outgoing launch that the area holds; its sums are zero until
an MMA runs (R260). -/
def leaveCore (id : Nat) (s : State) (c : CoreId) : State :=
  let s := ((s.getCore c).resumes.filter (·.firing.launch = some id)).foldl (freeCtx c) s
  (dropAsks s c).updCore c fun k =>
    { k with resumes := k.resumes.filter (·.firing.launch != some id), launch := none, rank := 0xFF00, ended := tdel k.ended id,
             shell := { k.shell with cmds := k.shell.cmds.filter fun d => !((keptCmds k.shell).any (·.id = d.id)),
                                     front := none, back := none, bow := [], stroke := [], sampleB := [], sampleS := [],
                                     ran := false, lastMma := none, closed := false } }

/-- Steps 4 and 5 of R243. -/
def finishSwitch (s : State) (v : Launch) : State :=
  let saved := v.cores.map fun c => (c.2, (⟨(s.getCore c.2).resumes.filter (·.firing.launch = some v.id), tget 0 (s.getCore c.2).ended v.id⟩ : SavedCore))
  let s := v.cores.foldl (fun s c => saveCore v.id s c.2) s
  let s := v.cores.foldl (fun s c => (leaveCore v.id s c.2).updCluster (clusterOf c.2) fun g => dropRecords g 0) s
  let s := closeShells s v false
  let v := { v with state := .switchedOut, switching := false, saved := saved, status := statusWord 1 0 v }
  putStatus { s with launches := v :: s.launches.filter (·.id != v.id) } v.pa v.status

/-- A launch that completes before its switch is done keeps its cores: its ranks are released (DEDUCED, log 13). -/
def giveUpSwitch (s : State) (v : Launch) : State :=
  let s := v.cores.foldl (fun s c => s.updCore c.2 fun k => { k with stopped := false }) s
  updLaunch (releaseRanks (closeShells s v false) v) v.id fun l => { l with switching := false }

/-- LAUNCH_SWITCH_OUT: the running launch `victim` makes way for the waiting record `n` (DESIGN CHOICE, log 11). -/
def execLaunchSwitchOut (n victim : Nat) (s : State) : Result :=
  .next <| match findLaunch s n, findLaunch s victim with
    | some l, some v =>
      if v.switching && v.state = .running then
        (if v.cores.all fun c => firingsAside s v c.1 c.2 then leaveCores s v (finishSwitch · v) else s)
      else if v.switching && v.state = .complete then giveUpSwitch s v
      else if mayOust s l v then beginSwitch s v
      else s
    | _, _ => s

/-! ### Switching in -/

/-- The resume entries of a core from the slots of its area, in their old order; the records go to free context slots. -/
def slotsBack (c : CoreId) : List Resume → State → State
  | [], s => s
  | r :: t, s =>
    let k := s.getCore c
    let pa := areaSlot s c r.slot
    let w := getDouble s.hbm pa
    let s : State := match w.getLsbD 56, freeSlotOf k with
      | true, some slot =>
        let f := { r.firing with cls := w.extractLsb' 48 8, seatClass := fld w 59 57 }
        let bad := badGranules s pa 32768
        let s := rawDoubles s (ctxSlot k slot) (readDoubles s.hbm pa 4096)
        let s := { s with hbmPoison := (bad.map fun o => (ctxSlot k slot + o) / 32).foldl sins s.hbmPoison }
        s.setCore c { k with resumes := k.resumes ++ [(⟨fld w 63 61, slot, f, false, false⟩ : Resume)] }
      | _, _ => s
    slotsBack c t { s with hbm := clearRange s.hbm pa (pa + 32768),
                           hbmPoison := s.hbmPoison.filter fun g => !(decide (pa ≤ 32 * g) && decide (32 * g < pa + 32768)) }

/-- A core restored from its area. -/
def restoreCore (l : Launch) (s : State) (rank : BitVec 16) (c : CoreId) : State :=
  let a := switchArea s c
  let m := s.hbm
  let bad := badGranules s a 0x120000
  let saved : SavedCore := ((l.saved.find? (·.1 = c)).map (·.2)).getD { resumes := [], ended := 0 }
  let s := s.updCore c fun k =>
    let k := takeCore m a k
    { k with
      shell := takeShell m (a + 0x1E0000) k.shell
      spPoison := (bad.filter (decide <| · < 0x100000)).flatMap fun o => (List.range 8).map (o / 4 + ·)
      codeBad := (bad.filter fun o => decide (0x100000 ≤ o) && decide (o < 0x120000)).flatMap fun o =>
        (List.range 16).map ((o - 0x100000) / 2 + ·)
      rank := rank, launch := some l.id, stopped := false, ended := (k.count (some l.id) saved.ended).ended }
  let s := (blockCmds m (a + 0x1E0000)).foldl (fun s ws => acceptCmd s c ws []) s
  (slotsBack c saved.resumes s).updCluster (clusterOf c) fun g => dropRecords g 0

/-- The switch area of a core reads poison where its tables, registers and shell block stand: what the scratchpad, the code store and
the records hold keeps its poison instead. -/
def areaBad (s : State) (c : CoreId) : Bool :=
  let a := switchArea s c
  rangePoisoned s (a + 0x120000) 0x10000 || rangePoisoned s (a + 0x1E0000) 0x14400

/-- LAUNCH_SWITCH_IN: a switched-out launch gets its cores back (R243). The manual gives an area that reads poison no outcome: the
launch is aborted as by R385 (DESIGN CHOICE, log 85). -/
def execLaunchSwitchIn (n : Nat) (s : State) : Result :=
  .next <| match findLaunch s n with
    | none => s
    | some l =>
      if l.state ≠ .switchedOut || !coresFree s l || overtaken s l then s
      else if l.cores.any fun c => areaBad s c.2 then abortLaunch s l
      else
        let s := l.cores.foldl (fun s c => restoreCore l s c.1 c.2) s
        let s := releaseRanks s l
        let l := { l with state := .running, saved := [], status := statusWord 2 0 l }
        putStatus (updLaunch s n fun _ => l) l.pa l.status

end Sys2Proof.Machine
end

