-- ==== Sys2Proof/Machine/Summary.lean ====
section
/-! DEFINITION. The SUMMARY block: what each of its doubles holds, for the module and for a severed group (R378, R384, R386, R395,
R396). -/

namespace Sys2Proof.Machine

/-- The CN of a chiplet index. -/
def chipletAt (i : Nat) : Nat := if i < 169 then i else i - 169 + 0x100

/-- Bits `0` to `n - 1` as a number, bit `i` set where `f i`. -/
def bitmap (n : Nat) (f : Nat → Bool) : Nat := pack 1 ((List.range n).map fun i => (f i).toNat)

/-- The seats of a core that are not fenced. -/
def liveSeats (s : State) (c : CoreId) : Nat := ((List.range 8).filter fun n => !(s.seatAt c n).fenced).length

/-- An L2 slot is live. -/
def slotLive (s : State) (n : Nat) : Bool := !s.slotsBad.contains n && bustState s (slotSite n) == 5

/-- A live HBM stack: READY and not fenced. -/
def stackLive (s : State) (n : Nat) : Bool := !s.stacksBad.contains n && bustState s (0x100 + n) == 5

/-- The live population: seats, cores, L2 slots, stacks. -/
def population (s : State) : Nat :=
  let cores := gridCores.filter (coreLive s)
  (cores.map (liveSeats s)).sum * 2 ^ 48 + cores.length * 2 ^ 32 + ((List.range 144).filter (slotLive s)).length * 2 ^ 16 +
    ((List.range 16).filter (stackLive s)).length

/-- The byte of a site: CUR, CAPPED and BUSY. -/
def siteByte (s : State) (cn : Nat) : Nat :=
  let h := s.getChiplet cn
  if isCluster cn && bustState s cn != 0 then h.cur.toNat + h.capped.toNat * 8 + h.busy.toNat * 16 else 0

/-- The four doubles of a launch queue. -/
def queueDoubles (s : State) (q : Nat) : List Word :=
  let v := s.queue q
  let w := if qBase v.cfg < 128 then 0 else getDouble s.hbm (qBase v.cfg - 128)
  let last := qBase v.cfg + 256 * ((v.rix.toNat - 1) % qRecords v.cfg)
  [v.cfg, v.rix, w, if v.rix = 0 then 0 else getDouble s.hbm (last + 0xF8)]

/-- Where the queue header of a channel lies: where it is subscribed, else by the cox core's translation of QH. -/
def headerOf (s : State) (cl ch : Nat) : Option Nat :=
  let c := s.chan cl ch
  if qSub c.hlq then some c.hpa
  else (presentLeaf s (.op (coreAt cl 0) 0) (qHead c.hlq)).map fun e => e.phys (qHead c.hlq)

/-- The four doubles of a haul channel; zero when EN is 0, and the two of a header that no page holds are zero (DEDUCED, log 25). -/
def channelDoubles (s : State) (cl ch : Nat) : List Word :=
  let c := s.chan cl ch
  let at' (off : Nat) : Word := match headerOf s cl ch with
    | some pa => getDouble s.hbm (pa + off)
    | none => 0
  if qEn c.hlq then [c.hlq, at' 8, statWord c, at' 0] else [0, 0, 0, 0]

/-- The double of HBM that a double of the block repeats: W and STATUS of a launch queue, RIX and W of a haul queue; the flag tells what
a base die serves (R395). -/
def summaryRead (s : State) (off : Nat) : Option (Nat × Bool) :=
  if 0x2C00 ≤ off && off < 0x2D00 then
    let v := s.queue ((off - 0x2C00) / 32)
    match off / 8 % 4 with
    | 2 => if qBase v.cfg < 128 then none else some (qBase v.cfg - 128, true)
    | 3 => if v.rix = 0 then none else some (qBase v.cfg + 256 * ((v.rix.toNat - 1) % qRecords v.cfg) + 0xF8, false)
    | _ => none
  else if 0x3000 ≤ off && off < 0x8480 then
    let n := (off - 0x3000) / 32
    if !qEn (s.chan (n / 4) (n % 4)).hlq then none
    else match off / 8 % 4 with
      | 1 => (headerOf s (n / 4) (n % 4)).map fun pa => (pa + 8, true)
      | 3 => (headerOf s (n / 4) (n % 4)).map fun pa => (pa, true)
      | _ => none
  else none

/-- A double of the block is read as poison (R378, R384, R396). -/
def summaryPoison (s : State) (off : Nat) : Bool :=
  (summaryRead s off).any fun (pa, msa) => if msa then poisoned s (.hbm pa true) 8 else readsPoison s pa

/-- The double of a core. -/
def coreDouble (s : State) (c : CoreId) : Nat :=
  let k := s.getCore c
  if !isGridCore c || k.fenced || bustState s (clusterOf c) = 0 then 0
  else
    let patterns := (k.patterns.filter fun e => e.2.1.getLsbD 63).length
    let enabled := (k.ports.filter fun e => pEn e.2.entry).length
    let holding := (k.ports.filter fun e =>
      !e.2.held.isEmpty || !e.2.tokens.isEmpty || (pKind e.2.entry == 2 && e.2.head != e.2.tail)).length
    let busy := bitmap 8 fun n => (k.getSeat n).status != .free
    patterns * 2 ^ 56 + enabled * 2 ^ 48 + holding * 2 ^ 40 + busy * 2 ^ 32 + (if k.ports.any (·.2.ovf) then 2 else 0) + k.ovfFull.toNat

/-- The module as its west basecamp sees it: every chiplet that it has fenced without reaching it stands as fenced (R384, R386). -/
def westView (s : State) : State := s.lost.foldl chipDown { s with lost := [] }

/-- The block of a module as a memory from address 0, under a value of MOD_STAT (R395). LAUNCH_ID, which R101 says SUMMARY reports, has
no place in the block of R395 and stands nowhere in it (DESIGN CHOICE, log 87). -/
def summaryBlock (s : State) (seq stat : Word) : Memory :=
  let num (m : Memory) (a n v : Nat) : Memory := setBytes m a n v
  let m := setDoubles [] 0 [seq, stat, s.token.setWidth 64, BitVec.ofNat 64 (ownModule s), BitVec.ofNat 64 (population s), s.powcap,
    (Config.power s.tick).setWidth 64, s.pstate]
  let m := num m 0x40 169 (pack 8 ((List.range 169).map (siteByte s)))
  let m := setDoubles m 0x400 ((List.range 203).map fun i => bustValue s (chipletAt i))
  let m := num m 0xC00 512 (bitmap 2704 fun c => (s.getCore c).fenced)
  let m := num m 0xE00 2048 (bitmap 10816 fun i => linkExists (i / 4) (i % 4) && linkBroken s (i / 4) (i % 4))
  let m := num m 0x1600 128 (bitmap 676 fun i => (s.chan (i / 4) (i % 4)).st = 3)
  let m := num m 0x1680 256 (bitmap 1352 fun i => (s.getCluster (i / 8)).banksBad.contains (i % 8))
  let m := num m 0x1780 32 (bitmap 144 s.slotsBad.contains)
  let m := num m 0x17A0 8 (bitmap 16 s.stacksBad.contains)
  let m := num m 0x1800 4096 (bitmap 21632 fun i => (s.seatAt (i / 8) (i % 8)).fenced)
  let m := num m 0x2800 812 (pack 32 ((List.range 203).map fun i => (s.getChiplet (chipletAt i)).corrected.toNat))
  let m := setDoubles m 0x2C00 ((List.range 8).flatMap (queueDoubles s))
  let m := setDoubles m 0x3000 ((List.range 676).flatMap fun i => channelDoubles s (i / 4) (i % 4))
  setDoubles m 0x8800 ((List.range 2704).map fun c => BitVec.ofNat 64 (coreDouble s c))

/-- The corrected errors of a chiplet since they were last looked at join its count, which stops at 2^32 - 1; a DARK one has none
(R331, R378, R395). -/
def addCorrected (tick : Nat) (s : State) (i : Nat) : State :=
  if bustState s (chipletAt i) = 0 then s else s.updChiplet (chipletAt i) fun h =>
    { h with corrected := BitVec.ofNat 32 (min (2 ^ 32 - 1) (h.corrected.toNat + (Config.correctedErrors tick i).toNat)) }

/-- The counts and the measured power are looked at anew. -/
def measured (s : State) : State := ((List.range 203).foldl (addCorrected s.tick) s).ticked

/-- The part of the module that a severed group can speak of: units of other chiplets stand as after reset (R386) (DEDUCED, log 19). -/
def groupView (s : State) : State :=
  let mine (cn : Nat) : Bool := s.group.contains cn
  { s with
    cores := s.cores.filter fun e => mine (chipOf e.1)
    clusters := s.clusters.filter fun e => mine e.1
    chiplets := s.chiplets.filter fun e => mine e.1
    slotsBad := s.slotsBad.filter fun n => mine (slotSite n)
    stacksBad := s.stacksBad.filter fun n => mine (0x100 + n)
    linksBad := s.linksBad.filter fun i => mine (siteOf (i / 4)) }

/-- A chiplet belongs to the severed group (R386). -/
def inGroup (s : State) (cn : Nat) : Bool := s.severed && s.group.contains cn

/-- The group's part of the block, as its basecamp answers it: MOD_STAT.STATE reads 4 SEVERED (R386, R393). -/
def severedBlock (s : State) : Memory := summaryBlock (groupView s) s.summarySeq ((s.modStat &&& ~~~7) ||| 4)

end Sys2Proof.Machine
end

