-- ==== Sys2Proof/Machine/Fabric.lean ====
section
/-! DEFINITION. Injection, the routers' hops, lanes and rotation, the fixed-line channel, what interfaces take on arrival, messages
and accesses of other modules, wavelengths, heartbeats and a severed group (R205, R336, R339 to R348, R350, R359 to R365, R386,
R398). A step that is not due leaves the state as it is. -/

namespace Sys2Proof.Machine

/-! ### Choosing a path (R343, R344, R347, R348) -/

/-- A hop crosses a fenced link, or leads to a router or edge chiplet that is not live. -/
def hopBroken (s : State) (r side : Nat) : Bool :=
  linkBroken s r side || match stepSide r side with
    | some n => routerDead s n
    | none => match edgeAt r side with
      | some cn => chipSilent s cn
      | none => true

/-- The mesh that a network-select entry gives: memory traffic goes by m[0], the rest by the parity of the exit router (R344). -/
def meshOf (sel : BitVec 2) (memory : Bool) (m : BitVec 2) (exit : Nat × Nat) : Mesh :=
  match sel.toNat with
  | 0 => .a
  | 1 => .b
  | 2 => if (if memory then m.getLsbD 0 else (exit.1 ^^^ exit.2) % 2 = 1) then .b else .a
  | _ => .fixed

/-- Traffic of the request and response classes (R341). -/
def Packet.memory (p : Packet) : Bool := p.tc = 4 || p.tc = 5

/-- The mesh on which a packet is injected: an answer takes its request's, a heartbeat the channel, the rest what the entry
gives (R344, R386). -/
def chooseMesh (s : State) (p : Packet) (entry exit : Nat × Nat) : Mesh :=
  match p.via with
  | some m => m
  | none => if p.body matches .sync _ then .fixed else meshOf (netSelOf s (routerNo entry) (indexOf p.dst)) p.memory p.m exit

/-- A packet enters the fabric: a core's own router, the entry router of an edge chiplet, or its place on the tree. The west
basecamp stands above the root (DEDUCED, log 15). -/
def inject (s : State) (p : Packet) : Option Route :=
  let src := indexOf p.src
  let d := indexOf p.dst
  let exit := doorOf d (coordOf src)
  let entry := doorOf src (coordOf d)
  let mesh := chooseMesh s p entry exit
  let side := (attachment (src - 2704 + 0x100)).1
  let tree := if src < 2704 then entry else hangOf s (src - 2704 + 0x100)
  let broken (r : Nat × Nat) : Bool := routerDead s (routerNo r) || (2704 ≤ src && linkBroken s (routerNo r) side)
  if src = d ∧ 2704 ≤ src then some ⟨d - 2704, 52, d, mesh, mesh, false⟩
  else if mesh != .fixed && !broken entry then some ⟨entry.1, entry.2, d, mesh, mesh, false⟩
  else if broken tree then none
  else some ⟨tree.1, tree.2, d, mesh, .fixed, src = 2736⟩

/-! ### Departure (R205, R363) -/

/-- A packet that answers another one: it has no number of its own. -/
def isAnswer (b : Body) : Bool := b matches .ack | .spawnAns .. | .rcmdAns .. | .memAns .. | .revoke _ | .revokeAck _

/-- The payload that a packet is to carry has not been read yet. -/
def unfilled (b : Body) : Bool := b matches .unread .. | .rcmd _ _ []

/-- At most 64 numbers of a requester to a home are outstanding: a memory piece waits for the 64th before it (R363). -/
def pieceRoom (s : State) (p : Packet) : Bool :=
  match p.body with
  | .memReq _ _ who home => s.reqs.all fun r => r.who != who || r.pieces.all fun q =>
      !q.dst.numbered || q.home != home || q.back || decide ((p.num - q.num).toNat < 64) || decide (32768 ≤ (p.num - q.num).toNat)
  | _ => true

/-- The entry of a request may take its first number: no earlier one of its source, rank and class is still to depart, or on its way to
another place of the rank, and fewer than 64 are outstanding (R205, R221, R363). -/
def mayDepart (s : State) (e : Sent) : Bool :=
  !((s.sent.takeWhile (·.pkt.orig != e.pkt.orig)).any fun f =>
    f.pkt.who = e.pkt.who && f.pkt.rank = e.pkt.rank && f.pkt.tc = e.pkt.tc &&
      (!f.gone || (f.pkt.dst != e.pkt.dst && f.reply.isNone))) &&
  decide ((s.sent.filter fun f => f.gone && f.pkt.who = e.pkt.who && f.pkt.home = e.pkt.home).length < 64)

/-- A packet changed in its place. -/
def setPacket (s : State) (p : Packet) : State := { s with net := s.net.map fun q => if q.id = p.id then p else q }

/-- A packet that has made a hop stands behind those that came to its router before it. -/
def requeue (s : State) (p : Packet) : State := { s with net := s.net.filter (·.id != p.id) ++ [p] }

/-- A packet departs from its interface: a request between interfaces gets its number with its first copy, and a copy of one that
has ended is given up (R205, R363). -/
def depart (s : State) (p : Packet) : State :=
  if unfilled p.body || !pieceRoom s p then s
  else if p.orig = 0 || isAnswer p.body then
    match inject s p with
    | some r => requeue s { p with route := some r }
    | none => s
  else match findSent s p.orig with
    | none => dropPacket s p.id
    | some e => match inject s p with
      | none => s
      | some r =>
        if e.gone then requeue s { p with route := some r, num := e.pkt.num }
        else if !mayDepart s e then s
        else
          let n := pget 0 s.seqs (p.who, p.home)
          let s := { s with seqs := pset s.seqs (p.who, p.home) (n + 1) }
          requeue (updSent s p.orig fun e => { e with gone := true, pkt := { e.pkt with num := n } }) { p with route := some r, num := n }

/-! ### Hops and lanes (R341 to R343, R347, R348) -/

/-- The next side in dimension order. -/
def orderSide (xFirst : Bool) (x y tx ty : Nat) : Nat :=
  let ew := if x < tx then 1 else 3
  let ns := if y < ty then 2 else 0
  if xFirst then (if x = tx then ns else ew) else if y = ty then ew else ns

/-- A route one link on. -/
def Route.moved (r : Route) (side : Nat) : Route :=
  match stepSide (52 * r.y + r.x) side with
  | some n => { r with x := n % 52, y := n / 52 }
  | none => r

/-- A route that has reached its edge chiplet. -/
def Route.atEdge (r : Route) : Route := { r with x := r.dest - 2704, y := 52 }

/-- What a router does with a packet: it waits, is discarded, steps onto the fixed-line channel, or takes an output in a lane. -/
inductive Hop where
  | wait | discard
  | turn (r : Route)
  | go (out lane : Nat) (r : Route)
  deriving DecidableEq, Repr

/-- The class of a packet on the fixed-line channel (R341). -/
def Packet.cls (p : Packet) : Nat := if p.tc = 4 then 0 else if p.tc = 5 then 1 else if p.tc = 3 then 3 else 2

/-- The lane of a packet on a link (R341): requests 0 and 1, responses 2 and 3, messages 4 to 6, combine 7, fixed-line 8 to 11. -/
def Packet.lane (p : Packet) (mesh : Mesh) : Nat :=
  if mesh = .fixed then 8 + p.cls
  else match p.tc with
    | 4 => (p.m.extractLsb' 1 1).toNat
    | 5 => 2 + (p.m.extractLsb' 1 1).toNat
    | 3 => 7
    | tc => 4 + tc

/-- An output of a router: the links of mesh B are others than those of mesh A, which carry the channel too. -/
def outputOf (router side : Nat) (mesh : Mesh) : Nat := 4 * router + side + if mesh = .b then 10816 else 0

/-- A hop in dimension order, or the step onto the fixed-line channel (R343, R348). -/
def meshHop (s : State) (p : Packet) (r : Route) : Hop :=
  let exit := doorOf r.dest (coordOf (indexOf p.src))
  let here := 52 * r.y + r.x
  let leaves := exit = (r.x, r.y)
  let side := if leaves then (attachment (r.dest - 2704 + 0x100)).1 else orderSide (r.mesh = .a) r.x r.y exit.1 exit.2
  if hopBroken s here side then .turn { r with mesh := .fixed }
  else .go (outputOf here side r.mesh) (p.lane r.mesh) (if leaves then r.atEdge else r.moved side)

/-- A hop on the fixed-line channel: a packet whose entry names a fenced link waits, and a flagged packet sent up again is
discarded (R347, R348, R368) (DEDUCED, log 16). -/
def fixedHop (s : State) (p : Packet) (r : Route) : Hop :=
  let here := 52 * r.y + r.x
  let e := escapeOf s here r.dest
  let port := e.toNat % 8
  let down := e.getLsbD 3
  let out := (attachment (r.dest - 2704 + 0x100)).1
  let q := { r with down := r.down || down }
  if r.down && !down && port < 5 then .discard
  else if port < 4 then
    if hopBroken s here port || (stepSide here port).isNone then .wait else .go (outputOf here port .a) (p.lane .fixed) (q.moved port)
  else if port = 4 && 2704 ≤ r.dest && (attachRouters (r.dest - 2704 + 0x100)).contains here && !hopBroken s here out then
    .go (outputOf here out .a) (p.lane .fixed) q.atEdge
  else .wait

/-- What a packet on its way does next; one in a router that is not live is lost (R342, R384). -/
def nextHop (s : State) (p : Packet) (r : Route) : Hop :=
  if routerDead s (52 * r.y + r.x) then .discard
  else if r.mesh = .fixed then fixedHop s p r else meshHop s p r

/-- The lanes that have a packet ready for an output, each packet with its lane, in order of arrival. -/
def readyAt (s : State) (out : Nat) : List (Nat × Nat) :=
  s.net.filterMap fun q => match q.route with
    | none => none
    | some r => if q.came then none else match nextHop s q r with
      | .go o l _ => if o = out then some (l, q.id) else none
      | _ => none

/-- The lane that the rotation of an output grants next (R342). -/
def grantLane (s : State) (out : Nat) (ready : List (Nat × Nat)) : Option Nat :=
  ((List.range 12).map fun i => (tget 11 s.grants out + 1 + i) % 12).find? fun l => ready.any (·.1 = l)

/-- A packet takes its output when the rotation grants its lane and it is the first of the lane (R342). -/
def granted (s : State) (id out lane : Nat) : Bool :=
  let ready := readyAt s out
  grantLane s out ready = some lane && ((ready.find? (·.1 = lane)).map (·.2)) = some id

/-- A hop from one route to the next crosses a bond between two chiplets. -/
def crosses (r q : Route) : Bool := r.y == 52 || q.y == 52 || siteOf (52 * r.y + r.x) != siteOf (52 * q.y + q.x)

/-- Whether a packet that makes a hop arrives damaged and is discarded: on a bond, whose packets a reissue replaces; no rule replaces
a revocation or its acknowledgement, so none of these is (R342) (DESIGN CHOICE, log 92). -/
def damaged (s : State) (p : Packet) (r q : Route) : Bool :=
  crosses r q && !(p.body matches .revoke _ | .revokeAck _) && Config.damaged s.tick

/-- A packet on its way makes a hop. -/
def hopOn (s : State) (p : Packet) (r : Route) : State :=
  match nextHop s p r with
  | .wait => s
  | .discard => dropPacket s p.id
  | .turn r => setPacket s { p with route := some r }
  | .go out lane q =>
    if !granted s p.id out lane then s
    else
      let t := { s with grants := tset s.grants out lane }.ticked
      if damaged s p r q then dropPacket t p.id else requeue t { p with route := some q }

/-! ### Fibres (R336, R360, R362) -/

/-- The 16-bit elements of a payload. -/
def halves (ws : List Word) : List Nat := ws.flatMap fun w => (List.range 4).map fun i => (w.extractLsb' (16 * i) 16).toNat

/-- Doubles from 16-bit elements. -/
def fromHalves (n : Nat) (es : List Nat) : List Word := natWords n (pack 16 es)

/-- COMP of a header. -/
def hComp (h : Word) : Bool := h.getLsbD 17

/-- The lit fibres of an optical chiplet towards a module (R362). -/
def fibresTo (s : State) (chip m : Nat) : List Nat :=
  (List.range 4).filter fun f =>
    let e := tget 0 s.fib (4 * chip + f)
    e.getLsbD 16 && e.toNat / 256 % 256 == m

/-- A fibre carries traffic: one of its wavelengths is live (R362). -/
def fibreLive (s : State) (chip f : Nat) : Bool := (List.range 8).any fun l => !s.deadWaves.contains (chip, f, l)

/-- The module that a packet leaves for, the number that chooses its fibre, and what travels: a message's payload is coded when
COMP is set, and a memory request goes by its line's m, formed from its virtual address (R362) (DEDUCED, log 17). -/
def fibreOf (s : State) (p : Packet) : Option (Nat × Nat × Body) :=
  match p.body with
  | .msg h ws => p.far.map fun m => (m, (h.extractLsb' 0 16 ^^^ hDest h).toNat,
      .msg h (if hComp h then encodeChunk s.codec 5 (halves ws) else ws))
  | .count h n => p.far.map fun m => (m, (h.extractLsb' 0 16 ^^^ hDest h).toNat, .count h n)
  | .farMem _ _ a _ _ => some (fld a 55 48, lineHash (fld a 47 0 / 128), p.body)
  | _ => none

/-- A request at its optical chiplet leaves on a fibre in the order of its numbers; a reissue leaves again while the far answer is
to come (R205, R360, R363). -/
def leaveModule (s : State) (p : Packet) : State :=
  let e := pget 0 s.expects (p.who, p.home)
  match fibreOf s p, findSent s p.orig with
  | some (m, n, b), some o =>
    let fs := fibresTo s (p.dst - 8192) m
    match (fs[n % fs.length]?).filter (fibreLive s (p.dst - 8192)) with
    | none => s
    | some f =>
      let out (s : State) : State := { updSent (dropPacket s p.id) p.orig fun o => { o with away := true } with
                                       fibre := some ⟨p.dst - 8192, f, b⟩ }
      if p.num = e then out { s with expects := pset s.expects (p.who, p.home) (e + 1) }
      else if inWindow p.num e then (if o.away then out s else dropPacket s p.id)
      else s
  | _, _ => if p.num = e then { dropPacket s p.id with expects := pset s.expects (p.who, p.home) (e + 1) }
            else if inWindow p.num e then dropPacket s p.id else s

/-! ### What an interface takes on arrival (R350, R363, R364) -/

/-- The answer of a home reaches its requester: the first one to a piece counts, a later one is discarded (R363). -/
def takeAnswer (s : State) (p : Packet) (req i : Nat) (st : PieceState) (data : BitVec 64) : State :=
  updPiece (dropPacket s p.id) req i fun q => if q.back then q else { q with st := st, data := data, back := true }

/-- A copy of a piece at a home: one that its request no longer wants passes its number unperformed, or is discarded below it. -/
def staleCopy (s : State) (p : Packet) (req i who home : Nat) : State :=
  let wanted := (findPiece s req i).any fun (_, q) => !q.back && (q.dst.home s).any fun h => homeEnd s h = p.dst
  let e := pget 0 s.expects (who, home)
  if wanted then s
  else if p.num = e then { dropPacket s p.id with expects := pset s.expects (who, home) (e + 1) }
  else if ahead p.num e then s
  else dropPacket s p.id

/-- A request at its end that is not next in order: a duplicate is answered from the stored reply, one below the window is
discarded (R364); a performance-state request is the chiplet controller's (R398). -/
def takeRequest (s : State) (p : Packet) : State :=
  let e := pget 0 s.expects (p.who, p.home)
  if p.num = e then
    match p.body with
    | .pstate cn st => askPower (takePacket s p) cn st none
    | _ => s
  else if ahead p.num e || (s.getCore p.dst).shell.passed.any (·.1 = p.id) then s
  else match inWindow p.num e, (findSent s p.orig).bind (·.reply) with
    | true, some b => answerPacket (dropPacket s p.id) p b
    | _, _ => dropPacket s p.id

/-- A packet stands at its end: what no event of its own deals with. -/
def takeArrived (s : State) (p : Packet) : State :=
  match p.body with
  | .memAns req i st data => takeAnswer s p req i st data
  | .memReq req i who home => staleCopy s p req i who home
  | .ack => dropSent (dropPacket s p.id) p.orig
  | .revoke _ | .revokeAck _ => s
  | .spawnAns .. | .rcmdAns .. => if p.orig ≠ 0 && (findSent s p.orig).isNone then dropPacket s p.id else s
  | _ =>
    if p.orig = 0 then s
    else if 8192 ≤ p.dst && decide (p.dst < 12288) then leaveModule s p
    else takeRequest s p

/-- ROUTER_FORWARD: a packet departs from its interface, makes one hop, or is taken at its end; for a message that has left on a
fibre, the far chiplet's acknowledgement comes back (DEDUCED, log 14). -/
def execRouterForward (id : Nat) (s : State) : Result :=
  .next <| match s.net.find? (·.id = id) with
    | none => if (findSent s id).any fun e => e.away && forRank e.pkt.body then dropSent s id else s
    | some p => match p.route with
      | none => depart s p
      | some r => if p.came then takeArrived s p else hopOn s p r

/-! ### Accesses and messages of other modules (R359, R360) -/

/-- The number that stands for a requester of another module, as a requester and as a unit that translates (R363, R364). -/
def farKey (who : Nat) : Nat := 524288 + who
def farUnit (chip who : Nat) : Asker := .far chip (farKey who)

/-- The FAULT of one byte of a far access at this module. -/
def farByteFault (s : State) (chip who : Nat) (wr : Bool) (va : Nat) : Option Nat :=
  if 2 ^ 48 ≤ va then some 6 else leafFault s wr va (leafOf s (farUnit chip who) va)

/-- The first byte of a far access that fails its check, or whose translation is awaited. -/
def farFault (s : State) (chip who a n : Nat) (wr : Bool) : Option (Nat × Nat) :=
  (List.range n).findSome? fun i => (farByteFault s chip who wr (a + i)).map fun f => (f, a + i)

/-- Where a byte of a far access lies. -/
def farPlace (s : State) (chip who : Nat) (a : Word) : Place :=
  match leafOf s (farUnit chip who) (fld a 47 0) with
  | .hit e => e.place s (fld a 47 0)
  | _ => .hbm 0 false

/-- A taken access or message of another module changed. -/
def updSeen (s : State) (e : FarSeen) (f : FarSeen → FarSeen) : State :=
  { s with farSeen := s.farSeen.map fun d => if d.chip = e.chip ∧ d.who = e.who ∧ d.num = e.num then f d else d }

/-- An access or message of another module is answered, and the reply stored (R364). -/
def replySeen (s : State) (e : FarSeen) (b : Reply) : State :=
  { updSeen s e fun d => { d with reply := some b, sub := none } with reply := b }

/-- The request of a chiplet for a far access leaves (R359, R363). -/
def postServe (s : State) (e : FarSeen) (a n : Nat) (data : Option (List Byte)) : State :=
  let va := BitVec.ofNat 64 a
  let bytes := pack 8 ((data.getD []).map (·.toNat))
  let s' := updSeen (s.bump.forget (farUnit e.chip e.who)) e fun d => { d with sub := some s.fresh, reply := none }
  postReq s' { id := s.fresh, core := 8192 + e.chip, seat := 0, firing := 0, pc := 0, op := if data.isSome then .store else .vload,
               pieces := wordsAt (farPlace s e.chip e.who) va n (2 ^ (8 * n) - 1) bytes, agent := .far e.who }

/-- The answer of the homes to a chiplet's request is the answer to the far access: poison that is read, or a partial write to
poison as FAULT 7; one that failed here is served when it is sent again (DEDUCED, log 18). -/
def serveAnswer (s : State) (e : FarSeen) (r : Req) (n : Nat) : State :=
  let s := dropReq s r.id
  match reqError r with
  | some (cause, _) =>
    if cause = 0x24 then updSeen s e fun d => { d with sub := none }
    else replySeen s e (if r.op = .store then .fault 7 else .poison)
  | none => replySeen s e (if r.op = .store then .acked else
      .bytes ((List.range n).map fun i => BitVec.ofNat 8 (readBits r.pieces / 2 ^ (8 * i))))

/-- Another module's access under FAR_TT goes on: a store is performed once, a load served again; it is checked, its walks awaited, its
request sent to the homes and answered (R359, R361, R364). -/
def farServe (s : State) (e : FarSeen) (a n : Nat) (data : Option (List Byte)) : State :=
  match e.sub, e.reply.filter fun _ => data.isSome with
  | _, some b => { s with reply := b }
  | some id, none => match (findReq s id).filter fun r => settled r && !awaitsRevs s id with
    | some r => serveAnswer s e r n
    | none => s
  | none, none => match farFault s e.chip e.who a n data.isSome with
    | some (f, x) =>
      if f = walkFault then askWalk s (farUnit e.chip e.who) s.farTt x
      else replySeen (s.forget (farUnit e.chip e.who)) e (.fault (BitVec.ofNat 8 f))
    | none => if n = 0 then replySeen s e (if data.isSome then .acked else .bytes []) else postServe s e a n data

/-- An access or message of another module reaches an optical chiplet: the next number of its requester is taken, one that has been
taken comes again, one above waits, and one below the window is discarded (R364). -/
def farTake (s : State) (r : FarSource) (f : State → FarSeen → State) : State :=
  let ⟨chip, who, num⟩ := r
  let key := (farKey who, 8192 + chip)
  let next := pget 0 s.expects key
  match s.farSeen.find? fun d => d.chip = chip && d.who = who && d.num = num with
  | some e => if inWindow num next then f s e else s
  | none =>
    if num ≠ next then s
    else
      let e : FarSeen := { chip := chip, who := who, num := num }
      let kept := s.farSeen.filter fun d => !(d.chip = chip && d.who = who) || inWindow d.num (next + 1)
      f { s with farSeen := kept ++ [e], expects := pset s.expects key (next + 1) } e

/-- FAR_ACCESS: an access of another module's requester, with its number, reaches an optical chiplet, or is polled for its answer;
a severed group answers only reads, with its part of the SUMMARY block (R359, R386) (DEDUCED, log 19). -/
def execFarAccess (f : FarSource) (va : Word) (len : Nat) (data : Option (List Byte)) (s : State) : Result :=
  .next <|
    if 8 ≤ f.chip || chipSilent s (0x110 + f.chip) then s
    else if inGroup s (0x110 + f.chip) then
      match data with
      | none =>
        let s := measured s
        if (List.range len).any fun i => summaryPoison (groupView s) ((fld va 15 0 + i) / 8 * 8) then { s with reply := .poison }
        else { s with reply := .bytes (getList (severedBlock s) (fld va 15 0) len) }
      | some _ => s
    else farTake s f fun s e => farServe s e (fld va 47 0) ((data.map (·.length)).getD len) data

/-- The payload of a message from another module, decoded when COMP is set; `none` when the chunk is malformed (R358) (DEDUCED, log 17). -/
def farPayload (h : Word) (ws : List Word) : Option (List Word) :=
  if hComp h then (decodeChunk 5 (4 * hWords h) ws).map (fromHalves (hWords h))
  else if ws.length = hWords h then some ws else none

/-- Another module's message is forwarded, or answered with a dead-rank notice; one that comes again is answered from the stored
reply (R360, R364). A malformed payload is not forwarded, and no answer is given (DEDUCED, log 17). -/
def farForward (s : State) (e : FarSeen) (header : Word) (payload : List Word) (count : Bool) : State :=
  match e.reply, farPayload header payload with
  | some b, _ => { s with reply := b }
  | none, none => s
  | none, some ws => match resolve s (8192 + e.chip) (hDest header) with
    | .absent | .dead => replySeen s e (.notice 0x33 (hDest header) header)
    | _ =>
      let body : Body := if count then .count header ((ws.getD 0 0).setWidth 32) else .msg header ws
      replySeen (emit s (8192 + e.chip) (hDest header) (hTc header) body) e .acked

/-- FAR_MESSAGE: a message of another module's requester, with its number, is resolved in the chiplet's rank table. -/
def execFarMessage (f : FarSource) (header : Word) (payload : List Word) (count : Bool) (s : State) : Result :=
  .next <|
    if 8 ≤ f.chip || chipSilent s (0x110 + f.chip) then s
    else farTake s f fun s e => farForward s e header payload count

/-- FAR_TT_WRITE: reserved fields stay 0 (R178), the far translation caches are emptied, and far walks begin again (R361). -/
def writeFarTt (s : State) (v : Word) : State :=
  { s with farTt := v &&& 0xFFFF00FFFFFFF001, farTlb := [], asks := s.asks.filter fun a => !(a.unit matches .far ..),
           reqs := s.reqs.filter fun r => !(isWalk r.op && decide (8192 ≤ r.core)) }
def execFarTtWrite (v : Word) (s : State) : Result := .next (writeFarTt s v)

/-- WAVELENGTH_FAILURE: a wavelength of a sending fibre drops out of its rotation. -/
def execWavelengthFailure (chip fibre lambda : Nat) (s : State) : Result :=
  .next <|
    if 8 ≤ chip || 4 ≤ fibre || 8 ≤ lambda || s.deadWaves.contains (chip, fibre, lambda) then s
    else { s with deadWaves := s.deadWaves ++ [(chip, fibre, lambda)] }

/-! ### Heartbeats (R386) -/

/-- HEARTBEAT: a basecamp sends its heartbeat to the other one on the fixed-line channel. -/
def execHeartbeat (basecamp : Nat) (s : State) : Result :=
  .next <|
    let b := basecamp % 2
    if 2 ≤ basecamp || !clockRuns (s.getChiplet (0x120 + b)) || bustState s (0x120 + b) = 6 then s
    else newPacket s (4096 + 2 * b) (4098 - 2 * b) (bcRank (1 - b)) 2 (.sync b) none

/-- A link crosses the split: one of the chiplets at its ends is lost. -/
def crossesSplit (s : State) (link : Nat) : Bool :=
  linkExists (link / 4) (link % 4) && isLost s (siteOf (link / 4)) != (match stepSide (link / 4) (link % 4) with
    | some n => isLost s (siteOf n)
    | none => (edgeAt (link / 4) (link % 4)).any (isLost s))

/-- The L2 slots of the chiplets that the west basecamp has lost. -/
def lostSlots (s : State) : List Nat := (List.range 144).filter fun n => isLost s (slotSite n)

/-- Chiplets are fenced without being reached: the links to them stop, the L1 words and the requests of their lines end for the cores
that are left, and those whom R384 names are told; on the chiplets themselves firings and memories go on (R384, R386). -/
def loseChips (s : State) (l : List Nat) : State :=
  let s : State := { s with lost := s.lost ++ l, lostTables := s.lostTables.or s.tables }
  let slots := lostSlots s
  let s := linksDown s ((l.flatMap chipLinks).filter (crossesSplit s))
  let mine (line : Nat) : Bool := slots.contains (homeSlot s (128 * line))
  let s : State := { s with
    cores := s.cores.map fun (c, k) => (c, if isLost s (chipOf c) then k else
      { k with l1 := k.l1.map fun w => if mine w.line then { w with words := [] } else w })
    reqs := s.reqs.map fun r => if isLost s (endChip r.core) then r else answerPoison slots r }
  l.foldl (fun s cn =>
    let s := toFirmware s 0 0 [BitVec.ofNat 64 (2 ^ 63 + 7 * 2 ^ 56 + cn)]
    ((otherCox s cn).filter fun c => !isLost s (chipOf c)).foldl (fun s c => fenceNotice s c 7 cn) s) s

/-- HEARTBEAT_LOSS_WEST: the west basecamp fences every chiplet that it can no longer reach, and rebuilds the tree (DEDUCED, log 19). -/
def execHeartbeatLossWest (unreachable : List Nat) (s : State) : Result :=
  .next <|
    if chipSilent s 0x120 then s
    else rebuild (loseChips s (unreachable.eraseDups.filter fun cn => isChiplet cn && cn != 0x120 && !chipSilent s cn && !isLost s cn))

/-- SEVERED: the east basecamp enters SEVERED, and its frame reaches the chiplets that it reaches: they are its group (DEDUCED, log 19). -/
def execSevered (reached : List Nat) (s : State) : Result :=
  .next <|
    if chipSilent s 0x121 then s
    else { s with severed := true, group := (0x121 :: reached).filter fun cn => isChiplet cn && cn != 0x120 && !chipSilent s cn }

end Sys2Proof.Machine
end

