-- ==== Sys2Proof/Machine/Bringup.lean ====
section
/-! DEFINITION. Reset, the ascents, memory initialisation and firmware setup, and performance states (R244, R367 to R370, R376,
R388, R393, R397 to R401). A step that is not due leaves the state as it is. -/

namespace Sys2Proof.Machine

/-! ### Signed images (R401) -/

/-- A little-endian field of a byte list. -/
def listField (l : List Byte) (off n : Nat) : Nat := bytesNat ((l.drop off).take n)

/-- The image of a kind (0 firmware, 1 supervisor) passes the checks of R401: its header, a fused key slot that is not revoked, no
SVN below the fused minimum of its kind, and the signature (DEDUCED, log 21). -/
def imageOk (kind : Nat) (l : List Byte) : Bool :=
  let key := listField l 8 1
  listField l 0 4 == 0x31575956 && decide (key ≤ 3) && listField l 9 7 == 0 && listField l 0x18 40 == 0 &&
    decide (0x200 + listField l 0x10 8 ≤ l.length) && Config.keyFused key && !Config.keyRevoked key &&
    decide (listField Config.svns (4 * kind) 4 ≤ listField l 4 4) && Config.signatureOk l

/-- An image with nothing after its payload. -/
def trimImage (l : List Byte) : List Byte := l.take (0x200 + listField l 0x10 8)

/-- ROM loads the firmware into core 0 of the west basecamp and starts its class 0x01 routine in seat 7 (R367), with x3
at the seat's payload area (R111, R239) (DEDUCED, log 21). -/
def startFirmware (s : State) (firmware : List Byte) : State :=
  let m := setList [] 0 (firmware.drop 0x200)
  let s := s.updCore 4096 (loadCore m (fun _ => false) ((readSections m maxSections 0).getD []))
  let args := (List.range 8).map fun i => BitVec.ofNat 64 (listField firmware (0x40 + 8 * i) 8)
  startFiring s 4096 7 ⟨0, 1, 7, 7, none⟩ (handlerOf (s.getCore 4096) 1)
    [1, 0, BitVec.ofNat 64 (2 ^ 56 + payArea (s.getCore 4096) 7 + 512), 0] args

/-- MODULE_RESET: the machine after reset, its two images checked; a rejected one stops the sequence with BOOT_ERR (R388). The
schedule and the numbers of free values go on (DEDUCED, log 21). -/
def execModuleReset (firmware supervisor : List Byte) (s : State) : Result :=
  .next <|
    let r : State := { State.reset with agenda := s.agenda, focus := s.focus, tick := s.tick, fresh := s.fresh }
    if imageOk 0 firmware && imageOk 1 supervisor then
      startFirmware { r with modStat := 1, fwImage := trimImage firmware, supImage := trimImage supervisor } (trimImage firmware)
    else { r with modStat := 0x101 }

/-! ### The ascents (R368 to R370) -/

/-- MOD_STAT.STATE. -/
def modState (s : State) : Nat := fld s.modStat 2 0

/-- The ascents run: both images passed, and they have not settled. -/
def ascending (s : State) : Bool := s.modStat == 1

/-- The site of a grid router's neighbour on a side, or the edge chiplet there. -/
def chipBeyond (r side : Nat) : Option Nat :=
  match stepSide r side with
  | some n => some (siteOf n)
  | none => edgeAt r side

/-- The bonds of a chiplet: its side, and the chiplet beyond; an edge chiplet has one side with bonds. -/
def bonds (cn : Nat) : List (Nat × Nat) :=
  if cn < 169 then
    ((List.range 4).flatMap fun side => (siteLinks cn side).filterMap fun i => (chipBeyond (i / 4) side).map fun m => (side, m)).eraseDups
  else ((attachRouters cn).map fun r => (((attachment cn).1 + 2) % 4, siteOf r)).eraseDups

/-- A chiplet sends clock and frame on a side: it is ROPED, BELAYED or READY, and the side's BONDOK is 1 (R368). -/
def sendsOn (s : State) (cn side : Nat) : Bool :=
  decide (3 ≤ bustState s cn) && decide (bustState s cn ≤ 5) && (s.getChiplet cn).bust.getLsbD (16 + side)

/-- A neighbour of a chiplet that sends to it and satisfies a condition. -/
def heardFrom (s : State) (cn : Nat) (f : Nat → Bool) : Bool := (bonds cn).any fun (side, m) => sendsOn s m ((side + 2) % 4) && f m

/-- The links that cross one side of a chiplet; an edge chiplet has one side with bonds. -/
def sideLinks (cn side : Nat) : List Nat :=
  if cn < 169 then siteLinks cn side else if side = ((attachment cn).1 + 2) % 4 then chipLinks cn else []

/-- CLOCK_LOCK: DARK becomes CLOCKED; a basecamp has its own clock (DEDUCED, log 22). -/
def execClockLock (cn : Nat) (s : State) : Result :=
  .next <|
    if ascending s && isChiplet cn && bustState s cn = 0 && (0x120 ≤ cn || heardFrom s cn fun _ => true) then setBustState s cn 1 else s

/-- CALIBRATION_DONE: CLOCKED becomes TRIMMED; links that cross a side without BONDOK are fenced. -/
def execCalibrationDone (cn : Nat) (bondok spare : BitVec 4) (s : State) : Result :=
  .next <|
    if !ascending s || bustState s cn ≠ 1 then s
    else
      let s := setBustState s cn 2
      let s := s.updChiplet cn fun h =>
        { h with bust := (h.bust &&& ~~~0xFF0000) ||| BitVec.ofNat 64 (spare.toNat * 2 ^ 20 + bondok.toNat * 2 ^ 16) }
      let bad := ((List.range 4).filter fun side => !bondok.getLsbD side).flatMap (sideLinks cn)
      linksDown s (bad.filter fun i => linkExists (i / 4) (i % 4))

/-- A chiplet between CLOCKED and BELAYED. -/
def climbing (s : State) (cn : Nat) : Bool := 1 ≤ bustState s cn && bustState s cn ≤ 4

/-- CALIBRATION_FAIL: a chiplet below READY whose own calibration fails is FENCED. -/
def execCalibrationFail (cn : Nat) (s : State) : Result :=
  .next <| if ascending s && climbing s cn then chipDown s cn else s

/-- FRAME_TIMEOUT: no frame accepted within 2^24 cy of TRIMMED. -/
def execFrameTimeout (cn : Nat) (s : State) : Result :=
  .next <| if ascending s && bustState s cn = 2 then chipDown s cn else s

/-- A frame of a basecamp can reach a chiplet: from a bonded chiplet that accepted it, or at the basecamp itself (DEDUCED, log 22). -/
def frameReaches (s : State) (cn b : Nat) : Bool :=
  cn == 0x120 + b || heardFrom s cn fun m => fld (s.getChiplet m).bust 4 4 == b

/-- CONFIGURATION_FRAME: TRIMMED becomes ROPED with ID and FROM, and the tables of the chiplet's routers are set (R369). `basecamp`
2 stands for frames of both that complete in the same cycle: that of the lower number is accepted (DEDUCED, log 22). -/
def execConfigurationFrame (cn basecamp : Nat) (s : State) : Result :=
  .next <|
    let arrives := if basecamp = 2 then frameReaches s cn 0 && frameReaches s cn 1 else decide (basecamp < 2) && frameReaches s cn basecamp
    if !ascending s || bustState s cn ≠ 2 || !arrives then s
    else
      let basecamp := basecamp % 2
      let s := setBustState s cn 3
      let s := s.updChiplet cn fun h =>
        { h with bust := (h.bust &&& ~~~0xFFFF00000010) ||| BitVec.ofNat 64 (cn * 2 ^ 32 + basecamp * 16), framed := true, plain := true }
      let mine (router : Nat) : Bool := cn < 169 && siteOf router == cn
      { s with netSel := s.netSel.filter fun e => !mine e.1.1, escape := s.escape.filter fun e => !mine e.1.1 }

/-- BELAYED: clock and frame have left on every good side. -/
def execBelayed (cn : Nat) (s : State) : Result :=
  .next <| if ascending s && bustState s cn = 3 then setBustState s cn 4 else s

/-- READY. -/
def execReady (cn : Nat) (s : State) : Result :=
  .next <| if ascending s && bustState s cn = 4 then setBustState s cn 5 else s

/-! ### Performance states (R393, R397 to R400) -/

/-- The compute chiplets that are READY. -/
def liveClusters (s : State) : List Nat := (List.range 169).filter fun cn => isCluster cn && bustState s cn == 5 && !isLost s cn

/-- A write of PSTATE acts as one `pwr` for every live compute chiplet: the west basecamp forwards a request to each controller, which
takes it on arrival (R398) (DEDUCED, log 24). -/
def writePstate (s : State) (v : Word) : State :=
  (liveClusters s).foldl (fun s cn => newPacket s 4096 (coreAt cn 0) 0 2 (.pstate cn (v.setWidth 3)) none) { s with pstate := v &&& 7 }

/-- A write of POWCAP stores a ceiling of 1,500 to 5,800 W. -/
def writePowcap (s : State) (v : Word) : State := { s with powcap := BitVec.ofNat 64 (min 5800 (max 1500 (fld v 12 0))) }

/-- PSTATE_WRITE and POWCAP_WRITE: host writes before READY have no effect (R389). -/
def execPstateWrite (v : Word) (s : State) : Result := .next (if modState s = 3 then writePstate s v else s)
def execPowcapWrite (v : Word) (s : State) : Result := .next (if modState s = 3 then writePowcap s v else s)

/-- PSTATE_TRANSITION_DONE: the running transition of a chiplet completes, and the next request is served. -/
def execPstateTransitionDone (cn : Nat) (s : State) : Result :=
  .next <|
    let h := s.getChiplet cn
    if !h.busy then s
    else
      let h' := { h with cur := h.target, busy := false }
      let s := match h.queue with
        | (_, who) :: t =>
          if h.target = 7 then s.setChiplet cn h'
          else match who with
            | some (c, n, id) => answer (s.setChiplet cn { h' with queue := t }) c n id (.value 0)
            | none => s.setChiplet cn { h' with queue := t }
        | [] => s.setChiplet cn h'
      startPower cn (s.getChiplet cn).queue.length s

/-- POWER_CAP_THROTTLE: a controller starts or ends throttling; while it does, it may hold its chiplet in a state deeper than
the one requested, short of parking (DEDUCED, log 24). -/
def execPowerCapThrottle (cn : Nat) (capped : Bool) (state : BitVec 3) (s : State) : Result :=
  .next <|
    let h := s.getChiplet cn
    if !isCluster cn || bustState s cn ≠ 5 || h.busy || h.cur = 7 then s
    else if !capped then s.setChiplet cn { h with capped := false, cur := h.req }
    else if h.req.toNat ≤ state.toNat && state ≠ 7 then s.setChiplet cn { h with capped := true, cur := state }
    else s

/-! ### Memory initialisation and firmware setup (R388) -/

/-- Step 2 of R388 for one core (DEDUCED, log 23). -/
def initCore (s : State) (c : CoreId) : State :=
  if (s.getCore c).fenced || bustState s (chipOf c) ≠ 5 then s
  else s.updCore c fun k => { k with sp := [], full := [], spPoison := [], l1 := [], ports := [], patterns := [] }

/-- Step 2 of R388. -/
def initMemory (s : State) : State :=
  let s := (gridCores ++ bcCores).foldl initCore s
  let s := (liveClusters s).foldl (fun s cn => s.updCluster cn fun g => { g with ws := [], wsPoison := [] }) s
  { s with hbm := [], hbmPoison := [], owners := [], dirty := [], l2co := 0, co := [], coPoison := [], groups := [], ranks := [] }

/-- BIV_BASE and CTX_BASE of a core (R237, R247), and its supervisor image. -/
def setupCore (s : State) (c : CoreId) : State :=
  let s := s.updCore c fun k =>
    { k with bivBase := ((Config.bivBase c).setWidth 64) &&& ~~~0x3FFFF, ctxBase := ((Config.ctxBase c).setWidth 64) &&& ~~~0x7FFF }
  loadSupervisor s c

/-- Step 3 of R388 (DEDUCED, log 23). -/
def setupFirmware (s : State) : State :=
  let s := (gridCores ++ bcCores).foldl setupCore s
  let s := writeFarTt { s with switchBase := (Config.switchBase.setWidth 64) &&& 0xFFFFE00000 } 0
  writePstate (writePowcap s 0xD48) 3

/-- The ascents have settled: chiplets that a clock reached and that are below READY are fenced, and the tree of the live routers is
built (R349, R370). -/
def settleAscent (s : State) : State :=
  let s := allChips.foldl (fun s cn => if isChiplet cn && climbing s cn then chipDown s cn else s) s
  { rebuild s with modStat := 2 }

/-- A basecamp has its clock, and so times its ascent (R388). -/
def timesAscent (s : State) : Bool := !chipSilent s 0x120 || !chipSilent s 0x121

/-- ASCENT_SETTLED: the ascents end, once a basecamp that has its clock finds its chiplets READY or FENCED or its time over; the next
such event initialises memory, sets up the firmware's part and makes the module READY (R388) (DEDUCED, log 22). -/
def execAscentSettled (s : State) : Result :=
  .next <|
    if ascending s && timesAscent s then settleAscent s
    else if modState s = 2 && timesAscent s then { setupFirmware (initMemory s) with modStat := 3 }
    else s

end Sys2Proof.Machine
end

