-- ==== Sys2Proof/Machine/HostPort.lean ====
section
/-! DEFINITION. The host port: the register block, the mailbox, CXL.mem, and attestation (R240, R383,
R389 to R396, R402). -/

namespace Sys2Proof.Machine

/-! ### The mailbox (R393, R394, R396) -/

/-- MB_STAT.BUSY. -/
def mbBusy (s : State) : Bool := s.mbStat.getLsbD 63

/-- A command starts unless BUSY reads 1; the short ones are complete at once, with MB_CMD, RESULT and RET. Before READY the RESULT
is 2 and nothing else changes (R389, R393) (DEDUCED, log 26). -/
def mailbox (opcode : Nat) (arg : BitVec 48) (s : State) (f : State → State × Nat × Option Word) : State :=
  if mbBusy s then s
  else if modState s ≠ 3 then { s with mbStat := 2 }
  else
    let (s, result, ret) := f { s with mbCmd := BitVec.ofNat 16 opcode ++ arg }
    { s with mbStat := BitVec.ofNat 64 result, mbRet := ret.getD s.mbRet }

/-- An argument of SUMMARY names a 64 KiB block of a live stack. -/
def summaryArg (s : State) (a : Nat) : Bool :=
  decide (a < 2 ^ 40) && a % 2 ^ 16 == 0 && stackLive s (a / 2 ^ 36) && !isLost s (0x100 + a / 2 ^ 36) && decide (a % 2 ^ 36 + 2 ^ 16 ≤ populated)

/-- SUMMARY starts: BUSY reads 1 until the block is written, from its second double on. RESULT 2^63 sets BUSY. -/
def mbSummary (arg : BitVec 48) (s : State) : State :=
  mailbox 0xC000 arg s fun s =>
    if summaryArg s arg.toNat then ({ s with summary := some (arg.toNat, 1) }, 2 ^ 63, none) else (s, 1, none)

/-- A double of the block is written, and with it the poison that it was read as (R384, R396). -/
def writeSample (s : State) (pa : Nat) (poison : Bool) (w : List Byte) : State :=
  let s := firmwareBytes s (takingBasecamp s) pa w
  if poison then { s with hbmPoison := sins s.hbmPoison (pa / 32) } else s

/-- The next double of the block is sampled and written, in increasing order; SEQ, the first one, is written last, and the command is
then complete (R396) (DEDUCED, log 25). -/
def sampleSummary (s : State) : State :=
  match s.summary with
  | none => s
  | some (a, n) =>
    if n < 8192 then
      let s := measured s
      { writeSample s (a + 8 * n) (summaryPoison (westView s) (8 * n))
          (getList (summaryBlock (westView s) (s.summarySeq + 1) s.modStat) (8 * n) 8) with
        summary := some (a, n + 1) }
    else
      let seq := s.summarySeq + 1
      { firmwareBytes s (takingBasecamp s) a (wordsBytes [seq]) with summarySeq := seq, summary := none, mbStat := 0, mbRet := seq }

/-- TAKE_TOKEN. -/
def mbTakeToken (arg : BitVec 48) (s : State) : State :=
  mailbox 0xC001 arg s fun s =>
    if arg ≠ s.token then (s, 3, none) else ({ s with token := s.token + 1 }, 0, some ((s.token + 1).setWidth 64))

/-- ABORT. -/
def mbAbort (arg : BitVec 48) (data : Word) (s : State) : State :=
  mailbox 0xC002 arg s fun s =>
    if arg ≠ s.token then (s, 3, none)
    else match launchById s data with
      | some l => (abortLaunch s l, 0, none)
      | none => (s, 1, none)

/-- The fields of LQ_CFG_q (R240). -/
def lqMask : Word := 0x8007F0FFFFFFFF00

/-- LQ_CFG_q is written; a change of BASE or LOG2N restarts the queue. -/
def writeLqCfg (s : State) (q : Nat) (v : Word) : State :=
  let old := (s.queue q).cfg
  let moved := qBase v != qBase old || fld v 47 44 != fld old 47 44
  let s := s.setQueue q { s.queue q with cfg := v &&& lqMask }
  if moved then setRix s q 0 else s

/-- QUEUE_CFG. -/
def mbQueueCfg (arg : BitVec 48) (data : Word) (s : State) : State :=
  mailbox 0xC003 arg s fun s =>
    let q := fld data 2 0
    let v := data &&& ~~~7
    let old := (s.queue q).cfg
    let moved := qBase v != qBase old || fld v 47 44 != fld old 47 44
    if arg ≠ s.token then (s, 3, none)
    else if v &&& ~~~lqMask ≠ 0 || qBase v % (256 * qRecords v) ≠ 0 || (moved && old.getLsbD 63) then (s, 1, none)
    else (writeLqCfg s q v, 0, some v)

/-- An opcode that the table does not list. -/
def mbOther (opcode : BitVec 16) (arg : BitVec 48) (s : State) : State := mailbox opcode.toNat arg s fun s => (s, 4, none)

/-- SUMMARY: the command starts, or the one under way goes on (R394, R396). -/
def execSummary (arg : BitVec 48) (s : State) : Result := .next (if s.summary.isSome then sampleSummary s else mbSummary arg s)
/-- TAKE_TOKEN. -/
def execTakeToken (arg : BitVec 48) (s : State) : Result := .next (mbTakeToken arg s)
/-- ABORT with its LAUNCH_ID in MB_DATA. -/
def execAbort (arg : BitVec 48) (data : Word) (s : State) : Result :=
  .next (mbAbort arg data (if modState s = 3 then { s with mbData := data } else s))
/-- QUEUE_CFG with its value in MB_DATA. -/
def execQueueCfg (arg : BitVec 48) (data : Word) (s : State) : Result :=
  .next (mbQueueCfg arg data (if modState s = 3 then { s with mbData := data } else s))
/-- MB_UNSUPPORTED_OPCODE: the four supported opcodes are their own events. -/
def execMbUnsupportedOpcode (opcode : BitVec 16) (arg : BitVec 48) (s : State) : Result :=
  .next (if 0xC000 ≤ opcode.toNat && opcode.toNat ≤ 0xC003 then s else mbOther opcode arg s)

/-! ### The register block (R392) -/

/-- A write of MB_CMD starts its command (DEDUCED, log 26). -/
def writeMbCmd (s : State) (v : Word) : State :=
  let arg : BitVec 48 := v.setWidth 48
  match fld v 63 48 with
  | 0xC000 => mbSummary arg s
  | 0xC001 => mbTakeToken arg s
  | 0xC002 => mbAbort arg s.mbData s
  | 0xC003 => mbQueueCfg arg s.mbData s
  | op => mbOther (BitVec.ofNat 16 op) arg s

/-- A host write of the block (R389, R392). -/
def hostWrite (s : State) (offset : Nat) (v : Word) : State :=
  if offset = 0x1000 then writeMbCmd s v
  else if modState s ≠ 3 then s
  else match offset with
    | 0x08 => writePowcap s v
    | 0x10 => writePstate s v
    | 0x1010 => { s with mbData := v }
    | _ => s

/-- A write of the block by basecamp firmware. -/
def firmwareWrite (s : State) (offset : Nat) (v : Word) : State :=
  if offset % 8 ≠ 0 then s
  else if 0x100 ≤ offset && offset < 0x140 then
    let q := (offset - 0x100) / 8
    s.setQueue q { s.queue q with cfg := v &&& lqMask }
  else if 0x140 ≤ offset && offset < 0x180 then setRix s ((offset - 0x140) / 8) v
  else if 0x200 ≤ offset && offset < 0xA00 then
    { s with farRoute := tset s.farRoute ((offset - 0x200) / 8) ((v &&& 0x87).setWidth 8) }
  else if 0xA00 ≤ offset && offset < 0xB00 then
    { s with fib := tset s.fib ((offset - 0xA00) / 8) ((v &&& 0x1FF07).setWidth 32) }
  else match offset with
    | 0x180 => writeFenceCmd s v
    | 0x188 => { s with farCfg := v &&& 0xFF1F030001 }
    | 0x190 => { s with switchBase := v &&& 0xFFFFE00000 }
    | 0x198 => writeFarTt s v
    | 0xB00 => reconfigure s v s.l2pmap
    | 0xB08 => reconfigure s s.l2cfg v
    | _ => s

/-- REGISTER_WRITE: the host or the basecamp firmware writes a double of the block. -/
def execRegisterWrite (host : Bool) (offset : Nat) (v : Word) (s : State) : Result :=
  .next (if host then hostWrite s offset v else firmwareWrite s offset v)

/-- A double of the block as the host reads it. -/
def readBlock (s : State) (offset : Nat) : Word :=
  if offset % 8 ≠ 0 then 0
  else if 0x100 ≤ offset && offset < 0x140 then (s.queue ((offset - 0x100) / 8)).cfg
  else if 0x140 ≤ offset && offset < 0x180 then (s.queue ((offset - 0x140) / 8)).rix
  else if 0x200 ≤ offset && offset < 0xA00 then (tget 0 s.farRoute ((offset - 0x200) / 8)).setWidth 64
  else if 0xA00 ≤ offset && offset < 0xB00 then (tget 0 s.fib ((offset - 0xA00) / 8)).setWidth 64
  else match offset with
    | 0x00 => s.modStat
    | 0x08 => s.powcap
    | 0x10 => s.pstate
    | 0x18 => if s.modStat = 0 then 0 else (Config.power s.tick).setWidth 64
    | 0x180 => s.fenceCmd
    | 0x188 => s.farCfg
    | 0x190 => s.switchBase
    | 0x198 => s.farTt
    | 0xB00 => s.l2cfg
    | 0xB08 => s.l2pmap
    | 0x1000 => s.mbCmd
    | 0x1008 => s.mbStat
    | 0x1010 => s.mbData
    | 0x1018 => s.mbRet
    | _ => 0

/-! ### CXL.mem (R389, R391) -/

/-- The physical address of a window offset. -/
def windowPa (o : Nat) : Nat := o / populated * 2 ^ 36 + o % populated

/-- An access lies in the 768 GiB window. -/
def inCxl (o n : Nat) : Bool := decide (o + n ≤ 16 * populated)

/-- A place that the west basecamp has lost: its base die or its home slot (R384, R386). -/
def outOfReach (s : State) : Place → Bool
  | .hbm pa msa => !s.lost.isEmpty && isLost s (if msa then 0x100 + nbits pa 36 4 else slotSite (homeSlot s pa))
  | _ => false

/-- Where a window offset lies. -/
def windowPlace (s : State) (o : Nat) : Place := .hbm (windowPa o) (memorySide s (windowPa o))

/-- CXL_MEM_READ: before READY, and where a byte is poisoned, the read completes with data poison. -/
def execCxlMemRead (offset len : Nat) (s : State) : Result :=
  .next <|
    let places := (List.range len).map fun i => windowPlace s (offset + i)
    if !inCxl offset len then s
    else if modState s ≠ 3 || places.any fun d => poisoned s d 1 || outOfReach s d then { s with reply := .poison }
    else { s with reply := .bytes (places.map fun d => BitVec.ofNat 8 (d.read s 1)) }

/-- Bytes that the host writes at a place of the window. -/
def putWindow (s : State) (d : Place) (l : List Byte) : State :=
  match d with
  | .hbm pa msa => if msa then agentWrite s pa l else markDirty (agentWrite s pa l) pa
  | _ => s

/-- The bytes of a CXL.mem write, granule by granule; one that covers part of a poisoned granule, or lies on a fenced unit, is
not performed there (R379, R384). -/
def cxlPut : Nat → Nat → List Byte → State → State
  | 0, _, _, s => s
  | fuel + 1, o, l, s =>
    let n := min l.length (32 - o % 32)
    let d := windowPlace s o
    if n = 0 then s else cxlPut fuel (o + n) (l.drop n) (if partOf s n d || outOfReach s d then s else putWindow s d (l.take n))

/-- CXL_MEM_WRITE: before READY the write is discarded. -/
def execCxlMemWrite (offset : Nat) (data : List Byte) (s : State) : Result :=
  .next <|
    if !inCxl offset data.length then s
    else if modState s ≠ 3 then { s with reply := .acked }
    else { cxlPut data.length offset data s with reply := .acked }

/-! ### Attestation (R402) -/

/-- The measurement of an index. -/
def measurement (s : State) (index : Nat) : List (List Byte) :=
  match index with
  | 1 => [Config.sha256 Config.rom]
  | 2 => [Config.sha256 s.fwImage]
  | 3 => [Config.sha256 s.supImage]
  | 4 => [Config.svns]
  | _ => []

/-- GET_VERSION: SPDM 1.2. -/
def execGetVersion (s : State) : Result := .next { s with reply := .version 1 2 }
/-- GET_CAPABILITIES: no sessions. -/
def execGetCapabilities (s : State) : Result := .next { s with reply := .capabilities false }
/-- NEGOTIATE_ALGORITHMS: RSASSA-3072 and SHA-256. -/
def execNegotiateAlgorithms (s : State) : Result := .next { s with reply := .algorithms 3072 256 }
/-- GET_DIGESTS: one digest per provisioned slot. -/
def execGetDigests (s : State) : Result :=
  .next { s with reply := .digests (Config.certSlots.map fun n => Config.sha256 (Config.certificate n)) }
/-- GET_CERTIFICATE. -/
def execGetCertificate (slot : Nat) (s : State) : Result := .next { s with reply := .certificate (Config.certificate slot) }
/-- CHALLENGE: a signature over the slot's chain and the nonce. -/
def execChallenge (slot : Nat) (nonce : List Byte) (s : State) : Result :=
  .next { s with reply := .challenge (Config.challengeSig (Config.sha256 (Config.certificate slot) ++ nonce)) }
/-- GET_MEASUREMENTS: one measurement, or all four at index 255 (DEDUCED, log 27). -/
def execGetMeasurements (index : Nat) (s : State) : Result :=
  .next { s with reply := .measurements (if index = 255 then [1, 2, 3, 4].flatMap (measurement s) else measurement s index) }

end Sys2Proof.Machine
end

