-- ==== Sys2Proof/Machine/Repeat.lean ====
section
/-! DEFINITION. The repeat prefix, the instruction that a seat fetches, and the illegal-instruction trap (R12, R13, R15,
R25 to R30, R376). -/

namespace Sys2Proof.Machine

/-! ### Stepped fields (R22, R25) -/

/-- A register field: its lowest bit and its width. -/
abbrev Field := Option (Nat × Nat)

/-- The fields d, a and b that an instruction of the repeatable set uses (R22 to R24). -/
def stepFields (w : BitVec 32) : Field × Field × Field :=
  let x (lo n : Nat) : Field := some (lo, n)
  let fn := (bits w 4 0).toNat
  let op := (bits w 2 0).toNat
  match (bits w 25 20).toNat with
  | 0x00 => (x 15 5, x 10 5, x 5 5)
  | 0x01 => (x 15 5, x 10 5, if fn < 8 then x 5 5 else none)
  | 0x02 => (x 15 5, x 10 5, none)
  | 0x03 => (x 15 5, x 10 5, none)
  | 0x04 => (x 15 5, x 10 5, none)
  | 0x05 => (x 15 5, x 10 5, none)
  | 0x06 => (x 15 5, x 10 5, none)
  | 0x07 => (x 15 5, x 10 5, none)
  | 0x08 => (x 15 5, none, none)
  | 0x09 => (x 15 5, none, none)
  | 0x0A => (x 15 5, x 10 5, x 5 5)
  | 0x10 => (x 17 3, x 9 5, x 4 5)
  | 0x11 => (x 17 3, x 9 5, none)
  | 0x12 => (x 17 3, x 9 5, x 4 5)
  | 0x13 =>
    let n := (bits w 3 0).toNat
    if n < 5 then (x 17 3, x 14 3, x 11 3) else if n = 5 then (x 17 3, x 14 3, none) else (none, none, none)
  | 0x18 => (x 15 5, x 10 5, if op = 7 then none else x 5 5)
  | 0x19 => (x 15 5, x 10 5, none)
  | 0x1A => (x 15 5, x 10 5, if op = 0 || op = 4 then none else x 5 5)
  | 0x1C => (x 15 5, x 10 5, none)
  | 0x1D => (x 15 5, x 10 5, none)
  | 0x1E => (x 15 5, x 10 5, none)
  | 0x1F => (x 15 5, x 10 5, none)
  | 0x20 => (x 15 5, x 10 5, none)
  | 0x21 => (x 15 5, x 10 5, x 5 5)
  | 0x24 => (x 16 4, x 12 4, x 8 4)
  | 0x25 => (x 16 4, x 12 4, if op = 7 then none else x 8 4)
  | 0x26 => (x 16 4, x 12 4, x 8 4)
  | 0x27 => (x 16 2, x 12 4, x 8 4)
  | 0x28 => (x 16 4, x 12 4, if op = 3 then x 8 4 else none)
  | 0x29 => (x 16 4, x 12 4, none)
  | 0x2A => (x 16 4, x 11 5, none)
  | 0x2B =>
    if op = 0 then (x 16 4, x 12 4, none)
    else if op < 4 then (x 16 4, x 11 5, none)
    else if op < 7 then (x 16 2, x 12 2, x 8 2)
    else (x 16 2, x 12 2, none)
  | 0x2C =>
    if fn = 0 then (x 15 3, x 10 5, none)
    else if fn = 1 then (x 15 5, x 10 3, none)
    else if fn = 2 then (x 15 3, none, x 5 4)
    else (x 15 4, x 10 3, none)
  | 0x30 => (x 17 3, x 12 5, if bits w 6 5 = 2 then none else x 7 5)
  | 0x31 => (x 17 3, x 12 5, none)
  | 0x36 =>
    if fn < 5 then (none, x 10 5, x 5 4)
    else if fn = 8 then (x 15 4, x 10 5, none)
    else if fn = 9 then (none, x 10 5, x 5 5)
    else (none, x 10 5, none)
  | _ => (none, none, none)

/-- A word with one field advanced by `i` when its flag is set. -/
def stepField (flag : Bool) (f : Field) (i : Nat) (w : BitVec 32) : BitVec 32 :=
  match flag, f with
  | true, some (lo, _) => w + BitVec.ofNat 32 (i * 2 ^ lo)
  | _, _ => w

/-- The instruction of iteration `i` under a prefix (R25). -/
def stepWord (pre w : BitVec 32) (i : Nat) : BitVec 32 :=
  let (d, a, b) := stepFields w
  stepField (pre.getLsbD 9) d i (stepField (pre.getLsbD 8) a i (stepField (pre.getLsbD 7) b i w))

/-! ### The checks of R26 -/

/-- The majors that a prefix may repeat. -/
def repeatable (maj : Nat) : Bool :=
  decide (maj ≤ 0x13) || (decide (0x18 ≤ maj) && decide (maj ≤ 0x21)) || (decide (0x24 ≤ maj) && decide (maj ≤ 0x2C)) ||
    maj == 0x30 || maj == 0x31 || maj == 0x36

/-- A flag names a field that is used, and its last number stays in its file. -/
def fieldFits (flag : Bool) (f : Field) (n : Nat) (w : BitVec 32) : Bool :=
  !flag || match f with
    | none => false
    | some (lo, width) => decide (w.toNat / 2 ^ lo % 2 ^ width + n ≤ 2 ^ width)

/-- An instruction of the layouts M, or VM with op 0 to 3, whose offset or base the m flag advances. -/
def stepsMemory (w : BitVec 32) : Bool :=
  let maj := (bits w 25 20).toNat
  (decide (0x1C ≤ maj) && decide (maj ≤ 0x20)) || (maj == 0x2A && decide ((bits w 4 0).toNat < 4))

/-- Check 4 of R26, but for the repeated decoding. -/
def repeatFits (pre w : BitVec 32) (n : Nat) : Bool :=
  let (d, a, b) := stepFields w
  repeatable (bits w 25 20).toNat && fieldFits (pre.getLsbD 9) d n w && fieldFits (pre.getLsbD 8) a n w &&
    fieldFits (pre.getLsbD 7) b n w && (!pre.getLsbD 6 || stepsMemory w)

/-- Some register field is stepped. -/
def stepsField (pre : BitVec 32) : Bool := pre.getLsbD 9 || pre.getLsbD 8 || pre.getLsbD 7

/-- A supervisor instruction among the repeatable majors: `rt.tree` and `rt.codec` (R29, R47). -/
def repeatPrivileged (w : BitVec 32) : Bool := bits w 25 20 == 0x36 && (bits w 4 0 == 9 || bits w 4 0 == 10)

/-- The poisoned parcel among `n` from an address, if any (R378). -/
def badParcel (k : Core) (a n : Nat) : Option Nat := ((List.range n).map (a + ·)).find? k.codeBad.contains

/-- TRAP_VAL of a memory error at instruction fetch (R378). -/
def fetchVal (parcel : Nat) : Word := BitVec.ofNat 64 (2 ^ 63 + parcel)

/-- A 32-bit word at an address; what stands beyond parcel 0xFFFF is open. -/
def wordAt (k : Core) (a : Nat) : BitVec 32 := k.parcel a ++ (if a = 0xFFFF then Config.beyondCode else k.parcel (a + 1))

/-- The instruction word at an address as TRAP_VAL shows it: 16-bit forms in [15:0] (R375). -/
def trapWord (k : Core) (a : Nat) : BitVec 32 := if (k.parcel a).getLsbD 15 then wordAt k a else (k.parcel a).setWidth 32

/-- Legal words of the majors from `0x2F` on (R45 to R48, R196, R256, R258, R324). -/
def legalLate (w : BitVec 32) : Bool :=
  let f := (bits w 4 1).toNat
  let fn := (bits w 4 0).toNat
  let d0 := bits w 19 15 == 0
  let b0 := bits w 9 5 == 0
  match (bits w 25 20).toNat with
  | 0x2F =>
    if fn = 0 then b0
    else if fn = 1 || fn = 3 then d0
    else if fn = 2 || fn = 4 || fn = 5 then b0 && d0
    else fn == 6 && bits w 14 5 == 0
  | 0x30 => decide (1 ≤ f) && decide (f ≤ 12) && f != 2 && f != 3 && f != 6 &&
    (bits w 6 5 == 2 && bits w 11 7 == 0 || decide ((bits w 6 5).toNat < 2) && bits w 0 0 == 0)
  | 0x31 => decide (1 ≤ f) && decide (f ≤ 12) && bits w 11 5 == 0
  | 0x32 =>
    if fn = 0 || fn = 4 then bits w 16 5 == 0
    else if fn = 1 then bits w 19 5 == 0
    else decide (fn < 4) && bits w 11 5 == 0 && bits w 19 17 == 0
  | 0x33 => fn == 0 && bits w 6 5 == 0 && bits w 19 17 == 0
  | 0x34 => if fn = 1 || fn = 4 then b0 else decide (fn < 4) && b0 && d0
  | 0x36 =>
    if fn < 5 then bits w 9 9 == 0 && d0
    else if fn = 8 then b0 && bits w 19 19 == 0
    else if fn = 9 then d0
    else fn == 10 && b0 && d0
  | 0x38 => bits w 14 10 == 0 && isSysReg (bits w 9 0)
  | 0x39 => d0 && isSysReg (bits w 9 0)
  | 0x3A =>
    let code := (bits w 9 0).toNat
    if code = 0 || code = 1 || code = 5 then bits w 19 10 == 0
    else if code = 3 then bits w 19 18 == 0
    else decide (code ≤ 8) && d0
  | 0x3B => decide ((bits w 9 0).toNat < 3)
  | 0x3C => w.extractLsb' 26 5 == 7 && bits w 5 0 == 0
  | _ => false

/-- A 32-bit word passes R30 step 4. -/
def legalWord (w : BitVec 32) : Bool :=
  if (bits w 25 20).toNat ≤ 0x2E then ((decodeEarly w).filter Instr.wellFormed).isSome else legalLate w

/-- `rpt`: the checks of R26 before iteration 0, in their order; then the repeat counter holds n and the seat stays at the
prefix (R25, R27). A start-map or boundary failure of that instruction traps at it (R13, R15), the checks of R26 at the prefix (DEDUCED,
log 57); a poisoned parcel behind the prefix comes before them (DESIGN CHOICE, log 81). -/
def execRpt (n : BitVec 10) (sd sa sb sm : Bool) (s : State) : Result :=
  .next <|
    let k := s.thisCore
    let pc := s.thisSeat.pc
    let next := pc.toNat + 2
    let pre : BitVec 32 := 0x9FC#12 ++ n ++ BitVec.ofBool sd ++ BitVec.ofBool sa ++ BitVec.ofBool sb ++ BitVec.ofBool sm ++ 0#6
    let count := n.toNat + 1
    let w := wordAt k next
    if 0xFFFF < next then trapSeat s s.core s.seat.val 0x01 (pc.setWidth 64) 0 0
    else match badParcel k next (if (k.parcel next).getLsbD 15 && next ≠ 0xFFFF then 2 else 1) with
    | some a => precise s 0x60 (fetchVal a)
    | none =>
      if k.starts next then trapSeat s s.core s.seat.val 0x00 ((trapWord k next).setWidth 64) (BitVec.ofNat 16 next) (BitVec.ofNat 16 next)
      else if !(k.parcel next).getLsbD 15 then precise s 0x00 (pre.setWidth 64)
      else if next = 0xFFFF || k.starts (next + 1) then
        trapSeat s s.core s.seat.val 0x00 (w.setWidth 64) (BitVec.ofNat 16 next) (BitVec.ofNat 16 next)
      else if !legalWord w then precise s 0x00 (w.setWidth 64)
      else if !repeatFits pre w count || (stepsField pre && (List.range count).any fun i => !legalWord (stepWord pre w i)) then
        precise s 0x00 (pre.setWidth 64)
      else if repeatPrivileged w && s.seat ≠ 7 then precise s 0x02 (w.setWidth 64)
      else s.updThisSeat fun t => { t with rpt := BitVec.ofNat 11 count }

/-! ### Fetch -/

/-- What a seat finds at its PC. -/
inductive Fetched where
  | run (i : Instr)
  | illegal (w : BitVec 32)
  | poisoned (parcel : Nat)
  deriving DecidableEq

/-- The instruction at the PC: the stepped one of a repeat in progress (R27), else the unit that begins there, under the
checks of R30 steps 1, 2 and 4 (DEDUCED, log 57). Poisoned parcels of the unit are looked at before step 1, and before the checks of R26
behind a prefix: R30 gives the memory-error trap of a fetch no place in its order (DESIGN CHOICE, log 81). -/
noncomputable def fetch (s : State) : Fetched :=
  let k := s.thisCore
  let pc := s.thisSeat.pc.toNat
  let wide := (k.parcel pc).getLsbD 15 && pc ≠ 0xFFFF
  if repeating s then
    let w := stepWord (k.word pc) (k.word (pc + 2)) (iteration s)
    match badParcel k pc 4, decode32 w with
    | some a, _ => .poisoned a
    | none, some i => .run i
    | none, none => .illegal w
  else match badParcel k pc (if wide then 2 else 1) with
    | some a => .poisoned a
    | none =>
      if !k.starts pc || ((k.parcel pc).getLsbD 15 && (pc = 0xFFFF || k.starts (pc + 1))) then .illegal (trapWord k pc)
      else match (if wide then decode32 (k.word pc) else decode16 (k.parcel pc)) with
        | some i => .run i
        | none => .illegal (trapWord k pc)

/-- ILLEGAL_INSTRUCTION: the running seat takes the illegal-instruction trap with the word (R18, R28, R30). -/
def execIllegalInstruction (w : BitVec 32) (s : State) : Result := .next (precise s 0x00 (w.setWidth 64))

end Sys2Proof.Machine
end

