-- ==== Sys2Proof/Machine/Dispatch.lean ====
section
/-! DEFINITION. One arm per instruction and step of the module, each one call of its meaning. -/

namespace Sys2Proof.Machine

def exec (i : Instr) (s : State) : Host.Outcome State Fault Refusal :=
  match i with
  | .hLi x0 x1 x2 => Sys2Proof.Machine.execHLi x0 x1 x2 s
  | .hAddi x0 x1 x2 => Sys2Proof.Machine.execHAddi x0 x1 x2 s
  | .hMov x0 x1 x2 => Sys2Proof.Machine.execHMov x0 x1 x2 s
  | .hAdd x0 x1 x2 x3 => Sys2Proof.Machine.execHAdd x0 x1 x2 x3 s
  | .hSub x0 x1 x2 x3 => Sys2Proof.Machine.execHSub x0 x1 x2 x3 s
  | .hAnd x0 x1 x2 x3 => Sys2Proof.Machine.execHAnd x0 x1 x2 x3 s
  | .hOr x0 x1 x2 x3 => Sys2Proof.Machine.execHOr x0 x1 x2 x3 s
  | .hXor x0 x1 x2 x3 => Sys2Proof.Machine.execHXor x0 x1 x2 x3 s
  | .hSll x0 x1 x2 => Sys2Proof.Machine.execHSll x0 x1 x2 s
  | .hSrl x0 x1 x2 => Sys2Proof.Machine.execHSrl x0 x1 x2 s
  | .hSra x0 x1 x2 => Sys2Proof.Machine.execHSra x0 x1 x2 s
  | .hLdW x0 x1 x2 x3 => Sys2Proof.Machine.execHLdW x0 x1 x2 x3 s
  | .hLdD x0 x1 x2 x3 => Sys2Proof.Machine.execHLdD x0 x1 x2 x3 s
  | .hStW x0 x1 x2 x3 => Sys2Proof.Machine.execHStW x0 x1 x2 x3 s
  | .hStD x0 x1 x2 x3 => Sys2Proof.Machine.execHStD x0 x1 x2 x3 s
  | .hBr x0 x1 => Sys2Proof.Machine.execHBr x0 x1 s
  | .hBp x0 x1 x2 => Sys2Proof.Machine.execHBp x0 x1 x2 s
  | .hNop x0 => Sys2Proof.Machine.execHNop x0 s
  | .hDone x0 => Sys2Proof.Machine.execHDone x0 s
  | .hQr x0 x1 x2 => Sys2Proof.Machine.execHQr x0 x1 x2 s
  | .hQw x0 x1 x2 => Sys2Proof.Machine.execHQw x0 x1 x2 s
  | .add x0 x1 x2 x3 => Sys2Proof.Machine.execAdd x0 x1 x2 x3 s
  | .sub x0 x1 x2 x3 => Sys2Proof.Machine.execSub x0 x1 x2 x3 s
  | .and x0 x1 x2 x3 => Sys2Proof.Machine.execAnd x0 x1 x2 x3 s
  | .or x0 x1 x2 x3 => Sys2Proof.Machine.execOr x0 x1 x2 x3 s
  | .xor x0 x1 x2 x3 => Sys2Proof.Machine.execXor x0 x1 x2 x3 s
  | .andn x0 x1 x2 x3 => Sys2Proof.Machine.execAndn x0 x1 x2 x3 s
  | .orn x0 x1 x2 x3 => Sys2Proof.Machine.execOrn x0 x1 x2 x3 s
  | .xnor x0 x1 x2 x3 => Sys2Proof.Machine.execXnor x0 x1 x2 x3 s
  | .sll x0 x1 x2 x3 => Sys2Proof.Machine.execSll x0 x1 x2 x3 s
  | .srl x0 x1 x2 x3 => Sys2Proof.Machine.execSrl x0 x1 x2 x3 s
  | .sra x0 x1 x2 x3 => Sys2Proof.Machine.execSra x0 x1 x2 x3 s
  | .rol x0 x1 x2 x3 => Sys2Proof.Machine.execRol x0 x1 x2 x3 s
  | .ror x0 x1 x2 x3 => Sys2Proof.Machine.execRor x0 x1 x2 x3 s
  | .min x0 x1 x2 x3 => Sys2Proof.Machine.execMin x0 x1 x2 x3 s
  | .max x0 x1 x2 x3 => Sys2Proof.Machine.execMax x0 x1 x2 x3 s
  | .minu x0 x1 x2 x3 => Sys2Proof.Machine.execMinu x0 x1 x2 x3 s
  | .maxu x0 x1 x2 x3 => Sys2Proof.Machine.execMaxu x0 x1 x2 x3 s
  | .addw x0 x1 x2 x3 => Sys2Proof.Machine.execAddw x0 x1 x2 x3 s
  | .subw x0 x1 x2 x3 => Sys2Proof.Machine.execSubw x0 x1 x2 x3 s
  | .mul x0 x1 x2 x3 => Sys2Proof.Machine.execMul x0 x1 x2 x3 s
  | .mulhi x0 x1 x2 x3 => Sys2Proof.Machine.execMulhi x0 x1 x2 x3 s
  | .mulhiu x0 x1 x2 x3 => Sys2Proof.Machine.execMulhiu x0 x1 x2 x3 s
  | .mul32 x0 x1 x2 x3 => Sys2Proof.Machine.execMul32 x0 x1 x2 x3 s
  | .div x0 x1 x2 x3 => Sys2Proof.Machine.execDiv x0 x1 x2 x3 s
  | .divu x0 x1 x2 x3 => Sys2Proof.Machine.execDivu x0 x1 x2 x3 s
  | .rem x0 x1 x2 x3 => Sys2Proof.Machine.execRem x0 x1 x2 x3 s
  | .remu x0 x1 x2 x3 => Sys2Proof.Machine.execRemu x0 x1 x2 x3 s
  | .lzc x0 x1 x2 => Sys2Proof.Machine.execLzc x0 x1 x2 s
  | .tzc x0 x1 x2 => Sys2Proof.Machine.execTzc x0 x1 x2 s
  | .ones x0 x1 x2 => Sys2Proof.Machine.execOnes x0 x1 x2 s
  | .bswap x0 x1 x2 => Sys2Proof.Machine.execBswap x0 x1 x2 s
  | .extsB x0 x1 x2 => Sys2Proof.Machine.execExtsB x0 x1 x2 s
  | .extsH x0 x1 x2 => Sys2Proof.Machine.execExtsH x0 x1 x2 s
  | .extsW x0 x1 x2 => Sys2Proof.Machine.execExtsW x0 x1 x2 s
  | .extzW x0 x1 x2 => Sys2Proof.Machine.execExtzW x0 x1 x2 s
  | .bfx x0 x1 x2 x3 => Sys2Proof.Machine.execBfx x0 x1 x2 x3 s
  | .bfxs x0 x1 x2 x3 => Sys2Proof.Machine.execBfxs x0 x1 x2 x3 s
  | .bfi x0 x1 x2 x3 => Sys2Proof.Machine.execBfi x0 x1 x2 x3 s
  | .addi x0 x1 x2 x3 => Sys2Proof.Machine.execAddi x0 x1 x2 x3 s
  | .andi x0 x1 x2 x3 => Sys2Proof.Machine.execAndi x0 x1 x2 x3 s
  | .ori x0 x1 x2 x3 => Sys2Proof.Machine.execOri x0 x1 x2 x3 s
  | .xori x0 x1 x2 x3 => Sys2Proof.Machine.execXori x0 x1 x2 x3 s
  | .slli x0 x1 x2 x3 => Sys2Proof.Machine.execSlli x0 x1 x2 x3 s
  | .srli x0 x1 x2 x3 => Sys2Proof.Machine.execSrli x0 x1 x2 x3 s
  | .srai x0 x1 x2 x3 => Sys2Proof.Machine.execSrai x0 x1 x2 x3 s
  | .rori x0 x1 x2 x3 => Sys2Proof.Machine.execRori x0 x1 x2 x3 s
  | .tag x0 x1 x2 x3 => Sys2Proof.Machine.execTag x0 x1 x2 x3 s
  | .li x0 x1 x2 => Sys2Proof.Machine.execLi x0 x1 x2 s
  | .lis x0 x1 x2 => Sys2Proof.Machine.execLis x0 x1 x2 s
  | .cmpEq x0 x1 x2 x3 x4 => Sys2Proof.Machine.execCmpEq x0 x1 x2 x3 x4 s
  | .cmpNe x0 x1 x2 x3 x4 => Sys2Proof.Machine.execCmpNe x0 x1 x2 x3 x4 s
  | .cmpLt x0 x1 x2 x3 x4 => Sys2Proof.Machine.execCmpLt x0 x1 x2 x3 x4 s
  | .cmpGe x0 x1 x2 x3 x4 => Sys2Proof.Machine.execCmpGe x0 x1 x2 x3 x4 s
  | .cmpLtu x0 x1 x2 x3 x4 => Sys2Proof.Machine.execCmpLtu x0 x1 x2 x3 x4 s
  | .cmpGeu x0 x1 x2 x3 x4 => Sys2Proof.Machine.execCmpGeu x0 x1 x2 x3 x4 s
  | .cmpLe x0 x1 x2 x3 x4 => Sys2Proof.Machine.execCmpLe x0 x1 x2 x3 x4 s
  | .cmpGt x0 x1 x2 x3 x4 => Sys2Proof.Machine.execCmpGt x0 x1 x2 x3 x4 s
  | .cmpLeu x0 x1 x2 x3 x4 => Sys2Proof.Machine.execCmpLeu x0 x1 x2 x3 x4 s
  | .cmpGtu x0 x1 x2 x3 x4 => Sys2Proof.Machine.execCmpGtu x0 x1 x2 x3 x4 s
  | .cmpTst x0 x1 x2 x3 x4 => Sys2Proof.Machine.execCmpTst x0 x1 x2 x3 x4 s
  | .cmpEqImm x0 x1 x2 x3 x4 => Sys2Proof.Machine.execCmpEqImm x0 x1 x2 x3 x4 s
  | .cmpNeImm x0 x1 x2 x3 x4 => Sys2Proof.Machine.execCmpNeImm x0 x1 x2 x3 x4 s
  | .cmpLtImm x0 x1 x2 x3 x4 => Sys2Proof.Machine.execCmpLtImm x0 x1 x2 x3 x4 s
  | .cmpGeImm x0 x1 x2 x3 x4 => Sys2Proof.Machine.execCmpGeImm x0 x1 x2 x3 x4 s
  | .cmpLtuImm x0 x1 x2 x3 x4 => Sys2Proof.Machine.execCmpLtuImm x0 x1 x2 x3 x4 s
  | .cmpGeuImm x0 x1 x2 x3 x4 => Sys2Proof.Machine.execCmpGeuImm x0 x1 x2 x3 x4 s
  | .cmpLeImm x0 x1 x2 x3 x4 => Sys2Proof.Machine.execCmpLeImm x0 x1 x2 x3 x4 s
  | .cmpGtImm x0 x1 x2 x3 x4 => Sys2Proof.Machine.execCmpGtImm x0 x1 x2 x3 x4 s
  | .cmpEqFloat x0 x1 x2 x3 x4 x5 => Sys2Proof.Machine.execCmpEqFloat x0 x1 x2 x3 x4 x5 s
  | .cmpLtFloat x0 x1 x2 x3 x4 x5 => Sys2Proof.Machine.execCmpLtFloat x0 x1 x2 x3 x4 x5 s
  | .cmpLeFloat x0 x1 x2 x3 x4 x5 => Sys2Proof.Machine.execCmpLeFloat x0 x1 x2 x3 x4 x5 s
  | .cmpUnFloat x0 x1 x2 x3 x4 x5 => Sys2Proof.Machine.execCmpUnFloat x0 x1 x2 x3 x4 x5 s
  | .pand x0 x1 x2 x3 => Sys2Proof.Machine.execPand x0 x1 x2 x3 s
  | .por x0 x1 x2 x3 => Sys2Proof.Machine.execPor x0 x1 x2 x3 s
  | .pxor x0 x1 x2 x3 => Sys2Proof.Machine.execPxor x0 x1 x2 x3 s
  | .pandn x0 x1 x2 x3 => Sys2Proof.Machine.execPandn x0 x1 x2 x3 s
  | .porn x0 x1 x2 x3 => Sys2Proof.Machine.execPorn x0 x1 x2 x3 s
  | .pnot x0 x1 x2 => Sys2Proof.Machine.execPnot x0 x1 x2 s
  | .pget x0 x1 => Sys2Proof.Machine.execPget x0 x1 s
  | .pset x0 x1 => Sys2Proof.Machine.execPset x0 x1 s
  | .br x0 x1 => Sys2Proof.Machine.execBr x0 x1 s
  | .call x0 x1 => Sys2Proof.Machine.execCall x0 x1 s
  | .jr x0 x1 => Sys2Proof.Machine.execJr x0 x1 s
  | .callr x0 x1 => Sys2Proof.Machine.execCallr x0 x1 s
  | .nop x0 => Sys2Proof.Machine.execNop x0 s
  | .done x0 => Sys2Proof.Machine.execDone x0 s
  | .brk x0 x1 => Sys2Proof.Machine.execBrk x0 x1 s
  | .fadd x0 x1 x2 x3 x4 => Sys2Proof.Machine.execFadd x0 x1 x2 x3 x4 s
  | .fsub x0 x1 x2 x3 x4 => Sys2Proof.Machine.execFsub x0 x1 x2 x3 x4 s
  | .fmul x0 x1 x2 x3 x4 => Sys2Proof.Machine.execFmul x0 x1 x2 x3 x4 s
  | .fdiv x0 x1 x2 x3 x4 => Sys2Proof.Machine.execFdiv x0 x1 x2 x3 x4 s
  | .fmin x0 x1 x2 x3 x4 => Sys2Proof.Machine.execFmin x0 x1 x2 x3 x4 s
  | .fmax x0 x1 x2 x3 x4 => Sys2Proof.Machine.execFmax x0 x1 x2 x3 x4 s
  | .fma x0 x1 x2 x3 x4 => Sys2Proof.Machine.execFma x0 x1 x2 x3 x4 s
  | .fsqrt x0 x1 x2 x3 => Sys2Proof.Machine.execFsqrt x0 x1 x2 x3 s
  | .cvtF32F16 x0 x1 x2 => Sys2Proof.Machine.execCvtF32F16 x0 x1 x2 s
  | .cvtF32Bf16 x0 x1 x2 => Sys2Proof.Machine.execCvtF32Bf16 x0 x1 x2 s
  | .cvtF16F32 x0 x1 x2 => Sys2Proof.Machine.execCvtF16F32 x0 x1 x2 s
  | .cvtBf16F32 x0 x1 x2 => Sys2Proof.Machine.execCvtBf16F32 x0 x1 x2 s
  | .cvtF32W x0 x1 x2 => Sys2Proof.Machine.execCvtF32W x0 x1 x2 s
  | .cvtF32Wu x0 x1 x2 => Sys2Proof.Machine.execCvtF32Wu x0 x1 x2 s
  | .cvtWF32 x0 x1 x2 => Sys2Proof.Machine.execCvtWF32 x0 x1 x2 s
  | .cvtWuF32 x0 x1 x2 => Sys2Proof.Machine.execCvtWuF32 x0 x1 x2 s
  | .cvtWF32Rz x0 x1 x2 => Sys2Proof.Machine.execCvtWF32Rz x0 x1 x2 s
  | .cvtWuF32Rz x0 x1 x2 => Sys2Proof.Machine.execCvtWuF32Rz x0 x1 x2 s
  | .fclass x0 x1 x2 x3 => Sys2Proof.Machine.execFclass x0 x1 x2 x3 s
  | .fsgnCp x0 x1 x2 x3 x4 => Sys2Proof.Machine.execFsgnCp x0 x1 x2 x3 x4 s
  | .fsgnNeg x0 x1 x2 x3 x4 => Sys2Proof.Machine.execFsgnNeg x0 x1 x2 x3 x4 s
  | .fsgnXor x0 x1 x2 x3 x4 => Sys2Proof.Machine.execFsgnXor x0 x1 x2 x3 x4 s
  | .frint x0 x1 x2 x3 => Sys2Proof.Machine.execFrint x0 x1 x2 x3 s
  | .ldB x0 x1 x2 x3 => Sys2Proof.Machine.execLdB x0 x1 x2 x3 s
  | .ldH x0 x1 x2 x3 => Sys2Proof.Machine.execLdH x0 x1 x2 x3 s
  | .ldW x0 x1 x2 x3 => Sys2Proof.Machine.execLdW x0 x1 x2 x3 s
  | .ldD x0 x1 x2 x3 => Sys2Proof.Machine.execLdD x0 x1 x2 x3 s
  | .ldBu x0 x1 x2 x3 => Sys2Proof.Machine.execLdBu x0 x1 x2 x3 s
  | .ldHu x0 x1 x2 x3 => Sys2Proof.Machine.execLdHu x0 x1 x2 x3 s
  | .ldWu x0 x1 x2 x3 => Sys2Proof.Machine.execLdWu x0 x1 x2 x3 s
  | .stB x0 x1 x2 x3 => Sys2Proof.Machine.execStB x0 x1 x2 x3 s
  | .stH x0 x1 x2 x3 => Sys2Proof.Machine.execStH x0 x1 x2 x3 s
  | .stW x0 x1 x2 x3 => Sys2Proof.Machine.execStW x0 x1 x2 x3 s
  | .stD x0 x1 x2 x3 => Sys2Proof.Machine.execStD x0 x1 x2 x3 s
  | .ldf x0 x1 x2 x3 => Sys2Proof.Machine.execLdf x0 x1 x2 x3 s
  | .ldt x0 x1 x2 x3 => Sys2Proof.Machine.execLdt x0 x1 x2 x3 s
  | .ste x0 x1 x2 x3 => Sys2Proof.Machine.execSte x0 x1 x2 x3 s
  | .stf x0 x1 x2 x3 => Sys2Proof.Machine.execStf x0 x1 x2 x3 s
  | .ldAcqW x0 x1 x2 x3 => Sys2Proof.Machine.execLdAcqW x0 x1 x2 x3 s
  | .ldAcqD x0 x1 x2 x3 => Sys2Proof.Machine.execLdAcqD x0 x1 x2 x3 s
  | .stRelW x0 x1 x2 x3 => Sys2Proof.Machine.execStRelW x0 x1 x2 x3 s
  | .stRelD x0 x1 x2 x3 => Sys2Proof.Machine.execStRelD x0 x1 x2 x3 s
  | .amoAdd x0 x1 x2 x3 x4 => Sys2Proof.Machine.execAmoAdd x0 x1 x2 x3 x4 s
  | .amoAnd x0 x1 x2 x3 x4 => Sys2Proof.Machine.execAmoAnd x0 x1 x2 x3 x4 s
  | .amoOr x0 x1 x2 x3 x4 => Sys2Proof.Machine.execAmoOr x0 x1 x2 x3 x4 s
  | .amoXor x0 x1 x2 x3 x4 => Sys2Proof.Machine.execAmoXor x0 x1 x2 x3 x4 s
  | .amoMin x0 x1 x2 x3 x4 => Sys2Proof.Machine.execAmoMin x0 x1 x2 x3 x4 s
  | .amoMax x0 x1 x2 x3 x4 => Sys2Proof.Machine.execAmoMax x0 x1 x2 x3 x4 s
  | .amoMinu x0 x1 x2 x3 x4 => Sys2Proof.Machine.execAmoMinu x0 x1 x2 x3 x4 s
  | .amoMaxu x0 x1 x2 x3 x4 => Sys2Proof.Machine.execAmoMaxu x0 x1 x2 x3 x4 s
  | .amoSwap x0 x1 x2 x3 x4 => Sys2Proof.Machine.execAmoSwap x0 x1 x2 x3 x4 s
  | .amoCas x0 x1 x2 x3 x4 => Sys2Proof.Machine.execAmoCas x0 x1 x2 x3 x4 s
  | .amoFaddF32 x0 x1 x2 x3 => Sys2Proof.Machine.execAmoFaddF32 x0 x1 x2 x3 s
  | .fence x0 => Sys2Proof.Machine.execFence x0 s
  | .seal x0 x1 x2 => Sys2Proof.Machine.execSeal x0 x1 x2 s
  | .unseal x0 x1 x2 => Sys2Proof.Machine.execUnseal x0 x1 x2 s
  | .feFill x0 x1 x2 => Sys2Proof.Machine.execFeFill x0 x1 x2 s
  | .feClr x0 x1 x2 => Sys2Proof.Machine.execFeClr x0 x1 x2 s
  | .vaddInt x0 x1 x2 x3 x4 x5 => Sys2Proof.Machine.execVaddInt x0 x1 x2 x3 x4 x5 s
  | .vsubInt x0 x1 x2 x3 x4 x5 => Sys2Proof.Machine.execVsubInt x0 x1 x2 x3 x4 x5 s
  | .vmulInt x0 x1 x2 x3 x4 x5 => Sys2Proof.Machine.execVmulInt x0 x1 x2 x3 x4 x5 s
  | .vminInt x0 x1 x2 x3 x4 x5 => Sys2Proof.Machine.execVminInt x0 x1 x2 x3 x4 x5 s
  | .vmaxInt x0 x1 x2 x3 x4 x5 => Sys2Proof.Machine.execVmaxInt x0 x1 x2 x3 x4 x5 s
  | .vminu x0 x1 x2 x3 x4 x5 => Sys2Proof.Machine.execVminu x0 x1 x2 x3 x4 x5 s
  | .vmaxu x0 x1 x2 x3 x4 x5 => Sys2Proof.Machine.execVmaxu x0 x1 x2 x3 x4 x5 s
  | .vadds x0 x1 x2 x3 x4 x5 => Sys2Proof.Machine.execVadds x0 x1 x2 x3 x4 x5 s
  | .vaddFloat x0 x1 x2 x3 x4 x5 => Sys2Proof.Machine.execVaddFloat x0 x1 x2 x3 x4 x5 s
  | .vsubFloat x0 x1 x2 x3 x4 x5 => Sys2Proof.Machine.execVsubFloat x0 x1 x2 x3 x4 x5 s
  | .vmulFloat x0 x1 x2 x3 x4 x5 => Sys2Proof.Machine.execVmulFloat x0 x1 x2 x3 x4 x5 s
  | .vfma x0 x1 x2 x3 x4 x5 => Sys2Proof.Machine.execVfma x0 x1 x2 x3 x4 x5 s
  | .vminFloat x0 x1 x2 x3 x4 x5 => Sys2Proof.Machine.execVminFloat x0 x1 x2 x3 x4 x5 s
  | .vmaxFloat x0 x1 x2 x3 x4 x5 => Sys2Proof.Machine.execVmaxFloat x0 x1 x2 x3 x4 x5 s
  | .vdiv x0 x1 x2 x3 x4 x5 => Sys2Proof.Machine.execVdiv x0 x1 x2 x3 x4 x5 s
  | .vsqrt x0 x1 x2 x3 x4 => Sys2Proof.Machine.execVsqrt x0 x1 x2 x3 x4 s
  | .vand x0 x1 x2 x3 x4 => Sys2Proof.Machine.execVand x0 x1 x2 x3 x4 s
  | .vor x0 x1 x2 x3 x4 => Sys2Proof.Machine.execVor x0 x1 x2 x3 x4 s
  | .vxor x0 x1 x2 x3 x4 => Sys2Proof.Machine.execVxor x0 x1 x2 x3 x4 s
  | .vandn x0 x1 x2 x3 x4 => Sys2Proof.Machine.execVandn x0 x1 x2 x3 x4 s
  | .vsll x0 x1 x2 x3 x4 x5 => Sys2Proof.Machine.execVsll x0 x1 x2 x3 x4 x5 s
  | .vsrl x0 x1 x2 x3 x4 x5 => Sys2Proof.Machine.execVsrl x0 x1 x2 x3 x4 x5 s
  | .vsra x0 x1 x2 x3 x4 x5 => Sys2Proof.Machine.execVsra x0 x1 x2 x3 x4 x5 s
  | .vsel x0 x1 x2 x3 x4 => Sys2Proof.Machine.execVsel x0 x1 x2 x3 x4 s
  | .vcmpEq x0 x1 x2 x3 x4 x5 => Sys2Proof.Machine.execVcmpEq x0 x1 x2 x3 x4 x5 s
  | .vcmpNe x0 x1 x2 x3 x4 x5 => Sys2Proof.Machine.execVcmpNe x0 x1 x2 x3 x4 x5 s
  | .vcmpLt x0 x1 x2 x3 x4 x5 => Sys2Proof.Machine.execVcmpLt x0 x1 x2 x3 x4 x5 s
  | .vcmpLe x0 x1 x2 x3 x4 x5 => Sys2Proof.Machine.execVcmpLe x0 x1 x2 x3 x4 x5 s
  | .vcmpLtu x0 x1 x2 x3 x4 x5 => Sys2Proof.Machine.execVcmpLtu x0 x1 x2 x3 x4 x5 s
  | .vcmpLeu x0 x1 x2 x3 x4 x5 => Sys2Proof.Machine.execVcmpLeu x0 x1 x2 x3 x4 x5 s
  | .vcmpUn x0 x1 x2 x3 x4 x5 => Sys2Proof.Machine.execVcmpUn x0 x1 x2 x3 x4 x5 s
  | .vredsum x0 x1 x2 x3 x4 => Sys2Proof.Machine.execVredsum x0 x1 x2 x3 x4 s
  | .vredmax x0 x1 x2 x3 x4 => Sys2Proof.Machine.execVredmax x0 x1 x2 x3 x4 s
  | .vredmin x0 x1 x2 x3 x4 => Sys2Proof.Machine.execVredmin x0 x1 x2 x3 x4 s
  | .vdot x0 x1 x2 x3 x4 x5 => Sys2Proof.Machine.execVdot x0 x1 x2 x3 x4 x5 s
  | .vwiden x0 x1 x2 x3 x4 => Sys2Proof.Machine.execVwiden x0 x1 x2 x3 x4 s
  | .vwiden4 x0 x1 x2 x3 x4 => Sys2Proof.Machine.execVwiden4 x0 x1 x2 x3 x4 s
  | .vnarrow x0 x1 x2 x3 x4 => Sys2Proof.Machine.execVnarrow x0 x1 x2 x3 x4 s
  | .vnarrow4 x0 x1 x2 x3 x4 => Sys2Proof.Machine.execVnarrow4 x0 x1 x2 x3 x4 s
  | .vcvt x0 x1 x2 x3 x4 x5 => Sys2Proof.Machine.execVcvt x0 x1 x2 x3 x4 x5 s
  | .vtrW x0 x1 x2 x3 => Sys2Proof.Machine.execVtrW x0 x1 x2 x3 s
  | .vtag x0 x1 x2 x3 => Sys2Proof.Machine.execVtag x0 x1 x2 x3 s
  | .vld x0 x1 x2 x3 x4 => Sys2Proof.Machine.execVld x0 x1 x2 x3 x4 s
  | .vst x0 x1 x2 x3 => Sys2Proof.Machine.execVst x0 x1 x2 x3 s
  | .vldSc x0 x1 x2 => Sys2Proof.Machine.execVldSc x0 x1 x2 s
  | .vstSc x0 x1 x2 => Sys2Proof.Machine.execVstSc x0 x1 x2 s
  | .vgatherW x0 x1 x2 x3 x4 => Sys2Proof.Machine.execVgatherW x0 x1 x2 x3 x4 s
  | .vscatterW x0 x1 x2 x3 x4 => Sys2Proof.Machine.execVscatterW x0 x1 x2 x3 x4 s
  | .vgatherH x0 x1 x2 x3 x4 => Sys2Proof.Machine.execVgatherH x0 x1 x2 x3 x4 s
  | .vscatterH x0 x1 x2 x3 x4 => Sys2Proof.Machine.execVscatterH x0 x1 x2 x3 x4 s
  | .vmov x0 x1 x2 => Sys2Proof.Machine.execVmov x0 x1 x2 s
  | .vbcast x0 x1 x2 x3 => Sys2Proof.Machine.execVbcast x0 x1 x2 x3 s
  | .vext x0 x1 x2 x3 x4 => Sys2Proof.Machine.execVext x0 x1 x2 x3 x4 s
  | .vins x0 x1 x2 x3 x4 => Sys2Proof.Machine.execVins x0 x1 x2 x3 x4 s
  | .kand x0 x1 x2 x3 => Sys2Proof.Machine.execKand x0 x1 x2 x3 s
  | .kor x0 x1 x2 x3 => Sys2Proof.Machine.execKor x0 x1 x2 x3 s
  | .kxor x0 x1 x2 x3 => Sys2Proof.Machine.execKxor x0 x1 x2 x3 s
  | .knot x0 x1 x2 => Sys2Proof.Machine.execKnot x0 x1 x2 s
  | .qw x0 x1 x2 => Sys2Proof.Machine.execQw x0 x1 x2 s
  | .qr x0 x1 x2 => Sys2Proof.Machine.execQr x0 x1 x2 s
  | .qwv x0 x1 x2 => Sys2Proof.Machine.execQwv x0 x1 x2 s
  | .qrv x0 x1 x2 => Sys2Proof.Machine.execQrv x0 x1 x2 s
  | .send x0 x1 x2 => Sys2Proof.Machine.execSend x0 x1 x2 s
  | .sendv x0 x1 x2 => Sys2Proof.Machine.execSendv x0 x1 x2 s
  | .sendc x0 x1 x2 => Sys2Proof.Machine.execSendc x0 x1 x2 s
  | .mcast x0 x1 x2 => Sys2Proof.Machine.execMcast x0 x1 x2 s
  | .spawn x0 x1 x2 x3 => Sys2Proof.Machine.execSpawn x0 x1 x2 x3 s
  | .portRd x0 x1 x2 => Sys2Proof.Machine.execPortRd x0 x1 x2 s
  | .portWr x0 x1 x2 => Sys2Proof.Machine.execPortWr x0 x1 x2 s
  | .patWr x0 x1 x2 => Sys2Proof.Machine.execPatWr x0 x1 x2 s
  | .ringHd x0 x1 x2 => Sys2Proof.Machine.execRingHd x0 x1 x2 s
  | .ringTl x0 x1 x2 => Sys2Proof.Machine.execRingTl x0 x1 x2 s
  | .ringAdv x0 x1 x2 => Sys2Proof.Machine.execRingAdv x0 x1 x2 s
  | .ringWait x0 x1 x2 => Sys2Proof.Machine.execRingWait x0 x1 x2 s
  | .rankRd x0 x1 x2 => Sys2Proof.Machine.execRankRd x0 x1 x2 s
  | .rankWr x0 x1 x2 => Sys2Proof.Machine.execRankWr x0 x1 x2 s
  | .rankHold x0 x1 => Sys2Proof.Machine.execRankHold x0 x1 s
  | .rankRel x0 x1 x2 => Sys2Proof.Machine.execRankRel x0 x1 x2 s
  | .gbar x0 x1 => Sys2Proof.Machine.execGbar x0 x1 s
  | .gexit x0 x1 => Sys2Proof.Machine.execGexit x0 x1 s
  | .myrank x0 x1 => Sys2Proof.Machine.execMyrank x0 x1 s
  | .shMmaSp x0 x1 x2 x3 x4 => Sys2Proof.Machine.execShMmaSp x0 x1 x2 x3 x4 s
  | .shMmaWs x0 x1 x2 x3 x4 => Sys2Proof.Machine.execShMmaWs x0 x1 x2 x3 x4 s
  | .shMmaLt x0 x1 x2 x3 => Sys2Proof.Machine.execShMmaLt x0 x1 x2 x3 s
  | .shMmap x0 x1 x2 x3 => Sys2Proof.Machine.execShMmap x0 x1 x2 x3 s
  | .shDrain x0 x1 x2 x3 => Sys2Proof.Machine.execShDrain x0 x1 x2 x3 s
  | .shDrainz x0 x1 x2 x3 => Sys2Proof.Machine.execShDrainz x0 x1 x2 x3 s
  | .shZero x0 x1 => Sys2Proof.Machine.execShZero x0 x1 s
  | .shPass x0 => Sys2Proof.Machine.execShPass x0 s
  | .shBow x0 x1 => Sys2Proof.Machine.execShBow x0 x1 s
  | .shStroke x0 x1 => Sys2Proof.Machine.execShStroke x0 x1 s
  | .shWait x0 x1 => Sys2Proof.Machine.execShWait x0 x1 s
  | .shRcmd x0 x1 x2 => Sys2Proof.Machine.execShRcmd x0 x1 x2 s
  | .hlPost x0 x1 => Sys2Proof.Machine.execHlPost x0 x1 s
  | .hlWp x0 x1 x2 => Sys2Proof.Machine.execHlWp x0 x1 x2 s
  | .hlRfence x0 x1 => Sys2Proof.Machine.execHlRfence x0 x1 s
  | .hlResume x0 x1 => Sys2Proof.Machine.execHlResume x0 x1 s
  | .hlStat x0 x1 x2 => Sys2Proof.Machine.execHlStat x0 x1 x2 s
  | .rtRedAddF32 x0 x1 x2 => Sys2Proof.Machine.execRtRedAddF32 x0 x1 x2 s
  | .rtRedAddBf16 x0 x1 x2 => Sys2Proof.Machine.execRtRedAddBf16 x0 x1 x2 s
  | .rtRedAddI32 x0 x1 x2 => Sys2Proof.Machine.execRtRedAddI32 x0 x1 x2 s
  | .rtRedMaxF32 x0 x1 x2 => Sys2Proof.Machine.execRtRedMaxF32 x0 x1 x2 s
  | .rtRedMinF32 x0 x1 x2 => Sys2Proof.Machine.execRtRedMinF32 x0 x1 x2 s
  | .rtRes x0 x1 x2 => Sys2Proof.Machine.execRtRes x0 x1 x2 s
  | .rtTree x0 x1 x2 => Sys2Proof.Machine.execRtTree x0 x1 x2 s
  | .rtCodec x0 x1 => Sys2Proof.Machine.execRtCodec x0 x1 s
  | .srRd x0 x1 x2 => Sys2Proof.Machine.execSrRd x0 x1 x2 s
  | .srWr x0 x1 x2 => Sys2Proof.Machine.execSrWr x0 x1 x2 s
  | .tret x0 => Sys2Proof.Machine.execTret x0 s
  | .wfe x0 => Sys2Proof.Machine.execWfe x0 s
  | .pwr x0 x1 => Sys2Proof.Machine.execPwr x0 x1 s
  | .capWr x0 x1 x2 => Sys2Proof.Machine.execCapWr x0 x1 x2 s
  | .l2Ways x0 x1 => Sys2Proof.Machine.execL2Ways x0 x1 s
  | .l1Inv x0 => Sys2Proof.Machine.execL1Inv x0 s
  | .l2Wb x0 x1 => Sys2Proof.Machine.execL2Wb x0 x1 s
  | .tcInv x0 x1 => Sys2Proof.Machine.execTcInv x0 x1 s
  | .trap x0 x1 => Sys2Proof.Machine.execTrap x0 x1 s
  | .bustRd x0 x1 x2 => Sys2Proof.Machine.execBustRd x0 x1 x2 s
  | .rtabRd x0 x1 x2 => Sys2Proof.Machine.execRtabRd x0 x1 x2 s
  | .rtabWr x0 x1 x2 => Sys2Proof.Machine.execRtabWr x0 x1 x2 s
  | .rpt x0 x1 x2 x3 x4 => Sys2Proof.Machine.execRpt x0 x1 x2 x3 x4 s
  | .patternBinding x0 => Sys2Proof.Machine.execPatternBinding x0 s
  | .messageArrival x0 => Sys2Proof.Machine.execMessageArrival x0 s
  | .ovfHdWrite x0 x1 => Sys2Proof.Machine.execOvfHdWrite x0 x1 s
  | .trapFiringBinding x0 => Sys2Proof.Machine.execTrapFiringBinding x0 s
  | .eventFiringBinding x0 => Sys2Proof.Machine.execEventFiringBinding x0 s
  | .resultReturn x0 x1 => Sys2Proof.Machine.execResultReturn x0 x1 s
  | .returnedErrorArrival x0 x1 x2 => Sys2Proof.Machine.execReturnedErrorArrival x0 x1 x2 s
  | .countReport x0 => Sys2Proof.Machine.execCountReport x0 s
  | .completionCountArrival x0 => Sys2Proof.Machine.execCompletionCountArrival x0 s
  | .sliceExpiry x0 x1 => Sys2Proof.Machine.execSliceExpiry x0 x1 s
  | .seatCtlWrite x0 x1 => Sys2Proof.Machine.execSeatCtlWrite x0 x1 s
  | .preemption x0 x1 => Sys2Proof.Machine.execPreemption x0 x1 s
  | .resumeEntryBinding x0 x1 => Sys2Proof.Machine.execResumeEntryBinding x0 x1 s
  | .spawnRequestArrival x0 => Sys2Proof.Machine.execSpawnRequestArrival x0 s
  | .spawnAnswer x0 => Sys2Proof.Machine.execSpawnAnswer x0 s
  | .spawnBinding x0 x1 => Sys2Proof.Machine.execSpawnBinding x0 x1 s
  | .launchChoice => Sys2Proof.Machine.execLaunchChoice s
  | .launchBinding x0 => Sys2Proof.Machine.execLaunchBinding x0 s
  | .launchSwitchOut x0 x1 => Sys2Proof.Machine.execLaunchSwitchOut x0 x1 s
  | .launchSwitchIn x0 => Sys2Proof.Machine.execLaunchSwitchIn x0 s
  | .launchAbort x0 => Sys2Proof.Machine.execLaunchAbort x0 s
  | .fenceSeat x0 => Sys2Proof.Machine.execFenceSeat x0 s
  | .fenceCore x0 => Sys2Proof.Machine.execFenceCore x0 s
  | .fenceHaulChannel x0 => Sys2Proof.Machine.execFenceHaulChannel x0 s
  | .fenceWeightStoreBank x0 => Sys2Proof.Machine.execFenceWeightStoreBank x0 s
  | .fenceL2Slot x0 => Sys2Proof.Machine.execFenceL2Slot x0 s
  | .fenceHbmStack x0 => Sys2Proof.Machine.execFenceHbmStack x0 s
  | .fenceLink x0 => Sys2Proof.Machine.execFenceLink x0 s
  | .fenceChiplet x0 => Sys2Proof.Machine.execFenceChiplet x0 s
  | .deadRankNotice x0 => Sys2Proof.Machine.execDeadRankNotice x0 s
  | .gbarArrival x0 => Sys2Proof.Machine.execGbarArrival x0 s
  | .gbarCompletion x0 => Sys2Proof.Machine.execGbarCompletion x0 s
  | .combineArrival x0 => Sys2Proof.Machine.execCombineArrival x0 s
  | .combineDelivery x0 => Sys2Proof.Machine.execCombineDelivery x0 s
  | .combineLeave x0 => Sys2Proof.Machine.execCombineLeave x0 s
  | .shellMma x0 x1 => Sys2Proof.Machine.execShellMma x0 x1 s
  | .mmaFinish x0 x1 => Sys2Proof.Machine.execMmaFinish x0 x1 s
  | .shellDrain x0 x1 => Sys2Proof.Machine.execShellDrain x0 x1 s
  | .shellZero x0 x1 => Sys2Proof.Machine.execShellZero x0 x1 s
  | .shellPass x0 x1 => Sys2Proof.Machine.execShellPass x0 x1 s
  | .shellInject x0 x1 => Sys2Proof.Machine.execShellInject x0 x1 s
  | .latchGrant x0 => Sys2Proof.Machine.execLatchGrant x0 s
  | .latchArrival x0 => Sys2Proof.Machine.execLatchArrival x0 s
  | .remoteShellCommand x0 => Sys2Proof.Machine.execRemoteShellCommand x0 s
  | .rcmdAnswer x0 => Sys2Proof.Machine.execRcmdAnswer x0 s
  | .hlQWrite x0 x1 x2 => Sys2Proof.Machine.execHlQWrite x0 x1 x2 s
  | .wLineNotify x0 x1 => Sys2Proof.Machine.execWLineNotify x0 x1 s
  | .haulPollTimer x0 x1 => Sys2Proof.Machine.execHaulPollTimer x0 x1 s
  | .haulSlotTake x0 x1 => Sys2Proof.Machine.execHaulSlotTake x0 x1 s
  | .haulCopy x0 x1 => Sys2Proof.Machine.execHaulCopy x0 x1 s
  | .haulFill x0 x1 => Sys2Proof.Machine.execHaulFill x0 x1 s
  | .haulGather x0 x1 => Sys2Proof.Machine.execHaulGather x0 x1 s
  | .haulBox x0 x1 => Sys2Proof.Machine.execHaulBox x0 x1 s
  | .haulCodec x0 x1 => Sys2Proof.Machine.execHaulCodec x0 x1 s
  | .haulBeat x0 x1 x2 => Sys2Proof.Machine.execHaulBeat x0 x1 x2 s
  | .haulCompletion x0 x1 => Sys2Proof.Machine.execHaulCompletion x0 x1 s
  | .loadAtHome x0 x1 => Sys2Proof.Machine.execLoadAtHome x0 x1 s
  | .storeAtHome x0 x1 => Sys2Proof.Machine.execStoreAtHome x0 x1 s
  | .revocation x0 => Sys2Proof.Machine.execRevocation x0 s
  | .revocationAck x0 => Sys2Proof.Machine.execRevocationAck x0 s
  | .storeAck x0 => Sys2Proof.Machine.execStoreAck x0 s
  | .atomicAtHome x0 => Sys2Proof.Machine.execAtomicAtHome x0 s
  | .syncAccessArrival x0 x1 => Sys2Proof.Machine.execSyncAccessArrival x0 x1 s
  | .peerAccessArrival x0 x1 => Sys2Proof.Machine.execPeerAccessArrival x0 x1 s
  | .translationWalk x0 x1 => Sys2Proof.Machine.execTranslationWalk x0 x1 s
  | .wsRefreshOpen x0 => Sys2Proof.Machine.execWsRefreshOpen x0 s
  | .wsRefreshClose x0 => Sys2Proof.Machine.execWsRefreshClose x0 s
  | .requestTimeout x0 => Sys2Proof.Machine.execRequestTimeout x0 s
  | .routerForward x0 => Sys2Proof.Machine.execRouterForward x0 s
  | .farAccess x0 x1 x2 x3 => Sys2Proof.Machine.execFarAccess x0 x1 x2 x3 s
  | .farMessage x0 x1 x2 x3 => Sys2Proof.Machine.execFarMessage x0 x1 x2 x3 s
  | .pageMigration x0 x1 x2 x3 => Sys2Proof.Machine.execPageMigration x0 x1 x2 x3 s
  | .movedReply x0 => Sys2Proof.Machine.execMovedReply x0 s
  | .l2Reconfiguration x0 x1 => Sys2Proof.Machine.execL2Reconfiguration x0 x1 s
  | .uncorrectableError x0 x1 => Sys2Proof.Machine.execUncorrectableError x0 x1 s
  | .wavelengthFailure x0 x1 x2 => Sys2Proof.Machine.execWavelengthFailure x0 x1 x2 s
  | .heartbeat x0 => Sys2Proof.Machine.execHeartbeat x0 s
  | .heartbeatLossWest x0 => Sys2Proof.Machine.execHeartbeatLossWest x0 s
  | .severed x0 => Sys2Proof.Machine.execSevered x0 s
  | .moduleReset x0 x1 => Sys2Proof.Machine.execModuleReset x0 x1 s
  | .clockLock x0 => Sys2Proof.Machine.execClockLock x0 s
  | .calibrationDone x0 x1 x2 => Sys2Proof.Machine.execCalibrationDone x0 x1 x2 s
  | .calibrationFail x0 => Sys2Proof.Machine.execCalibrationFail x0 s
  | .configurationFrame x0 x1 => Sys2Proof.Machine.execConfigurationFrame x0 x1 s
  | .belayed x0 => Sys2Proof.Machine.execBelayed x0 s
  | .ready x0 => Sys2Proof.Machine.execReady x0 s
  | .frameTimeout x0 => Sys2Proof.Machine.execFrameTimeout x0 s
  | .ascentSettled => Sys2Proof.Machine.execAscentSettled s
  | .pstateTransitionDone x0 => Sys2Proof.Machine.execPstateTransitionDone x0 s
  | .powerCapThrottle x0 x1 x2 => Sys2Proof.Machine.execPowerCapThrottle x0 x1 x2 s
  | .pstateWrite x0 => Sys2Proof.Machine.execPstateWrite x0 s
  | .powcapWrite x0 => Sys2Proof.Machine.execPowcapWrite x0 s
  | .shLinkWrite x0 x1 => Sys2Proof.Machine.execShLinkWrite x0 x1 s
  | .farTtWrite x0 => Sys2Proof.Machine.execFarTtWrite x0 s
  | .registerWrite x0 x1 x2 => Sys2Proof.Machine.execRegisterWrite x0 x1 x2 s
  | .cxlMemRead x0 x1 => Sys2Proof.Machine.execCxlMemRead x0 x1 s
  | .cxlMemWrite x0 x1 => Sys2Proof.Machine.execCxlMemWrite x0 x1 s
  | .summary x0 => Sys2Proof.Machine.execSummary x0 s
  | .takeToken x0 => Sys2Proof.Machine.execTakeToken x0 s
  | .abort x0 x1 => Sys2Proof.Machine.execAbort x0 x1 s
  | .queueCfg x0 x1 => Sys2Proof.Machine.execQueueCfg x0 x1 s
  | .mbUnsupportedOpcode x0 x1 => Sys2Proof.Machine.execMbUnsupportedOpcode x0 x1 s
  | .getVersion => Sys2Proof.Machine.execGetVersion s
  | .getCapabilities => Sys2Proof.Machine.execGetCapabilities s
  | .negotiateAlgorithms => Sys2Proof.Machine.execNegotiateAlgorithms s
  | .getDigests => Sys2Proof.Machine.execGetDigests s
  | .getCertificate x0 => Sys2Proof.Machine.execGetCertificate x0 s
  | .challenge x0 x1 => Sys2Proof.Machine.execChallenge x0 x1 s
  | .getMeasurements x0 => Sys2Proof.Machine.execGetMeasurements x0 s
  | .illegalInstruction x0 => Sys2Proof.Machine.execIllegalInstruction x0 s
  | .wLineSubscription x0 x1 => Sys2Proof.Machine.execWLineSubscription x0 x1 s

end Sys2Proof.Machine
end

