-- ==== Sys2Proof/Machine/Turns.lean ====
section
/-! DEFINITION. Whose turn it is: the seat of a core that issues (R113), what a fetched word leads to (R28, R30, R378), the
events of the schedule, and where a test's instruction is placed. -/

namespace Sys2Proof.Machine

/-- A seat that may try to issue: RUNNING, or BLOCKED with a condition that may have cleared (R109, R113). -/
def wakes (t : Seat) : Bool := (t.status = .running || t.status = .blocked) && !stopsIssue t

/-- An atomic of a seat may still meet its memory error, which is precise: nothing later issues before its home has performed it
(R151, R374) (DEDUCED, log 41). -/
def atomicOpen (s : State) (c : CoreId) (n : Nat) : Bool :=
  (seatReqs s c n).any fun r => (r.op matches .amo ..) && (s.seatAt c n).outs.any (·.id = r.id) &&
    r.pieces.any fun p => p.open || p.st = .poisoned

/-- The seats in the order in which they get the cycle: seat 7, then 0 to 6 after the last that issued (R113); `late` are the
seats that a fixed latency or a busy unit holds back in this cycle (R77) (DEDUCED, log 8). -/
def seatOrder (s : State) (c : CoreId) (late : BitVec 8) : List Nat :=
  let k := s.getCore c
  (7 :: (List.range 7).map fun i => (k.lastSeat + 1 + i) % 7).filter fun n =>
    wakes (k.getSeat n) && !late.getLsbD n && !atomicOpen s c n

/-- The running seat executes what it finds at its PC. -/
noncomputable def runSeat (s : State) : Host.Outcome State Fault Refusal :=
  match fetch s with
  | .run i => exec i s
  | .illegal w => exec (.illegalInstruction w) s
  | .poisoned a => .next (precise s 0x60 (fetchVal a))

/-- Core `c` and seat `n` get the cycle. -/
def onSeat (s : State) (c : CoreId) (n : Nat) : State :=
  let s := { s with core := c, seat := Fin.ofNat 8 n }
  s.updThisSeat fun t => { t with status := .running }

/-- The seat that issued is remembered; seat 7 leaves the rotation as it is. -/
def issuedBy (s : State) (c : CoreId) (n : Nat) : State := if n = 7 then s else s.updCore c fun k => { k with lastSeat := n }

/-- The first of the seats that can issue does; the others are found BLOCKED (DEDUCED, log 8). -/
noncomputable def trySeats (c : CoreId) : List Nat → State → Host.Outcome State Fault Refusal
  | [], s => .next s
  | n :: t, s =>
    match runSeat (onSeat s c n) with
    | .next s' => if (s'.seatAt c n).status = .blocked then trySeats c t s' else .next (issuedBy s' c n)
    | .fault r => .fault r
    | .refused r => .refused r

/-- A cycle of one core; a fenced core, or one on a parked chiplet, issues nothing. -/
noncomputable def issueCycle (c : CoreId) (late : BitVec 8) (s : State) : Host.Outcome State Fault Refusal :=
  if !isCore c then .fault (.noSuchCore c)
  else if idle s c then .next s
  else trySeats c (seatOrder s c late) s

/-- The steps of the module's units, which no instruction word stands for. -/
def isEvent (i : Instr) : Bool := (encode i).isEmpty && !(i matches .illegalInstruction _)

/-- One entry of the schedule (DESIGN CHOICE, log 4). -/
noncomputable def takeTurn : Turn → State → Host.Outcome State Fault Refusal
  | .issue c late, s => issueCycle c late s
  | .event e, s => if isEvent e then exec e s else .next s

/-- Parcels written from an address with the start-map bit of the first. -/
def placeParcels (k : Core) (a : Nat) (ps : List Parcel) : Core :=
  let k := (List.range ps.length).foldl (fun k i => setParcel k (a + i) (ps.getD i 0) false) k
  { k with start := sins ((List.range ps.length).foldl (fun st i => sdel st (a + i)) k.start) a }

/-- An instruction placed where the core in focus fetches next: at the PC of its seat 7, which then runs alone on the
schedule (DESIGN CHOICE, log 3). -/
def placeWord (s : State) (nbits w : Nat) : State :=
  let c := s.focus
  let ps : List Parcel := if nbits ≤ 16 then [BitVec.ofNat 16 w] else [BitVec.ofNat 16 (w / 65536), BitVec.ofNat 16 w]
  let s := s.updCore c fun k => (placeParcels k (k.getSeat 7).pc.toNat ps).updSeat 7 fun t => { t with status := .running }
  { s with agenda := [], core := c, seat := 7 }

end Sys2Proof.Machine
end

