-- ==== Sys2Proof/Machine/Step.lean ====
section
/-! DEFINITION. One step of the module: the next entry of the schedule, or a cycle of the core in focus when the schedule is
empty. -/

namespace Sys2Proof.Machine

/-- One step (DESIGN CHOICE, log 4). -/
noncomputable def step (s : State) : Host.Outcome State Fault Refusal :=
  match s.agenda with
  | [] => issueCycle s.focus 0 s
  | t :: rest => takeTurn t { s with agenda := rest }

/-- The state with an instruction stored where `step` fetches next (log 3). -/
def State.withFetchWord (s : State) (nbits w : Nat) : State := placeWord s nbits w

end Sys2Proof.Machine
end

