-- ==== Sys2Proof/Safety.lean ====
section
/-! DEFINITION. What claims about runs are stated in: the form of the memories, the hard-wired registers and reserved fields, as
properties of a state that every step keeps. -/

namespace Sys2Proof.Machine

/-- Every memory of the module stands in its one canonical form. -/
def State.memoriesWf (s : State) : Bool :=
  Memory.wf s.hbm && s.cores.all (fun e => Memory.wf e.2.sp) && s.clusters.all (fun e => Memory.wf e.2.ws) && s.co.all fun e => Memory.wf e.2

/-- POWCAP lies within its limits, PSTATE and the token of the host keep their reserved fields 0 (R393). -/
def State.powerWf (s : State) : Bool :=
  decide (1500 ≤ s.powcap.toNat) && decide (s.powcap.toNat ≤ 5800) && decide (s.pstate.toNat < 8)

/-- Reserved fields of a core's registers read 0: DBG_CTL, TT_ROOT, TRET_CTL and SH_LINK (R178, R295, R324, R327). -/
def Core.reservedWf (k : Core) : Bool :=
  k.dbgCtl &&& ~~~1 == 0 && k.ttRoot &&& ~~~0xFFFF00FFFFFFF001 == 0 && k.tretCtl &&& ~~~0xFFFF0307 == 0 &&
    k.shell.link &&& ~~~0x8000FFFF0000FFFF == 0

/-- Reserved fields of the registers that software writes read 0 (R7): of FAR_CFG, FAR_TT, SWITCH_BASE and of every core's. -/
def State.reservedWf (s : State) : Bool :=
  s.farCfg &&& ~~~0xFF1F030001 == 0 && s.farTt &&& ~~~0xFFFF00FFFFFFF001 == 0 && s.switchBase &&& ~~~0xFFFFE00000 == 0 &&
    s.cores.all fun e => e.2.reservedWf

/-- An instruction issues with its effect: its guard is known and true, no register that it uses makes it wait, no acquire
or release holds it back, and no early read is caught (R20, R77, R78, R114 to R117, R143). -/
abbrev Ready (c : Ctl) (u : Uses) (s : State) : Prop :=
  s.thisSeat.pendP c.gp = false ∧ guardTrue c s.thisSeat = true ∧ interlocked s.thisSeat u = false ∧
    (u.mem && acquiring s.thisSeat) = false ∧ (u.rel && unreleased s s.core s.seat.val) = false ∧ earlyRead s u = none

/-- `OUT` can rise by one (R114). -/
abbrev Room (s : State) : Prop := s.thisSeat.out < 32

/-- A run takes a precise trap (R118); it counts one use of a free value, on which no effect rests. -/
abbrev Traps (s : State) (run : Result) (cause : BitVec 8) (val : Word) : Prop := run = .next (precise s.ticked cause val)

/-- TRAP_VAL of the format trap at register `q` of a seat (R62, R375); its other bits are 0 (DESIGN CHOICE, log 86). -/
abbrev formatVal (t : Seat) (q : BitVec 4) : Word := BitVec.ofNat 64 ((32 + q.toNat) * 256 + (t.getV q).tag.toNat)

/-- The first of some registers whose tag is neither that of an element type nor raw (R62). -/
abbrev misread (t : Seat) (ty : BitVec 3) (rs : List (BitVec 4)) : Option (BitVec 4) :=
  rs.find? fun q => (t.getV q).tag != 0 && (t.getV q).tag != tyTag ty

/-- The running seat's registers after a result; `x0`, `p7` and `k0` discard it (R76, R127). -/
def wroteX (s : State) (d : BitVec 5) (w : Word) : State := s.updThisSeat fun t => t.setX d w
def wroteP (s : State) (d : BitVec 3) (b : Bool) : State := s.updThisSeat fun t => t.setP d b
def wroteV (s : State) (d : BitVec 4) (tag : BitVec 4) (data : BitVec 4096) : State :=
  s.updThisSeat fun t => t.setV d { t.getV d with data := data, tag := tag }
def wroteK (s : State) (d : BitVec 2) (w : BitVec 1024) : State := s.updThisSeat fun t => t.setK d w

/-- The control fields of a 32-bit instruction with a guard, and whether it is marked S (R19, R29, R47, R48). -/
def issueOf : Instr → Option (Ctl × Bool)
  | .add c .. | .sub c .. | .and c .. | .or c .. | .xor c .. | .andn c .. | .orn c .. | .xnor c .. | .sll c .. | .srl c ..
  | .sra c .. | .rol c .. | .ror c .. | .min c .. | .max c .. | .minu c .. | .maxu c .. | .addw c .. | .subw c .. | .mul c ..
  | .mulhi c .. | .mulhiu c .. | .mul32 c .. | .div c .. | .divu c .. | .rem c .. | .remu c .. | .lzc c .. | .tzc c ..
  | .ones c .. | .bswap c .. | .extsB c .. | .extsH c .. | .extsW c .. | .extzW c .. | .bfx c .. | .bfxs c .. | .bfi c ..
  | .addi c .. | .andi c .. | .ori c .. | .xori c .. | .slli c .. | .srli c .. | .srai c .. | .rori c .. | .tag c .. | .li c ..
  | .lis c .. | .cmpEq c .. | .cmpNe c .. | .cmpLt c .. | .cmpGe c .. | .cmpLtu c .. | .cmpGeu c .. | .cmpLe c .. | .cmpGt c ..
  | .cmpLeu c .. | .cmpGtu c .. | .cmpTst c .. | .cmpEqImm c .. | .cmpNeImm c .. | .cmpLtImm c .. | .cmpGeImm c ..
  | .cmpLtuImm c .. | .cmpGeuImm c .. | .cmpLeImm c .. | .cmpGtImm c .. | .cmpEqFloat c .. | .cmpLtFloat c ..
  | .cmpLeFloat c .. | .cmpUnFloat c .. | .pand c .. | .por c .. | .pxor c .. | .pandn c .. | .porn c .. | .pnot c ..
  | .pget c .. | .pset c .. | .br c .. | .call c .. | .jr c .. | .callr c .. | .nop c | .done c | .brk c .. | .fadd c ..
  | .fsub c .. | .fmul c .. | .fdiv c .. | .fmin c .. | .fmax c .. | .fma c .. | .fsqrt c .. | .cvtF32F16 c ..
  | .cvtF32Bf16 c .. | .cvtF16F32 c .. | .cvtBf16F32 c .. | .cvtF32W c .. | .cvtF32Wu c .. | .cvtWF32 c .. | .cvtWuF32 c ..
  | .cvtWF32Rz c .. | .cvtWuF32Rz c .. | .fclass c .. | .fsgnCp c .. | .fsgnNeg c .. | .fsgnXor c .. | .frint c .. | .ldB c ..
  | .ldH c .. | .ldW c .. | .ldD c .. | .ldBu c .. | .ldHu c .. | .ldWu c .. | .stB c .. | .stH c .. | .stW c .. | .stD c ..
  | .ldf c .. | .ldt c .. | .ste c .. | .stf c .. | .ldAcqW c .. | .ldAcqD c .. | .stRelW c .. | .stRelD c .. | .amoAdd c ..
  | .amoAnd c .. | .amoOr c .. | .amoXor c .. | .amoMin c .. | .amoMax c .. | .amoMinu c .. | .amoMaxu c .. | .amoSwap c ..
  | .amoCas c .. | .amoFaddF32 c .. | .fence c | .seal c .. | .unseal c .. | .feFill c .. | .feClr c .. | .vaddInt c ..
  | .vsubInt c .. | .vmulInt c .. | .vminInt c .. | .vmaxInt c .. | .vminu c .. | .vmaxu c .. | .vadds c .. | .vaddFloat c ..
  | .vsubFloat c .. | .vmulFloat c .. | .vfma c .. | .vminFloat c .. | .vmaxFloat c .. | .vdiv c .. | .vsqrt c .. | .vand c ..
  | .vor c .. | .vxor c .. | .vandn c .. | .vsll c .. | .vsrl c .. | .vsra c .. | .vsel c .. | .vcmpEq c .. | .vcmpNe c ..
  | .vcmpLt c .. | .vcmpLe c .. | .vcmpLtu c .. | .vcmpLeu c .. | .vcmpUn c .. | .vredsum c .. | .vredmax c .. | .vredmin c ..
  | .vdot c .. | .vwiden c .. | .vwiden4 c .. | .vnarrow c .. | .vnarrow4 c .. | .vcvt c .. | .vtrW c .. | .vtag c ..
  | .vld c .. | .vst c .. | .vldSc c .. | .vstSc c .. | .vgatherW c .. | .vscatterW c .. | .vgatherH c .. | .vscatterH c ..
  | .vmov c .. | .vbcast c .. | .vext c .. | .vins c .. | .kand c .. | .kor c .. | .kxor c .. | .knot c .. | .qw c ..
  | .qr c .. | .qwv c .. | .qrv c .. | .send c .. | .sendv c .. | .sendc c .. | .mcast c .. | .spawn c .. | .portRd c ..
  | .ringHd c .. | .ringTl c .. | .ringAdv c .. | .ringWait c .. | .rankRd c .. | .gbar c .. | .gexit c .. | .myrank c ..
  | .shMmaSp c .. | .shMmaWs c .. | .shMmaLt c .. | .shMmap c .. | .shDrain c .. | .shDrainz c .. | .shZero c .. | .shPass c
  | .shBow c .. | .shStroke c .. | .shWait c .. | .shRcmd c .. | .hlPost c .. | .hlWp c .. | .hlRfence c .. | .hlStat c ..
  | .rtRedAddF32 c .. | .rtRedAddBf16 c .. | .rtRedAddI32 c .. | .rtRedMaxF32 c .. | .rtRedMinF32 c .. | .rtRes c ..
  | .srRd c .. | .wfe c | .l1Inv c | .l2Wb c .. | .trap c .. => some (c, false)
  | .portWr c .. | .patWr c .. | .rankWr c .. | .rankHold c .. | .rankRel c .. | .hlResume c .. | .rtTree c .. | .rtCodec c ..
  | .srWr c .. | .tret c | .pwr c .. | .capWr c .. | .l2Ways c .. | .tcInv c .. | .bustRd c .. | .rtabRd c ..
  | .rtabWr c .. => some (c, true)
  | .hLi .. | .hAddi .. | .hMov .. | .hAdd .. | .hSub .. | .hAnd .. | .hOr .. | .hXor .. | .hSll .. | .hSrl .. | .hSra ..
  | .hLdW .. | .hLdD .. | .hStW .. | .hStD .. | .hBr .. | .hBp .. | .hNop .. | .hDone .. | .hQr .. | .hQw .. | .rpt ..
  | .patternBinding .. | .messageArrival .. | .ovfHdWrite .. | .trapFiringBinding .. | .eventFiringBinding ..
  | .resultReturn .. | .returnedErrorArrival .. | .countReport .. | .completionCountArrival .. | .sliceExpiry ..
  | .seatCtlWrite .. | .preemption .. | .resumeEntryBinding .. | .spawnRequestArrival .. | .spawnAnswer ..
  | .spawnBinding .. | .launchChoice | .launchBinding .. | .launchSwitchOut .. | .launchSwitchIn .. | .launchAbort ..
  | .fenceSeat .. | .fenceCore .. | .fenceHaulChannel .. | .fenceWeightStoreBank .. | .fenceL2Slot .. | .fenceHbmStack ..
  | .fenceLink .. | .fenceChiplet .. | .deadRankNotice .. | .gbarArrival .. | .gbarCompletion .. | .combineArrival ..
  | .combineDelivery .. | .combineLeave .. | .shellMma .. | .mmaFinish .. | .shellDrain .. | .shellZero .. | .shellPass ..
  | .shellInject .. | .latchGrant .. | .latchArrival .. | .remoteShellCommand .. | .rcmdAnswer .. | .hlQWrite ..
  | .wLineNotify .. | .haulPollTimer .. | .haulSlotTake .. | .haulCopy .. | .haulFill .. | .haulGather .. | .haulBox ..
  | .haulCodec .. | .haulBeat .. | .haulCompletion .. | .loadAtHome .. | .storeAtHome .. | .revocation ..
  | .revocationAck .. | .storeAck .. | .atomicAtHome .. | .syncAccessArrival .. | .peerAccessArrival ..
  | .translationWalk .. | .wsRefreshOpen .. | .wsRefreshClose .. | .requestTimeout .. | .routerForward .. | .farAccess ..
  | .farMessage .. | .pageMigration .. | .movedReply .. | .l2Reconfiguration .. | .uncorrectableError ..
  | .wavelengthFailure .. | .heartbeat .. | .heartbeatLossWest .. | .severed .. | .moduleReset .. | .clockLock ..
  | .calibrationDone .. | .calibrationFail .. | .configurationFrame .. | .belayed .. | .ready .. | .frameTimeout ..
  | .ascentSettled | .pstateTransitionDone .. | .powerCapThrottle .. | .pstateWrite .. | .powcapWrite .. | .shLinkWrite ..
  | .farTtWrite .. | .registerWrite .. | .cxlMemRead .. | .cxlMemWrite .. | .summary .. | .takeToken .. | .abort ..
  | .queueCfg .. | .mbUnsupportedOpcode .. | .getVersion | .getCapabilities | .negotiateAlgorithms | .getDigests
  | .getCertificate .. | .challenge .. | .getMeasurements .. | .illegalInstruction .. | .wLineSubscription .. => none

/-- The registers that an instruction may write at issue. -/
structure Writes where
  x : List (BitVec 5) := []
  p : List (BitVec 3) := []
  v : List (BitVec 4) := []
  k : List (BitVec 2) := []

/-- What an instruction that works on the registers of its own seat alone writes; `none` for every other instruction. -/
def writesOf : Instr → Option Writes
  | .hLi _ d _ | .hAddi _ d _ | .hMov _ d _ | .hAdd _ d _ _ | .hSub _ d _ _ | .hAnd _ d _ _ | .hOr _ d _ _ | .hXor _ d _ _
  | .hSll _ d _ | .hSrl _ d _ | .hSra _ d _ => some { x := [hx d] }
  | .hBr _ _ | .hBp _ _ _ | .hNop _ | .br _ _ | .jr _ _ | .nop _ | .brk _ _ | .trap _ _ | .rpt _ _ _ _ _ => some {}
  | .add _ d _ _ | .sub _ d _ _ | .and _ d _ _ | .or _ d _ _ | .xor _ d _ _ | .andn _ d _ _ | .orn _ d _ _ | .xnor _ d _ _
  | .sll _ d _ _ | .srl _ d _ _ | .sra _ d _ _ | .rol _ d _ _ | .ror _ d _ _ | .min _ d _ _ | .max _ d _ _ | .minu _ d _ _
  | .maxu _ d _ _ | .addw _ d _ _ | .subw _ d _ _ | .mul _ d _ _ | .mulhi _ d _ _ | .mulhiu _ d _ _ | .mul32 _ d _ _
  | .div _ d _ _ | .divu _ d _ _ | .rem _ d _ _ | .remu _ d _ _ | .lzc _ d _ | .tzc _ d _ | .ones _ d _ | .bswap _ d _
  | .extsB _ d _ | .extsH _ d _ | .extsW _ d _ | .extzW _ d _ | .bfx _ d _ _ | .bfxs _ d _ _ | .bfi _ d _ _ | .addi _ d _ _
  | .andi _ d _ _ | .ori _ d _ _ | .xori _ d _ _ | .slli _ d _ _ | .srli _ d _ _ | .srai _ d _ _ | .rori _ d _ _
  | .tag _ d _ _ | .li _ d _ | .lis _ d _ | .fadd _ d _ _ _ | .fsub _ d _ _ _ | .fmul _ d _ _ _ | .fdiv _ d _ _ _
  | .fmin _ d _ _ _ | .fmax _ d _ _ _ | .fma _ d _ _ _ | .fsqrt _ d _ _ | .cvtF32F16 _ d _ | .cvtF32Bf16 _ d _
  | .cvtF16F32 _ d _ | .cvtBf16F32 _ d _ | .cvtF32W _ d _ | .cvtF32Wu _ d _ | .cvtWF32 _ d _ | .cvtWuF32 _ d _
  | .cvtWF32Rz _ d _ | .cvtWuF32Rz _ d _ | .fclass _ d _ _ | .fsgnCp _ d _ _ _ | .fsgnNeg _ d _ _ _ | .fsgnXor _ d _ _ _
  | .frint _ d _ _ | .portRd _ d _ | .ringHd _ d _ | .ringTl _ d _ | .ringWait _ d _ | .rankRd _ d _ | .myrank _ d => some { x := [d] }
  | .cmpEq _ p e _ _ | .cmpNe _ p e _ _ | .cmpLt _ p e _ _ | .cmpGe _ p e _ _ | .cmpLtu _ p e _ _ | .cmpGeu _ p e _ _
  | .cmpLe _ p e _ _ | .cmpGt _ p e _ _ | .cmpLeu _ p e _ _ | .cmpGtu _ p e _ _ | .cmpTst _ p e _ _ | .cmpEqImm _ p e _ _
  | .cmpNeImm _ p e _ _ | .cmpLtImm _ p e _ _ | .cmpGeImm _ p e _ _ | .cmpLtuImm _ p e _ _ | .cmpGeuImm _ p e _ _
  | .cmpLeImm _ p e _ _ | .cmpGtImm _ p e _ _ | .cmpEqFloat _ p e _ _ _ | .cmpLtFloat _ p e _ _ _ | .cmpLeFloat _ p e _ _ _
  | .cmpUnFloat _ p e _ _ _ => some { p := [p, e] }
  | .pand _ d _ _ | .por _ d _ _ | .pxor _ d _ _ | .pandn _ d _ _ | .porn _ d _ _ | .pnot _ d _ => some { p := [d] }
  | .pget _ x => some { x := [x] }
  | .pset _ _ => some { p := [0, 1, 2, 3, 4, 5, 6] }
  | .call _ _ | .callr _ _ => some { x := [31] }
  | .vaddInt _ d _ _ _ _ | .vsubInt _ d _ _ _ _ | .vmulInt _ d _ _ _ _ | .vminInt _ d _ _ _ _ | .vmaxInt _ d _ _ _ _
  | .vminu _ d _ _ _ _ | .vmaxu _ d _ _ _ _ | .vadds _ d _ _ _ _ | .vaddFloat _ d _ _ _ _ | .vsubFloat _ d _ _ _ _
  | .vmulFloat _ d _ _ _ _ | .vfma _ d _ _ _ _ | .vminFloat _ d _ _ _ _ | .vmaxFloat _ d _ _ _ _ | .vdiv _ d _ _ _ _
  | .vsqrt _ d _ _ _ | .vand _ d _ _ _ | .vor _ d _ _ _ | .vxor _ d _ _ _ | .vandn _ d _ _ _ | .vsll _ d _ _ _ _
  | .vsrl _ d _ _ _ _ | .vsra _ d _ _ _ _ | .vsel _ d _ _ _ | .vredsum _ d _ _ _ | .vredmax _ d _ _ _ | .vredmin _ d _ _ _
  | .vdot _ d _ _ _ _ | .vnarrow _ d _ _ _ | .vnarrow4 _ d _ _ _ | .vtag _ d _ _ | .vmov _ d _ | .vbcast _ d _ _
  | .vins _ d _ _ _ => some { v := [d] }
  | .vcmpEq _ d _ _ _ _ | .vcmpNe _ d _ _ _ _ | .vcmpLt _ d _ _ _ _ | .vcmpLe _ d _ _ _ _ | .vcmpLtu _ d _ _ _ _
  | .vcmpLeu _ d _ _ _ _ | .vcmpUn _ d _ _ _ _ | .kand _ d _ _ | .kor _ d _ _ | .kxor _ d _ _ | .knot _ d _ => some { k := [d] }
  | .vwiden _ d _ _ _ => some { v := group d 2 }
  | .vwiden4 _ d _ _ _ => some { v := group d 4 }
  | .vext _ _ a _ _ => some { x := [a] }
  | _ => none

end Sys2Proof.Machine
end

