-- ==== Sys2Proof/Certificates/Slice0/Obligations.lean ====
section
/-! DEFINITION. The statements for the provers: results and completion of every instruction and event, frames, traps, decoding,
steps and invariants, from the numbered rules of the manual. -/

section
open Sys2Proof Sys2Proof.Machine

/-- Every register-register integer instruction writes its result to xd. Major 0x00 of R79. -/
def Obligations.IntegerRegisterResults : Prop :=
  ∀ (s : State) (c : Ctl) (d a b : BitVec 5), Ready c { rx := [a, b], wx := [d] } s →
    let x := s.thisSeat.getX a
    let y := s.thisSeat.getX b
    let sh := fld y 5 0
    exec (.add c d a b) s = .next (retire c.sw 2 (wroteX s d (x + y))) ∧
    exec (.sub c d a b) s = .next (retire c.sw 2 (wroteX s d (x - y))) ∧
    exec (.and c d a b) s = .next (retire c.sw 2 (wroteX s d (x &&& y))) ∧
    exec (.or c d a b) s = .next (retire c.sw 2 (wroteX s d (x ||| y))) ∧
    exec (.xor c d a b) s = .next (retire c.sw 2 (wroteX s d (x ^^^ y))) ∧
    exec (.andn c d a b) s = .next (retire c.sw 2 (wroteX s d (x &&& ~~~y))) ∧
    exec (.orn c d a b) s = .next (retire c.sw 2 (wroteX s d (x ||| ~~~y))) ∧
    exec (.xnor c d a b) s = .next (retire c.sw 2 (wroteX s d (~~~(x ^^^ y)))) ∧
    exec (.sll c d a b) s = .next (retire c.sw 2 (wroteX s d (x <<< sh))) ∧
    exec (.srl c d a b) s = .next (retire c.sw 2 (wroteX s d (x >>> sh))) ∧
    exec (.sra c d a b) s = .next (retire c.sw 2 (wroteX s d (x.sshiftRight sh))) ∧
    exec (.rol c d a b) s = .next (retire c.sw 2 (wroteX s d (x.rotateLeft sh))) ∧
    exec (.ror c d a b) s = .next (retire c.sw 2 (wroteX s d (x.rotateRight sh))) ∧
    exec (.min c d a b) s = .next (retire c.sw 2 (wroteX s d (if y.slt x then y else x))) ∧
    exec (.max c d a b) s = .next (retire c.sw 2 (wroteX s d (if x.slt y then y else x))) ∧
    exec (.minu c d a b) s = .next (retire c.sw 2 (wroteX s d (if y.ult x then y else x))) ∧
    exec (.maxu c d a b) s = .next (retire c.sw 2 (wroteX s d (if x.ult y then y else x))) ∧
    exec (.addw c d a b) s = .next (retire c.sw 2 (wroteX s d (((x + y).setWidth 32).signExtend 64))) ∧
    exec (.subw c d a b) s = .next (retire c.sw 2 (wroteX s d (((x - y).setWidth 32).signExtend 64)))

/-- Every instruction of major 0x01 writes the result of R80 to xd. Major 0x01 of R80. -/
def Obligations.MultiplyDivideCountResults : Prop :=
  ∀ (s : State) (c : Ctl) (d a b : BitVec 5),
    let x := s.thisSeat.getX a
    let y := s.thisSeat.getX b
    (Ready c { rx := [a, b], wx := [d] } s →
      exec (.mul c d a b) s = .next (retire c.sw 2 (wroteX s d (x * y))) ∧
      exec (.mulhi c d a b) s = .next (retire c.sw 2 (wroteX s d (BitVec.ofInt 64 ((x.toInt * y.toInt).fdiv (2 ^ 64))))) ∧
      exec (.mulhiu c d a b) s = .next (retire c.sw 2 (wroteX s d (BitVec.ofNat 64 (x.toNat * y.toNat / 2 ^ 64)))) ∧
      exec (.mul32 c d a b) s = .next (retire c.sw 2 (wroteX s d (((x.setWidth 32 * y.setWidth 32 : BitVec 32)).signExtend 64))) ∧
      exec (.div c d a b) s = .next (retire c.sw 2 (wroteX s d (if y = 0 then (if 0 ≤ x.toInt then 0x7FFFFFFFFFFFFFFF else 0x8000000000000000) else if x = 0x8000000000000000 ∧ y = BitVec.allOnes 64 then 0x7FFFFFFFFFFFFFFF else BitVec.ofInt 64 (x.toInt.tdiv y.toInt)))) ∧
      exec (.divu c d a b) s = .next (retire c.sw 2 (wroteX s d (if y = 0 then BitVec.allOnes 64 else x / y))) ∧
      exec (.rem c d a b) s = .next (retire c.sw 2 (wroteX s d (if y = 0 then x else BitVec.ofInt 64 (x.toInt.tmod y.toInt)))) ∧
      exec (.remu c d a b) s = .next (retire c.sw 2 (wroteX s d (if y = 0 then x else x % y)))) ∧
    (Ready c { rx := [a], wx := [d] } s →
      exec (.lzc c d a) s = .next (retire c.sw 2 (wroteX s d (if x = 0 then 64 else BitVec.ofNat 64 (63 - x.toNat.log2)))) ∧
      exec (.tzc c d a) s = .next (retire c.sw 2 (wroteX s d (if x = 0 then 64 else BitVec.ofNat 64 ((x &&& -x).toNat.log2)))) ∧
      exec (.ones c d a) s = .next (retire c.sw 2 (wroteX s d (BitVec.ofNat 64 (((List.range 64).filter fun i => x.getLsbD i).length)))) ∧
      exec (.bswap c d a) s = .next (retire c.sw 2 (wroteX s d (x.extractLsb' 0 8 ++ x.extractLsb' 8 8 ++ x.extractLsb' 16 8 ++ x.extractLsb' 24 8 ++ x.extractLsb' 32 8 ++ x.extractLsb' 40 8 ++ x.extractLsb' 48 8 ++ x.extractLsb' 56 8))) ∧
      exec (.extsB c d a) s = .next (retire c.sw 2 (wroteX s d ((x.setWidth 8).signExtend 64))) ∧
      exec (.extsH c d a) s = .next (retire c.sw 2 (wroteX s d ((x.setWidth 16).signExtend 64))) ∧
      exec (.extsW c d a) s = .next (retire c.sw 2 (wroteX s d ((x.setWidth 32).signExtend 64))) ∧
      exec (.extzW c d a) s = .next (retire c.sw 2 (wroteX s d ((x.setWidth 32).setWidth 64))))

/-- Immediate, constant and bit-field instructions write the results of R81 to R83 to xd. Majors 0x02 to 0x0A of R81 to R83. -/
def Obligations.ImmediateAndFieldResults : Prop :=
  ∀ (s : State) (c : Ctl) (d a b : BitVec 5) (i : BitVec 10) (h : BitVec 6) (sp : BitVec 8) (n : BitVec 15),
    let x := s.thisSeat.getX a
    let y := s.thisSeat.getX b
    let old := s.thisSeat.getX d
    let pos := fld y 5 0
    let w := min (if fld y 13 8 = 0 then 64 else fld y 13 8) (64 - pos)
    (Ready c { rx := [a], wx := [d] } s →
      exec (.addi c d a i) s = .next (retire c.sw 2 (wroteX s d (x + i.signExtend 64))) ∧
      exec (.andi c d a i) s = .next (retire c.sw 2 (wroteX s d (x &&& i.signExtend 64))) ∧
      exec (.ori c d a i) s = .next (retire c.sw 2 (wroteX s d (x ||| i.signExtend 64))) ∧
      exec (.xori c d a i) s = .next (retire c.sw 2 (wroteX s d (x ^^^ i.signExtend 64))) ∧
      exec (.slli c d a h) s = .next (retire c.sw 2 (wroteX s d (x <<< h.toNat))) ∧
      exec (.srli c d a h) s = .next (retire c.sw 2 (wroteX s d (x >>> h.toNat))) ∧
      exec (.srai c d a h) s = .next (retire c.sw 2 (wroteX s d (x.sshiftRight h.toNat))) ∧
      exec (.rori c d a h) s = .next (retire c.sw 2 (wroteX s d (x.rotateRight h.toNat))) ∧
      exec (.tag c d a sp) s = .next (retire c.sw 2 (wroteX s d (sp ++ x.setWidth 56)))) ∧
    (Ready c { wx := [d] } s → exec (.li c d n) s = .next (retire c.sw 2 (wroteX s d (n.signExtend 64)))) ∧
    (Ready c { rx := [d], wx := [d] } s → exec (.lis c d n) s = .next (retire c.sw 2 (wroteX s d ((old <<< 15) ||| n.setWidth 64)))) ∧
    (Ready c { rx := [a, b], wx := [d] } s →
      exec (.bfx c d a b) s = .next (retire c.sw 2 (wroteX s d (BitVec.ofNat 64 (x.toNat / 2 ^ pos % 2 ^ w)))) ∧
      exec (.bfxs c d a b) s = .next (retire c.sw 2 (wroteX s d (BitVec.ofInt 64 (((x.toNat / 2 ^ pos % 2 ^ w : Nat) : Int) - if x.toNat / 2 ^ pos % 2 ^ w < 2 ^ (w - 1) then 0 else 2 ^ w))))) ∧
    (Ready c { rx := [a, b, d], wx := [d] } s →
      exec (.bfi c d a b) s = .next (retire c.sw 2 (wroteX s d (BitVec.ofNat 64
        (old.toNat % 2 ^ pos + x.toNat % 2 ^ w * 2 ^ pos + old.toNat / 2 ^ (pos + w) * 2 ^ (pos + w))))))

/-- Every 16-bit register form has the effect of its 32-bit form on x8 to x15 and takes one parcel. The register forms of R18. -/
def Obligations.HalfWordForms : Prop :=
  ∀ (s : State) (sw : Bool) (d a b : BitVec 3) (i : BitVec 6),
    let x := s.thisSeat.getX (hx a)
    let y := s.thisSeat.getX (hx b)
    let old := s.thisSeat.getX (hx d)
    let c := halfCtl sw
    (Ready c { wx := [hx d] } s → exec (.hLi sw d i) s = .next (retire sw 1 (wroteX s (hx d) (i.signExtend 64)))) ∧
    (Ready c { rx := [hx d], wx := [hx d] } s →
      exec (.hAddi sw d i) s = .next (retire sw 1 (wroteX s (hx d) (old + i.signExtend 64))) ∧
      exec (.hSll sw d i) s = .next (retire sw 1 (wroteX s (hx d) (old <<< i.toNat))) ∧
      exec (.hSrl sw d i) s = .next (retire sw 1 (wroteX s (hx d) (old >>> i.toNat))) ∧
      exec (.hSra sw d i) s = .next (retire sw 1 (wroteX s (hx d) (old.sshiftRight i.toNat)))) ∧
    (Ready c { rx := [hx a], wx := [hx d] } s → exec (.hMov sw d a) s = .next (retire sw 1 (wroteX s (hx d) x))) ∧
    (Ready c { rx := [hx a, hx b], wx := [hx d] } s →
      exec (.hAdd sw d a b) s = .next (retire sw 1 (wroteX s (hx d) (x + y))) ∧
      exec (.hSub sw d a b) s = .next (retire sw 1 (wroteX s (hx d) (x - y))) ∧
      exec (.hAnd sw d a b) s = .next (retire sw 1 (wroteX s (hx d) (x &&& y))) ∧
      exec (.hOr sw d a b) s = .next (retire sw 1 (wroteX s (hx d) (x ||| y))) ∧
      exec (.hXor sw d a b) s = .next (retire sw 1 (wroteX s (hx d) (x ^^^ y)))) ∧
    (Ready c {} s → exec (.hNop sw) s = .next (retire sw 1 s))

/-- Every compare writes its condition to pd and the complement to pe. The compares of R84 and R85; the condition goes to pd, then the complement to pe (R34). -/
def Obligations.CompareResults : Prop :=
  ∀ (s : State) (c : Ctl) (p e : BitVec 3) (a b : BitVec 5) (i : BitVec 6) (t : BitVec 2),
    let x := s.thisSeat.getX a
    let y := s.thisSeat.getX b
    let v : Word := i.signExtend 64
    let dec (w : Word) := decodeF (scalarFmt t) (low w (scalarFmt t).width)
    (Ready c { rx := [a, b], wp := [p, e] } s →
      exec (.cmpEq c p e a b) s = .next (retire c.sw 2 (wroteP (wroteP s p (x == y)) e (!(x == y)))) ∧
      exec (.cmpNe c p e a b) s = .next (retire c.sw 2 (wroteP (wroteP s p (x != y)) e (!(x != y)))) ∧
      exec (.cmpLt c p e a b) s = .next (retire c.sw 2 (wroteP (wroteP s p (x.slt y)) e (!(x.slt y)))) ∧
      exec (.cmpGe c p e a b) s = .next (retire c.sw 2 (wroteP (wroteP s p (!x.slt y)) e (!(!x.slt y)))) ∧
      exec (.cmpLtu c p e a b) s = .next (retire c.sw 2 (wroteP (wroteP s p (x.ult y)) e (!(x.ult y)))) ∧
      exec (.cmpGeu c p e a b) s = .next (retire c.sw 2 (wroteP (wroteP s p (!x.ult y)) e (!(!x.ult y)))) ∧
      exec (.cmpLe c p e a b) s = .next (retire c.sw 2 (wroteP (wroteP s p (x.sle y)) e (!(x.sle y)))) ∧
      exec (.cmpGt c p e a b) s = .next (retire c.sw 2 (wroteP (wroteP s p (y.slt x)) e (!(y.slt x)))) ∧
      exec (.cmpLeu c p e a b) s = .next (retire c.sw 2 (wroteP (wroteP s p (x.ule y)) e (!(x.ule y)))) ∧
      exec (.cmpGtu c p e a b) s = .next (retire c.sw 2 (wroteP (wroteP s p (y.ult x)) e (!(y.ult x)))) ∧
      exec (.cmpTst c p e a b) s = .next (retire c.sw 2 (wroteP (wroteP s p (x &&& y != 0)) e (!(x &&& y != 0)))) ∧
      exec (.cmpEqFloat c p e a b t) s = .next (retire c.sw 2 (wroteP (wroteP s p (eqV (dec x) (dec y))) e (!(eqV (dec x) (dec y))))) ∧
      exec (.cmpLtFloat c p e a b t) s = .next (retire c.sw 2 (wroteP (wroteP s p (ltV (dec x) (dec y))) e (!(ltV (dec x) (dec y))))) ∧
      exec (.cmpLeFloat c p e a b t) s = .next (retire c.sw 2 (wroteP (wroteP s p (ltV (dec x) (dec y) || eqV (dec x) (dec y))) e (!(ltV (dec x) (dec y) || eqV (dec x) (dec y))))) ∧
      exec (.cmpUnFloat c p e a b t) s = .next (retire c.sw 2 (wroteP (wroteP s p (isNan (dec x) || isNan (dec y))) e (!(isNan (dec x) || isNan (dec y)))))) ∧
    (Ready c { rx := [a], wp := [p, e] } s →
      exec (.cmpEqImm c p e a i) s = .next (retire c.sw 2 (wroteP (wroteP s p (x == v)) e (!(x == v)))) ∧
      exec (.cmpNeImm c p e a i) s = .next (retire c.sw 2 (wroteP (wroteP s p (x != v)) e (!(x != v)))) ∧
      exec (.cmpLtImm c p e a i) s = .next (retire c.sw 2 (wroteP (wroteP s p (x.slt v)) e (!(x.slt v)))) ∧
      exec (.cmpGeImm c p e a i) s = .next (retire c.sw 2 (wroteP (wroteP s p (!x.slt v)) e (!(!x.slt v)))) ∧
      exec (.cmpLtuImm c p e a i) s = .next (retire c.sw 2 (wroteP (wroteP s p (x.ult v)) e (!(x.ult v)))) ∧
      exec (.cmpGeuImm c p e a i) s = .next (retire c.sw 2 (wroteP (wroteP s p (!x.ult v)) e (!(!x.ult v)))) ∧
      exec (.cmpLeImm c p e a i) s = .next (retire c.sw 2 (wroteP (wroteP s p (x.sle v)) e (!(x.sle v)))) ∧
      exec (.cmpGtImm c p e a i) s = .next (retire c.sw 2 (wroteP (wroteP s p (v.slt x)) e (!(v.slt x)))))

/-- Predicate logic, pget and pset have the effects of R86. R86. -/
def Obligations.PredicateResults : Prop :=
  ∀ (s : State) (c : Ctl) (d a b : BitVec 3) (x : BitVec 5),
    let pa := s.thisSeat.getP a
    let pb := s.thisSeat.getP b
    (Ready c { rp := [a, b], wp := [d] } s →
      exec (.pand c d a b) s = .next (retire c.sw 2 (wroteP s d (pa && pb))) ∧
      exec (.por c d a b) s = .next (retire c.sw 2 (wroteP s d (pa || pb))) ∧
      exec (.pxor c d a b) s = .next (retire c.sw 2 (wroteP s d (pa != pb))) ∧
      exec (.pandn c d a b) s = .next (retire c.sw 2 (wroteP s d (pa && !pb))) ∧
      exec (.porn c d a b) s = .next (retire c.sw 2 (wroteP s d (pa || !pb)))) ∧
    (Ready c { rp := [a, a], wp := [d] } s → exec (.pnot c d a) s = .next (retire c.sw 2 (wroteP s d (!pa)))) ∧
    (Ready c { rp := [0, 1, 2, 3, 4, 5, 6], wx := [x] } s → ∃ w : Word,
      exec (.pget c x) s = .next (retire c.sw 2 (wroteX s x w)) ∧ w.toNat < 256 ∧ ∀ n : BitVec 3, w.getLsbD n.toNat = s.thisSeat.getP n) ∧
    (Ready c { rx := [x], wp := [0, 1, 2, 3, 4, 5, 6] } s → ∃ p : BitVec 8,
      exec (.pset c x) s = .next (retire c.sw 2 (s.updThisSeat fun t => { t with p := p })) ∧
      ∀ n < 7, p.getLsbD n = (s.thisSeat.getX x).getLsbD n)

/-- A taken branch to an instruction start moves the program counter there, and call links; any other target traps. R87. The trap counts one use of a free value (`ticked`), which no effect rests on. -/
def Obligations.BranchResults : Prop :=
  ∀ (s : State) (sw : Bool) (g : Ctl) (a : BitVec 5) (o : BitVec 20) (o9 : BitVec 9) (p : BitVec 3) (o6 : BitVec 6),
    let pc : Int := s.thisSeat.pc.toNat
    let x := s.thisSeat.getX a
    let good (n : Int) : Prop := 0 ≤ n ∧ n ≤ 0xFFFF ∧ s.thisCore.starts n.toNat = true
    let linked (len : Nat) : State := wroteX s 31 (s.thisSeat.pc.setWidth 64 + BitVec.ofNat 64 len)
    let bad (n : Int) : State := precise s.ticked 0x01 (BitVec.ofInt 64 n)
    (Ready g {} s →
      (good (pc + o.toInt) → exec (.br g o) s = .next (jump g.sw (BitVec.ofInt 16 (pc + o.toInt)) s)) ∧
      (¬ good (pc + o.toInt) → exec (.br g o) s = .next (bad (pc + o.toInt)))) ∧
    (Ready g { wx := [31] } s →
      (good (pc + o.toInt) → exec (.call g o) s = .next (jump g.sw (BitVec.ofInt 16 (pc + o.toInt)) (linked 2))) ∧
      (¬ good (pc + o.toInt) → exec (.call g o) s = .next (bad (pc + o.toInt)))) ∧
    (Ready g { rx := [a] } s →
      (good x.toNat → exec (.jr g a) s = .next (jump g.sw (x.setWidth 16) s)) ∧
      (¬ good x.toNat → exec (.jr g a) s = .next (precise s.ticked 0x01 x))) ∧
    (Ready g { rx := [a], wx := [31] } s →
      (good x.toNat → exec (.callr g a) s = .next (jump g.sw (x.setWidth 16) (linked 2))) ∧
      (¬ good x.toNat → exec (.callr g a) s = .next (precise s.ticked 0x01 x))) ∧
    (Ready (halfCtl sw) {} s →
      (good (pc + o9.toInt) → exec (.hBr sw o9) s = .next (jump sw (BitVec.ofInt 16 (pc + o9.toInt)) s)) ∧
      (¬ good (pc + o9.toInt) → exec (.hBr sw o9) s = .next (bad (pc + o9.toInt)))) ∧
    (Ready ⟨sw, false, p⟩ {} s →
      (good (pc + o6.toInt) → exec (.hBp sw p o6) s = .next (jump sw (BitVec.ofInt 16 (pc + o6.toInt)) s)) ∧
      (¬ good (pc + o6.toInt) → exec (.hBp sw p o6) s = .next (bad (pc + o6.toInt))))

/-- nop changes nothing, brk and trap take their trap, done ends the firing once its queues are empty and OUT is zero. R88, R89, R195, R264, R313 and R326. The v of reason 9 and the subject of the haul trap's reason 5 are any values: no rule gives the first at a `done`. -/
def Obligations.FiringEndAndPlainResults : Prop :=
  ∀ (s : State) (sw : Bool) (c : Ctl) (code : BitVec 15) (a : BitVec 5),
    let t := s.thisSeat
    let empty : Prop := t.q0 = [] ∧ t.q2 = [] ∧ t.q4 = [] ∧ t.q6 = []
    let draining := s.updThisSeat fun t => { t with status := .draining }
    let held (run : Result) : Prop :=
      (t.q4 ≠ [] → ∃ v : BitVec 16, Traps s run 0x20 (reasonVal 9 0 v.toNat)) ∧
      (t.q4 = [] → t.q0 ≠ [] → Traps s run 0x40 (reasonVal 1 0 t.q0.length)) ∧
      (t.q4 = [] → t.q0 = [] → t.q2 ≠ [] → ∃ v : BitVec 56, Traps s run 0x41 (5#8 ++ v)) ∧
      (t.q4 = [] → t.q0 = [] → t.q2 = [] → t.q6 ≠ [] → Traps s run 0x42 (reasonVal 1 0 1))
    (Ready c {} s →
      exec (.nop c) s = .next (retire c.sw 2 s) ∧
      exec (.brk c code) s = .next (precise s.ticked 0x05 (code.setWidth 64)) ∧
      (empty → t.outs ≠ [] → exec (.done c) s = .next draining) ∧
      (empty → t.outs = [] → exec (.done c) s = .next (endFiring draining s.core s.seat.val)) ∧ held (exec (.done c) s)) ∧
    (Ready (halfCtl sw) {} s →
      (empty → t.outs ≠ [] → exec (.hDone sw) s = .next draining) ∧
      (empty → t.outs = [] → exec (.hDone sw) s = .next (endFiring draining s.core s.seat.val)) ∧ held (exec (.hDone sw) s)) ∧
    (Ready c { rx := [a] } s → exec (.trap c a) s = .next (precise s.ticked 0x06 (t.getX a)))

/-- Scalar floating-point instructions write their result, zero-extended, to xd. R63, R90 and R91; the arithmetic itself is `addF` and its like on exact values. -/
def Obligations.FloatResults : Prop :=
  ∀ (s : State) (c : Ctl) (d a b : BitVec 5) (t : BitVec 2),
    let f := scalarFmt t
    let x := (s.thisSeat.getX a).toNat % 2 ^ f.width
    let y := (s.thisSeat.getX b).toNat % 2 ^ f.width
    let z := (s.thisSeat.getX d).toNat % 2 ^ f.width
    (Ready c { rx := [a, b], wx := [d] } s →
      exec (.fadd c d a b t) s = .next (retire c.sw 2 (wroteX s d (BitVec.ofNat 64 (addF f x y)))) ∧
      exec (.fsub c d a b t) s = .next (retire c.sw 2 (wroteX s d (BitVec.ofNat 64 (subF f x y)))) ∧
      exec (.fmul c d a b t) s = .next (retire c.sw 2 (wroteX s d (BitVec.ofNat 64 (mulF f x y)))) ∧
      exec (.fdiv c d a b t) s = .next (retire c.sw 2 (wroteX s d (BitVec.ofNat 64 (divF f x y)))) ∧
      exec (.fmin c d a b t) s = .next (retire c.sw 2 (wroteX s d (BitVec.ofNat 64 (minF f x y)))) ∧
      exec (.fmax c d a b t) s = .next (retire c.sw 2 (wroteX s d (BitVec.ofNat 64 (maxF f x y)))) ∧
      exec (.fsgnCp c d a b t) s = .next (retire c.sw 2 (wroteX s d (BitVec.ofNat 64 (x % 2 ^ (f.eb + f.fb) + if signField f y then 2 ^ (f.eb + f.fb) else 0)))) ∧
      exec (.fsgnNeg c d a b t) s = .next (retire c.sw 2 (wroteX s d (BitVec.ofNat 64 (x % 2 ^ (f.eb + f.fb) + if signField f y then 0 else 2 ^ (f.eb + f.fb))))) ∧
      exec (.fsgnXor c d a b t) s = .next (retire c.sw 2 (wroteX s d (BitVec.ofNat 64 (x % 2 ^ (f.eb + f.fb) + if signField f x = signField f y then 0 else 2 ^ (f.eb + f.fb)))))) ∧
    (Ready c { rx := [a, b, d], wx := [d] } s → exec (.fma c d a b t) s = .next (retire c.sw 2 (wroteX s d (BitVec.ofNat 64 (fmaF f x y z))))) ∧
    (Ready c { rx := [a], wx := [d] } s →
      exec (.fsqrt c d a t) s = .next (retire c.sw 2 (wroteX s d (BitVec.ofNat 64 (sqrtF f x)))) ∧
      exec (.fclass c d a t) s = .next (retire c.sw 2 (wroteX s d (BitVec.ofNat 64 (classF f x)))) ∧
      exec (.frint c d a t) s = .next (retire c.sw 2 (wroteX s d (BitVec.ofNat 64 (rintF f x)))))

/-- The scalar conversions write the rounded or clamped value of R71 to xd. R71. -/
def Obligations.ScalarConversionResults : Prop :=
  ∀ (s : State) (c : Ctl) (d a : BitVec 5), Ready c { rx := [a], wx := [d] } s →
    let x := s.thisSeat.getX a
    exec (.cvtF32F16 c d a) s = .next (retire c.sw 2 (wroteX s d (BitVec.ofNat 64 (roundF fmtF32 (decodeF fmtF16 (low x 16)))))) ∧
    exec (.cvtF32Bf16 c d a) s = .next (retire c.sw 2 (wroteX s d (BitVec.ofNat 64 (roundF fmtF32 (decodeF fmtBf16 (low x 16)))))) ∧
    exec (.cvtF16F32 c d a) s = .next (retire c.sw 2 (wroteX s d (BitVec.ofNat 64 (roundF fmtF16 (decodeF fmtF32 (low x 32)))))) ∧
    exec (.cvtBf16F32 c d a) s = .next (retire c.sw 2 (wroteX s d (BitVec.ofNat 64 (roundF fmtBf16 (decodeF fmtF32 (low x 32)))))) ∧
    exec (.cvtF32W c d a) s = .next (retire c.sw 2 (wroteX s d (BitVec.ofNat 64 (roundF fmtF32 (ofIntV (x.setWidth 32).toInt))))) ∧
    exec (.cvtF32Wu c d a) s = .next (retire c.sw 2 (wroteX s d (BitVec.ofNat 64 (roundF fmtF32 (ofIntV (low x 32)))))) ∧
    exec (.cvtWF32 c d a) s = .next (retire c.sw 2 (wroteX s d (BitVec.ofInt 64 (toIntV .ne (-2 ^ 31) (2 ^ 31 - 1) (decodeF fmtF32 (low x 32)))))) ∧
    exec (.cvtWuF32 c d a) s = .next (retire c.sw 2 (wroteX s d (BitVec.ofInt 64 (toIntV .ne 0 (2 ^ 32 - 1) (decodeF fmtF32 (low x 32)))))) ∧
    exec (.cvtWF32Rz c d a) s = .next (retire c.sw 2 (wroteX s d (BitVec.ofInt 64 (toIntV .tz (-2 ^ 31) (2 ^ 31 - 1) (decodeF fmtF32 (low x 32)))))) ∧
    exec (.cvtWuF32Rz c d a) s = .next (retire c.sw 2 (wroteX s d (BitVec.ofInt 64 (toIntV .tz 0 (2 ^ 32 - 1) (decodeF fmtF32 (low x 32))))))

/-- Lane-wise vector instructions write every active lane, keep every inactive one, and set the tag of the type. R62 and R123 to R126. That the other bits of TRAP_VAL are 0 is the model's choice (log 86), and so is the order va, vb, vd in which several bad tags are named (log 74). -/
def Obligations.VectorLaneResults : Prop :=
  ∀ (s : State) (c : Ctl) (d a b : BitVec 4) (k : BitVec 2) (t : BitVec 3),
    let r := s.thisSeat
    let w := tyWidth t
    let x (i : Nat) := elem w (r.getV a).data i
    let y (i : Nat) := elem w (r.getV b).data i
    let z (i : Nat) := elem w (r.getV d).data i
    let lanes (f : Nat → Nat) := build w fun i => if (r.getK k).getLsbD i then f i else z i
    (Ready c { rv := [a, b], wv := [d] } s → tagFaults r t [a, b] = none →
      exec (.vaddInt c d a b k t) s = .next (retire c.sw 2 (wroteV s d (tyTag t) (lanes fun i => x i + y i))) ∧
      exec (.vsubInt c d a b k t) s = .next (retire c.sw 2 (wroteV s d (tyTag t) (lanes fun i => x i + (2 ^ w - y i)))) ∧
      exec (.vmulInt c d a b k t) s = .next (retire c.sw 2 (wroteV s d (tyTag t) (lanes fun i => x i * y i))) ∧
      exec (.vminInt c d a b k t) s = .next (retire c.sw 2 (wroteV s d (tyTag t) (lanes fun i => if sxt w (y i) < sxt w (x i) then y i else x i))) ∧
      exec (.vmaxInt c d a b k t) s = .next (retire c.sw 2 (wroteV s d (tyTag t) (lanes fun i => if sxt w (x i) < sxt w (y i) then y i else x i))) ∧
      exec (.vminu c d a b k t) s = .next (retire c.sw 2 (wroteV s d (tyTag t) (lanes fun i => min (x i) (y i)))) ∧
      exec (.vmaxu c d a b k t) s = .next (retire c.sw 2 (wroteV s d (tyTag t) (lanes fun i => max (x i) (y i)))) ∧
      exec (.vadds c d a b k t) s = .next (retire c.sw 2 (wroteV s d (tyTag t) (lanes fun i => wrap w (max (-(2 ^ (w - 1) : Nat)) (min ((2 ^ (w - 1) : Nat) - 1) (sxt w (x i) + sxt w (y i))))))) ∧
      exec (.vaddFloat c d a b k t) s = .next (retire c.sw 2 (wroteV s d (tyTag t) (lanes fun i => addF (tyFmt t) (x i) (y i)))) ∧
      exec (.vsubFloat c d a b k t) s = .next (retire c.sw 2 (wroteV s d (tyTag t) (lanes fun i => subF (tyFmt t) (x i) (y i)))) ∧
      exec (.vmulFloat c d a b k t) s = .next (retire c.sw 2 (wroteV s d (tyTag t) (lanes fun i => mulF (tyFmt t) (x i) (y i)))) ∧
      exec (.vminFloat c d a b k t) s = .next (retire c.sw 2 (wroteV s d (tyTag t) (lanes fun i => minF (tyFmt t) (x i) (y i)))) ∧
      exec (.vmaxFloat c d a b k t) s = .next (retire c.sw 2 (wroteV s d (tyTag t) (lanes fun i => maxF (tyFmt t) (x i) (y i)))) ∧
      exec (.vdiv c d a b k t) s = .next (retire c.sw 2 (wroteV s d (tyTag t) (lanes fun i => divF (tyFmt t) (x i) (y i)))) ∧
      exec (.vsll c d a b k t) s = .next (retire c.sw 2 (wroteV s d (tyTag t) (lanes fun i => x i * 2 ^ (y i % w)))) ∧
      exec (.vsrl c d a b k t) s = .next (retire c.sw 2 (wroteV s d (tyTag t) (lanes fun i => x i / 2 ^ (y i % w)))) ∧
      exec (.vsra c d a b k t) s = .next (retire c.sw 2 (wroteV s d (tyTag t) (lanes fun i => wrap w (sxt w (x i) / (2 ^ (y i % w) : Nat)))))) ∧
    (Ready c { rv := [a, b, d], wv := [d] } s → tagFaults r t [a, b, d] = none →
      exec (.vfma c d a b k t) s = .next (retire c.sw 2 (wroteV s d (tyTag t) (lanes fun i => fmaF (tyFmt t) (x i) (y i) (z i))))) ∧
    (Ready c { rv := [a], wv := [d] } s → tagFaults r t [a] = none →
      exec (.vsqrt c d a k t) s = .next (retire c.sw 2 (wroteV s d (tyTag t) (lanes fun i => sqrtF (tyFmt t) (x i))))) ∧
    (∀ q, misread r t [a, b] = some q → Ready c { rv := [a, b], wv := [d] } s →
      ∀ run ∈ [exec (.vaddInt c d a b k t) s, exec (.vsubInt c d a b k t) s, exec (.vmulInt c d a b k t) s, exec (.vminInt c d a b k t) s,
        exec (.vmaxInt c d a b k t) s, exec (.vminu c d a b k t) s, exec (.vmaxu c d a b k t) s, exec (.vadds c d a b k t) s,
        exec (.vaddFloat c d a b k t) s, exec (.vsubFloat c d a b k t) s, exec (.vmulFloat c d a b k t) s, exec (.vminFloat c d a b k t) s,
        exec (.vmaxFloat c d a b k t) s, exec (.vdiv c d a b k t) s, exec (.vsll c d a b k t) s, exec (.vsrl c d a b k t) s,
        exec (.vsra c d a b k t) s], Traps s run 0x03 (formatVal r q)) ∧
    (∀ q, misread r t [a, b, d] = some q → Ready c { rv := [a, b, d], wv := [d] } s → Traps s (exec (.vfma c d a b k t) s) 0x03 (formatVal r q)) ∧
    (∀ q, misread r t [a] = some q → Ready c { rv := [a], wv := [d] } s → Traps s (exec (.vsqrt c d a k t) s) 0x03 (formatVal r q))

/-- Type-free vector logic, vector compares, mask logic and moves have their results of R126, R127, R131 and R132. R62, R126, R127, R131, R132 and R136. TRAP_VAL's other bits and the order of several bad tags are the model's choice (logs 74 and 86). -/
def Obligations.VectorLogicCompareMaskResults : Prop :=
  ∀ (s : State) (c : Ctl) (d a b : BitVec 4) (k kd ka kb : BitVec 2) (t : BitVec 3) (f : BitVec 4) (x : BitVec 5) (n : BitVec 5),
    let r := s.thisSeat
    let w := tagWidth (r.getV a).tag
    let lanes (g : Nat → Nat) := build w fun i => if (r.getK k).getLsbD i then g i else elem w (r.getV d).data i
    let tw := tyWidth t
    (Ready c { rv := [a, b], wv := [d] } s →
      exec (.vand c d a b k) s = .next (retire c.sw 2 (wroteV s d (r.getV a).tag (lanes fun i => elem w (r.getV a).data i &&& elem w (r.getV b).data i))) ∧
      exec (.vor c d a b k) s = .next (retire c.sw 2 (wroteV s d (r.getV a).tag (lanes fun i => elem w (r.getV a).data i ||| elem w (r.getV b).data i))) ∧
      exec (.vxor c d a b k) s = .next (retire c.sw 2 (wroteV s d (r.getV a).tag (lanes fun i => elem w (r.getV a).data i ^^^ elem w (r.getV b).data i))) ∧
      exec (.vandn c d a b k) s = .next (retire c.sw 2 (wroteV s d (r.getV a).tag (lanes fun i => elem w (r.getV a).data i - (elem w (r.getV a).data i &&& elem w (r.getV b).data i)))) ∧
      exec (.vsel c d a b k) s = .next (retire c.sw 2 (wroteV s d (r.getV a).tag (build w fun i => if (r.getK k).getLsbD i then elem w (r.getV a).data i else elem w (r.getV b).data i)))) ∧
    (Ready c { rv := [a, b] } s → tagFaults r t [a, b] = none →
      exec (.vcmpEq c kd a b k t) s = .next (retire c.sw 2 (wroteK s kd (maskOf (4096 / tyWidth t) fun i => (r.getK k).getLsbD i && VCond.holds .eq t (elem (tyWidth t) (r.getV a).data i) (elem (tyWidth t) (r.getV b).data i)))) ∧
      exec (.vcmpNe c kd a b k t) s = .next (retire c.sw 2 (wroteK s kd (maskOf (4096 / tyWidth t) fun i => (r.getK k).getLsbD i && VCond.holds .ne t (elem (tyWidth t) (r.getV a).data i) (elem (tyWidth t) (r.getV b).data i)))) ∧
      exec (.vcmpLt c kd a b k t) s = .next (retire c.sw 2 (wroteK s kd (maskOf (4096 / tyWidth t) fun i => (r.getK k).getLsbD i && VCond.holds .lt t (elem (tyWidth t) (r.getV a).data i) (elem (tyWidth t) (r.getV b).data i)))) ∧
      exec (.vcmpLe c kd a b k t) s = .next (retire c.sw 2 (wroteK s kd (maskOf (4096 / tyWidth t) fun i => (r.getK k).getLsbD i && VCond.holds .le t (elem (tyWidth t) (r.getV a).data i) (elem (tyWidth t) (r.getV b).data i)))) ∧
      exec (.vcmpLtu c kd a b k t) s = .next (retire c.sw 2 (wroteK s kd (maskOf (4096 / tyWidth t) fun i => (r.getK k).getLsbD i && VCond.holds .ltu t (elem (tyWidth t) (r.getV a).data i) (elem (tyWidth t) (r.getV b).data i)))) ∧
      exec (.vcmpLeu c kd a b k t) s = .next (retire c.sw 2 (wroteK s kd (maskOf (4096 / tyWidth t) fun i => (r.getK k).getLsbD i && VCond.holds .leu t (elem (tyWidth t) (r.getV a).data i) (elem (tyWidth t) (r.getV b).data i)))) ∧
      exec (.vcmpUn c kd a b k t) s = .next (retire c.sw 2 (wroteK s kd (maskOf (4096 / tyWidth t) fun i => (r.getK k).getLsbD i && VCond.holds .un t (elem (tyWidth t) (r.getV a).data i) (elem (tyWidth t) (r.getV b).data i))))) ∧
    (Ready c {} s →
      exec (.kand c kd ka kb) s = .next (retire c.sw 2 (wroteK s kd (r.getK ka &&& r.getK kb))) ∧
      exec (.kor c kd ka kb) s = .next (retire c.sw 2 (wroteK s kd (r.getK ka ||| r.getK kb))) ∧
      exec (.kxor c kd ka kb) s = .next (retire c.sw 2 (wroteK s kd (r.getK ka ^^^ r.getK kb))) ∧
      exec (.knot c kd ka) s = .next (retire c.sw 2 (wroteK s kd (~~~(r.getK ka))))) ∧
    (Ready c { rv := [a], wv := [d] } s →
      exec (.vmov c d a) s = .next (retire c.sw 2 (s.updThisSeat fun u => u.setV d (r.getV a))) ∧
      exec (.vtag c d a f) s = .next (retire c.sw 2 (s.updThisSeat fun u => u.setV d { r.getV a with tag := f }))) ∧
    (Ready c { rx := [x], wv := [d] } s →
      exec (.vbcast c d x t) s = .next (retire c.sw 2 (wroteV s d (tyTag t) (build tw fun _ => (r.getX x).toNat)))) ∧
    (Ready c { rv := [d], wx := [x] } s → tagFaults r t [d] = none →
      exec (.vext c d x n t) s = .next (retire c.sw 2 (wroteX s x
        (if t.toNat ≤ 2 then BitVec.ofInt 64 (sxt tw (elem tw (r.getV d).data n.toNat)) else BitVec.ofNat 64 (elem tw (r.getV d).data n.toNat))))) ∧
    (Ready c { rx := [x], rv := [d], wv := [d] } s → tagFaults r t [d] = none →
      exec (.vins c d x n t) s = .next (retire c.sw 2 (wroteV s d (tyTag t)
        (build tw fun j => if j = n.toNat then (r.getX x).toNat else elem tw (r.getV d).data j)))) ∧
    (∀ q, misread r t [a, b] = some q → Ready c { rv := [a, b] } s →
      ∀ run ∈ [exec (.vcmpEq c kd a b k t) s, exec (.vcmpNe c kd a b k t) s, exec (.vcmpLt c kd a b k t) s, exec (.vcmpLe c kd a b k t) s,
        exec (.vcmpLtu c kd a b k t) s, exec (.vcmpLeu c kd a b k t) s, exec (.vcmpUn c kd a b k t) s], Traps s run 0x03 (formatVal r q)) ∧
    (misread r t [d] = some d →
      (Ready c { rv := [d], wx := [x] } s → Traps s (exec (.vext c d x n t) s) 0x03 (formatVal r d)) ∧
      (Ready c { rx := [x], rv := [d], wv := [d] } s → Traps s (exec (.vins c d x n t) s) 0x03 (formatVal r d)))

/-- Reductions, dot products, widening, narrowing, conversion and transpose write the results of R128 to R135. R62, R72, R73, R128 to R130, R133 and R135. TRAP_VAL's other bits and the order of several bad tags are the model's choice (logs 74 and 86). -/
def Obligations.VectorReduceConvertResults : Prop :=
  ∀ (s : State) (c : Ctl) (d a b f : BitVec 4) (k m : BitVec 2) (t : BitVec 3),
    let r := s.thisSeat
    let w := tyWidth t
    let x (i : Nat) := elem w (r.getV a).data i
    let y (i : Nat) := elem w (r.getV b).data i
    let on (i : Nat) := (r.getK k).getLsbD i
    let int : Prop := t.toNat ≤ 2
    let widened (n v : Nat) (tag : BitVec 4) (g : Nat → Nat) := s.setThisSeat (putGroup r v d n tag (r.getK k) (fun i => g (x i)) r)
    let narrowed (n v : Nat) (tag : BitVec 4) := wroteV s d tag (build v fun i =>
      if on i then clampS v (sxt w (groupElem r w a n i)) else elem v (r.getV d).data i)
    (Ready c { rv := [a], wv := [d] } s → tagFaults r t [a] = none →
      exec (.vredsum c d a k t) s = .next (retire c.sw 2 (wroteV s d (sumTag t) (BitVec.ofNat 4096 (sumOf t (r.getK k) fun i => summand t (x i))))) ∧
      exec (.vredmax c d a k t) s = .next (retire c.sw 2 (wroteV s d (tyTag t) (BitVec.ofNat 4096
        (if int then reduce w (maxS w) (fun i => if on i then x i else 2 ^ (w - 1)) else reduce w (maxF (tyFmt t)) fun i => if on i then x i else (tyFmt t).nan)))) ∧
      exec (.vredmin c d a k t) s = .next (retire c.sw 2 (wroteV s d (tyTag t) (BitVec.ofNat 4096
        (if int then reduce w (minS w) (fun i => if on i then x i else 2 ^ (w - 1) - 1) else reduce w (minF (tyFmt t)) fun i => if on i then x i else (tyFmt t).nan))))) ∧
    (Ready c { rv := [a, b], wv := [d] } s → tagFaults r t [a, b] = none →
      exec (.vdot c d a b k t) s = .next (retire c.sw 2 (wroteV s d (sumTag t) (BitVec.ofNat 4096 (sumOf t (r.getK k) fun i => product t (x i) (y i)))))) ∧
    (Ready c { rv := [a], wv := group d 2 } s → tagFaults r t [a] = none →
      exec (.vwiden c d a k t) s = .next (retire c.sw 2
        (if t = 0 then widened 2 16 2 (fun e => wrap 16 (sxt 8 e)) else if t = 1 then widened 2 32 3 (fun e => wrap 32 (sxt 16 e))
          else widened 2 32 6 fun e => roundF fmtF32 (decodeF (tyFmt t) e)))) ∧
    (Ready c { rv := [a], wv := group d 4 } s → tagFaults r t [a] = none →
      exec (.vwiden4 c d a k t) s = .next (retire c.sw 2 (widened 4 32 3 fun e => wrap 32 (sxt 8 e)))) ∧
    (Ready c { rv := group a 2, wv := [d] } s → tagFaults r t (group a 2) = none →
      exec (.vnarrow c d a k t) s = .next (retire c.sw 2 (if t = 1 then narrowed 2 8 1 else narrowed 2 16 2))) ∧
    (Ready c { rv := group a 4, wv := [d] } s → tagFaults r t (group a 4) = none →
      exec (.vnarrow4 c d a k t) s = .next (retire c.sw 2 (narrowed 4 8 1))) ∧
    (Ready c { rv := group a (cvtReads (r.getV a).tag f), wv := group d (cvtWrites (r.getV a).tag f) } s → cvtFault r d a f = none →
      exec (.vcvt c d a f k m) s = .next (retire c.sw 2 (s.setThisSeat (cvtResult r d a f (r.getK k) (cvtMode m))))) ∧
    (Ready c { rv := group a 8, wv := group d 8 } s → ∃ t' : Seat,
      exec (.vtrW c d a f) s = .next (retire c.sw 2 (s.setThisSeat t')) ∧ t' = { r with v := t'.v } ∧
      (∀ q : BitVec 4, (∀ j < 8, q ≠ d + BitVec.ofNat 4 j) → t'.getV q = r.getV q) ∧
      ∀ j < 8, t'.getV (d + BitVec.ofNat 4 j) = { r.getV (d + BitVec.ofNat 4 j) with
        tag := (r.getV a).tag
        data := build (tagWidth f) fun n => elem (tagWidth f) (r.getV (a + BitVec.ofNat 4 (n % 8))).data (n / 8 * 8 + j) }) ∧
    (misread r t [a] = some a →
      (Ready c { rv := [a], wv := [d] } s → ∀ run ∈ [exec (.vredsum c d a k t) s, exec (.vredmax c d a k t) s, exec (.vredmin c d a k t) s],
        Traps s run 0x03 (formatVal r a)) ∧
      (Ready c { rv := [a], wv := group d 2 } s → Traps s (exec (.vwiden c d a k t) s) 0x03 (formatVal r a)) ∧
      (Ready c { rv := [a], wv := group d 4 } s → Traps s (exec (.vwiden4 c d a k t) s) 0x03 (formatVal r a))) ∧
    (∀ q,
      (misread r t [a, b] = some q → Ready c { rv := [a, b], wv := [d] } s → Traps s (exec (.vdot c d a b k t) s) 0x03 (formatVal r q)) ∧
      (misread r t (group a 2) = some q → Ready c { rv := group a 2, wv := [d] } s → Traps s (exec (.vnarrow c d a k t) s) 0x03 (formatVal r q)) ∧
      (misread r t (group a 4) = some q → Ready c { rv := group a 4, wv := [d] } s →
        Traps s (exec (.vnarrow4 c d a k t) s) 0x03 (formatVal r q))) ∧
    (let tag := (r.getV a).tag
    let n := cvtReads tag f
    let named (q : BitVec 4) : Word := BitVec.ofNat 64 ((32 + q.toNat) * 256 + tag.toNat)
    let run := exec (.vcvt c d a f k m) s
    Ready c { rv := group a n, wv := group d (cvtWrites tag f) } s →
      (tag = 0 ∨ 13 ≤ tag.toNat → Traps s run 0x03 (named a)) ∧
      (tag ≠ 0 → tag.toNat < 13 →
        (a.toNat % n ≠ 0 → Traps s run 0x03 (named a)) ∧
        (a.toNat % n = 0 → d.toNat % cvtWrites tag f ≠ 0 → Traps s run 0x03 (named d)) ∧
        (∀ q, a.toNat % n = 0 → d.toNat % cvtWrites tag f = 0 → ((group a n).find? fun v => (r.getV v).tag != tag) = some q →
          Traps s run 0x03 (formatVal r q))))

/-- A load that passes its checks raises OUT with its register as target and sends its read to its point of order. R92, R93 and R114. What the request reads, and when the register is written, are the statements on LOAD_AT_HOME and RESULT_RETURN. -/
def Obligations.LoadsIssue : Prop :=
  ∀ (s : State) (c : Ctl) (sw : Bool) (d a : BitVec 5) (o : BitVec 8) (hd ha ho : BitVec 3),
    let at' (r : BitVec 5) (off : BitVec 8) (n : Nat) : Piece :=
      mkPiece (effAddr s r off n) (placeOf s s.me (effAddr s r off n)) n (lowMask (8 * n)) 0 0
    (Ready c { rx := [a], wx := [d], mem := true } s → Room s →
      (checkScalar s s.me .read (effAddr s a o 1) 1 = none → sameWord s [at' a o 1] = false →
        exec (.ldB c d a o) s = .next (retire c.sw 2 (postLoad s (.x d) false (.load 1 true) [at' a o 1] [0]))) ∧
      (checkScalar s s.me .read (effAddr s a o 2) 2 = none → sameWord s [at' a o 2] = false →
        exec (.ldH c d a o) s = .next (retire c.sw 2 (postLoad s (.x d) false (.load 2 true) [at' a o 2] [0]))) ∧
      (checkScalar s s.me .read (effAddr s a o 4) 4 = none → sameWord s [at' a o 4] = false →
        exec (.ldW c d a o) s = .next (retire c.sw 2 (postLoad s (.x d) false (.load 4 true) [at' a o 4] [0]))) ∧
      (checkScalar s s.me .read (effAddr s a o 8) 8 = none → sameWord s [at' a o 8] = false →
        exec (.ldD c d a o) s = .next (retire c.sw 2 (postLoad s (.x d) false (.load 8 true) [at' a o 8] [0]))) ∧
      (checkScalar s s.me .read (effAddr s a o 1) 1 = none → sameWord s [at' a o 1] = false →
        exec (.ldBu c d a o) s = .next (retire c.sw 2 (postLoad s (.x d) false (.load 1 false) [at' a o 1] [0]))) ∧
      (checkScalar s s.me .read (effAddr s a o 2) 2 = none → sameWord s [at' a o 2] = false →
        exec (.ldHu c d a o) s = .next (retire c.sw 2 (postLoad s (.x d) false (.load 2 false) [at' a o 2] [0]))) ∧
      (checkScalar s s.me .read (effAddr s a o 4) 4 = none → sameWord s [at' a o 4] = false →
        exec (.ldWu c d a o) s = .next (retire c.sw 2 (postLoad s (.x d) false (.load 4 false) [at' a o 4] [0]))) ∧
      (checkScalar s s.me .read (effAddr s a o 4) 4 = none → sameWord s [at' a o 4] = false →
        exec (.ldAcqW c d a o) s = .next (retire c.sw 2 (postLoad s (.x d) true (.load 4 true) [at' a o 4] [0]))) ∧
      (checkScalar s s.me .read (effAddr s a o 8) 8 = none → sameWord s [at' a o 8] = false →
        exec (.ldAcqD c d a o) s = .next (retire c.sw 2 (postLoad s (.x d) true (.load 8 true) [at' a o 8] [0])))) ∧
    (Ready (halfCtl sw) { rx := [hx ha], wx := [hx hd], mem := true } s → Room s →
      (checkScalar s s.me .read (effAddr s (hx ha) (ho.setWidth 8) 4) 4 = none → sameWord s [at' (hx ha) (ho.setWidth 8) 4] = false →
        exec (.hLdW sw hd ha ho) s = .next (retire sw 1 (postLoad s (.x (hx hd)) false (.load 4 true) [at' (hx ha) (ho.setWidth 8) 4] [0]))) ∧
      (checkScalar s s.me .read (effAddr s (hx ha) (ho.setWidth 8) 8) 8 = none → sameWord s [at' (hx ha) (ho.setWidth 8) 8] = false →
        exec (.hLdD sw hd ha ho) s = .next (retire sw 1 (postLoad s (.x (hx hd)) false (.load 8 true) [at' (hx ha) (ho.setWidth 8) 8] [0]))))

/-- A store that passes its checks sends the low bytes of xd to its point of order. R92, R93 and R148. The bytes written are the statement on STORE_AT_HOME. -/
def Obligations.StoresIssue : Prop :=
  ∀ (s : State) (c : Ctl) (sw : Bool) (d a : BitVec 5) (o : BitVec 8) (hd ha ho : BitVec 3),
    let at' (v r : BitVec 5) (off : BitVec 8) (n : Nat) : Piece :=
      mkPiece (effAddr s r off n) (placeOf s s.me (effAddr s r off n)) n (lowMask (8 * n)) (s.thisSeat.getX v) 0
    (Ready c { rx := [a, d], mem := true } s →
      (checkScalar s s.me .write (effAddr s a o 1) 1 = none → sameWord s [at' d a o 1] = false →
        exec (.stB c d a o) s = .next (retire c.sw 2 (postStore s [at' d a o 1]))) ∧
      (checkScalar s s.me .write (effAddr s a o 2) 2 = none → sameWord s [at' d a o 2] = false →
        exec (.stH c d a o) s = .next (retire c.sw 2 (postStore s [at' d a o 2]))) ∧
      (checkScalar s s.me .write (effAddr s a o 4) 4 = none → sameWord s [at' d a o 4] = false →
        exec (.stW c d a o) s = .next (retire c.sw 2 (postStore s [at' d a o 4]))) ∧
      (checkScalar s s.me .write (effAddr s a o 8) 8 = none → sameWord s [at' d a o 8] = false →
        exec (.stD c d a o) s = .next (retire c.sw 2 (postStore s [at' d a o 8])))) ∧
    (Ready c { rx := [a, d], mem := true, rel := true } s → Room s →
      (checkScalar s s.me .write (effAddr s a o 4) 4 = none → sameWord s [at' d a o 4] = false →
        exec (.stRelW c d a o) s = .next (retire c.sw 2 (postStoreOut s [at' d a o 4]))) ∧
      (checkScalar s s.me .write (effAddr s a o 8) 8 = none → sameWord s [at' d a o 8] = false →
        exec (.stRelD c d a o) s = .next (retire c.sw 2 (postStoreOut s [at' d a o 8])))) ∧
    (Ready (halfCtl sw) { rx := [hx ha, hx hd], mem := true } s →
      (checkScalar s s.me .write (effAddr s (hx ha) (ho.setWidth 8) 4) 4 = none → sameWord s [at' (hx hd) (hx ha) (ho.setWidth 8) 4] = false →
        exec (.hStW sw hd ha ho) s = .next (retire sw 1 (postStore s [at' (hx hd) (hx ha) (ho.setWidth 8) 4]))) ∧
      (checkScalar s s.me .write (effAddr s (hx ha) (ho.setWidth 8) 8) 8 = none → sameWord s [at' (hx hd) (hx ha) (ho.setWidth 8) 8] = false →
        exec (.hStD sw hd ha ho) s = .next (retire sw 1 (postStore s [at' (hx hd) (hx ha) (ho.setWidth 8) 8]))))

/-- A synchronising access or atomic that passes its checks raises OUT and sends its request. R142, R143 and R150. -/
def Obligations.SyncAndAtomicsIssue : Prop :=
  ∀ (s : State) (c : Ctl) (d a b : BitVec 5) (o : BitVec 8) (z : BitVec 1),
    let ea := effAddr s a o 4
    let p := mkPiece ea (placeOf s s.me ea) 4 (lowMask 32) (s.thisSeat.getX d) 0
    let x := s.thisSeat.getX a
    let size := if z = 0 then 4 else 8
    let sent (op : AmoOp) (n : Nat) : State :=
      let q := mkPiece x (placeOf s s.me x) n (lowMask (8 * n)) 0 0
      let s' := match q.dst with
        | .hbm pa _ => s.updThisCore fun k => l1Drop k pa
        | _ => s
      post (raise s' (.x d) false .plain) s'.fresh (.amo op n (s.thisSeat.getX b) (s.thisSeat.getX d)) [q]
    (Ready c { rx := [a], wx := [d], mem := true } s → Room s → checkSync s s.core ea = none → sameWord s [p] = false →
      exec (.ldf c d a o) s = .next (retire c.sw 2 (post (raise s (.x d) true .plain) s.fresh .ldf [p])) ∧
      exec (.ldt c d a o) s = .next (retire c.sw 2 (post (raise s (.x d) true .plain) s.fresh .ldt [p]))) ∧
    (Ready c { rx := [a, d], mem := true, rel := true } s → Room s → checkSync s s.core ea = none → sameWord s [p] = false →
      exec (.ste c d a o) s = .next (retire c.sw 2 (post (raise s .none false .plain) s.fresh .ste [p])) ∧
      exec (.stf c d a o) s = .next (retire c.sw 2 (post (raise s .none false .plain) s.fresh .stf [p]))) ∧
    (Ready c { rx := [a, b], wx := [d], mem := true } s → Room s → checkAtomic s s.me x size size = none →
      exec (.amoAdd c d a b z) s = .next (retire c.sw 2 (sent .add size)) ∧
      exec (.amoAnd c d a b z) s = .next (retire c.sw 2 (sent .and size)) ∧
      exec (.amoOr c d a b z) s = .next (retire c.sw 2 (sent .or size)) ∧
      exec (.amoXor c d a b z) s = .next (retire c.sw 2 (sent .xor size)) ∧
      exec (.amoMin c d a b z) s = .next (retire c.sw 2 (sent .min size)) ∧
      exec (.amoMax c d a b z) s = .next (retire c.sw 2 (sent .max size)) ∧
      exec (.amoMinu c d a b z) s = .next (retire c.sw 2 (sent .minu size)) ∧
      exec (.amoMaxu c d a b z) s = .next (retire c.sw 2 (sent .maxu size)) ∧
      exec (.amoSwap c d a b z) s = .next (retire c.sw 2 (sent .swap size))) ∧
    (Ready c { rx := [a, b, d], wx := [d], mem := true } s → Room s → checkAtomic s s.me x size size = none →
      exec (.amoCas c d a b z) s = .next (retire c.sw 2 (sent .cas size))) ∧
    (Ready c { rx := [a, b], wx := [d], mem := true } s → Room s → checkAtomic s s.me x 4 4 = none → exec (.amoFaddF32 c d a b) s = .next (retire c.sw 2 (sent .fadd 4)))

/-- fence, seal, unseal, fe.fill and fe.clr have the effects of R147, R149 and R152 at their issue. R147, R149, R152 and R174. The model's choices: the seal table changes page by page at the issue of seal and unseal, where R152 speaks of their completion only (log 29), and fe.fill and fe.clr are not held back by an outstanding acquire (log 40). -/
def Obligations.FenceSealRangeResults : Prop :=
  ∀ (s : State) (c : Ctl) (a b : BitVec 5),
    let x := s.thisSeat.getX a
    let n := s.thisSeat.getX b
    let pages (on : Bool) := sealPages on x.toNat (x.toNat + n.toNat) (n.toNat / 65536) x.toNat (acquireInv s s.core) []
    (Ready c { mem := true } s → Room s → seatReqs s s.core s.seat.val = [] →
      exec (.fence c) s = .next (retire c.sw 2 (raise s .none true .plain (.value 0)))) ∧
    (Ready c { rx := [a, b], mem := true } s → Room s → checkSeal x n = none → seatReqs s s.core s.seat.val = [] →
      ((pages true).2.2 = none → exec (.seal c a b) s = .next (retire c.sw 2 (raise (pages true).1 .none true (.seal true (pages true).2.1) (.value 0)))) ∧
      ((pages false).2.2 = none → exec (.unseal c a b) s = .next (retire c.sw 2 (raise (pages false).1 .none true (.seal false (pages false).2.1) (.value 0))))) ∧
    (checkRange s s.core x n = none →
      (Ready c { rx := [a, b], rel := true } s →
        (n = 0 → exec (.feFill c a b) s = .next (retire c.sw 2 s)) ∧
        (n ≠ 0 → Room s → sameWord s (rangePieces s x n.toNat) = false → exec (.feFill c a b) s = .next (retire c.sw 2 (post (raise s .none false .plain) s.fresh .feFill (rangePieces s x n.toNat))))) ∧
      (Ready c { rx := [a, b] } s →
        (n = 0 → exec (.feClr c a b) s = .next (retire c.sw 2 s)) ∧
        (n ≠ 0 → Room s → sameWord s (rangePieces s x n.toNat) = false → exec (.feClr c a b) s = .next (retire c.sw 2 (post (raise s .none false .plain) s.fresh .feClr (rangePieces s x n.toNat))))))

/-- Vector loads, stores, sidecar accesses, gathers and scatters that pass their checks send their active words. R62 and R137 to R141. TRAP_VAL's other bits are the model's choice (log 86). -/
def Obligations.VectorMemoryIssue : Prop :=
  ∀ (s : State) (c : Ctl) (d x : BitVec 4) (a : BitVec 5) (k : BitVec 2),
    let t := s.thisSeat
    let tagged := s.updThisSeat fun u => u.setV d { u.getV d with tag := x }
    let ea := vecBase s a 512
    let es := vecBase s a 32
    let act := (activeBits (tagWidth x) (t.getK k)).toNat
    let actS := (activeBits (tagWidth (t.getV d).tag) (t.getK k)).toNat
    let all := 2 ^ 256 - 1
    let lanes (n : Nat) (data : BitVec 4096) := lanePieces s (laneAddrs t a x k n) n data
    let free (p : List Piece) : Prop := sameWord s p = false
    (Ready c { rx := [a], wv := [d], mem := true } s →
      (act = 0 → exec (.vld c d a x k) s = .next (retire c.sw 2 tagged)) ∧
      (act ≠ 0 → Room s → checkVec s .read ea (alignOf x) 512 act = none → free (wordPieces s ea 512 act 0) →
        exec (.vld c d a x k) s = .next (retire c.sw 2 (postLoad tagged (.v d) false .vload (wordPieces s ea 512 act 0) [0, 1, 2, 3]))) ∧
      (Room s → checkVec s .read es 32 32 all = none → free (wordPieces s es 32 all 0) →
        exec (.vldSc c d a) s = .next (retire c.sw 2 (postLoad s (.sidecar d) false .vload (wordPieces s es 32 all 0) [0, 1, 2, 3])))) ∧
    (Ready c { rx := [a], rv := [d], mem := true } s →
      (actS = 0 → exec (.vst c d a k) s = .next (retire c.sw 2 s)) ∧
      (actS ≠ 0 → checkVec s .write ea (alignOf (t.getV d).tag) 512 actS = none → free (wordPieces s ea 512 actS (t.getV d).data.toNat) →
        exec (.vst c d a k) s = .next (retire c.sw 2 (postStore s (wordPieces s ea 512 actS (t.getV d).data.toNat)))) ∧
      (checkVec s .write es 32 32 all = none → free (wordPieces s es 32 all (t.getV d).sc.toNat) →
        exec (.vstSc c d a) s = .next (retire c.sw 2 (postStore s (wordPieces s es 32 all (t.getV d).sc.toNat))))) ∧
    (Ready c { rx := [a], rv := [x], wv := [d], mem := true } s → Room s →
      (indexFault t x 4 = none → (∀ l ∈ laneAddrs t a x k 4, checkScalar s s.me .read l.2 4 = none) → free (lanes 4 0) →
        exec (.vgatherW c d a x k) s = .next (retire c.sw 2 (postLoad s (.v d) false .vload (lanes 4 0) [0, 1, 2, 3]))) ∧
      (indexFault t x 2 = none → (∀ l ∈ laneAddrs t a x k 2, checkScalar s s.me .read l.2 2 = none) → free (lanes 2 0) →
        exec (.vgatherH c d a x k) s = .next (retire c.sw 2 (postLoad s (.v d) false .vload (lanes 2 0) [0, 1, 2, 3])))) ∧
    (Ready c { rx := [a], rv := [x, d], mem := true } s →
      (indexFault t x 4 = none → (∀ l ∈ laneAddrs t a x k 4, checkScalar s s.me .write l.2 4 = none) → free (lanes 4 (t.getV d).data) →
        exec (.vscatterW c d a x k) s = .next (retire c.sw 2 (postStore s (lanes 4 (t.getV d).data)))) ∧
      (indexFault t x 2 = none → (∀ l ∈ laneAddrs t a x k 2, checkScalar s s.me .write l.2 2 = none) → free (lanes 2 (t.getV d).data) →
        exec (.vscatterH c d a x k) s = .next (retire c.sw 2 (postStore s (lanes 2 (t.getV d).data))))) ∧
    ((t.getV x).tag ≠ 0 →
      (Ready c { rx := [a], rv := [x], wv := [d], mem := true } s →
        ((t.getV x).tag ≠ 3 → Traps s (exec (.vgatherW c d a x k) s) 0x03 (formatVal t x)) ∧
        ((t.getV x).tag ≠ 2 → Traps s (exec (.vgatherH c d a x k) s) 0x03 (formatVal t x))) ∧
      (Ready c { rx := [a], rv := [x, d], mem := true } s →
        ((t.getV x).tag ≠ 3 → Traps s (exec (.vscatterW c d a x k) s) 0x03 (formatVal t x)) ∧
        ((t.getV x).tag ≠ 2 → Traps s (exec (.vscatterH c d a x k) s) 0x03 (formatVal t x))))

/-- Sends, multicasts and spawns that pass their checks hand their message to the interface. R194, R195, R201 to R204, R207 and R217. A message to a rank in transit goes into the hold buffer, which `emit` does. That a spawn request is a packet of class 0 is the model's choice (log 37). -/
def Obligations.SendsIssue : Prop :=
  ∀ (s : State) (c : Ctl) (p : BitVec 3) (d a b : BitVec 5) (v : BitVec 4) (g : Group),
    let t := s.thisSeat
    let h := t.getX a
    let x := t.getX b
    let n := 8 * hWords h
    let w (fn : Nat) (f : BitVec 5) : Word := (wordA c 0x2D 0 a f (BitVec.ofNat 5 fn)).setWidth 64
    let read := readPieces s x n
    let cls := fld x 18 16
    let rank : BitVec 16 := h.setWidth 16
    let misheaded (w : Word) (run : Result) : Prop :=
      (hTc h = 3 → Traps s run 0x20 (reasonVal 2 0 (hDest h).toNat)) ∧ (hTc h = 2 → s.seat ≠ 7 → Traps s run 0x02 w)
    let lost (r : BitVec 16) (run : Result) : Prop := r.toNat < 0xFFFE →
      (eValid (rankEntry s r) = false → Traps s run 0x20 (reasonVal 1 0 r.toNat)) ∧
      (eValid (rankEntry s r) = true → eDead (rankEntry s r) = true → Traps s run 0x21 (r.setWidth 64))
    let spawn := exec (.spawn c p a b) s
    let good : Prop := fld h 63 16 = 0 ∧ fld x 63 19 = 0 ∧ rank.toNat < 0xFFFE
    (Ready c { rx := [a, b], mem := true } s → Room s → payloadFault s x n = none → sameWord s read = false →
      (sendFault s (w 0 b) h = none → sendWaits s h = false → exec (.send c a b) s = .next (retire c.sw 2
        (emit (postRead s .send read) s.core (hDest h) (hTc h) (.unread (stamp s s.core h) s.fresh)))) ∧
      (headerFault s (w 3 b) h = none → fld h 63 56 = 0 → activeGroup s s.core (fld h 55 48) = some g →
        (∀ m ∈ g.active, destFault s m.1 = none) → holdFull s s.core (g.active.filter fun m => resolve s s.core m.1 = .hold).length = false →
        (hRb h && unreleased s s.core s.seat.val) = false →
        exec (.mcast c a b) s = .next (retire c.sw 2 (emitAll g.gid h s.fresh g.active (postRead s .send read))))) ∧
    (Ready c { rx := [a], rv := [v] } s → sendFault s (w 1 (v.setWidth 5)) h = none → sendWaits s h = false →
      exec (.sendv c a v) s = .next (retire c.sw 2
        (emit s s.core (hDest h) (hTc h) (.msg (stamp s s.core h) (vecWords (t.getV v).data (hWords h)))))) ∧
    (Ready c { rx := [a, b] } s → headerFault s (w 2 b) h = none → hWords h = 1 → h.getLsbD 17 = false → destFault s (hDest h) = none →
      sendWaits s h = false →
      exec (.sendc c a b) s = .next (retire c.sw 2 (emit s s.core (hDest h) (hTc h) (.count (stamp s s.core h) (x.setWidth 32))))) ∧
    (Ready c { rx := [a, b, 24, 25, 26, 27], wp := [p] } s → Room s → fld h 63 16 = 0 → fld x 63 19 = 0 → rank.toNat < 0xFFFE →
      (cls < 4 ∨ cls = 7 ∧ s.seat = 7) → destFault s rank = none → eModule (rankEntry s rank) = ownModule s →
      unreleased s s.core s.seat.val = false → holdFull s s.core 0 = false →
      exec (.spawn c p a b) s = .next (retire c.sw 2 (emit (raise s (.pred p) false .spawn) s.core rank 0
        (.spawnReq s.seat.val s.fresh (x &&& 0x7FFFF) [t.getX 24, t.getX 25, t.getX 26, t.getX 27])))) ∧
    (Ready c { wx := [d] } s → exec (.myrank c d) s = .next (retire c.sw 2 (wroteX s d (s.thisCore.rank.setWidth 64)))) ∧
    (Ready c { rx := [a, b], mem := true } s →
      misheaded (w 0 b) (exec (.send c a b) s) ∧ misheaded (w 3 b) (exec (.mcast c a b) s) ∧
      (headerFault s (w 0 b) h = none → lost (hDest h) (exec (.send c a b) s) ∧
        (destFault s (hDest h) = none → x.toNat % 8 ≠ 0 → Traps s (exec (.send c a b) s) 0x10 x)) ∧
      (headerFault s (w 3 b) h = none →
        (fld h 63 56 ≠ 0 → Traps s (exec (.mcast c a b) s) 0x20 (reasonVal 2 0 (hDest h).toNat)) ∧
        (fld h 63 56 = 0 → activeGroup s s.core (fld h 55 48) = none → Traps s (exec (.mcast c a b) s) 0x22 h))) ∧
    (Ready c { rx := [a], rv := [v] } s → misheaded (w 1 (v.setWidth 5)) (exec (.sendv c a v) s) ∧
      (headerFault s (w 1 (v.setWidth 5)) h = none → lost (hDest h) (exec (.sendv c a v) s))) ∧
    (Ready c { rx := [a, b] } s → misheaded (w 2 b) (exec (.sendc c a b) s) ∧
      (headerFault s (w 2 b) h = none →
        (hWords h ≠ 1 ∨ h.getLsbD 17 = true → Traps s (exec (.sendc c a b) s) 0x20 (reasonVal 2 0 (hDest h).toNat)) ∧
        (hWords h = 1 → h.getLsbD 17 = false → lost (hDest h) (exec (.sendc c a b) s)))) ∧
    (Ready c { rx := [a, b, 24, 25, 26, 27], wp := [p] } s →
      (¬ good ∨ (4 ≤ cls ∧ cls ≤ 6) → Traps s spawn 0x20 (reasonVal 2 0 rank.toNat)) ∧
      (good → cls = 7 → s.seat ≠ 7 → Traps s spawn 0x02 ((wordA c 0x2D (p.setWidth 5) a b 4).setWidth 64)) ∧
      (good → (cls < 4 ∨ cls = 7 ∧ s.seat = 7) → lost rank spawn ∧
        (destFault s rank = none → eModule (rankEntry s rank) ≠ ownModule s → Traps s spawn 0x20 (reasonVal 10 0 rank.toNat))))

/-- qw, qwv, qr and qrv push and pop the queues of R196, and so do the 16-bit forms. R18, R195 to R200, R251, R264, R313 and R406. That a pop of q5 reads the payload area in the scratchpad at the pop is the model's choice (log 36), and so is which of several words waits (log 30). -/
def Obligations.QueueResults : Prop :=
  ∀ (s s' : State) (c : Ctl) (sw : Bool) (q hq hd ha : BitVec 3) (d a : BitVec 5) (vd vb : BitVec 4) (ws : List Word) (tag : BitVec 4),
    let t := s.thisSeat
    let x := t.getX a
    let wd := (wordA c 0x2C (q.setWidth 5) a 0 0).setWidth 64
    let wv := (wordA c 0x2C (q.setWidth 5) 0 (vb.setWidth 5) 2).setWidth 64
    let y := t.getX (hx ha)
    let wh : Word := (BitVec.setWidth 64 ((encode (.hQw sw hq ha)).headD 0))
    let described (x : Word) : Prop := fld x 63 39 = 0 ∧ fld x 35 34 = 0 ∧ dDeliver x ≠ 3 ∧ dFn x < 5
    let pushed (q : BitVec 3) (w x : Word) (run : Result) (next' : State → State) : Prop :=
      (q = 0 → t.q0.length < 3 → run = .next (next' (s.updThisSeat fun u => { u with q0 := u.q0 ++ [x] }))) ∧
      (q = 0 → t.q0.length = 3 → badField s s.me (t.q0 ++ [x]) = none → (3 ≤ cOp (t.q0.headD 0) → linkOn s.thisCore.shell = true) →
        kindFault s.thisCore.shell (t.q0.headD 0) = none →
        (q0Open s.thisCore.shell = false → run = .next (blocked s)) ∧
        (q0Open s.thisCore.shell = true → run = .next (next' ((acceptCmd s s.core (t.q0 ++ [x]) (operandDeps s (t.q0 ++ [x]))).updThisSeat fun u => { u with q0 := [] })))) ∧
      (q = 0 → t.q0.length = 3 → drainWalk s s.me (t.q0 ++ [x]) = none →
        (∀ f, badField s s.me (t.q0 ++ [x]) = some f → Traps s run 0x40 (reasonVal 3 (f * 2 ^ 32) (cTile (t.q0.headD 0)))) ∧
        (badField s s.me (t.q0 ++ [x]) = none →
          (3 ≤ cOp (t.q0.headD 0) → linkOn s.thisCore.shell = false → Traps s run 0x40 (reasonVal 4 0 (cOp (t.q0.headD 0)))) ∧
          (∀ v, cOp (t.q0.headD 0) < 3 → kindFault s.thisCore.shell (t.q0.headD 0) = some v → Traps s run 0x03 v))) ∧
      (q = 2 → t.q2.length < 8 → run = .next (next' (s.updThisSeat fun u => { u with q2 := u.q2 ++ [x] }))) ∧
      (q = 2 → 8 ≤ t.q2.length → ∃ v : BitVec 56, Traps s run 0x41 (1#8 ++ v)) ∧
      (q = 4 → t.q4 = [] → sendFault s w x = none → run = .next (next' (s.updThisSeat fun u => { u with q4 := [x] }))) ∧
      (∀ e, q = 4 → t.q4 = [] → sendFault s w x = some e → Traps s run e.1 e.2) ∧
      (∀ h held, q = 4 → t.q4 = h :: held →
        (held.length + 1 < hWords h → run = .next (next' (s.updThisSeat fun u => { u with q4 := u.q4 ++ [x] }))) ∧
        (held.length + 1 = hWords h → sendFault s w h = none → sendWaits s h = false →
          run = .next (next' (emit (s.updThisSeat fun u => { u with q4 := [] }) s.core (hDest h) (hTc h) (.msg (stamp s s.core h) (held ++ [x]))))) ∧
        (held.length + 1 = hWords h → held.length < 64 → sendFault s w h = none → sendWaits s h = true → run = .next (blocked s)) ∧
        (∀ e, held.length + 1 = hWords h → sendFault s w h = some e → Traps s run e.1 e.2)) ∧
      (q = 6 → t.q6 = [] → described x → run = .next (next' (s.updThisSeat fun u => { u with q6 := [x] }))) ∧
      (q = 6 → t.q6 = [] → ¬ described x → Traps s run 0x42 (reasonVal 1 0 0)) ∧
      (∀ d held, q = 6 → t.q6 = d :: held →
        (held.length + 1 < 64 → run = .next (next' (s.updThisSeat fun u => { u with q6 := u.q6 ++ [x] }))) ∧
        (held.length + 1 = 64 → groupFault s d d = none → q6Room s.thisCore = true → ∃ u : State,
          run = .next (next' u) ∧ u.thisSeat = { t with q6 := [] } ∧
            u.thisCore.q6 = s.thisCore.q6 ++ [⟨s.fresh, d, wordsData (held ++ [x]), s.seat.val, t.firingId, t.pc⟩]) ∧
        (held.length + 1 = 64 → groupFault s d d = none → q6Room s.thisCore = false → run = .next (blocked s)) ∧
        (held.length + 1 = 64 → activeGroup s s.core (dGroup d) = none → Traps s run 0x22 d) ∧
        (held.length + 1 = 64 → (activeGroup s s.core (dGroup d)).isSome = true → treeOf s.thisCore (dGroup d) = none →
          Traps s run 0x42 (reasonVal 2 0 (dGroup d))))
    let q5at (i : Nat) : Word := getDouble s.thisCore.sp (s.thisCore.seatArea.toNat + 8192 * s.seat.val + 512 + 8 * (8 + t.q5read + i))
    let popped (n : Nat) : State := s.updThisSeat fun u => { u with q5read := u.q5read + n }
    let past (run : Result) : Prop := ∃ v : BitVec 16, Traps s run 0x20 (reasonVal 8 0 v.toNat)
    (Ready c { rx := [a] } s → pushed q wd x (exec (.qw c q a) s) (retire c.sw 2)) ∧
    (Ready c { rv := [vb] } s →
      (∀ h, q = 4 → t.q4 = [h] → hWords h = 64 → sendFault s wv h = none → sendWaits s h = false → exec (.qwv c q vb) s = .next (retire c.sw 2
        (emit (s.updThisSeat fun u => { u with q4 := [] }) s.core (hDest h) (hTc h) (.msg (stamp s s.core h) (vecWords (t.getV vb).data 64))))) ∧
      (∀ h, q = 6 → t.q6 = [h] → groupFault s h h = none → q6Room s.thisCore = true → ∃ u : State,
        exec (.qwv c q vb) s = .next (retire c.sw 2 u) ∧ u.thisSeat = { t with q6 := [] } ∧
          u.thisCore.q6 = s.thisCore.q6 ++ [⟨s.fresh, h, (t.getV vb).data, s.seat.val, t.firingId, t.pc⟩]) ∧
      (∀ h, q = 4 → t.q4 = [h] → hWords h = 64 → sendFault s wv h = none → sendWaits s h = true → exec (.qwv c q vb) s = .next (blocked s)) ∧
      (q = 4 → 1 < t.q4.length → exec (.qwv c q vb) s = .next (blocked s)) ∧
      (∀ h, q = 6 → t.q6 = [h] → groupFault s h h = none → q6Room s.thisCore = false → exec (.qwv c q vb) s = .next (blocked s)) ∧
      (q = 6 → t.q6 = [] → ¬ described ((t.getV vb).data.extractLsb' 0 64) → Traps s (exec (.qwv c q vb) s) 0x42 (reasonVal 1 0 2))) ∧
    (Ready c { wx := [d] } s → (q = 1 ∨ q = 3 ∨ q = 7) → popCore s q 1 = some (s', ws, tag) →
      exec (.qr c d q) s = .next (retire c.sw 2 (wroteX s' d (ws.getD 0 0)))) ∧
    (Ready c { wx := [d] } s → (q = 1 ∨ q = 3 ∨ q = 7) → popCore s q 1 = none → exec (.qr c d q) s = .next (blocked s)) ∧
    (Ready c { wx := [d] } s → q = 5 →
      (8 + t.q5read + 1 ≤ t.payWords → exec (.qr c d q) s = .next (retire c.sw 2 (wroteX (popped 1) d (q5at 0)))) ∧
      (t.payWords < 8 + t.q5read + 1 → past (exec (.qr c d q) s))) ∧
    (Ready c { wv := [vd] } s → (q = 1 ∨ q = 3 ∨ q = 7) → popCore s q 64 = some (s', ws, tag) →
      exec (.qrv c vd q) s = .next (retire c.sw 2 (wroteV s' vd tag (wordsData ws)))) ∧
    (Ready c { wv := [vd] } s → (q = 1 ∨ q = 3 ∨ q = 7) → popCore s q 64 = none → exec (.qrv c vd q) s = .next (blocked s)) ∧
    (Ready c { wv := [vd] } s → q = 5 →
      (8 + t.q5read + 64 ≤ t.payWords → exec (.qrv c vd q) s = .next (retire c.sw 2
        (wroteV (popped 64) vd 0 (wordsData ((List.range 64).map q5at))))) ∧
      (t.payWords < 8 + t.q5read + 64 → past (exec (.qrv c vd q) s))) ∧
    (Ready (halfCtl sw) { rx := [hx ha] } s → pushed hq wh y (exec (.hQw sw hq ha) s) (retire sw 1)) ∧
    (Ready (halfCtl sw) { wx := [hx hd] } s → (hq = 1 ∨ hq = 3 ∨ hq = 7) → popCore s hq 1 = some (s', ws, tag) →
      exec (.hQr sw hd hq) s = .next (retire sw 1 (wroteX s' (hx hd) (ws.getD 0 0)))) ∧
    (Ready (halfCtl sw) { wx := [hx hd] } s → (hq = 1 ∨ hq = 3 ∨ hq = 7) → popCore s hq 1 = none →
      exec (.hQr sw hd hq) s = .next (blocked s)) ∧
    (Ready (halfCtl sw) { wx := [hx hd] } s → hq = 5 →
      (8 + t.q5read + 1 ≤ t.payWords → exec (.hQr sw hd hq) s = .next (retire sw 1 (wroteX (popped 1) (hx hd) (q5at 0)))) ∧
      (t.payWords < 8 + t.q5read + 1 → past (exec (.hQr sw hd hq) s)))

/-- Port, pattern and ring instructions have the effects of R210 to R215. R195, R210, R211, R213, R215 and R239. That pat.wr reads and checks its entry at its issue is the model's choice (log 29). -/
def Obligations.PortAndRingResults : Prop :=
  ∀ (s : State) (c : Ctl) (d a b : BitVec 5),
    let x := s.thisSeat.getX a
    let y := s.thisSeat.getX b
    let k := s.thisCore
    let port := k.port x.toNat
    let ring : Prop := x.toNat < 64 ∧ pKind port.entry = 2 ∧ pEn port.entry = true
    let read := readPieces s y 16
    (Ready c { rx := [a], wx := [d] } s →
      (x.toNat < 64 → exec (.portRd c d a) s = .next (retire c.sw 2 (wroteX s d (portStatus port)))) ∧
      (ring → exec (.ringHd c d a) s = .next (retire c.sw 2 (wroteX s d (port.head.setWidth 64)))) ∧
      (ring → exec (.ringTl c d a) s = .next (retire c.sw 2 (wroteX s d (port.tail.setWidth 64)))) ∧
      (ring → port.tail ≠ port.head → exec (.ringWait c d a) s = .next (retire c.sw 2 (wroteX s d (port.tail.setWidth 64)))) ∧
      (ring → port.tail = port.head → exec (.ringWait c d a) s = .next (blocked s))) ∧
    (Ready c { rx := [a, b] } s → ring → y.toNat % 8 = 0 → y.toNat ≤ (port.tail - port.head).toNat → unreleased s s.core s.seat.val = false →
      exec (.ringAdv c a b) s = .next (retire c.sw 2
        (s.updThisCore fun k => k.setPort x.toNat { port with head := port.head + y.setWidth 32 }))) ∧
    (s.seat = 7 → Ready c { rx := [a, b] } s → Room s → x.toNat < 64 → portOk y = true → portFits k x.toNat y = true →
      exec (.portWr c a b) s = .next (retire c.sw 2 (raise s .none false (.portWr x.toNat y) (.value 0)))) ∧
    (s.seat = 7 → Ready c { rx := [a, b], mem := true } s → Room s → x.toNat < 32 → y.toNat % 16 = 0 → tagOf y = 1 →
      checkBytes s s.me .read (byteAddrs y 16) = none → pendingTo s read true = false → (∀ q ∈ read, poisoned s q.dst q.len = false) →
      patOk k.entryAt k.nextEntries (BitVec.ofNat 64 (readNow s read)) (BitVec.ofNat 64 (readNow s read / 2 ^ 64)) = true →
      exec (.patWr c a b) s = .next (retire c.sw 2 (raise s .none false
        (.patWr x.toNat (BitVec.ofNat 64 (readNow s read)) (BitVec.ofNat 64 (readNow s read / 2 ^ 64))) (.value 0)))) ∧
    (let rings := [exec (.ringHd c d a) s, exec (.ringTl c d a) s, exec (.ringWait c d a) s]
    Ready c { rx := [a], wx := [d] } s →
      (64 ≤ x.toNat → ∀ run ∈ exec (.portRd c d a) s :: rings, Traps s run 0x20 (reasonVal 2 0 (fld x 15 0))) ∧
      (x.toNat < 64 → ¬ ring → ∀ run ∈ rings, Traps s run 0x20 (reasonVal 3 0 x.toNat))) ∧
    (Ready c { rx := [a, b] } s →
      (64 ≤ x.toNat → Traps s (exec (.ringAdv c a b) s) 0x20 (reasonVal 2 0 (fld x 15 0))) ∧
      (x.toNat < 64 → ¬ ring → Traps s (exec (.ringAdv c a b) s) 0x20 (reasonVal 3 0 x.toNat)) ∧
      (ring → y.toNat % 8 ≠ 0 ∨ (port.tail - port.head).toNat < y.toNat → Traps s (exec (.ringAdv c a b) s) 0x20 (reasonVal 4 0 x.toNat))) ∧
    (s.seat = 7 → Ready c { rx := [a, b] } s →
      (64 ≤ x.toNat → Traps s (exec (.portWr c a b) s) 0x20 (reasonVal 2 0 (fld x 15 0))) ∧
      (x.toNat < 64 → portOk y = false ∨ portFits k x.toNat y = false → Traps s (exec (.portWr c a b) s) 0x20 (reasonVal 7 0 x.toNat))) ∧
    (s.seat = 7 → Ready c { rx := [a, b], mem := true } s →
      (32 ≤ x.toNat → Traps s (exec (.patWr c a b) s) 0x20 (reasonVal 2 0 (fld x 15 0))) ∧
      (x.toNat < 32 → y.toNat % 16 ≠ 0 → Traps s (exec (.patWr c a b) s) 0x10 y) ∧
      (x.toNat < 32 → y.toNat % 16 = 0 → tagOf y ≠ 1 → Traps s (exec (.patWr c a b) s) 0x11 y) ∧
      (x.toNat < 32 → y.toNat % 16 = 0 → tagOf y = 1 → checkBytes s s.me .read (byteAddrs y 16) = none → pendingTo s read true = false →
        (∀ q ∈ read, poisoned s q.dst q.len = false) →
        patOk k.entryAt k.nextEntries (BitVec.ofNat 64 (readNow s read)) (BitVec.ofNat 64 (readNow s read / 2 ^ 64)) = false →
        Traps s (exec (.patWr c a b) s) 0x20 (reasonVal 7 0 x.toNat)))

/-- Rank instructions, group barriers and exits have the effects of R153, R154 and R219 to R222. R153, R154, R195, R218 and R219 to R222. The model's choices: rank.hold sets TRANSIT, and gexit records the exit, at the issue (log 29), and the arrival of gbar climbs the tree of the group by `sendArrival` (log 33). -/
def Obligations.RankAndGroupResults : Prop :=
  ∀ (s : State) (c : Ctl) (d a b : BitVec 5) (g : Group),
    let x := s.thisSeat.getX a
    let e := s.thisSeat.getX b
    let r : BitVec 16 := x.setWidth 16
    let old := rankEntry s r
    let ep := tget 0 g.issued s.core + 1
    (Ready c { rx := [a], wx := [d] } s → x.toNat < 2 ^ 16 → exec (.rankRd c d a) s = .next (retire c.sw 2 (wroteX s d old))) ∧
    (s.seat = 7 → Ready c { rx := [a, b] } s → Room s → x.toNat < 2 ^ 16 → rankOk e = true →
      (eTransit old = false → (eValid e = true → (tget? s.ranks r.toNat).isSome = true ∨ rankRoom s [r.toNat] = true) →
        exec (.rankWr c a b) s = .next (retire c.sw 2 (raise s .none false (.rankWr r.toNat e) (.value 0)))) ∧
      (eValid e = true → eTransit old = true →
        exec (.rankRel c a b) s = .next (retire c.sw 2 (raise s .none false (.rankRel r.toNat e) (.value 0))))) ∧
    (s.seat = 7 → Ready c { rx := [a] } s → Room s → x.toNat < 2 ^ 16 → eValid old = true → eTransit old = false →
      exec (.rankHold c a) s = .next (retire c.sw 2
        (raise { s with ranks := tset s.ranks r.toNat (old ||| 0x4000000000000000) } .none false (.rankHold r.toNat) (.value 0)))) ∧
    (Ready c { rx := [a] } s → Room s → x.toNat < 256 → activeGroup s s.core x.toNat = some g → unreleased s s.core s.seat.val = false →
      exec (.gbar c a) s = .next (retire c.sw 2 (sendArrival
        (updGroup (raise s .none true (.gbar g.gid ep)) g.gid fun q => { q with issued := tset q.issued s.core ep }) g s.core ep s.core)) ∧
      ∃ t : State, exec (.gexit c a) s = .next (retire c.sw 2 t) ∧ t.thisSeat = (raise s .none false .plain (.value 0)).thisSeat ∧
        ∀ q ∈ t.groups, q.gid = g.gid → s.core ∈ q.exited) ∧
    (Ready c { rx := [a], wx := [d] } s → 2 ^ 16 ≤ x.toNat → Traps s (exec (.rankRd c d a) s) 0x20 (reasonVal 2 0 (fld x 15 0))) ∧
    (s.seat = 7 → Ready c { rx := [a, b] } s →
      let wr := exec (.rankWr c a b) s
      let rel := exec (.rankRel c a b) s
      (2 ^ 16 ≤ x.toNat ∨ rankOk e = false → Traps s wr 0x20 (reasonVal 2 0 (fld x 15 0))) ∧
      (2 ^ 16 ≤ x.toNat ∨ rankOk e = false ∨ eValid e = false → Traps s rel 0x20 (reasonVal 2 0 (fld x 15 0))) ∧
      (x.toNat < 2 ^ 16 → rankOk e = true →
        (eTransit old = true → Traps s wr 0x20 (reasonVal 6 0 r.toNat)) ∧
        (eTransit old = false → eValid e = true → (tget? s.ranks r.toNat).isNone = true → rankRoom s [r.toNat] = false →
          Traps s wr 0x20 (reasonVal 5 0 r.toNat)) ∧
        (eValid e = true → eTransit old = false → Traps s rel 0x20 (reasonVal 6 0 r.toNat)))) ∧
    (s.seat = 7 → Ready c { rx := [a] } s →
      (2 ^ 16 ≤ x.toNat → Traps s (exec (.rankHold c a) s) 0x20 (reasonVal 2 0 (fld x 15 0))) ∧
      (x.toNat < 2 ^ 16 → eValid old = false ∨ eTransit old = true → Traps s (exec (.rankHold c a) s) 0x20 (reasonVal 6 0 r.toNat))) ∧
    (Ready c { rx := [a] } s → 256 ≤ x.toNat ∨ activeGroup s s.core x.toNat = none →
      Traps s (exec (.gbar c a) s) 0x22 x ∧ Traps s (exec (.gexit c a) s) 0x22 x)

/-- Shell instructions put their command into q0 or raise the operation of R259, R260 and R263. R249, R253, R256, R258 to R260, R262 to R264. That sh.rcmd is emitted in class 0 is the model's choice (log 37). -/
def Obligations.ShellInstructionResults : Prop :=
  ∀ (s : State) (c : Ctl) (d : BitVec 3) (a b : BitVec 5) (f : BitVec 4),
    let x := s.thisSeat.getX a
    let y := s.thisSeat.getX b
    let h := s.thisCore.shell
    let n := tileBytes f
    let accepted (ws : List Word) : State := acceptCmd s s.core ws (operandDeps s ws)
    let mma (bsel : Nat) (pass : Bool) := cmdWord 0 f d bsel pass false
    let drain (z : Bool) := cmdWord 1 f d 0 false z
    let okDrain : Prop := x = 0 ∨ (x.toNat % 64 = 0 ∧ (tagOf x = 0 ∨ tagOf x = 1 ∨ tagOf x = 4) ∧ checkBytes s s.me .write (byteAddrs x n) = none)
    let sums (l : List Word) := (List.range 32).map fun i => l.getD i 0
    let pending (id : Nat) : Prop := (h.cmds.any fun q => q.id = id && q.stage matches .queued | .occupying) = true
    let rank : BitVec 16 := x.setWidth 16
    let read := readPieces s y 32
    (Ready c { rx := [a, b] } s → q0Open h = true → x.toNat % 64 = 0 → y.toNat % 64 = 0 → operandOk s s.core 1 x n = true →
      (operandOk s s.core 1 y n = true → kindFault h (mma 0 false) = none →
        exec (.shMmaSp c d a b f) s = .next (retire c.sw 2 (accepted [mma 0 false, x, y, 0]))) ∧
      (operandOk s s.core 3 y n = true → kindFault h (mma 1 false) = none →
        exec (.shMmaWs c d a b f) s = .next (retire c.sw 2 (accepted [mma 1 false, x, y, 0])))) ∧
    (Ready c { rx := [a] } s → q0Open h = true →
      (x.toNat % 64 = 0 → operandOk s s.core 1 x n = true → kindFault h (mma 2 false) = none →
        exec (.shMmaLt c d a f) s = .next (retire c.sw 2 (accepted [mma 2 false, x, 0, 0]))) ∧
      (x.toNat % 64 = 0 → operandOk s s.core 1 x n = true → kindFault h (mma 2 true) = none → linkOn h = true →
        exec (.shMmap c d a f) s = .next (retire c.sw 2 (accepted [mma 2 true, x, 0, 0]))) ∧
      (okDrain → exec (.shDrain c d a f) s = .next (retire c.sw 2 (accepted [drain false, x, 0, 0])) ∧
        exec (.shDrainz c d a f) s = .next (retire c.sw 2 (accepted [drain true, x, 0, 0])))) ∧
    (Ready c {} s →
      (q0Open h = true → exec (.shZero c d) s = .next (retire c.sw 2 (accepted [cmdWord 2 0 d 0 false false, 0, 0, 0]))) ∧
      (q0Open h = true → linkOn h = true → exec (.shPass c) s = .next (retire c.sw 2 (accepted [cmdWord 3 0 0 0 false false, 0, 0, 0]))) ∧
      (Room s → exec (.shWait c d) s = .next (retire c.sw 2
        (raise s .none true (.shWait ((h.cmds.filter (·.names d.toNat)).map (·.id))) (.value 0))))) ∧
    (Ready c { rx := [a] } s → Room s → x.toNat % 8 = 0 → tagOf x = 1 → rangeIn s s.core x 256 = true →
      (∀ id, h.lastMma = some id → pending id →
        exec (.shBow c a) s = .next (retire c.sw 2 (raise s .none false (.bow false id (fld x 19 0)) (.value 0))) ∧
        exec (.shStroke c a) s = .next (retire c.sw 2 (raise s .none false (.bow true id (fld x 19 0)) (.value 0)))) ∧
      ((∀ id, h.lastMma = some id → ¬ pending id) →
        exec (.shBow c a) s = .next (retire c.sw 2 (raise s .none false (.sums (sums h.sampleB) (fld x 19 0)) (.value 0))) ∧
        exec (.shStroke c a) s = .next (retire c.sw 2 (raise s .none false (.sums (sums h.sampleS) (fld x 19 0)) (.value 0))))) ∧
    (Ready c { rx := [a, b], mem := true } s → Room s → fld x 63 16 = 0 → rank.toNat < 0xFFFE → y.toNat % 32 = 0 → (tagOf y = 0 ∨ tagOf y = 1) →
      checkBytes s s.me .read (byteAddrs y 32) = none → destFault s rank = none → eModule (rankEntry s rank) = ownModule s →
      unreleased s s.core s.seat.val = false → holdFull s s.core 0 = false → sameWord s read = false →
      exec (.shRcmd c a b) s = .next (retire c.sw 2 (emit (postRead s (.rcmd rank) read) s.core rank 0 (.rcmd s.seat.val s.fresh [])))) ∧
    (Ready c { rx := [a, b] } s → ∀ m ∈ [(exec (.shMmaSp c d a b f) s, 0), (exec (.shMmaWs c d a b f) s, 1)],
      (x.toNat % 64 ≠ 0 → Traps s m.1 0x10 x) ∧
      (x.toNat % 64 = 0 → y.toNat % 64 ≠ 0 → Traps s m.1 0x10 y) ∧
      (x.toNat % 64 = 0 → y.toNat % 64 = 0 →
        (operandOk s s.core 1 x n = false → Traps s m.1 0x11 x) ∧
        (operandOk s s.core 1 x n = true → operandOk s s.core (2 * m.2 + 1) y n = false → Traps s m.1 0x11 y) ∧
        (∀ v, operandOk s s.core 1 x n = true → operandOk s s.core (2 * m.2 + 1) y n = true → kindFault h (mma m.2 false) = some v →
          Traps s m.1 0x03 v))) ∧
    (Ready c { rx := [a] } s →
      (∀ m ∈ [(exec (.shMmaLt c d a f) s, false), (exec (.shMmap c d a f) s, true)],
        (x.toNat % 64 ≠ 0 → Traps s m.1 0x10 x) ∧
        (x.toNat % 64 = 0 → operandOk s s.core 1 x n = false → Traps s m.1 0x11 x) ∧
        (∀ v, x.toNat % 64 = 0 → operandOk s s.core 1 x n = true → kindFault h (mma 2 m.2) = some v → Traps s m.1 0x03 v)) ∧
      (x.toNat % 64 = 0 → operandOk s s.core 1 x n = true → kindFault h (mma 2 true) = none → linkOn h = false →
        Traps s (exec (.shMmap c d a f) s) 0x40 (reasonVal 4 0 0)) ∧
      (∀ run ∈ [exec (.shDrain c d a f) s, exec (.shDrainz c d a f) s], x ≠ 0 →
        (x.toNat % 64 ≠ 0 → Traps s run 0x10 x) ∧
        (x.toNat % 64 = 0 → ¬ (tagOf x = 0 ∨ tagOf x = 1 ∨ tagOf x = 4) → Traps s run 0x11 x) ∧
        (∀ e, x.toNat % 64 = 0 → (tagOf x = 0 ∨ tagOf x = 1 ∨ tagOf x = 4) → checkBytes s s.me .write (byteAddrs x n) = some e →
          e.1 ≠ walkCause → Traps s run e.1 (if e.1 = 0x11 then x else e.2))) ∧
      (∀ run ∈ [exec (.shBow c a) s, exec (.shStroke c a) s],
        (x.toNat % 8 ≠ 0 → Traps s run 0x10 x) ∧
        (x.toNat % 8 = 0 → tagOf x ≠ 1 ∨ rangeIn s s.core x 256 = false → Traps s run 0x11 x))) ∧
    (Ready c {} s → linkOn h = false → Traps s (exec (.shPass c) s) 0x40 (reasonVal 4 0 3)) ∧
    (Ready c { rx := [a, b], mem := true } s →
      let run := exec (.shRcmd c a b) s
      (fld x 63 16 ≠ 0 ∨ 0xFFFE ≤ rank.toNat → Traps s run 0x40 (reasonVal 2 0 rank.toNat)) ∧
      (fld x 63 16 = 0 → rank.toNat < 0xFFFE →
        (y.toNat % 32 ≠ 0 → Traps s run 0x10 y) ∧
        (y.toNat % 32 = 0 → tagOf y ≠ 0 → tagOf y ≠ 1 → Traps s run 0x11 y) ∧
        (y.toNat % 32 = 0 → (tagOf y = 0 ∨ tagOf y = 1) → checkBytes s s.me .read (byteAddrs y 32) = none →
          (eValid (rankEntry s rank) = false → Traps s run 0x20 (reasonVal 1 0 rank.toNat)) ∧
          (eValid (rankEntry s rank) = true → eDead (rankEntry s rank) = true → Traps s run 0x21 (rank.setWidth 64)) ∧
          (destFault s rank = none → eModule (rankEntry s rank) ≠ ownModule s → Traps s run 0x40 (reasonVal 2 0 rank.toNat)))))

/-- Haul and combining-router instructions have the effects of R267 to R271 and R315 to R321. R153, R264, R267 to R271, R313, R315, R318, R319 and R321. That hl.resume restarts its channel, and rt.codec reads and checks its entry, at the issue is the model's choice (log 29). -/
def Obligations.HaulAndRouterInstructionResults : Prop :=
  ∀ (s : State) (c : Ctl) (d a b : BitVec 5) (v : BitVec 4) (r : Run) (tb : Codec),
    let t := s.thisSeat
    let x := t.getX a
    let y := t.getX b
    let cl := clusterOf s.core
    let ch := fld x 1 0
    let read := readPieces s x 64
    (Ready c { rx := [a], mem := true, rel := true } s → Room s → t.q2.length = 8 → checkAtomic s s.me x 128 8 = none →
      exec (.hlPost c a) s = .next (retire c.sw 2
        ((raise s .none false (.haulPost x (postedWords s t.q2) .config none) (.value 0)).updThisSeat fun u => { u with q2 := [] }))) ∧
    (isBc s.core = false →
      (Ready c { rx := [a], wx := [d] } s → x.toNat < 4 →
        (Room s → exec (.hlWp c d a) s = .next (retire c.sw 2 (raise s (.x d) true (.haulWp cl ch) (.value 0)))) ∧
        exec (.hlStat c d a) s = .next (retire c.sw 2 (wroteX s d (statWord (s.chan cl ch))))) ∧
      (Ready c { rx := [a], rel := true } s → Room s → (x = 0 ∨ tagOf x = 0 ∧ x.toNat % 64 = 0) →
        exec (.hlRfence c a) s = .next (retire c.sw 2 (raise s .none false (.rfence x) (.value 0)))) ∧
      (s.seat = 7 → Ready c { rx := [a] } s → Room s → x.toNat < 8 → (s.chan cl ch).st = 2 →
        exec (.hlResume c a) s = .next (retire c.sw 2 (raise (resumeChannel s cl ch (x.getLsbD 2)) .none false .plain (.value 0))))) ∧
    (Ready c { rx := [a], rv := [v] } s → t.q6 = [] → fld x 63 34 = 0 → dDeliver x ≠ 3 → groupFault s x x = none → q6Room s.thisCore = true →
      ((t.getV v).tag = 0 ∨ (t.getV v).tag = 6 → exec (.rtRedAddF32 c a v) s = .next (retire c.sw 2
        (s.updThisCore fun k => { k with q6 := k.q6 ++ [⟨s.fresh, x ||| BitVec.ofNat 64 (0 * 2 ^ 36), (t.getV v).data, s.seat.val, t.firingId, t.pc⟩] }).bump)) ∧
      ((t.getV v).tag = 0 ∨ (t.getV v).tag = 5 → exec (.rtRedAddBf16 c a v) s = .next (retire c.sw 2
        (s.updThisCore fun k => { k with q6 := k.q6 ++ [⟨s.fresh, x ||| BitVec.ofNat 64 (1 * 2 ^ 36), (t.getV v).data, s.seat.val, t.firingId, t.pc⟩] }).bump)) ∧
      ((t.getV v).tag = 0 ∨ (t.getV v).tag = 3 → exec (.rtRedAddI32 c a v) s = .next (retire c.sw 2
        (s.updThisCore fun k => { k with q6 := k.q6 ++ [⟨s.fresh, x ||| BitVec.ofNat 64 (2 * 2 ^ 36), (t.getV v).data, s.seat.val, t.firingId, t.pc⟩] }).bump)) ∧
      ((t.getV v).tag = 0 ∨ (t.getV v).tag = 6 → exec (.rtRedMaxF32 c a v) s = .next (retire c.sw 2
        (s.updThisCore fun k => { k with q6 := k.q6 ++ [⟨s.fresh, x ||| BitVec.ofNat 64 (3 * 2 ^ 36), (t.getV v).data, s.seat.val, t.firingId, t.pc⟩] }).bump)) ∧
      ((t.getV v).tag = 0 ∨ (t.getV v).tag = 6 → exec (.rtRedMinF32 c a v) s = .next (retire c.sw 2
        (s.updThisCore fun k => { k with q6 := k.q6 ++ [⟨s.fresh, x ||| BitVec.ofNat 64 (4 * 2 ^ 36), (t.getV v).data, s.seat.val, t.firingId, t.pc⟩] }).bump))) ∧
    (Ready c { rx := [a], wv := [v] } s → fld x 63 32 = 0 → findRes s.thisCore (dKey x) = some r →
      exec (.rtRes c v a) s = .next (retire c.sw 2
        (wroteV (s.updThisCore fun k => { k with q7 := k.q7.erase r }) v r.tag (wordsData r.words)))) ∧
    (s.seat = 7 → Ready c { rx := [a, b] } s → Room s → x.toNat < 256 → (findGroup s (fld x 7 0)).any (fun g => g.members.any (·.2 = s.core) && !g.active.isEmpty) = true →
      fld y 23 0 = 0 → (y.getLsbD 63 = true → (treeOf s.thisCore x.toNat).isSome = true ∨ s.thisCore.trees.length < 4) →
      exec (.rtTree c a b) s = .next (retire c.sw 2 (raise s .none false (.tree x.toNat y) (.value 0)))) ∧
    (s.seat = 7 → Ready c { rx := [a], mem := true } s → Room s → x.toNat % 64 = 0 → (tagOf x = 0 ∨ tagOf x = 1) →
      checkBytes s s.me .read (byteAddrs x 64) = none → pendingTo s read true = false → (∀ q ∈ read, poisoned s q.dst q.len = false) →
      codecTable (readNow s read) = some tb →
      exec (.rtCodec c a) s = .next (retire c.sw 2 (raise s .none false (.codec tb) (.value 0)))) ∧
    (let unfit (n : BitVec 8) (run : Result) : Prop := ∃ v : BitVec 56, Traps s run 0x41 (n ++ v)
    (Ready c { rx := [a], mem := true, rel := true } s → t.q2.length ≠ 8 → unfit 1 (exec (.hlPost c a) s)) ∧
    (Ready c { rx := [a], wx := [d] } s → isBc s.core = true ∨ 4 ≤ x.toNat → unfit 2 (exec (.hlWp c d a) s) ∧ unfit 2 (exec (.hlStat c d a) s)) ∧
    (Ready c { rx := [a], rel := true } s → isBc s.core = true ∨ (x ≠ 0 ∧ ¬ (tagOf x = 0 ∧ x.toNat % 64 = 0)) →
      unfit 2 (exec (.hlRfence c a) s)) ∧
    (s.seat = 7 → Ready c { rx := [a] } s →
      (isBc s.core = true ∨ 8 ≤ x.toNat → unfit 2 (exec (.hlResume c a) s)) ∧
      (isBc s.core = false → x.toNat < 8 → (s.chan cl ch).st ≠ 2 → unfit 4 (exec (.hlResume c a) s)))) ∧
    (∀ m ∈ [(exec (.rtRedAddF32 c a v) s, 0, 6), (exec (.rtRedAddBf16 c a v) s, 1, 5), (exec (.rtRedAddI32 c a v) s, 2, 3),
        (exec (.rtRedMaxF32 c a v) s, 3, 6), (exec (.rtRedMinF32 c a v) s, 4, 6)], Ready c { rx := [a], rv := [v] } s →
      (t.q6 ≠ [] ∨ fld x 63 34 ≠ 0 ∨ dDeliver x = 3 → Traps s m.1 0x42 (reasonVal 1 0 m.2.1)) ∧
      (t.q6 = [] → fld x 63 34 = 0 → dDeliver x ≠ 3 →
        (activeGroup s s.core (dGroup x) = none → Traps s m.1 0x22 x) ∧
        ((activeGroup s s.core (dGroup x)).isSome = true → treeOf s.thisCore (dGroup x) = none → Traps s m.1 0x42 (reasonVal 2 0 (dGroup x))) ∧
        (groupFault s x x = none → (t.getV v).tag ≠ 0 → (t.getV v).tag.toNat ≠ m.2.2 → Traps s m.1 0x03 (formatVal t v)) ∧
        (groupFault s x x = none → (t.getV v).tag = 0 → q6Room s.thisCore = false → m.1 = .next (blocked s)))) ∧
    (Ready c { rx := [a], wv := [v] } s →
      (fld x 63 32 ≠ 0 → Traps s (exec (.rtRes c v a) s) 0x42 (reasonVal 1 0 8)) ∧
      (fld x 63 32 = 0 → findRes s.thisCore (dKey x) = none → exec (.rtRes c v a) s = .next (blocked s))) ∧
    (s.seat = 7 → Ready c { rx := [a, b] } s →
      let member : Prop := (findGroup s (fld x 7 0)).any (fun g => g.members.any (·.2 = s.core) && !g.active.isEmpty) = true
      (256 ≤ x.toNat ∨ ¬ member → Traps s (exec (.rtTree c a b) s) 0x22 x) ∧
      (x.toNat < 256 → member → fld y 23 0 ≠ 0 ∨ (y.getLsbD 63 = true ∧ treeOf s.thisCore x.toNat = none ∧ 4 ≤ s.thisCore.trees.length) →
        Traps s (exec (.rtTree c a b) s) 0x42 (reasonVal 1 0 9))) ∧
    (s.seat = 7 → Ready c { rx := [a], mem := true } s →
      let run := exec (.rtCodec c a) s
      (x.toNat % 64 ≠ 0 → Traps s run 0x10 x) ∧
      (x.toNat % 64 = 0 → tagOf x ≠ 0 → tagOf x ≠ 1 → Traps s run 0x11 x) ∧
      (x.toNat % 64 = 0 → (tagOf x = 0 ∨ tagOf x = 1) → checkBytes s s.me .read (byteAddrs x 64) = none → pendingTo s read true = false →
        (∀ q ∈ read, poisoned s q.dst q.len = false) → codecTable (readNow s read) = none → Traps s run 0x42 (reasonVal 4 0 0)))

/-- sr.rd reads and sr.wr of seat 7 writes the system registers of R324, and a register out of reach gives the privilege trap. R324, R325, R169, R404 and R30. CYCLE and REMAIN of WSWIN hold free values, for every value of which the statement holds. That the privilege trap of a single register is taken whatever the guard, for sr.rd and sr.wr alike, is the model's choice (log 38). -/
def Obligations.SystemRegisterResults : Prop :=
  ∀ (s : State) (c : Ctl) (d a : BitVec 5) (r : BitVec 10),
    let k := s.thisCore
    let x := s.thisSeat.getX a
    let n := r.toNat % 8
    let bc := isBc s.core
    let v := srValue s r.toNat
    let w := srWrite s r.toNat x
    let late := readCycle s (chipOf s.core)
    let may : Prop := r.toNat < 0x10 ∨ 0x40 ≤ r.toNat ∨ s.seat = 7
    let frozen : Prop := r.toNat < 3 ∨ r = 9 ∨ (0x10 ≤ r.toNat ∧ r.toNat < 0x30) ∨ r = 0x38 ∨ r = 0x3A ∨ r = 0x3C ∨ r = 0x3D ∨ r = 0x40 ∨
      r = 0x48 ∨ (bc = false ∧ (r = 0x41 ∨ r = 0x42))
    let open' : Prop := r = 8 ∨ (0x30 ≤ r.toNat ∧ r.toNat < 0x38) ∨ r = 0x39 ∨ (bc = true ∧ (r = 0x41 ∨ r = 0x42))
    (Ready c { wx := [d] } s → may → isSysReg r = true →
      (r = 0 → exec (.srRd c d r) s = .next (retire c.sw 2 (wroteX late.1 d late.2))) ∧
      (r = 9 → exec (.srRd c d r) s = .next (retire c.sw 2 (wroteX s.ticked d v))) ∧
      (r ≠ 0 → r ≠ 9 → exec (.srRd c d r) s = .next (retire c.sw 2 (wroteX s d v)))) ∧
    (r = 1 → v = coreId s.core) ∧ (r = 2 → v = BitVec.ofNat 64 s.seat.val) ∧ (r = 8 → v = k.dbgCtl) ∧ (r = 9 → v = wsWin s s.core) ∧
    (0x10 ≤ r.toNat → r.toNat < 0x18 → v = (k.getSeat n).trapPc.setWidth 64) ∧
    (0x18 ≤ r.toNat → r.toNat < 0x20 → v = (k.getSeat n).trapCause.setWidth 64) ∧
    (0x20 ≤ r.toNat → r.toNat < 0x28 → v = (k.getSeat n).trapVal) ∧
    (0x28 ≤ r.toNat → r.toNat < 0x30 → v = (k.getSeat n).rpc.setWidth 64) ∧
    (r = 0x30 → v = k.ttRoot) ∧ (r = 0x31 → v = k.seatCtl) ∧ (r = 0x32 → v = k.shell.link) ∧ (r = 0x33 → v = k.tretCtl) ∧
    (0x34 ≤ r.toNat → r.toNat < 0x38 → v = if bc then 0 else (s.chan (clusterOf s.core) (r.toNat - 0x34)).hlq) ∧
    (r = 0x38 → v = k.ovfCfg) ∧ (r = 0x39 → v = k.ovfHead.setWidth 64) ∧ (r = 0x3C → v = k.bivBase) ∧ (r = 0x3D → v = k.ctxBase) ∧
    (r = 0x3A → v = BitVec.ofNat 64 (k.ovfTail.toNat + if k.ovfFull then 2 ^ 63 else 0)) ∧
    (r = 0x40 → v = s.l2co) ∧ (r = 0x41 → v = s.l2cfg) ∧ (r = 0x42 → v = s.l2pmap) ∧ (r = 0x48 → v = pwrStat (s.getChiplet (chipOf s.core))) ∧
    (¬ may → isSysReg r = true → exec (.srRd c d r) s = .next (precise s 0x02 ((wordX c 0x38 d 0 r).setWidth 64))) ∧
    (s.seat = 7 → Ready c { rx := [a] } s → open' → exec (.srWr c a r) s = .next (retire c.sw 2 w)) ∧
    (r = 8 → w = s.updThisCore fun k => { k with dbgCtl := x &&& 1 }) ∧
    (r = 0x30 → w = s.updThisCore fun k => { k with ttRoot := x &&& 0xFFFF00FFFFFFF001 }) ∧
    (r = 0x31 → w = writeSeatCtl s s.core x) ∧ (r = 0x32 → w = writeShLink s s.core x) ∧
    (r = 0x33 → w = s.updThisCore fun k => { k with tretCtl := x &&& 0xFFFF0307 }) ∧
    (0x34 ≤ r.toNat → r.toNat < 0x38 → w = if bc then s else writeHlq s (clusterOf s.core) (r.toNat - 0x34) x) ∧
    (r = 0x39 → w = writeOvfHd s s.core x) ∧ (r = 0x41 → w = reconfigure s x s.l2pmap) ∧ (r = 0x42 → w = reconfigure s s.l2cfg x) ∧
    (isSysReg r = true → s.seat ≠ 7 ∨ frozen → exec (.srWr c a r) s = .next (precise s 0x02 ((wordX c 0x39 0 a r).setWidth 64)))

/-- The return from a trap, waiting, capability, power, cache, translation and route-table instructions have their effects. R313, R322, R323 and R327 to R333. When each takes effect between issue and completion is the model's choice (log 29). -/
def Obligations.SystemInstructionResults : Prop :=
  ∀ (s : State) (c : Ctl) (d a : BitVec 5) (w : BitVec 32) (cn : BitVec 3),
    let x := s.thisSeat.getX a
    let k := s.thisCore
    let n := fld k.tretCtl 2 0
    let mode := fld k.tretCtl 9 8
    let at' := resumePoint k (k.getSeat n) mode
    let cn' := if x.getLsbD 3 then 13 * fld x 15 12 + fld x 11 8 else chipOf s.core
    let named : Prop := fld x 63 16 = 0 ∧ fld x 7 4 = 0 ∧ (x.getLsbD 3 = true → fld x 15 12 ≤ 12 ∧ fld x 11 8 ≤ 12) ∧
      (x.getLsbD 3 = false → fld x 15 8 = 0) ∧ isCluster cn' = true ∧ bustState s cn' = 5 ∧ (isLost s cn' = true → isLost s (chipOf s.core) = true)
    let table : Prop := fld x 63 34 = 0 ∧ fld x 33 32 < 2 ∧ fld x 31 16 < 2738 ∧ fld x 15 8 < 52 ∧ fld x 7 0 < 52
    let router := 52 * fld x 15 8 + fld x 7 0
    exec (.illegalInstruction w) s = .next (precise s 0x00 (w.setWidth 64)) ∧
    (s.seat = 7 → Ready c {} s → n ≠ 7 → (k.getSeat n).status = .trapped →
      (mode = 3 → exec (.tret c) s = .next (retire c.sw 2 (killFiring s s.core n))) ∧
      (mode ≠ 3 → at'.1 ≤ 0xFFFF → k.starts at'.1 = true → exec (.tret c) s = .next (retire c.sw 2
        (s.updSeatAt s.core n fun t => { t with status := .running, pc := BitVec.ofNat 16 at'.1, rpt := at'.2 })))) ∧
    (Ready c {} s →
      (s.thisSeat.event = true → exec (.wfe c) s = .next (retire c.sw 2 (s.updThisSeat fun t => { t with event := false }))) ∧
      (s.thisSeat.event = false → exec (.wfe c) s = .next (blocked s))) ∧
    (Ready c { mem := true } s → Room s → exec (.l1Inv c) s = .next (retire c.sw 2 (raise s .none true .l1Inv (.value 0)))) ∧
    (Ready c { rx := [a], mem := true } s →
      (x.toNat % 128 ≠ 0 → Traps s (exec (.l2Wb c a) s) 0x10 x) ∧
      (x.toNat % 128 = 0 → tagOf x ≠ 0 → Traps s (exec (.l2Wb c a) s) 0x11 x) ∧
      (Room s → x.toNat % 128 = 0 → tagOf x = 0 → checkBytes s s.me .read (byteAddrs x 128) = none → exec (.l2Wb c a) s =
        .next (retire c.sw 2 (post (raise s .none false .plain) s.fresh .wb [mkPiece x (placeOf s s.me x) 8 0 0 0])))) ∧
    (s.seat = 7 → Ready c { rx := [a] } s →
      (fld x 63 32 = 0 → exec (.capWr c cn a) s = .next (retire c.sw 2
        (updShell s s.core fun h => { h with caps := h.caps.setIfInBounds cn.toNat (x.setWidth 32) }))) ∧
      (named → Room s → exec (.pwr c a) s = .next (retire c.sw 2
        (askPower (raise s .none false (.pwr cn' (x.setWidth 3))) cn' (x.setWidth 3) (some (s.core, s.seat.val, s.fresh))))) ∧
      (Room s → fld x 63 12 = 0 → fld x 7 4 = 0 → fld x 3 0 < partitions s → fld x 11 8 ≤ 12 →
        exec (.l2Ways c a) s = .next (retire c.sw 2 (raise s .none false (.l2Ways (fld x 3 0) (fld x 11 8)) (.value 0)))) ∧
      (Room s → fld x 62 48 = 0 → (x.getLsbD 63 = true → fld x 47 16 = 0) →
        exec (.tcInv c a) s = .next (retire c.sw 2 (raise s .none false (.tcInv x) (.value 0))))) ∧
    (s.seat = 7 → Ready c { rx := [a], wx := [d] } s → Room s →
      (x.toNat < 2 ^ 16 → isChiplet x.toNat = true →
        exec (.bustRd c d a) s = .next (retire c.sw 2 (raise s (.x d) false (.bust x.toNat) (.value 0)))) ∧
      (table → exec (.rtabRd c d a) s = .next (retire c.sw 2 (raise s (.x d) false (.rtab (fld x 33 32) (fld x 31 16) router none) (.value 0))))) ∧
    (s.seat = 7 → Ready c { rx := [a, d] } s → Room s → table → tableEntryOk (fld x 33 32) (s.thisSeat.getX d) = true →
      exec (.rtabWr c d a) s = .next (retire c.sw 2
        (raise s .none false (.rtab (fld x 33 32) (fld x 31 16) router (some (s.thisSeat.getX d))) (.value 0)))) ∧
    (s.seat = 7 → Ready c {} s →
      (n = 7 ∨ (k.getSeat n).status ≠ .trapped → Traps s (exec (.tret c) s) 0x42 (reasonVal 6 0 n)) ∧
      (n ≠ 7 → (k.getSeat n).status = .trapped → mode ≠ 3 → ¬ (at'.1 ≤ 0xFFFF ∧ k.starts at'.1 = true) →
        Traps s (exec (.tret c) s) 0x01 (BitVec.ofNat 64 at'.1))) ∧
    (s.seat = 7 → Ready c { rx := [a] } s →
      (fld x 63 32 ≠ 0 → Traps s (exec (.capWr c cn a) s) 0x42 (reasonVal 1 0 3)) ∧
      (fld x 63 16 ≠ 0 ∨ fld x 7 4 ≠ 0 ∨ (x.getLsbD 3 = true ∧ (12 < fld x 15 12 ∨ 12 < fld x 11 8)) ∨ (x.getLsbD 3 = false ∧ fld x 15 8 ≠ 0) →
        Traps s (exec (.pwr c a) s) 0x42 (reasonVal 1 0 2)) ∧
      (fld x 63 16 = 0 → fld x 7 4 = 0 → (x.getLsbD 3 = true → fld x 15 12 ≤ 12 ∧ fld x 11 8 ≤ 12) → (x.getLsbD 3 = false → fld x 15 8 = 0) →
        isCluster cn' = false ∨ bustState s cn' ≠ 5 → Traps s (exec (.pwr c a) s) 0x42 (reasonVal 8 0 cn')) ∧
      (fld x 63 12 ≠ 0 ∨ fld x 7 4 ≠ 0 → Traps s (exec (.l2Ways c a) s) 0x42 (reasonVal 1 0 4)) ∧
      (fld x 63 12 = 0 → fld x 7 4 = 0 → partitions s ≤ fld x 3 0 ∨ 12 < fld x 11 8 →
        Traps s (exec (.l2Ways c a) s) 0x42 (reasonVal 5 0 (fld x 3 0))) ∧
      (fld x 62 48 ≠ 0 ∨ (x.getLsbD 63 = true ∧ fld x 47 16 ≠ 0) → Traps s (exec (.tcInv c a) s) 0x42 (reasonVal 1 0 7))) ∧
    (let shaped : Prop := fld x 63 34 = 0 ∧ fld x 33 32 < 2 ∧ fld x 31 16 < 2738
    let off : Prop := 51 < fld x 15 8 ∨ 51 < fld x 7 0
    (s.seat = 7 → Ready c { rx := [a], wx := [d] } s →
      (2 ^ 16 ≤ x.toNat → Traps s (exec (.bustRd c d a) s) 0x42 (reasonVal 1 0 0)) ∧
      (x.toNat < 2 ^ 16 → isChiplet x.toNat = false → Traps s (exec (.bustRd c d a) s) 0x42 (reasonVal 7 0 x.toNat)) ∧
      (¬ shaped → Traps s (exec (.rtabRd c d a) s) 0x42 (reasonVal 1 0 1)) ∧
      (shaped → off → Traps s (exec (.rtabRd c d a) s) 0x42 (reasonVal 7 0 router))) ∧
    (s.seat = 7 → Ready c { rx := [a, d] } s →
      (¬ shaped ∨ tableEntryOk (fld x 33 32) (s.thisSeat.getX d) = false → Traps s (exec (.rtabWr c d a) s) 0x42 (reasonVal 1 0 2)) ∧
      (shaped → tableEntryOk (fld x 33 32) (s.thisSeat.getX d) = true → off → Traps s (exec (.rtabWr c d a) s) 0x42 (reasonVal 7 0 router))))

/-- A repeat prefix that passes its checks starts its n iterations, and each completed iteration counts down. R12, R13 and R25 to R27. TRAP_PC 0 of the trap past the last parcel is what R13 states. The model's choices: TRAP_VAL is the address of the last instruction executed, behind a prefix the repeated one (log 56), and the prefix and its iteration 0 take separate turns (log 57). -/
def Obligations.RepeatAndAdvance : Prop :=
  ∀ (s : State) (n : BitVec 10) (sd sa sb sm sw : Bool) (len : Nat),
    let t := s.thisSeat
    let k := s.thisCore
    let next := t.pc.toNat + 2
    let w := k.word next
    let count := n.toNat + 1
    let u := s.forget s.me
    let waits : Bool := sw && !t.outs.isEmpty
    let pre : BitVec 32 := 0x9FC#12 ++ n ++ BitVec.ofBool sd ++ BitVec.ofBool sa ++ BitVec.ofBool sb ++ BitVec.ofBool sm ++ 0#6
    (next < 0xFFFF → badParcel k next 2 = none → k.starts next = false → (k.parcel next).getLsbD 15 = true → k.starts (next + 1) = false →
      legalWord w = true → repeatFits pre w count = true → (∀ i < count, legalWord (stepWord pre w i) = true) →
      (repeatPrivileged w = true → s.seat = 7) →
      exec (.rpt n sd sa sb sm) s = .next (s.updThisSeat fun t => { t with rpt := BitVec.ofNat 11 count })) ∧
    (repeating s = true → t.rpt ≠ 1 → retire sw len s = u.updThisSeat fun t => { t with rpt := t.rpt - 1 }) ∧
    (repeating s = true → t.rpt = 1 → t.pc.toNat + 4 ≤ 0xFFFF →
      retire sw len s = u.setThisSeat (switched sw { t with pc := t.pc + 4, rpt := 0 })) ∧
    (repeating s = false → t.pc.toNat + len ≤ 0xFFFF →
      retire sw len s = u.setThisSeat (switched sw { t with pc := t.pc + BitVec.ofNat 16 len, rpt := 0 })) ∧
    (repeating s = true → t.rpt = 1 → t.pc.toNat + 2 ≤ 0xFFFF → 0xFFFF < t.pc.toNat + 4 →
      (waits = false → retire sw len s =
        trapSeat (u.setThisSeat { t with rpt := 0 }) s.core s.seat.val 0x01 (BitVec.ofNat 64 (t.pc.toNat + 2)) 0 0) ∧
      (waits = true → retire sw len s = u.setThisSeat { t with status := .parked, pc := 0, rpt := 0, beyond := some (t.pc + 2) })) ∧
    (repeating s = false → len ≤ 2 → 0xFFFF < t.pc.toNat + len →
      (waits = false → retire sw len s = trapSeat (u.setThisSeat { t with rpt := 0 }) s.core s.seat.val 0x01 (t.pc.setWidth 64) 0 0) ∧
      (waits = true → retire sw len s = u.setThisSeat { t with status := .parked, pc := 0, rpt := 0, beyond := some t.pc })) ∧
    (∀ v a, t.status = .parked → t.outs = [] → t.beyond = v →
      (v = none → settle s s.core s.seat.val = s.updThisSeat fun t => { t with status := .running }) ∧
      (v = some a → settle s s.core s.seat.val = trapSeat s s.core s.seat.val 0x01 (a.setWidth 64) 0 0))

/-- Patterns, trap and event firings, spawns and resume entries bind their seat and start it. R111, R118, R120, R208, R235, R238, R239, R247, R328 and R378. That a context record which reads poison gives its firing the memory-error trap is the model's choice (log 85). -/
def Obligations.BindingEvents : Prop :=
  ∀ (s : State) (core n seat : Nat) (d0 d1 : Word) (e : Parcel) (q : Queued) (rest : List Queued) (sp : SpawnEntry) (r : Resume),
    let k := s.getCore core
    let runs (v : Seat) (pc : Parcel) (head args : List Word) : Prop := v.status = .running ∧ v.pc = pc ∧ v.rpt = 0 ∧ v.p = 0 ∧ v.outs = [] ∧
      ∀ i : BitVec 5, v.getX i = if i = 0 then 0 else if 1 ≤ i.toNat ∧ i.toNat ≤ 4 then head.getD (i.toNat - 1) 0
        else if 16 ≤ i.toNat ∧ i.toNat ≤ 23 then args.getD (i.toNat - 16) 0 else 0
    let starts (cls : BitVec 8) : Prop := handlerOf k cls = some e ∧ k.starts e.toNat = true
    let took := takeAll core (patClass d0) (patUses d1) s
    let words := took.2.1.flatMap (·.2)
    let area := payArea k seat
    let trapped := (trappedSeat s core q).status = .trapped
    let q' : Queued := if trapped then { q with regs := q.regs.set 2 ((trappedSeat s core q).trapCause.setWidth 64) } else q
    let other := fld (q.regs.getD 0 0) 15 8
    let tail := if fld (q.regs.getD 0 0) 7 0 = 0xFF ∧ other ≠ 0 then (s.getCore (coreAt (clusterOf core) other)).ovfTail else k.ovfTail
    let q30 : Queued := if q.code = 0x30 then { q with regs := q.regs.take 3 ++ [tail.setWidth 64] } else q
    (idle s core = false → k.stopped = false → isCore core = true → choosePattern k = some n → tget (0, 0) k.patterns n = (d0, d1) →
      seatFor k d0 = some seat → starts (patClass d0) → ∃ t : State, exec (.patternBinding core) s = .next t ∧
        runs (t.seatAt core seat) e [(patClass d0).setWidth 64, (took.2.1.head?.map (·.1)).getD 0, BitVec.ofNat 64 (2 ^ 56 + area + 512),
          portWord s core] (words.take 8) ∧
        (t.seatAt core seat).event = false ∧ (t.seatAt core seat).payWords = words.length ∧ (t.getCore core).rp.getD (patPrio d0) 31 = n ∧
        (t.getCore core).ports = (took.1.getCore core).ports ∧
        (t.getCore core).sp = ((engineDoubles (engineDoubles took.1 core area (took.2.1.map (·.1))) core (area + 512) words).getCore core).sp) ∧
    (∀ u ∈ patUses d1, ((patUses d1).map (·.1)).Nodup →
      (pKind (k.port u.1).entry = 1 → ((took.1.getCore core).port u.1).tokens = (k.port u.1).tokens.drop u.2) ∧
      (pKind (k.port u.1).entry ≠ 1 → ((took.1.getCore core).port u.1).held = (k.port u.1).held.drop u.2)) ∧
    (∀ port m, patUses d1 = [(port, m)] → pKind (k.port port).entry ≠ 1 → took.2.1 = ((k.port port).held.take m).map fun h =>
      ((heldWords k (k.port port).entry h).getD 0 0, (heldWords k (k.port port).entry h).drop 1)) ∧
    (k.traps = q :: rest → seat7Free s core = true → (trappedSeat s core q).outs = [] → starts q.cls →
      exec (.trapFiringBinding core) s = .next (startSupervisor (s.setCore core { k with traps := rest }) core q') ∧
      ∃ t : State, exec (.trapFiringBinding core) s = .next t ∧ (t.getCore core).traps = rest ∧
        runs (t.seatAt core 7) e [q.cls.setWidth 64, 0, 0, 0] q'.regs) ∧
    (k.events = q :: rest → k.traps = [] → seat7Free s core = true → starts q.cls →
      exec (.eventFiringBinding core) s = .next (startSupervisor (s.setCore core k.dropEvent) core q30) ∧
      ∃ t : State, exec (.eventFiringBinding core) s = .next t ∧ (t.getCore core).events = rest ++ k.notices.take 1 ∧
        (t.getCore core).notices = k.notices.drop 1 ∧ runs (t.seatAt core 7) e [q.cls.setWidth 64, 0, 0, 0] q30.regs) ∧
    (k.spawns.find? (·.seat = seat) = some sp → seat < 8 → (k.getSeat seat).status = .free → (k.getSeat seat).fenced = false →
      sp.count = none → idle s core = false → (seat = 7 → k.traps = [] ∧ ∀ v ∈ k.events, v.code ≠ 0x30) → k.starts sp.entry.toNat = true →
      ∃ t : State, exec (.spawnBinding core seat) s = .next t ∧ (t.getCore core).spawns = k.spawns.erase sp ∧
        runs (t.seatAt core seat) sp.entry
          [BitVec.ofNat 64 (0x10000 + sp.entry.toNat), rankOf s core ++ 0#32 ++ sp.caller, 0, portWord s core] sp.args) ∧
    (waitingResume k seat = some r → seat < 8 → (k.getSeat seat).status = .free → (k.getSeat seat).fenced = false → idle s core = false →
      k.stopped = false → reserved k seat = false → outranked k seat r.firing.prio = false →
      let pa := recordAt s core r.area r.slot
      (seat < 7 → (badGranules s pa 0x4500).any (· < 0x2500) = true → ∃ t : State, exec (.resumeEntryBinding core seat) s = .next t ∧
        let v := t.seatAt core seat
        v.status = .trapped ∧ v.trapCause = 0x60 ∧ v.trapVal = BitVec.ofNat 64 pa) ∧
      (badGranules s pa 0x4500 = [] → spoiledWrite s pa 8 = false →
      ∃ t : State, exec (.resumeEntryBinding core seat) s = .next t ∧ (t.getCore core).resumes = k.resumes.erase r ∧
        let v := t.seatAt core seat
        let c := ctxSeat s.hbm pa (k.getSeat seat)
        v.status = .running ∧ v.firing = some r.firing ∧ v.slice = k.sliceLen ∧ v.outs = [] ∧ v.pc = c.pc ∧ v.rpt = c.rpt ∧ v.x = c.x ∧
          v.p = c.p ∧ v.v = c.v ∧ v.k = c.k ∧ v.q2 = c.q2 ∧ v.q5read = c.q5read ∧ v.payWords = c.payWords ∧ v.items = c.items ∧
          (t.getCore core).sp = setDoubles k.sp area (readDoubles s.hbm (pa + 0x2500) 1024) ∧ (getDouble t.hbm pa).getLsbD 56 = false))

/-- Count reports and completion counts, slices, pre-emption and the spawn exchange have their effects. R107, R207, R244 to R247 and R405. That a count report is a count message of the negated count to the port of the launch is the model's choice (log 52), and so is the store error of firmware into a poisoned context slot (logs 84 and 85). -/
def Obligations.SchedulingEvents : Prop :=
  ∀ (s : State) (core seat pkt slot op : Nat) (v h : Word) (c : BitVec 32) (f : Firing) (l : Launch) (p : Packet) (o : Out) (d : BitVec 3)
    (operand : Word) (args : List Word) (ok : Bool) (n : Nat),
    let k := s.getCore core
    let t := k.getSeat seat
    let target := s.getCore p.dst
    let clear : Prop := target.ovfFull = false ∧ target.input = []
    let ran : Prop := t.status ≠ .free ∧ t.status ≠ .trapped
    let due := (lacksSeat k (seatClassOf k seat) || k.stopped) && (freeSlotOf k).isSome && preemptible t
    let report := mkHeader (bcRank l.basecamp) l.cport 0 1 false (rankOf s core)
    let asked : Prop := k.seatCtl.getLsbD 8 = true ∧ fld k.seatCtl 2 0 = seat
    let kept := recordAt s core k.stopped slot
    (dueReport s k = some (l, n) → k.fenced = false →
      exec (.countReport core) s = .next (newPacket (s.setCore core { k with ended := tdel k.ended l.id }) core (4096 + 2 * l.basecamp)
        (bcRank l.basecamp) 0 (.count report (BitVec.ofInt 32 (-(n : Int)))) none)) ∧
    (∀ id, k.ended = [(id, n)] → findLaunch s id = some l → (64 ≤ n ∨ k.noLive id = true) → dueReport s k = some (l, n)) ∧
    (duePacket s pkt = some p → p.body = .count h c → isBc p.dst = true → target.fenced = false →
      portHolder s ((p.dst - 4096) / 2) (hPort h) = some l →
      ∃ u : State, exec (.completionCountArrival pkt) s = .next u ∧
        let sum := l.counter + c.toInt
        let marked := l.status ||| 1
        let sets (g : Launch → Launch) : Prop := u.launches = s.launches.map fun q => if q.id = l.id then g q else q
        ((l.state = .complete ∨ l.state = .aborted) → sets fun q => { q with status := marked }) ∧
        (l.state ≠ .complete → l.state ≠ .aborted → 0 < sum → sets fun q => { q with counter := sum }) ∧
        (l.state ≠ .complete → l.state ≠ .aborted → sum ≤ 0 →
          sets fun q => { q with counter := sum, state := .complete, status := statusWord 3 0 l })) ∧
    (seat < 7 → idle s core = false → k.sliceLen ≠ 0 → ran →
      (due = true → exec (.sliceExpiry core seat) s = .next (s.updSeatAt core seat fun t => { t with preempt := true, slice := 0 })) ∧
      (due = false → exec (.sliceExpiry core seat) s = .next (s.updSeatAt core seat fun t => { t with slice := k.sliceLen }))) ∧
    (isCore core = true → k.seatCtl.getLsbD 8 = false →
      exec (.seatCtlWrite core v) s = .next (s.setCore core { k with seatCtl := BitVec.ofNat 64 (fld v 2 0 + if
        v.getLsbD 8 = true ∧ fld v 2 0 ≠ 7 ∧ (k.getSeat (fld v 2 0)).status ≠ .free ∧ (k.getSeat (fld v 2 0)).status ≠ .trapped then 256 else 0) })) ∧
    (t.firing = some f → freeSlotOf k = some slot → idle s core = false → ran → asked → t.preempt = false →
      exec (.preemption core seat) s = .next (s.updSeatAt core seat fun t => { t with preempt := true })) ∧
    (t.firing = some f → freeSlotOf k = some slot → idle s core = false → preemptible t = true → t.preempt = true → noPartial t = true →
      t.outs = [] → seat < 8 → ∃ u : State, exec (.preemption core seat) s = .next u ∧ (u.seatAt core seat).status = .free ∧
        (u.seatAt core seat).firing = none ∧ (u.getCore core).resumes = k.resumes ++ [⟨seat, slot, f, true, k.stopped⟩] ∧
        (asked → (u.getCore core).seatCtl.getLsbD 8 = false) ∧
        (spoiledWrite s kept 32 = false → (getDouble u.hbm kept).setWidth 16 = t.pc ∧ (getDouble u.hbm kept).getLsbD 56 = true)) ∧
    (duePacket s pkt = some p → clear → p.body = .spawnReq seat op operand args → isGridCore p.dst = true →
      (target.fenced = false → target.spawns.length < 4 → spawnSeat target (fld operand 18 16) = some n →
        ∃ u : State, exec (.spawnRequestArrival pkt) s = .next u ∧ (∃ q ∈ u.net, q.dst = p.src ∧ q.body = .spawnAns seat op true) ∧
          ∃ e : SpawnEntry, (u.getCore p.dst).spawns = target.spawns ++ [e] ∧ e.seat = n ∧ e.entry = operand.setWidth 16 ∧ e.args = args ∧
            e.caller = rankOf s p.src) ∧
      (target.fenced = true ∨ 4 ≤ target.spawns.length ∨ spawnSeat target (fld operand 18 16) = none →
        exec (.spawnRequestArrival pkt) s = .next (takePacket s p (.spawnAns seat op false)))) ∧
    (dueAnswer s pkt = some p → clear → p.body = .spawnAns seat op ok → seat < 8 → (s.seatAt p.dst seat).outs.find? (·.id = op) = some o →
      o.target = .pred d → ∃ u : State, exec (.spawnAnswer pkt) s = .next u ∧ (d ≠ 7 → (u.seatAt p.dst seat).getP d = ok) ∧
        ∀ q ∈ (u.seatAt p.dst seat).outs, q.id ≠ op)

/-- Loads, stores, atomics and peer accesses are performed at their point of order, and their acknowledgements follow. R150, R161, R180 to R182, R350, R364, R378 and R384. -/
def Obligations.MemoryEvents : Prop :=
  ∀ (s : State) (req i : Nat) (r : Req) (p : Piece) (op : AmoOp) (size : Nat) (b d : Word) (v : Rev) (c : CoreId) (n : Nat) (o : Out) (g : Packet),
    let load : Prop := r.op = .vload ∨ ∃ z g, r.op = .load z g
    let here : Prop := isPeer r p.dst = false ∧ servable s p.dst = true
    let sound : Prop := poisoned s p.dst p.len = false
    let u := takeCopy (arrived s r p) r i p
    let piece (t : State) (st : PieceState) : Prop := ∃ (q : Req) (e : Piece), findReq t req = some q ∧ q.pieces[i]? = some e ∧ e.st = st
    let loaded (t : State) : Prop := (∃ (q : Req) (e : Piece), findReq t req = some q ∧ q.pieces[i]? = some e ∧ e.st = .performed ∧
      e.data = BitVec.ofNat 64 (p.dst.read s p.len)) ∧ t.hbm = s.hbm ∧ t.co = s.co
    let old := BitVec.ofNat 64 (p.dst.read s p.len)
    let merged := ((old &&& ~~~p.mask) ||| (p.data &&& p.mask)).toNat % 2 ^ (8 * p.len)
    (findPiece s req i = some (r, p) → atOrder s r i p = true → heldByMigration s p = false →
      (load → here →
        exec (.loadAtHome req i) s = .next (sendAnswer (performLoad u r i p) req i) ∧
        (sound → ∃ t : State, exec (.loadAtHome req i) s = .next t ∧ loaded t) ∧
        (¬ sound → ∃ t : State, exec (.loadAtHome req i) s = .next t ∧ piece t .poisoned ∧ t.hbm = s.hbm)) ∧
      (r.op = .store → isPeer r p.dst = false → isEngineFill r p.dst = false →
        exec (.storeAtHome req i) s = .next (sendAnswer (performStore u r i p) req i) ∧
        (sound → p.len ≤ 8 → (∀ g a, p.dst ≠ .ws g a) → (∀ q, p.dst ≠ .walker q) →
          ∃ t : State, exec (.storeAtHome req i) s = .next t ∧ piece t .performed ∧ p.dst.read t p.len = merged) ∧
        (fencedPlace s p.dst = true → ∃ t : State, exec (.storeAtHome req i) s = .next t ∧ piece t .rejected ∧ t.hbm = s.hbm ∧ t.co = s.co)) ∧
      (r.op = .wb → exec (.storeAtHome req i) s = .next (sendAnswer (performWb u r i p) req i) ∧
        ∀ pa m, p.dst = .hbm pa m → ∃ t : State, exec (.storeAtHome req i) s = .next t ∧ t.dirty.contains (lineNo pa) = false ∧ t.hbm = s.hbm) ∧
      (load → isPeer r p.dst = true → refused s r p = false → sound →
        ∃ t : State, exec (.peerAccessArrival req i) s = .next t ∧ loaded t) ∧
      (r.op = .store → isPeer r p.dst = true → refused s r p = false → sound → p.len ≤ 8 →
        ∃ t : State, exec (.peerAccessArrival req i) s = .next t ∧ piece t .performed ∧ p.dst.read t p.len = merged) ∧
      (load ∨ r.op = .store → isPeer r p.dst = true → refused s r p = true →
        exec (.peerAccessArrival req i) s = .next (updPiece s req i fun p => { p with st := .refused })) ∧
      (i = 0 → r.op = .amo op size b d →
        exec (.atomicAtHome req) s = .next (sendAnswer (performAmo u r 0 p op size b d) req 0) ∧
        (sound → size = p.len → size ≤ 8 → p.mask = lowMask (8 * size) → (∀ g a, p.dst ≠ .ws g a) → (∀ q, p.dst ≠ .walker q) →
          ∃ t : State, exec (.atomicAtHome req) s = .next t ∧
            (∃ (q : Req) (e : Piece), findReq t req = some q ∧ q.pieces[0]? = some e ∧ e.st = .performed ∧ e.data = old) ∧
            p.dst.read t size = amoValue op (8 * size) (p.dst.read s size) b.toNat d.toNat % 2 ^ (8 * size)))) ∧
    (s.revs.find? (·.id = req) = some v →
      (s.net.find? (fun k => k.came && k.body = .revoke req) = some g → exec (.revocation req) s = .next (addPacket
        { (dropPacket s g.id).updCore v.core (fun k => invalidateWord k v.word) with
          revs := s.revs.map fun w => if w.id = req then { w with seen := true } else w }
        { id := 0, src := g.dst, dst := g.src, rank := 0, tc := 5, body := .revokeAck req, m := g.m, via := g.inj })) ∧
      (s.net.find? (fun k => k.came && k.body = .revokeAck req) = some g →
        let w := { dropPacket s g.id with revs := s.revs.filter (·.id != req) }
        (findReq s v.req = none → exec (.revocationAck req) s = .next w) ∧
        (findReq s v.req = some r → exec (.revocationAck req) s = .next
          (if r.op = .store ∧ pieceRevs w v.req v.piece = false then sendAnswer w v.req v.piece else w)))) ∧
    (findReq s req = some r → settled r = true → awaitsRevs s req = false →
      (r.agent = .seat → reqError r = none → findOut s req = none → exec (.storeAck req) s = .next { s with reqs := s.reqs.filter (·.id != req) }) ∧
      (r.agent = .seat → reqError r = none → findOut s req = some (c, n, o) → r.op = .store →
        exec (.storeAck req) s = .next (answer { s with reqs := s.reqs.filter (·.id != req) } c n req (.value 0))) ∧
      (r.agent ≠ .seat → r.op = .store → exec (.storeAck req) s = .next (engineAck s r)))

/-- Synchronising accesses, walks, refresh windows, page migration, L2 reconfiguration and storage errors have their effects. R142, R144, R146, R147, R163, R169, R170, R179, R341, R363, R366, R378 and R379. The model's choices: a reserved value keeps its field of L2_CFG (log 49), walks as requests and their answers (log 93), and an uncorrectable error of the arrays of a basecamp core, for which no rule names a unit, stops that core (log 58). -/
def Obligations.SyncAndTranslationEvents : Prop :=
  ∀ (s : State) (req i c off n part entry level newPa page : Nat) (r : Req) (p : Piece) (va cfg pmap root : Word) (e : Tlb) (m : Migration),
    let k := s.getCore c
    let word := off / 4
    let value := BitVec.ofNat 64 (getBytes k.sp (4 * word) 4)
    let done (t : State) (st : PieceState) : Prop := ∃ (q : Req) (e : Piece), findReq t req = some q ∧ q.pieces[i]? = some e ∧ e.st = st ∧
      (st = .performed → r.op = .ldf ∨ r.op = .ldt → e.data = value)
    let moves : List Migration := r.pieces.filterMap fun p => match p.st, p.dst with
      | .held, .hbm pa _ => (migrationAt s pa).filter (·.moved)
      | _, _ => none
    let dropped := dropTlb s r.core fun e => moves.any fun m => decide (m.oldPa ≤ e.pa) && decide (e.pa < m.oldPa + m.size)
    let rewritten := (getDouble s.hbm entry &&& ~~~0xFFFFFFFF00#64) ||| BitVec.ofNat 64 m.newPa
    (findPiece s req i = some (r, p) → atOrder s r i p = true → p.dst = .sp c off → refused s r p = false → k.spPoison.contains word = false →
      (∀ w ∈ k.waiters, w.1 ≠ word) →
      (i = 0 → r.op = .ldf → isFull k word = true → ∃ t : State, exec (.syncAccessArrival req i) s = .next t ∧ done t .performed ∧
        (t.getCore c).full = k.full) ∧
      (i = 0 → r.op = .ldt → isFull k word = true → ∃ t : State, exec (.syncAccessArrival req i) s = .next t ∧ done t .performed ∧
        (t.getCore c).full = sdel k.full word) ∧
      (i = 0 → (r.op = .ste ∧ isFull k word = false ∨ r.op = .stf) → ∃ t : State, exec (.syncAccessArrival req i) s = .next t ∧ done t .performed ∧
        (t.getCore c).full = sins k.full word ∧ getBytes (t.getCore c).sp (4 * word) 4 = p.data.toNat % 2 ^ 32) ∧
      (i = 0 → (r.op = .ldf ∨ r.op = .ldt) ∧ isFull k word = false ∨ i = 0 ∧ r.op = .ste ∧ isFull k word = true →
        ∃ t : State, exec (.syncAccessArrival req i) s = .next t ∧ done t .held ∧ (t.getCore c).waiters = k.waiters ++ [(word, req)]) ∧
      ((r.pieces.take i).all (·.st != .waiting) = true → r.op = .feFill → ∃ t : State, exec (.syncAccessArrival req i) s = .next t ∧
        done t .performed ∧ (t.getCore c).full = sins k.full word) ∧
      ((r.pieces.take i).all (·.st != .waiting) = true → r.op = .feClr → ∃ t : State, exec (.syncAccessArrival req i) s = .next t ∧
        done t .performed ∧ (t.getCore c).full = sdel k.full word) ∧
      (isEngineFill r p.dst = true → off % 4 = 0 → p.len = 4 → ∃ t : State, exec (.syncAccessArrival req i) s = .next t ∧
        done t .performed ∧ (t.getCore c).full = sins k.full word ∧
        getBytes (t.getCore c).sp off 4 = ((value &&& ~~~p.mask) ||| (p.data &&& p.mask)).toNat % 2 ^ 32)) ∧
    (findReq s req = some r → r.op = .walk root → r.pieces = [p] → p.dst = .walker page →
      let slot := walkerSlot page
      let walked := exec (.translationWalk ⟨req, c⟩ va) s
      (settled r = true → ∃ t : State, walked = .next t ∧ t.hbm = s.hbm ∧ findReq t req = none ∧
        (∀ a ∈ s.asks, a.walk = req → { a with ans := walkAnswer root p } ∈ t.asks) ∧
        (∀ a core seat, a ∈ s.asks → a.walk = req → a.unit = .seat core seat → walkAnswer root p = .leaf e → e ∈ (t.getCore core).tlb)) ∧
      (p.st = .waiting → walksAt s slot < 32 → nextWalk s slot = some req →
        walked = .next (updPiece (takeCopy (arrived s r p) r 0 p) req 0 fun p => { p with st := .held })) ∧
      (p.st = .waiting → (32 ≤ walksAt s slot ∨ nextWalk s slot ≠ some req) → walked = .next s) ∧
      (p.st = .held → fencedPlace s p.dst = true →
        walked = .next (sendAnswer (updPiece s req 0 fun p => { p with st := .poisoned, data := 0 }) req 0)) ∧
      (p.st = .held → fencedPlace s p.dst = false →
        (walk s root (page * 65536) (isLost s (slotSite slot)) = .leaf e →
          walked = .next (sendAnswer (updPiece s req 0 fun p => { p with st := .performed, data := packLeaf e }) req 0)) ∧
        (walk s root (page * 65536) (isLost s (slotSite slot)) = .fault 0x60 →
          walked = .next (sendAnswer (updPiece s req 0 fun p => { p with st := .poisoned, data := 0 }) req 0)) ∧
        (walk s root (page * 65536) (isLost s (slotSite slot)) = .fault 0x12 →
          walked = .next (sendAnswer (updPiece s req 0 fun p => { p with st := .performed, data := 0 }) req 0)))) ∧
    (findReq s req = none → isCore c = true → ∃ t : State, exec (.translationWalk ⟨req, c⟩ va) s = .next t ∧ t.hbm = s.hbm ∧
      ∀ e ∈ (t.getCore c).tlb, e.covers (rootAsid k.ttRoot) (fld va 47 0) = false) ∧
    (isCluster n = true →
      exec (.wsRefreshOpen n) s = .next (s.updCluster n fun g => { g with wsOpen := true }) ∧
      ((s.getCluster n).wsOpen = true →
        exec (.wsRefreshClose n) s = .next (s.updCluster n fun g => { g with wsOpen := false, bank := g.bank + 1 }))) ∧
    (s.migrations.find? (·.entry = entry) = none → canMigrate s entry level newPa = true →
      exec (.pageMigration entry level newPa 1) s = .next { s with migrations := s.migrations ++
        [⟨entry, fld (getDouble s.hbm entry) 39 8 * 256, newPa, pageSize level, false⟩] }) ∧
    (s.migrations.find? (·.entry = entry) = some m →
      (m.moved = false → ∃ t : State, exec (.pageMigration entry level newPa 2) s = .next t ∧ getDouble t.hbm entry = rewritten ∧
        (s.hbm.wf = true →
          (∀ a, a < m.size → (m.newPa + a < entry ∨ entry + 8 ≤ m.newPa + a) → getByte t.hbm (m.newPa + a) = getByte s.hbm (m.oldPa + a)) ∧
          (∀ a, (a < m.newPa ∨ m.newPa + m.size ≤ a) → (a < entry ∨ entry + 8 ≤ a) → getByte t.hbm a = getByte s.hbm a)) ∧
        (m.oldPa % 32 = 0 → m.newPa % 32 = 0 → s.stacksBad.contains (nbits m.oldPa 36 4) = false → ∀ a, a < m.size → a % 32 = 0 →
          (t.hbmPoison.contains ((m.newPa + a) / 32) = s.hbmPoison.contains ((m.oldPa + a) / 32)))) ∧
      exec (.pageMigration entry level newPa 3) s = .next { s with
        clusters := if m.moved then s.clusters else s.clusters.map fun (c, g) => (c, moveHeaders m g)
        migrations := s.migrations.map fun m => if m.entry = entry then { m with moved := true } else m } ∧
      (m.moved = true → (s.reqs.any fun r => isWalk r.op) = true → exec (.pageMigration entry level newPa 4) s = .next s) ∧
      (m.moved = true → (s.reqs.any fun r => isWalk r.op) = false → (s.reqs.any fun r => r.pieces.any (onPage m.oldPa m.size)) = false →
        ∃ t : State, exec (.pageMigration entry level newPa 4) s = .next t ∧ t.migrations = s.migrations.filter (·.entry != entry) ∧
          ∀ e ∈ (t.getCore c).tlb, e.pa < m.oldPa ∨ m.oldPa + m.size ≤ e.pa)) ∧
    (findReq s req = some r → moves ≠ [] →
      exec (.movedReply req) s = .next ((s.reqs.filter fun q => q.who = r.who).foldl (fun s q => reissueReq s q) dropped) ∧
      (∀ q : Req, movedPiece dropped p = true → unitLeaf dropped q p.va = .hit e → permFault q.op.need e = none →
        reissue dropped q p = { p with dst := e.place dropped (fld p.va 47 0), st := .waiting, mig := true })) ∧
    (launchLive s = false → exec (.l2Reconfiguration cfg pmap) s = .next { s with
      l2cfg := l2cfgOf s.l2cfg cfg, l2pmap := pmap, l2co := 0, co := [], coPoison := [], owners := [], dirty := [],
      cores := s.cores.map fun (c, k) => (c, { k with l1 := [] }) }) ∧
    (off < 2 ^ 40 → exec (.uncorrectableError .hbm off) s = .next { s with hbmPoison := sins s.hbmPoison (off / 32) }) ∧
    (off < coSize s part → s.coPoison.contains (part, off / 32) = false →
      exec (.uncorrectableError (.carveOut part) off) s = .next { s with coPoison := s.coPoison ++ [(part, off / 32)] }) ∧
    (isCore c = true → off < 2 ^ 20 → exec (.uncorrectableError (.scratchpad c) off) s =
      .next (setFull (s.updCore c fun k => { k with spPoison := sins k.spPoison word }) c word true)) ∧
    (isCluster n = true → off < 0x3000000 → exec (.uncorrectableError (.weightStore n) off) s =
      .next (s.updCluster n fun g => { g with wsPoison := sins g.wsPoison (off / 32) })) ∧
    (isCore c = true → exec (.uncorrectableError (.l1 c) off) s =
      .next (s.updCore c fun k => updLine k (off / 128) fun l => { l with words := tdel l.words (off % 128 / 4) })) ∧
    exec (.uncorrectableError (.arrays c) off) s = .next (if isBc c then coreDown s c else fenceUnit s 1 c)

/-- Results return to their registers, pending operations complete, returned errors reach their seat, and timers reissue. R94, R114, R138, R151, R210, R220, R267, R363, R365, R374 and R377. A value that a read of the machine leaves open is one of any. The model's choices: effects stand at the completion event (log 29), an atomic's memory error is taken with nothing later issued (log 41), the error of a set-aside firing is kept (log 42), a request without replies gives 0x33 or 0x34 (log 63). -/
def Obligations.ResultsAndTimeouts : Prop :=
  ∀ (s : State) (op c n i q j : Nat) (o : Out) (r : Req) (p : Piece) (rest : List Piece) (d : BitVec 5) (v : BitVec 4) (cause : BitVec 8) (val : Word)
    (e : SeatErr) (w : Sent),
    let t := s.seatAt c n
    let wrote := s.updSeatAt c n fun t => writePart t o.target r q
    let late : Bool := (match r.op with | .amo .. => awaitsRevs s r.id | _ => false)
    let gone := if late then wrote else dropReq wrote r.id
    let fin (u : State) : State := lower (if o.acq then acquireInv u c else u) c n op
    let covers (p : Piece) (bit : Nat) (j : Nat) : Prop := j < 64 ∧ (bit : Int) = p.bit + j ∧ p.mask.getLsbD j = true
    let toX (f : Seat → Word) (u : State) : State := u.updSeatAt c n fun t => match o.target with
      | .x d => t.setX d (f t)
      | _ => t
    let amo : Prop := ∃ k z b d, r.op = .amo k z b d
    let unreached (ro : Nat) : Prop := routerDead s ro = true ∨ (isLost s (siteOf ro) = true ∧ isLost s (chipOf c) = false)
    let cleared := dropRcmd (fillUnread (dropReq s op) op none) op
    let rpt := ((t.outs.find? (·.id = op)).map (·.rpt)).getD 0
    (findOut s op = some (c, n, o) → findReq s op = some r → r.op ≠ .store → settled r = true → reqError r = none → o.left.contains q = true →
      (o.left ≠ [q] → exec (.resultReturn op q) s = .next (updOut wrote c n op fun o => { o with left := o.left.erase q })) ∧
      (o.left = [q] → o.what = .plain → exec (.resultReturn op q) s = .next (fin gone)) ∧
      (o.left = [q] → o.what = .send → exec (.resultReturn op q) s =
        .next (lower (fillUnread (if o.acq then acquireInv gone c else gone) op (some (readWords r (r.pieces.length / 2)))) c n op))) ∧
    (∀ size signed, r.op = .load size signed → r.pieces = p :: rest → d ≠ 0 → (writePart t (.x d) r q).getX d =
      if signed then BitVec.ofInt 64 (sxt (8 * size) p.data.toNat) else BitVec.ofNat 64 (p.data.toNat % 2 ^ (8 * size))) ∧
    (∀ a size b c, r.op = .amo a size b c → r.pieces = p :: rest → d ≠ 0 → (writePart t (.x d) r q).getX d =
      if size = 4 then BitVec.signExtend 64 (p.data.setWidth 32) else p.data) ∧
    ((r.op = .ldf ∨ r.op = .ldt) → r.pieces = p :: rest → d ≠ 0 → (writePart t (.x d) r q).getX d = BitVec.signExtend 64 (p.data.setWidth 32)) ∧
    (i < 4096 →
      ((i / 1024 ≠ q ∨ ∀ p ∈ r.pieces, ∀ j, ¬ covers p i j) →
        ((writePart t (.v v) r q).getV v).data.getLsbD i = (t.getV v).data.getLsbD i) ∧
      (i / 1024 = q → p ∈ r.pieces → covers p i j → (∀ p' ∈ r.pieces, ∀ j, covers p' i j → p' = p) →
        ((writePart t (.v v) r q).getV v).data.getLsbD i = p.data.getLsbD j)) ∧
    (i < 256 →
      ((i / 64 ≠ q ∨ ∀ p ∈ r.pieces, ∀ j, ¬ covers p i j) →
        ((writePart t (.sidecar v) r q).getV v).sc.getLsbD i = (t.getV v).sc.getLsbD i) ∧
      (i / 64 = q → p ∈ r.pieces → covers p i j → (∀ p' ∈ r.pieces, ∀ j, covers p' i j → p' = p) →
        ((writePart t (.sidecar v) r q).getV v).sc.getLsbD i = p.data.getLsbD j)) ∧
    (findOut s op = some (c, n, o) → findReq s op = none → o.ans = .value val →
      (o.what = .plain → exec (.resultReturn op i) s = .next (fin s)) ∧
      (∀ cn st, o.what = .pwr cn st → exec (.resultReturn op i) s = .next (fin s)) ∧
      (∀ port e, o.what = .portWr port e → exec (.resultReturn op i) s =
        .next (if (applyPortWr s c port e).2 then lower (applyPortWr s c port e).1 c n op else (applyPortWr s c port e).1)) ∧
      (∀ m d0 d1, o.what = .patWr m d0 d1 → exec (.resultReturn op i) s = .next (fin (s.updCore c fun k => { k with patterns := tset k.patterns m (d0, d1) }))) ∧
      (∀ a x, o.what = .rankWr a x → eTransit (rankEntry s (BitVec.ofNat 16 a)) = false → exec (.resultReturn op i) s =
        .next (fin { s with ranks := if eValid x then tset s.ranks a x else tdel s.ranks a })) ∧
      (∀ a x, o.what = .rankWr a x → exec (.resultReturn op i) s = .next (fin (finishRankWr s a x))) ∧
      (∀ a, o.what = .rankHold a → exec (.resultReturn op i) s = .next (if underWay s a then s else fin s)) ∧
      (∀ a x, o.what = .rankRel a x → exec (.resultReturn op i) s = .next (fin (releaseHeld (writeRank s a x) (BitVec.ofNat 16 a)))) ∧
      (∀ g x, o.what = .tree g x → exec (.resultReturn op i) s =
        .next (fin (s.updCore c fun k => { k with trees := if x.getLsbD 63 then tset k.trees g x else tdel k.trees g }))) ∧
      (∀ tb, o.what = .codec tb → exec (.resultReturn op i) s = .next (fin { s with codec := tb })) ∧
      (o.what = .l1Inv → exec (.resultReturn op i) s =
        .next (fin (s.updCore c fun k => { k with l1 := k.l1.map fun l => { l with words := l.words.filter (·.2.owned) } }))) ∧
      (∀ a b, o.what = .l2Ways a b → exec (.resultReturn op i) s = .next (if b < coWays s a ∧ carveOpen s a = true then s else fin (setWays s a b))) ∧
      (∀ x, o.what = .tcInv x →
        (walkBefore s c o.id = true → exec (.resultReturn op i) s = .next s) ∧
        (walkBefore s c o.id = false → exec (.resultReturn op i) s = .next (fin (dropAnswers
          (dropTlb s c fun e => e.asid == x.setWidth 16 && (x.getLsbD 63 || e.covers (x.setWidth 16) (fld x 47 16 * 65536))) (walkGroup c)
          fun a => (a.ans matches .fault _) && rootAsid a.root == x.setWidth 16 && (x.getLsbD 63 || a.page == fld x 47 16))))) ∧
      (∀ cn, o.what = .bust cn → exec (.resultReturn op i) s = .next (fin (toX (fun _ => bustSeen s c cn) s))) ∧
      (∀ tb ix ro x, o.what = .rtab tb ix ro x → unreached ro →
        exec (.resultReturn op i) s = .next (answer s c n op (.error 0x42 (reasonVal 7 0 ro)))) ∧
      (∀ tb ix ro, o.what = .rtab tb ix ro none → ¬ unreached ro → exec (.resultReturn op i) s =
        .next (fin (toX (fun _ => if tb = 0 then (netSelOf s ro ix).setWidth 64 else (escapeOf s ro ix).setWidth 64) s))) ∧
      (∀ tb ix ro x, o.what = .rtab tb ix ro (some x) → ¬ unreached ro → exec (.resultReturn op i) s =
        .next (fin (if tb = 0 then { s with netSel := pset s.netSel (ro, ix) (x.setWidth 2) } else { s with escape := pset s.escape (ro, ix) (x.setWidth 4) }))) ∧
      (∀ on pages, o.what = .seal on pages → exec (.resultReturn op i) s = .next (if on = true ∧ writesOpen s pages = true then s else fin s)) ∧
      (∀ ids, o.what = .shWait ids → exec (.resultReturn op i) s =
        .next (if (s.getCore c).shell.cmds.any (fun q => ids.contains q.id) then s else fin s)) ∧
      (∀ k m a, o.what = .bow k m a → exec (.resultReturn op i) s = .next s) ∧
      (∀ ws a, o.what = .sums ws a → exec (.resultReturn op i) s = .next
        (postShell (updOut s c n op fun o => { o with what := .plain, ans := .waiting }) c op .store
          (drainPieces s (.op c op) (BitVec.ofNat 64 (2 ^ 56 + a)) (wordsBytes ws)))) ∧
      (∀ cl ch, o.what = .haulWp cl ch → exec (.resultReturn op i) s = .next (fin (toX (fun _ => (s.chan cl ch).wp) s))) ∧
      (∀ a, o.what = .rfence a → exec (.resultReturn op i) s = .next
        (fin (s.updCluster (clusterOf c) fun g => { g with
          records := if a = 0 then [] else g.records.filter (·.1.1 != a)
          chans := g.chans.map fun h => { h with pkt := h.pkt.map fun p =>
            if p.kind = 1 ∧ (a = 0 ∨ p.word 1 = a) then { p with stale := true } else p } }))) ∧
      (∀ x ws k size,
        let slot := x + BitVec.ofNat 64 (128 + 64 * (k % size))
        let last := (ws.getD 0 0 &&& ~~~0x80#64) ||| BitVec.ofNat 64 ((k / size + 1) % 2 * 128)
        ∀ g ∈ [(PostStage.config, ReqOp.load 8 false, Need.read, x + 0x10, 8, x + 0x10, [0#64]), (.claim size, .amo .add 8 1 0, .both, x, 8, x, [0]),
            (.room k size, .load 8 false, .read, x + 8, 8, x + 8, [0]), (.body k size, .store, .write, slot, 64, slot + 8, ws.drop 1),
            (.publish k size, .store, .write, slot, 64, slot, [last])], o.what = .haulPost x ws g.1 none →
          let va (j : Nat) : Word := g.2.2.2.2.2.1 + BitVec.ofNat 64 (8 * j)
          (checkBytes s (.op c op) g.2.2.1 (byteAddrs g.2.2.2.1 g.2.2.2.2.1) = none → exec (.resultReturn op i) s = .next (atStage
            (postReq (s.bump.forget (.op c op))
              { id := s.fresh, core := c, seat := n, firing := 0, pc := 0, op := g.2.1, agent := .post op,
                pieces := g.2.2.2.2.2.2.zipIdx.map (fun (w, j) => mkPiece (va j) (placeOf s (.op c op) (va j)) 8 (lowMask 64) w 0) }) c n op x ws g.1 (some s.fresh))) ∧
          (∀ cause v, checkBytes s (.op c op) g.2.2.1 (byteAddrs g.2.2.2.1 g.2.2.2.2.1) = some (cause, v) → exec (.resultReturn op i) s = .next
            (if cause = walkCause then askWalk s (.op c op) (s.getCore c).ttRoot (fld v 47 0)
              else answer (s.forget (.op c op)) c n op (.error cause v)))) ∧
      (∀ x ws st k, o.what = .haulPost x ws st (some k) → findReq s k = some r → settled r = true → awaitsRevs s k = false →
        (∀ cause v, reqError r = some (cause, v) → exec (.resultReturn op i) s = .next (answer (dropReq s k) c n op (.error cause v))) ∧
        (reqError r = none → r.pieces = p :: rest →
          let u := dropReq s k
          let at' (st : PostStage) := exec (.resultReturn op i) s = .next (atStage u c n op x ws st none)
          let msa : Prop := (r.pieces.all fun p => p.dst matches .hbm _ true) = true
          let open' : Prop := p.data.getLsbD 63 = true ∧ p.data.getLsbD 62 = false
          (st = .config → msa → open' → at' (.claim (queueSize p.data))) ∧
          (st = .config → ¬ (msa ∧ open') → ∃ y : BitVec 56, exec (.resultReturn op i) s = .next (answer u c n op (.error 0x41 (3#8 ++ y))).ticked) ∧
          (∀ size, st = .claim size → at' (.room p.data.toNat size)) ∧
          (∀ m size, st = .room m size → at' (if 0 < (p.data + BitVec.ofNat 64 size - BitVec.ofNat 64 m).toInt then .body m size else st)) ∧
          (∀ m size, st = .body m size → at' (.publish m size)) ∧
          (∀ m size, st = .publish m size → exec (.resultReturn op i) s = .next (lower u c n op))))) ∧
    (findReq s op = some r → r.agent = .seat → r.core = c → r.seat = n → settled r = true → reqError r = some (cause, val) →
      (findOut s op).isSome = true →
      (¬ (amo ∧ cause = 0x60) → exec (.returnedErrorArrival c n op) s = .next (takeError cleared c n op r.firing r.pc cause val)) ∧
      (amo → cause = 0x60 → exec (.returnedErrorArrival c n op) s = .next
        (trapSeat ((dropOut cleared c n op).updSeatAt c n fun t => { t with rpt := rpt }) c n cause val r.pc r.pc)) ∧
      (n < 7 → t.firing.map (·.id) = some r.firing → t.status ≠ .trapped →
        ∃ t' : State, exec (.returnedErrorArrival c n op) s = .next t' ∧ (t'.seatAt c n).status = .trapped ∧
          (t'.seatAt c n).trapCause = cause.setWidth 9 ∧ (t'.seatAt c n).trapVal = val ∧ (t'.seatAt c n).trapPc = r.pc ∧
          (¬ (amo ∧ cause = 0x60) → (t'.seatAt c n).rpc = t.pc) ∧ (amo ∧ cause = 0x60 → (t'.seatAt c n).rpc = r.pc) ∧
          ∀ q ∈ (t'.seatAt c n).outs, q.id ≠ op)) ∧
    (t.firing.map (·.id) ≠ some r.firing →
      (setAside s c r.firing = false → lateError s c n r.firing r.pc cause val = queueEvent s c 0x35 0 [val, cause.setWidth 64]) ∧
      (setAside s c r.firing = true → lateError s c n r.firing r.pc cause val =
        (s.updCore c fun k => { k with errs := k.errs ++ [⟨s.fresh, n, r.firing, r.pc, cause, val⟩] }).bump)) ∧
    (findReq s op = none →
      (t.outs.find? (·.id = op) = some o → o.ans = .error cause val →
        exec (.returnedErrorArrival c n op) s = .next (takeError s c n op t.firingId o.pc cause val)) ∧
      (t.outs.find? (·.id = op) = none → (s.getCore c).errs.find? (fun e => e.id = op && e.seat = n) = some e → setAside s c e.firing = false →
        exec (.returnedErrorArrival c n op) s = .next
          (lateError (s.updCore c fun k => { k with errs := k.errs.filter (·.id != op) }) c n e.firing e.pc e.cause e.val))) ∧
    (findPiece s op i = some (r, p) →
      (canTimeOut s r i p = false → exec (.requestTimeout ⟨op, i⟩) s = .next s) ∧
      (canTimeOut s r i p = true → p.tries < retries s → exec (.requestTimeout ⟨op, i⟩) s = .next
        (sendPiece (updPiece s op i fun p => { p with tries := p.tries + 1 }) r i p)) ∧
      (canTimeOut s r i p = true → retries s ≤ p.tries → ∃ (t : State) (r' : Req) (p' : Piece), exec (.requestTimeout ⟨op, i⟩) s = .next t ∧
        findReq t op = some r' ∧ r'.pieces[i]? = some p' ∧ p'.st = .failed ∧ p'.back = true)) ∧
    (findPiece s op i = none → findSent s op = some w → w.gone = true →
      (s.net.any fun k => k.route.isNone && k.orig = w.pkt.orig && k.src = w.pkt.src) = false →
      (w.tries < retries s → exec (.requestTimeout ⟨op, i⟩) s = .next
        (addPacket (updSent s w.pkt.orig fun e => { e with tries := e.tries + 1 }) { w.pkt with route := none })) ∧
      (∀ cl ch a d m, retries s ≤ w.tries → w.pkt.body = .farMem cl ch a d m → exec (.requestTimeout ⟨op, i⟩) s = .next
        ((dropSent s w.pkt.orig).updChan cl ch fun c => { c with pkt := c.pkt.map fun p => { p with err := p.err.or (some (8, a, p.mark 0)) } })) ∧
      (retries s ≤ w.tries → forRank w.pkt.body = true → exec (.requestTimeout ⟨op, i⟩) s = .next
        (undeliverable (dropSent s w.pkt.orig) (if (s.getCore w.pkt.dst).fenced then 0x33 else 0x34) w.pkt.src w.pkt.rank w.pkt.body)))

/-- Messages and counts reach their ports, the overflow ring head moves, and dead ranks give notices. R206, R229 to R231, R233, R353 and R364. Which acquire a held entry needs, a receive buffer's or that of a basecamp's message, is the model's choice (log 35). -/
def Obligations.MessageEvents : Prop :=
  ∀ (s : State) (pkt core : Nat) (p : Packet) (h v : Word) (w : List Word) (n : BitVec 32) (e : Sent),
    let k := s.getCore p.dst
    let q := k.port (hPort h)
    let c := s.getCore core
    let taken (t : State) : Prop := ∃ a : Packet, t.net = s.net.filter (·.id != pkt) ++ [a] ∧ a.dst = p.src ∧ a.body = .ack ∧ a.orig = p.orig
    (duePacket s pkt = some p → isGridCore p.dst = true → p.mc = none → k.fenced = false → k.ovfFull = false → k.input.contains pkt = false →
      pEn q.entry = true →
      (p.body = .msg h w → pKind q.entry = 0 → w.length ≤ pSlot q.entry + 1 → q.held.length < pSize q.entry + 1 →
        ∃ t : State, exec (.messageArrival pkt) s = .next t ∧ taken t ∧
          let u := (t.getCore p.dst).port (hPort h)
          u.held = q.held ++ [⟨q.next, w.length, hRb h || isBc p.src⟩] ∧ u.next = (q.next + 1) % (pSize q.entry + 1) ∧ u.entry = q.entry ∧
          (t.getCore p.dst).sp = setDoubles k.sp (slotOff q.entry q.next) (h :: w)) ∧
      (p.body = .count h n → pKind q.entry = 1 → ¬ (q.count + n = 0 ∧ n ≠ 0 ∧ q.tokens.length = 255) →
        ∃ t : State, exec (.messageArrival pkt) s = .next t ∧ taken t ∧
          let u := (t.getCore p.dst).port (hPort h)
          u.count = q.count + n ∧ u.tokens.length = q.tokens.length + if q.count + n = 0 ∧ n ≠ 0 then 1 else 0) ∧
      (p.body = .msg h w → pKind q.entry = 0 → w.length ≤ pSlot q.entry + 1 → q.held.length = pSize q.entry + 1 →
        8 * (w.length + 2) ≤ ringFree (ringBytes (fld k.ovfCfg 23 20)) k.ovfHead k.ovfTail →
        ∃ t : State, exec (.messageArrival pkt) s = .next t ∧ taken t ∧
          (t.getCore p.dst).ovfTail = k.ovfTail + BitVec.ofNat 32 (8 * (w.length + 2)) ∧
          ((t.getCore p.dst).port (hPort h)).ovf = true ∧ ((t.getCore p.dst).port (hPort h)).held = q.held)) ∧
    (isCore core = true → c.ovfFull = false →
      ((v.setWidth 32 - c.ovfHead).toNat ≤ (c.ovfTail - c.ovfHead).toNat →
        exec (.ovfHdWrite core v) s = .next (s.setCore core { c with ovfHead := v.setWidth 32 })) ∧
      ((c.ovfTail - c.ovfHead).toNat < (v.setWidth 32 - c.ovfHead).toNat → exec (.ovfHdWrite core v) s = .next s)) ∧
    (e.reply = none → e.pkt.body = .msg h w → isCore e.pkt.src = true →
      (s.net.find? (·.id = pkt) = some p → k.fenced = true → p.orig ≠ 0 → forRank p.body = true → findSent s p.orig = some e →
        exec (.deadRankNotice pkt) s = .next (queueEvent (dropSent (dropPacket s pkt) p.orig) e.pkt.src 0x33 0 [e.pkt.rank.setWidth 64, h])) ∧
      (s.net.find? (·.id = pkt) = none → findSent s pkt = some e → e.away = true →
        exec (.deadRankNotice pkt) s = .next (queueEvent (dropSent s pkt) e.pkt.src 0x33 0 [e.pkt.rank.setWidth 64, h])))

/-- Barrier arrivals complete episodes, and combines add, forward, deliver and shrink as the tree says. R153, R314 to R316, R320 and R352. That an arrival climbs by `sendArrival` to the core that `isTop` names is the model's choice (log 33). -/
def Obligations.GroupAndCombineEvents : Prop :=
  ∀ (s : State) (pkt gid ep n id : Nat) (p : Packet) (g : Group) (mem c d' : CoreId) (q : Contribution) (e d : Word) (data : BitVec 4096)
    (slot : CombineSlot) (key : BitVec 32),
    let k := s.getCore p.dst
    let clear : Prop := k.ovfFull = false ∧ k.input = []
    let kc := s.getCore c
    let own := leftOf kc (dGroup q.desc)
    let reached := max ep (tget 0 g.arrived mem)
    (duePacket s pkt = some p → clear → p.body = .gbarArrive gid ep mem → k.fenced = false → findGroup s gid = some g →
      (isTop s g p.dst = false → exec (.gbarArrival pkt) s = .next (sendArrival (takePacket s p) g p.dst ep mem)) ∧
      (isTop s g p.dst = true → ep = g.done + 1 → (∀ m ∈ g.active, m.2 ≠ mem → g.done < tget 0 g.arrived m.2) →
        ∃ t : State, exec (.gbarArrival pkt) s = .next t ∧
        (∃ g' : Group, findGroup t gid = some g' ∧ g.done < g'.done ∧ tget 0 g'.arrived mem = reached) ∧
        ∃ r ∈ t.net, r.body = .gbarDone gid ep ∧ r.src = r.dst ∧ (isTop s g r.dst = true ∨ r.dst = g.root)) ∧
      (isTop s g p.dst = true → ep = g.done + 1 → (∃ m ∈ g.active, m.2 ≠ mem ∧ tget 0 g.arrived m.2 ≤ g.done) →
        ∃ t : State, exec (.gbarArrival pkt) s = .next t ∧
        ∃ g' : Group, findGroup t gid = some g' ∧ g'.done = g.done ∧ tget 0 g'.arrived mem = reached)) ∧
    (duePacket s pkt = some p → clear → p.body = .gbarDone gid ep →
      ((List.range 8).findSome? fun n => ((s.seatAt p.dst n).outs.find? (·.what = .gbar gid ep)).map fun o => (n, o.id)) = some (n, id) →
      ∃ t : State, exec (.gbarCompletion pkt) s = .next t ∧ (∀ o ∈ (t.seatAt p.dst n).outs, o.id ≠ id) ∧
        ∀ m ∈ childrenOf s p.dst gid, ∃ r ∈ t.net, r.dst = m.2 ∧ r.body = .gbarDone gid ep) ∧
    (findQ6 s pkt = some (c, q) → kc.fenced = false → hasExited s c (dGroup q.desc) = false →
      kc.combine.find? (dKey ·.desc = dKey q.desc) = none → treeOf kc (dGroup q.desc) = some e → kc.combine.length < 8 →
      (own.length < treeChildren e → ∃ t : State, exec (.combineArrival pkt) s = .next t ∧
        (t.getCore c).combine = kc.combine ++ [⟨q.desc, q.data, true, [], treeChildren e - own.length, e⟩] ∧
        (t.getCore c).q6 = kc.q6.filter (·.id != pkt)) ∧
      (treeChildren e ≤ own.length → treeRoot e = false → resolve s c (treeParent e) = .core d' → ∃ t : State,
        exec (.combineArrival pkt) s = .next t ∧ (t.getCore c).q6 = kc.q6.filter (·.id != pkt) ∧
          ∃ r ∈ t.net, r.dst = d' ∧ r.tc = 3 ∧ r.body = .combine q.desc q.data)) ∧
    (findQ6 s pkt = none → duePacket s pkt = some p → p.body = .combine d data → k.fenced = false →
      k.combine.find? (dKey ·.desc = dKey d) = some slot → dFn slot.desc = dFn d → dDeliver slot.desc = dDeliver d →
      (slot.localIn = false ∨ (slot.children ++ [p.src]).eraseDups.length < slot.await) → ∃ t : State, exec (.combineArrival pkt) s = .next t ∧
        (t.getCore p.dst).combine.find? (dKey ·.desc = dKey d) =
          some { slot with data := combineData (dFn d) slot.data data, children := (slot.children ++ [p.src]).eraseDups }) ∧
    (duePacket s pkt = some p → p.body = .deliver d data → k.fenced = false → (activeGroup s p.dst (dGroup d)).isSome = true → q7Words k ≤ 64 →
      ∃ t : State, exec (.combineDelivery pkt) s = .next t ∧
        (t.getCore p.dst).q7 = k.q7 ++ [⟨vecWords data 64, redTag (dFn d), dKey d, true, 0⟩] ∧
        ∀ m ∈ childrenOf s p.dst (dGroup d), ∃ r ∈ t.net, r.dst = m.2 ∧ r.body = .deliver d data) ∧
    (duePacket s pkt = some p → p.body = .leave gid → k.fenced = false → ∃ t : State, exec (.combineLeave pkt) s = .next t ∧
      leftOf (t.getCore p.dst) gid = p.src :: leftOf k gid ∧
      (k.combine.find? (dKey ·.desc = key) = some slot → dGroup slot.desc = gid → slot.children.contains p.src = false →
        (slot.localIn = false ∨ slot.children.length < slot.await - 1) → hasExited s p.dst gid = false →
        (t.getCore p.dst).combine.find? (dKey ·.desc = key) = some { slot with await := slot.await - 1 }))

/-- Shell commands begin and finish, latch tiles pass, and remote commands are answered. R253, R256 to R259, R261 to R263, R293 and R294. The model's choices: a NEXT that names a basecamp or no live core is the latch fault 3 (log 32); the reads of a latch transfer, its grant, and a drain whose destination is no longer writable, are the events' own cut (log 31). -/
def Obligations.ShellEvents : Prop :=
  ∀ (s : State) (core cmd pkt seat op src fail : Nat) (c : Cmd) (tile : LatchTile) (d : CoreId) (p : Packet) (ws : List Word) (v : Word) (o : Out)
    (r : Req) (rest : List (CoreId × Nat)),
    let k := s.getCore core
    let h := k.shell
    let w0 := c.word 0
    let a := c.word 1
    let f := cFmt w0
    let n := tileBytes f
    let t8 := cTile w0
    let target := s.getCore p.dst
    let clear : Prop := target.ovfFull = false ∧ target.input = []
    let bits := readBits r.pieces
    let bytes := drainBytes (h.tiles.getD t8 {}) f
    let zeroed := if cZaft w0 then zeroTile s core t8 else s
    let words (l : List Nat) : List Word := l.map (BitVec.ofNat 64)
    let faultOf (x : Word) := (pageFault s (.op core cmd) .write x).or (writeFault s (.op core cmd) .write x)
    let asked := updShell (updCmd s core cmd fun c => { c with stage := .asked, dst := d }) d fun h => { h with asking := h.asking ++ [(core, cmd)] }
    let begun := updCmd s core cmd fun c => { c with stage := .occupying, rd := some s.fresh }
    let nx := resolve s core (linkNext h)
    let dead : Prop := nx = .dead ∨ nx = .absent ∨ ∃ b, nx = .core b ∧ isBc b = true
    let next : Prop := nx = .core d ∧ isBc d = false
    (findCmd s core cmd = some c →
      (cOp w0 = 0 → readDone s c = none → mayBegin s core c = true → arrayFree s core = true →
        (cBsel w0 ≠ 2 ∨ (h.front = some tile ∧ tile.fmt = f)) →
        exec (.shellMma core cmd) s = .next (postShell begun core cmd .vload (mmaPieces core c))) ∧
      (cOp w0 = 0 → readDone s c = none → mayBegin s core c = true → arrayFree s core = true → cBsel w0 = 2 → h.front = some tile → tile.fmt ≠ f →
        exec (.shellMma core cmd) s = .next (finishCmd (sampleMma (latchFault s core tile.seq tile.fmt 2) core c) core cmd)) ∧
      (cOp w0 = 0 → readDone s c = some r → reqError r = none → cBsel w0 ≠ 2 →
        exec (.shellMma core cmd) s = .next (updCmd (updCmd (dropReq s r.id) core cmd fun c => { c with rd := none }) core cmd
          fun c => mmaSums c f (bits % 2 ^ (8 * n)) (bits / 2 ^ (8 * n)))) ∧
      (cOp w0 = 0 → readDone s c = some r → reqError r = none → cBsel w0 = 2 → cPass w0 = true → h.front = some tile →
        exec (.shellMma core cmd) s = .next (updCmd (updCmd (dropReq s r.id) core cmd fun c => { c with rd := none }) core cmd
          fun c => mmaSums c f (bits % 2 ^ (8 * n)) (bytesNat tile.bytes))) ∧
      (cOp w0 = 0 → c.stage = .occupying → c.rd = none → ∃ t : State, exec (.mmaFinish core cmd) s = .next t ∧
        findCmd t core cmd = (if cPass w0 then some { c with stage := .sending, seenB := words c.bow, seenS := words c.stroke } else none) ∧
        (∀ c' ∈ (t.getCore core).shell.cmds, cmd ≤ c'.id → c'.seenB = words c.bow ∧ c'.seenS = words c.stroke) ∧
        (t.getCore core).shell.tiles.getD t8 {} = mmaTile (h.tiles.getD t8 {}) c ∧
        (t.getCore core).shell.bow = words c.bow ∧ (t.getCore core).shell.stroke = words c.stroke) ∧
      (cOp w0 = 1 → mayBegin s core c = true → drainFree s core = true →
        (a ≠ 0 → firstFault faultOf (byteAddrs a n) = none → exec (.shellDrain core cmd) s = .next ((postShell
          (updCmd zeroed core cmd fun c => { c with stage := .occupying, wr := [s.fresh] }) core cmd .store
            (drainPieces zeroed (.op core cmd) a bytes)).forget (.op core cmd))) ∧
        (∀ cause x, a ≠ 0 → firstFault faultOf (byteAddrs a n) = some (cause, x) → exec (.shellDrain core cmd) s = .next
          (if cause = walkCause then askWalk s (.op core cmd) k.ttRoot (fld x 47 0)
          else finishCmd (shellReadError (s.forget (.op core cmd)) core x t8) core cmd)) ∧
        (a = 0 → ∃ u : Cmd, u.id = c.id ∧ u.words = c.words ∧
          u.rest = ((List.range (bytes.length / 8)).map fun i => BitVec.ofNat 64 (bytesNat ((bytes.drop (8 * i)).take 8))) ∧
          exec (.shellDrain core cmd) s = .next ((pushDrain (updCmd zeroed core cmd fun _ => u) core u).forget (.op core cmd)))) ∧
      (cOp w0 = 1 → c.stage = .occupying →
        (a = 0 → exec (.shellDrain core cmd) s = .next (pushDrain s core c)) ∧
        (a ≠ 0 → c.wr = [] → c.err = none → exec (.shellDrain core cmd) s = .next (finishCmd s core cmd))) ∧
      (cOp w0 = 2 → mayBegin s core c = true → exec (.shellZero core cmd) s = .next (finishCmd (zeroTile s core t8) core cmd) ∧
        ((finishCmd (zeroTile s core t8) core cmd).getCore core).shell.tiles.getD t8 {} = {}) ∧
      (h.front = some tile → cOp w0 ≠ 4 → lostNext s c = false →
        ((c.stage = .sending ∨ cOp w0 = 3 ∧ mayBegin s core c = true) →
          (next → exec (.shellPass core cmd) s = .next asked) ∧
          (dead → exec (.shellPass core cmd) s = .next (finishCmd (latchFault s core tile.seq tile.fmt 3) core cmd))) ∧
        (c.stage = .granted → exec (.shellPass core cmd) s = .next
          (takeFront (finishCmd (newPacket s core c.dst ((s.getCore c.dst).rank) 1 (.latch tile) none) core cmd) core))) ∧
      (cOp w0 = 4 → lostNext s c = false →
        (c.stage = .queued → mayBegin s core c = true →
          (next → exec (.shellInject core cmd) s = .next asked) ∧
          (dead → exec (.shellInject core cmd) s = .next (finishCmd (latchFault s core (cSeq w0) f 3) core cmd))) ∧
        (c.stage = .granted → c.rd = none → exec (.shellInject core cmd) s = .next
          (postShell (updCmd s core cmd fun c => { c with rd := some s.fresh }) core cmd .vload (tilePieces core a n 0))) ∧
        (c.stage = .granted → readDone s c = some r → reqError r = none → exec (.shellInject core cmd) s = .next
          (finishCmd (newPacket (dropReq s r.id) core c.dst ((s.getCore c.dst).rank) 1
            (.latch ⟨f, cSeq w0, (List.range n).map fun i => BitVec.ofNat 8 (bits / 2 ^ (8 * i))⟩) none) core cmd)))) ∧
    (h.reserved = false → h.back = none → k.fenced = false → h.asking = (src, cmd) :: rest → findCmd s src cmd = some c →
      ∃ t : State, exec (.latchGrant core) s = .next t ∧ (t.getCore core).shell.reserved = true ∧ (t.getCore core).shell.asking = rest ∧
        findCmd t src cmd = some { c with stage := .granted }) ∧
    (duePacket s pkt = some p → clear → p.body = .latch tile → target.fenced = false →
      (tile.seq = lastSeq target.shell + 1 → ∃ t : State, exec (.latchArrival pkt) s = .next t ∧
        let u := (t.getCore p.dst).shell
        lastSeq u = tile.seq ∧ u.reserved = false ∧ (target.shell.front = none → u.front = some tile ∧ u.back = none) ∧
          (target.shell.front ≠ none → u.front = target.shell.front ∧ u.back = some tile)) ∧
      (tile.seq ≠ lastSeq target.shell + 1 → exec (.latchArrival pkt) s =
        .next (latchFault (updShell (takePacket s p) p.dst fun h => { h with reserved := false }) p.dst tile.seq tile.fmt 1))) ∧
    (s.net.find? (·.id = pkt) = some p → p.body = .rcmd seat op ws → ws ≠ [] → target.fenced = false → isGridCore p.dst = true →
      (target.shell.passed.any (·.1 = pkt) = false → duePacket s pkt = some p → clear →
        let s' := { s.forget (.op p.dst p.id) with expects := pset s.expects (p.src, p.home) (p.num + 1) }
        let why := rcmdCheck s p ws
        (∀ va, drainWalk s (.op p.dst p.id) ws = some va → exec (.remoteShellCommand pkt) s = .next (askWalk s (.op p.dst pkt) target.ttRoot (fld va 47 0))) ∧
        (drainWalk s (.op p.dst p.id) ws = none → target.shell.passed = [] → (why ≠ 0 ∨ q0Shut target.shell = false) →
          exec (.remoteShellCommand pkt) s = .next (enterRcmd s' p seat op ws why)) ∧
        (drainWalk s (.op p.dst p.id) ws = none → (target.shell.passed ≠ [] ∨ why = 0 ∧ q0Shut target.shell = true) →
          exec (.remoteShellCommand pkt) s = .next (updShell s' p.dst fun h => { h with passed := h.passed ++ [(p.id, why)] }))) ∧
      (target.shell.passed.head? = some (pkt, fail) → (fail ≠ 0 ∨ q0Shut target.shell = false) →
        exec (.remoteShellCommand pkt) s = .next (enterRcmd s p seat op ws fail))) ∧
    (dueAnswer s pkt = some p → clear → answersBefore target seat op = false → p.body = .rcmdAns seat op fail → seat < 8 → (s.seatAt p.dst seat).outs.find? (·.id = op) = some o →
      (fail = 0 → ∃ t : State, exec (.rcmdAnswer pkt) s = .next t ∧ ∀ q ∈ (t.seatAt p.dst seat).outs, q.id ≠ op) ∧
      (∀ rank, fail ≠ 0 → o.what = .rcmd rank → exec (.rcmdAnswer pkt) s =
        .next (answer (dropSent (dropPacket s pkt) p.orig) p.dst seat op (rcmdError fail rank.toNat)))) ∧
    (isCore core = true → exec (.shLinkWrite core v) s =
      .next (s.updCore core fun k => { k with shell := { k.shell with link := v &&& 0x8000FFFF0000FFFF } }))

/-- Each kind of fence stops its unit and tells those whom R384 names. R349, R383 and R384. The model's choices: the rebuild is one step with the fence (log 20), the notice carries FENCE_CMD with GO set (log 46), and the message to the basecamps has header 0 and goes to both (log 58). -/
def Obligations.FenceEvents : Prop :=
  ∀ (s : State) (i : Nat),
    let value (unit : Nat) : Word := BitVec.ofNat 64 (2 ^ 63 + unit * 2 ^ 56 + i)
    let told (t : State) (cox : CoreId) (unit : Nat) : Prop := ∃ q ∈ (t.getCore cox).events ++ (t.getCore cox).notices, q.code = 0x71 ∧ q.regs.getD 3 0 = value unit
    let known (t : State) (unit : Nat) : Prop := (0, 0, [value unit]) ∈ t.inbox ∧ (1, 0, [value unit]) ∈ t.inbox
    let rebuilt (t : State) : Prop := chipSilent t 0x120 = false →
      t.tables = some (survey t) ∧ (∀ e ∈ t.netSel, isLost t (siteOf e.1.1) = true) ∧ (∀ e ∈ t.escape, isLost t (siteOf e.1.1) = true)
    (canFence s 0 i = true → ∃ t : State, exec (.fenceSeat i) s = .next t ∧ (t.seatAt (i / 8) (i % 8)).fenced = true ∧ (t.seatAt (i / 8) (i % 8)).status = .free ∧ (t.seatAt (i / 8) (i % 8)).firing = none ∧ told t (coxOf (i / 8)) 0 ∧ rebuilt t) ∧
    (canFence s 1 i = true → ∃ t : State, exec (.fenceCore i) s = .next t ∧ (t.getCore i).fenced = true ∧ (∀ n < 8, (t.seatAt i n).firing = none) ∧ told t (coxOf i) 1 ∧
        (∀ e ∈ t.ranks, eValid e.2 = true → eModule e.2 = ownModule s → eCore e.2 = i → eDead e.2 = true) ∧ rebuilt t) ∧
    (canFence s 2 i = true → ∃ t : State, exec (.fenceHaulChannel i) s = .next t ∧ (t.chan (i / 4) (i % 4)).st = 3 ∧ (t.chan (i / 4) (i % 4)).pkt = none ∧ told t (coreAt (i / 4) 0) 2 ∧ rebuilt t) ∧
    (canFence s 3 i = true → ∃ t : State, exec (.fenceWeightStoreBank i) s = .next t ∧ i % 8 ∈ (t.getCluster (i / 8)).banksBad ∧ told t (coreAt (i / 8) 0) 3 ∧ rebuilt t) ∧
    (canFence s 4 i = true → ∃ t : State, exec (.fenceL2Slot i) s = .next t ∧ i ∈ t.slotsBad ∧ known t 4 ∧ rebuilt t) ∧
    (canFence s 5 i = true → ∃ t : State, exec (.fenceHbmStack i) s = .next t ∧ i ∈ t.stacksBad ∧ known t 5 ∧ rebuilt t) ∧
    (canFence s 6 i = true → ∃ t : State, exec (.fenceLink i) s = .next t ∧ i ∈ t.linksBad ∧ known t 6 ∧ rebuilt t) ∧
    (canFence s 7 i = true → ∃ t : State, exec (.fenceChiplet i) s = .next t ∧ bustState t i = 6 ∧ known t 7 ∧ rebuilt t)

/-- A haul channel subscribes, takes ready slots, checks its packet, moves it beat by beat and completes it. R266, R276 to R278, R298, R299 and R302 to R308. The reads of a header, a slot and a chunk one after the other are the model's own cut (log 48), and an access that awaits a walk is a model's choice (log 93). -/
def Obligations.HaulEvents : Prop :=
  ∀ (s u : State) (cl ch f : Nat) (v x y h : Word) (e : Tlb) (p : HaulPkt) (bytes b : List Byte) (r : List Word) (far : Option FarReply) (q : Req),
    let c := s.chan cl ch
    let root := (s.getCore (coreAt cl 0)).ttRoot
    let qh := BitVec.ofNat 64 (qHead c.hlq)
    let off := (s.forget (.chan cl ch)).updChan cl ch fun c => { c with asked := false }
    let hpa := e.phys (qHead c.hlq)
    let slot := slotAddr c c.rix.toNat
    let slotStop (f : Nat) (y : Word) : State := if f = walkFault then engineWalk s cl ch root y else slotFault s cl ch f
    let bad (p : HaulPkt) : State := stopPkt (s.updChan cl ch fun c => { c with pkt := some p }) cl ch p 1 (slotAddr c p.claim)
    let runs (p : HaulPkt) : State := s.updChan cl ch fun c => { c with pkt := some { p with begun := true } }
    let phase : Bool := decide ((c.rix.toNat / queueSize c.qcfg + 1) % 2 = 1)
    let le (b : List Byte) : Nat := pack 8 (b.map (·.toNat))
    let words := natWords (bytes.length / 8) (le bytes)
    let packet : HaulPkt := { claim := c.rix.toNat, words := words, root := root, top := words.getD 2 0 }
    let zero (l : List Nat) : Prop := ∀ i ∈ l, p.word i = 0
    let by' (n : Nat) (l : List Nat) : Prop := ∀ i ∈ l, (p.word i).toNat % n = 0
    let esz := fld (p.word 3) 33 32
    let rowb := fld (p.word 4) 63 32
    let boxOk : Prop := tagOf (p.word 1) = 0 ∧ (p.word 1).toNat % 64 = 0 ∧ ∀ i < 4, boxExt p i ≠ 0
    let dstOk : Prop := (p.word 2).toNat % recEsz p.record = 0 ∧ fld (p.word 6) 31 0 % recEsz p.record = 0 ∧ fld (p.word 6) 63 32 % recEsz p.record = 0
    let key := (p.word 1, rootAsid p.root)
    let boxed (keep : Bool) (t : State) (l : List Word) : State :=
      startBox (if keep then t.updCluster cl fun g => { g with records := cacheRecord g.records key l } else t) cl ch { p with record := l, stale := false }
    let n := copyLen p
    let src := p.word 1 + BitVec.ofNat 64 p.progress
    let dst := p.word 2 + BitVec.ofNat 64 p.progress
    let row := p.word 2 + BitVec.ofNat 64 (p.progress * rowb)
    let idxAt := p.word 3 + BitVec.ofNat 64 (4 * p.progress)
    let ix : Int := sxt 32 (fld x 31 0)
    let held := s.updChan cl ch fun c => { c with pkt := some { p with idx := some x } }
    let writes (t : State) (q p' : HaulPkt) (a : Word) (l : List Byte) : State :=
      beatDone (postHaul t cl ch p.root .store a l.length (le l)) cl ch p' (p.wr ++ [q.mark t.fresh])
    let passes (t : State) (a : Word) (n : Nat) (d : Word) (m : Nat) : Prop := rangeFault t cl ch p.root false a n = none ∧ rangeFault t cl ch p.root true d m = none
    let lands (t : State) (d : Word) (l : List Byte) : Prop := l ≠ [] ∧ isRemote t d = false ∧ writeCheck t cl ch p.root d l = none
    let esB := recEsz p.record
    let i0 := p.progress % boxExt p 0
    let i1 := p.progress / boxExt p 0 % boxExt p 1
    let i2 := p.progress / boxExt p 0 / boxExt p 1 % boxExt p 2
    let i3 := p.progress / boxExt p 0 / boxExt p 1 / boxExt p 2
    let m := min (64 / esB) (boxExt p 0 - i0)
    let cd (d i : Nat) : Int := sxt 32 (fld (p.word (3 + d / 2)) (32 * (d % 2) + 31) (32 * (d % 2))) + i
    let within (d i : Nat) : Bool := decide (0 ≤ cd d i) && decide (cd d i < recDim p.record d)
    let live := (List.range m).filter fun i => within 0 (i0 + i) && within 1 i1 && within 2 i2 && within 3 i3
    let elemAt (i : Nat) : Word := p.record.getD 0 0 + BitVec.ofInt 64 (cd 0 (i0 + i) * esB) + BitVec.ofInt 64 (cd 1 i1) * p.record.getD 3 0 +
      BitVec.ofInt 64 (cd 2 i2) * p.record.getD 4 0 + BitVec.ofInt 64 (cd 3 i3) * p.record.getD 5 0
    let dstAt := p.word 2 + BitVec.ofNat 64 (i0 * esB + i1 * fld (p.word 6) 31 0 + i2 * fld (p.word 6) 63 32 + i3 * fld (p.word 6) 63 32 * boxExt p 2)
    let runOf (k0 : Nat) : List Byte := (List.range m).flatMap fun i =>
      if live.contains i then (b.drop (esB * (i - k0))).take esB else valueBytes (p.record.getD 6 0).toNat esB
    let ty := fld (p.word 3) 35 32
    let es := ctWidth ty / 8
    let cn := chunkCount p
    let rawAt := p.word 1 + BitVec.ofNat 64 (256 * p.progress * es)
    let outAt := p.word 2 + BitVec.ofNat 64 p.outDone
    let chunkAt := p.word 1 + BitVec.ofNat 64 p.srcDone
    let out := wordsBytes (encodeChunk u.codec ty ((List.range cn).map fun i => le b / 2 ^ (8 * es * i) % 2 ^ (8 * es)))
    let done (t : State) : State := sendStatq (setStat (t.updChan cl ch fun c => { c with pkt := none, done := c.done + 1, look := true }) cl ch 0 0) cl ch p 1
    let w := p.word 7
    let rank : BitVec 16 := w.extractLsb' 48 16
    (isCluster cl = true → ch < 4 →
      (c.st = 0 ∨ c.st = 3 → exec (.hlQWrite cl ch v) s = .next ((dropRead s cl ch).updChan cl ch fun c =>
        { c with hlq := v &&& 0x8000FFFFFFFFFF80, asked := v.getLsbD 63, look := false, slotBad := false, known := 0, owner := none })) ∧
      (c.st = 1 ∨ c.st = 2 → exec (.hlQWrite cl ch v) s = .next s) ∧
      (c.asked = true → c.st ≠ 3 →
        (engineLeaf s cl ch root qh = .hit e → e.msa = true → lineTaken s hpa = false →
          exec (.wLineSubscription cl ch) s = .next (off.updChan cl ch fun c => { c with
            hlq := c.hlq ||| 0x4000000000000000, hpa := hpa, known := 0, seenW := getDouble s.hbm hpa })) ∧
        (engineLeaf s cl ch root qh = .hit e → (e.msa = false ∨ lineTaken s hpa = true) → exec (.wLineSubscription cl ch) s = .next off) ∧
        (∀ cause, engineLeaf s cl ch root qh = .fault cause → exec (.wLineSubscription cl ch) s = .next off) ∧
        (engineLeaf s cl ch root qh = .miss → exec (.wLineSubscription cl ch) s = .next (engineWalk s cl ch root qh)))) ∧
    (qSub c.hlq = true →
      exec (.haulPollTimer cl ch) s = .next (s.updChan cl ch fun c => { c with look := true }) ∧
      (getDouble s.hbm c.hpa ≠ c.seenW → exec (.wLineNotify cl ch) s =
        .next (s.updChan cl ch fun c => { c with seenW := getDouble s.hbm c.hpa, look := true }))) ∧
    (ch < 4 → qSub c.hlq = true → qEn c.hlq = true → c.st = 0 → c.statq = [] → (s.getChiplet cl).cur ≠ 7 →
      ((c.look = true ∨ c.rd ≠ none) → c.known < 2 →
        (c.hd = none → exec (.haulSlotTake cl ch) s = .next (askHeader s cl ch (if c.known = 0 then 8 else 0x10))) ∧
        (c.hd.bind (findReq s) = some q → settled q = true →
          (reqError q = none → exec (.haulSlotTake cl ch) s = .next ((dropRead s cl ch).updChan cl ch fun c =>
            if c.known = 0 then { c with rix := BitVec.ofNat 64 (readBits q.pieces), known := 1 } else { c with qcfg := BitVec.ofNat 64 (readBits q.pieces), known := 2 })) ∧
          (∀ cause a, reqError q = some (cause, a) → exec (.haulSlotTake cl ch) s = .next (slotFault s cl ch (haulFault cause))))) ∧
      (2 ≤ c.known →
        (c.look = true → c.rd = none →
          (rangeFault s cl ch root false slot 8 = none →
            exec (.haulSlotTake cl ch) s = .next ((askRange s cl ch root slot 8 none).updChan cl ch fun c => { c with look := false })) ∧
          (rangeFault s cl ch root false slot 8 = some (f, y) → exec (.haulSlotTake cl ch) s = .next (slotStop f y))) ∧
        (∀ id a n, c.rd = some (id, a, n) → fetchRange s cl ch root none slot n = .bad f y → exec (.haulSlotTake cl ch) s = .next (slotStop f y)) ∧
        (c.rd.map (·.2.2) = some bytes.length → fetchRange s cl ch root none slot bytes.length = .ok u bytes →
          ((words.getD 0 0).getLsbD 7 ≠ phase → exec (.haulSlotTake cl ch) s = .next (u.updChan cl ch fun c => { c with known := 1 })) ∧
          ((words.getD 0 0).getLsbD 7 = phase →
            (bytes.length = 8 → exec (.haulSlotTake cl ch) s = .next (askRange u cl ch root slot 64 none)) ∧
            (bytes.length = 64 → commonOk packet = true → ∃ t : State, exec (.haulSlotTake cl ch) s = .next t ∧ (t.chan cl ch).pkt = some packet ∧
              (t.chan cl ch).st = 1 ∧ (t.chan cl ch).rix = c.rix + 1 ∧ (t.chan cl ch).wp = words.getD 2 0))))) ∧
    (c.pkt = some p → c.st = 1 → p.begun = false →
      (p.kind = 0 →
        ((by' 4 [1, 2, 3] ∧ fld (p.word 3) 63 32 = 0 ∧ zero [4, 5, 6]) → exec (.haulCopy cl ch) s = .next (runs p)) ∧
        (¬ (by' 4 [1, 2, 3] ∧ fld (p.word 3) 63 32 = 0 ∧ zero [4, 5, 6]) → exec (.haulCopy cl ch) s = .next (bad p))) ∧
      (p.kind = 3 →
        (((esz = 2 ∨ esz = 3) ∧ fld (p.word 3) 63 34 = 0 ∧ (p.word 2).toNat % 2 ^ esz = 0 ∧ fld (p.word 3) 31 0 % 2 ^ esz = 0 ∧ zero [4, 5, 6]) → exec (.haulFill cl ch) s = .next (runs p)) ∧
        (¬ ((esz = 2 ∨ esz = 3) ∧ fld (p.word 3) 63 34 = 0 ∧ (p.word 2).toNat % 2 ^ esz = 0 ∧ fld (p.word 3) 31 0 % 2 ^ esz = 0 ∧ zero [4, 5, 6]) → exec (.haulFill cl ch) s = .next (bad p))) ∧
      (p.kind = 2 →
        ((rowb ≠ 0 ∧ rowb % 4 = 0 ∧ by' 4 [1, 2, 3, 5]) → exec (.haulGather cl ch) s = .next (runs p)) ∧
        (¬ (rowb ≠ 0 ∧ rowb % 4 = 0 ∧ by' 4 [1, 2, 3, 5]) → exec (.haulGather cl ch) s = .next (bad p))) ∧
      (p.kind = 4 →
        ((fld (p.word 3) 63 37 = 0 ∧ 4 ≤ fld (p.word 3) 35 32 ∧ fld (p.word 3) 35 32 ≤ 6 ∧ fld (p.word 3) 31 0 ≠ 0 ∧ by' 8 [1, 2, 4] ∧ fld (p.word 5) 63 32 = 0 ∧ p.word 6 = 0 ∧ ((p.word 3).getLsbD 36 = true → zero [4, 5])) → exec (.haulCodec cl ch) s = .next (runs p)) ∧
        (¬ (fld (p.word 3) 63 37 = 0 ∧ 4 ≤ fld (p.word 3) 35 32 ∧ fld (p.word 3) 35 32 ≤ 6 ∧ fld (p.word 3) 31 0 ≠ 0 ∧ by' 8 [1, 2, 4] ∧ fld (p.word 5) 63 32 = 0 ∧ p.word 6 = 0 ∧ ((p.word 3).getLsbD 36 = true → zero [4, 5])) → exec (.haulCodec cl ch) s = .next (bad p))) ∧
      (p.kind = 1 →
        (¬ boxOk → exec (.haulBox cl ch) s = .next (bad p)) ∧
        (boxOk → p.record ≠ [] →
          (dstOk → exec (.haulBox cl ch) s = .next (runs p)) ∧
          (¬ dstOk → exec (.haulBox cl ch) s = .next (bad p))) ∧
        (boxOk → p.record = [] → c.rd = none → (s.getCluster cl).records.find? (·.1 = key) = some (key, r) →
          exec (.haulBox cl ch) s = .next (boxed true s r)) ∧
        (boxOk → p.record = [] → c.rd = none → (s.getCluster cl).records.find? (·.1 = key) = none →
          (rangeFault s cl ch p.root false (p.word 1) 64 = none → exec (.haulBox cl ch) s = .next
            ((askRange s cl ch p.root (p.word 1) 64 none).updChan cl ch fun c => { c with pkt := some { p with stale := false } })) ∧
          (rangeFault s cl ch p.root false (p.word 1) 64 = some (f, y) → exec (.haulBox cl ch) s = .next (stopPkt s cl ch p f (p.word 1)))) ∧
        (boxOk → p.record = [] → c.rd ≠ none → fetchRange s cl ch p.root none (p.word 1) 64 = .ok u bytes →
          (recordOk (natWords 8 (le bytes)) = true → exec (.haulBox cl ch) s = .next (boxed (!p.stale) u (natWords 8 (le bytes)))) ∧
          (recordOk (natWords 8 (le bytes)) = false → exec (.haulBox cl ch) s = .next (stopPkt u cl ch p 2 (p.word 1)))))) ∧
    (c.pkt = some p → c.st = 1 → p.begun = true → p.err = none → p.buf = none →
      (p.progress < totalUnits p →
        (p.kind = 0 →
          (c.rd = none → passes s src n dst n → exec (.haulBeat cl ch far) s = .next (askRange s cl ch p.root src n none)) ∧
          (c.rd = none → (rangeFault s cl ch p.root false src n).or (rangeFault s cl ch p.root true dst n) = some (f, y) → exec (.haulBeat cl ch far) s = .next (stopPkt s cl ch p f y)) ∧
          (fetchRange s cl ch p.root far src n = .ok u b → b ≠ [] → isRemote u dst = false →
            (writeCheck u cl ch p.root dst b = none → exec (.haulBeat cl ch far) s = .next (writes u p { p with progress := p.progress + n } dst b)) ∧
            (writeCheck u cl ch p.root dst b = some (f, y) → exec (.haulBeat cl ch far) s = .next (stopPkt u cl ch p f y)))) ∧
        (p.kind = 3 → (b = (List.range (n / 2 ^ esz)).flatMap fun _ => valueBytes (p.word 1).toNat (2 ^ esz)) → b ≠ [] →
          (lands s dst b → exec (.haulBeat cl ch far) s = .next (writes s p { p with progress := p.progress + n } dst b)) ∧
          (isRemote s dst = true → c.rd = none → rangeFault s cl ch p.root true dst b.length = none →
            exec (.haulBeat cl ch far) s = .next (askRange (s.updChan cl ch fun c => { c with pkt := some { p with buf := some b } }) cl ch p.root dst b.length (some b)))) ∧
        (p.kind = 2 →
          (p.idx = none → c.rd = none → passes s idxAt 4 row rowb → exec (.haulBeat cl ch far) s = .next (askRange s cl ch p.root idxAt 4 none)) ∧
          (p.idx = some x → 0 ≤ ix → ix < fld (p.word 6) 31 0 → rowb ≠ 0 →
            let rowAt := p.word 1 + BitVec.ofInt 64 ix * p.word 5
            (c.rd = none → passes held rowAt rowb row rowb → exec (.haulBeat cl ch far) s = .next (askRange held cl ch p.root rowAt rowb none)) ∧
            (c.rd ≠ none → fetchRange held cl ch p.root far rowAt rowb = .ok u b → lands u row b →
              exec (.haulBeat cl ch far) s = .next (writes u { p with idx := some x } { p with idx := some x, progress := p.progress + 1 } row b))) ∧
          (p.idx = some x → (ix < 0 ∨ fld (p.word 6) 31 0 ≤ ix) → (b = (List.range (rowb / 4)).flatMap fun _ => valueBytes (fld (p.word 6) 63 32) 4) →
            lands held row b → exec (.haulBeat cl ch far) s = .next (writes held p { p with idx := some x, progress := p.progress + 1 } row b))) ∧
        (p.kind = 1 → exec (.haulBeat cl ch far) s = .next (boxBeat s cl ch p far) ∧
          (live = [] → b = [] → lands s dstAt (runOf 0) → exec (.haulBeat cl ch far) s = .next (writes s p { p with progress := p.progress + m } dstAt (runOf 0))) ∧
          (∀ first, live.head? = some first → esB * live.length ≠ 0 →
            (c.rd = none → passes s (elemAt first) (esB * live.length) dstAt (m * esB) →
              exec (.haulBeat cl ch far) s = .next (askRange s cl ch p.root (elemAt first) (esB * live.length) none)) ∧
            (c.rd ≠ none → fetchRange s cl ch p.root far (elemAt first) (esB * live.length) = .ok u b → lands u dstAt (runOf first) →
              exec (.haulBeat cl ch far) s = .next (writes u p { p with progress := p.progress + m } dstAt (runOf first))))) ∧
        (p.kind = 4 → exec (.haulBeat cl ch far) s = .next (codecBeat s cl ch p far) ∧
          ((p.word 3).getLsbD 36 = false → cn * es ≠ 0 →
            (c.rd = none → rangeFault s cl ch p.root false rawAt (cn * es) = none → exec (.haulBeat cl ch far) s = .next (askRange s cl ch p.root rawAt (cn * es) none)) ∧
            (c.rd ≠ none → fetchRange s cl ch p.root far rawAt (cn * es) = .ok u b →
              (fld (p.word 5) 31 0 < p.outDone + out.length → exec (.haulBeat cl ch far) s = .next (stopPkt u cl ch p 9 outAt)) ∧
              (p.outDone + out.length ≤ fld (p.word 5) 31 0 → lands u outAt out →
                exec (.haulBeat cl ch far) s = .next (writes u p { p with progress := p.progress + 1, outDone := p.outDone + out.length } outAt out)))) ∧
          ((p.word 3).getLsbD 36 = true → p.idx = none →
            (c.rd = none → passes s chunkAt 8 outAt (cn * es) → exec (.haulBeat cl ch far) s = .next (askRange s cl ch p.root chunkAt 8 none)) ∧
            (c.rd ≠ none → fetchRange s cl ch p.root far chunkAt 8 = .ok u b → h = BitVec.ofNat 64 (le b) →
              (headerOk ty cn h = true → exec (.haulBeat cl ch far) s = .next (u.updChan cl ch fun c => { c with pkt := some { p with idx := some h } })) ∧
              (headerOk ty cn h = false → exec (.haulBeat cl ch far) s = .next (stopPkt u cl ch p 9 chunkAt)))) ∧
          ((p.word 3).getLsbD 36 = true → p.idx = some h → 8 * chunkLen h ≠ 0 →
            (c.rd = none → passes s chunkAt (8 * chunkLen h) outAt (cn * es) → exec (.haulBeat cl ch far) s = .next (askRange s cl ch p.root chunkAt (8 * chunkLen h) none)) ∧
            (c.rd ≠ none → fetchRange s cl ch p.root far chunkAt (8 * chunkLen h) = .ok u b →
              (decodeChunk ty cn (natWords (b.length / 8) (le b)) = none → exec (.haulBeat cl ch far) s = .next (stopPkt u cl ch p 9 chunkAt)) ∧
              (∀ els, decodeChunk ty cn (natWords (b.length / 8) (le b)) = some els → lands u outAt (valueBytes (pack (8 * es) els) (cn * es)) →
                exec (.haulBeat cl ch far) s = .next (writes u p { p with progress := p.progress + 1, srcDone := p.srcDone + b.length, outDone := p.outDone + cn * es } outAt
                  (valueBytes (pack (8 * es) els) (cn * es)))))))) ∧
      (totalUnits p ≤ p.progress → owesLength p = true → lands s (p.word 4) (valueBytes p.outDone 8) →
        exec (.haulBeat cl ch far) s = .next (writes s p { p with written := true } (p.word 4) (valueBytes p.outDone 8)))) ∧
    (c.pkt = some p → c.st = 1 → p.begun = true → totalUnits p ≤ p.progress → owesLength p = false → p.wr = [] → p.err = none →
      (w.getLsbD 41 = false → exec (.haulCompletion cl ch) s = .next (done s)) ∧
      (w.getLsbD 41 = true → resolve s (coreAt cl 0) rank ≠ .absent → resolve s (coreAt cl 0) rank ≠ .dead → exec (.haulCompletion cl ch) s = .next (done
        (emit s (coreAt cl 0) rank 0 (.count (mkHeader rank (fld w 47 42) 0 1 true (rankOf s (coreAt cl 0))) (w.setWidth 32))))) ∧
      (w.getLsbD 41 = true → (resolve s (coreAt cl 0) rank = .absent ∨ resolve s (coreAt cl 0) rank = .dead) → exec (.haulCompletion cl ch) s = .next (stopPkt s cl ch p 10 w)))

/-- Launch records are taken or rejected, bound, switched out and in, and aborted. R102, R104, R218, R240, R242, R243, R385 and R405. The model's choices: a second event of a switch-out is its own cut (log 11), the images and the room of the rank table are checked again at binding with REASON 5 or 6, and the completion port is one never used or the first freed (log 62), and a switch area that reads poison ends its launch as an abort (log 85). -/
def Obligations.LaunchEvents : Prop :=
  ∀ (s : State) (q pa n m reason port : Nat) (ps : List Placed) (l v : Launch) (id : Word),
    let cfg := (s.queue q).cfg
    let ws := readDoubles s.hbm pa 32
    let chosen := setRix { s with lastQueue := tset s.lastQueue (qPrio cfg) q } q ((s.queue q).rix + 1)
    let taken := takenLaunch chosen pa ws (min (recField ws 3 1) (qPrio cfg)) ps
    let images := readImages s (recRoot l.words) (recImage l.words) (recFirst l.words) (recRanks l.words)
    let placed : Launch := { l with cores := ps.map fun p => (p.rank, p.core) }
    let aside : Prop := ∀ c ∈ v.cores, firingsAside s v c.1 c.2 = true
    (takesRecords s = true → (waitingLaunches s).length < 4 → chooseQueue s = some q → readyRecord s q = some pa →
      (checkRecord chosen q ws = .inl reason →
        exec .launchChoice s = .next (putStatus chosen pa (BitVec.ofNat 64 (4 * 2 ^ 56 + reason * 2 ^ 48)))) ∧
      (checkRecord chosen q ws = .inr ps →
        exec .launchChoice s = .next (putStatus ({ chosen with launches := chosen.launches ++ [taken] }).bump pa (BitVec.ofNat 64 (1 * 2 ^ 56))) ∧
        taken.state = .taken ∧ taken.pa = pa ∧ taken.words = ws ∧ taken.prio = min (recField ws 3 1) (qPrio cfg) ∧
        taken.cores = ps.map fun p => (p.rank, p.core))) ∧
    (findLaunch s n = some l → l.state = .taken → coresFree s l = true → overtaken s l = false → freePort s l.basecamp = some port →
      (images = none → exec (.launchBinding n) s =
        .next (putStatus { s with launches := s.launches.filter (·.id != l.id) } l.pa (statusWord 4 5 l))) ∧
      (images = some ps → rankRoom s (recordRanks l.words) = false → exec (.launchBinding n) s =
        .next (putStatus { s with launches := s.launches.filter (·.id != l.id) } l.pa (statusWord 4 6 l))) ∧
      (images = some ps → rankRoom s (recordRanks l.words) = true →
        exec (.launchBinding n) s = .next (runLaunch s placed ps port) ∧
        let t := runLaunch s placed ps port
        (∀ p ∈ ps, (t.getCore p.core).launch = some n ∧ (t.getCore p.core).stopped = false) ∧
        ∃ g ∈ t.launches, g.id = n ∧ g.state = .running ∧ g.cport = port ∧ g.counter = recField l.words 0x24 4 ∧ g.status = statusWord 2 0 l)) ∧
    (findLaunch s n = some l → findLaunch s m = some v →
      (v.switching = false → mayOust s l v = true → exec (.launchSwitchOut n m) s = .next (beginSwitch s v) ∧
        ∀ c ∈ v.cores, ((beginSwitch s v).getCore c.2).stopped = true ∧
          (eValid (rankEntry s c.1) = true → eTransit (rankEntry (beginSwitch s v) c.1) = true)) ∧
      (v.switching = true → v.state = .running → aside → (∃ c ∈ v.cores, (s.getCore c.2).shell.closed = false) →
        exec (.launchSwitchOut n m) s = .next (closeShells s v true)) ∧
      (v.switching = true → v.state = .running → aside → (∀ c ∈ v.cores, (s.getCore c.2).shell.closed = true ∧ shellQuiet s c.2 = true) →
        exec (.launchSwitchOut n m) s = .next (finishSwitch s v) ∧
        let t := finishSwitch s v
        (∀ c ∈ v.cores, (t.getCore c.2).launch = none ∧ (t.getCore c.2).rank = 0xFF00 ∧
          ∀ r ∈ (t.getCore c.2).resumes, r.firing.launch ≠ some v.id) ∧
        ∃ g ∈ t.launches, g.id = m ∧ g.state = .switchedOut ∧ g.status = statusWord 1 0 v) ∧
      (v.switching = true → v.state = .running → aside → (∀ c ∈ v.cores, (s.getCore c.2).shell.closed = true) →
        (∃ c ∈ v.cores, shellQuiet s c.2 = false) → exec (.launchSwitchOut n m) s = .next s) ∧
      (v.switching = true → v.state = .running → ¬ aside → exec (.launchSwitchOut n m) s = .next s)) ∧
    (findLaunch s n = some l → l.state = .switchedOut → coresFree s l = true → overtaken s l = false → (∃ c ∈ l.cores, areaBad s c.2 = true) →
      exec (.launchSwitchIn n) s = .next (abortLaunch s l)) ∧
    (findLaunch s n = some l → l.state = .switchedOut → coresFree s l = true → overtaken s l = false → (∀ c ∈ l.cores, areaBad s c.2 = false) →
      ∃ t : State, exec (.launchSwitchIn n) s = .next t ∧ (∀ c ∈ l.cores, (t.getCore c.2).launch = some n ∧ (t.getCore c.2).stopped = false ∧
        eTransit (rankEntry t c.1) = false) ∧ ∃ g ∈ t.launches, g.id = n ∧ g.state = .running ∧ g.status = statusWord 2 0 l) ∧
    (launchById s id = none → exec (.launchAbort id) s = .next s) ∧
    (launchById s id = some l →
      (l.state = .taken → exec (.launchAbort id) s =
        .next (putStatus { s with launches := s.launches.filter (·.id != l.id) } l.pa (statusWord 5 0 l))) ∧
      (l.state = .running → exec (.launchAbort id) s = .next (abortLaunch s l) ∧
        let t := abortLaunch s l
        (∀ c ∈ l.cores, ∀ i < 8, ((t.seatAt c.2 i).firing.bind (·.launch)) ≠ some l.id) ∧
        (∀ c ∈ l.cores, rankEntry t c.1 = 0) ∧
        ∃ g ∈ t.launches, g.id = l.id ∧ g.state = .aborted ∧ g.status = statusWord 5 0 l) ∧
      (l.state = .switchedOut → exec (.launchAbort id) s = .next (abortLaunch s l) ∧
        ∃ g ∈ (abortLaunch s l).launches, g.id = l.id ∧ g.state = .aborted ∧ g.status = statusWord 5 0 l))

/-- Packets enter the fabric and hop, their answers count once, other modules are answered, and losses are noted. R205, R342, R343, R347, R348, R359 to R364 and R386. Which chiplets are lost or reached is told by the event (log 19). The model's choices: a packet in a router that is not live is lost (log 16), no lit fibre makes a request wait and a dead rank is answered with 0x33 (log 17), the tables are rebuilt in the same step (log 20), damage is met on the bonds only (log 92). -/
def Obligations.FabricEvents : Prop :=
  ∀ (s u : State) (id chip who len fib lam b f req i lane out m n x : Nat) (num : BitVec 16) (p : Packet) (r q : Route) (va v h : Word) (data : Option (List Byte))
    (ws words : List Word) (count : Bool) (l : List Nat) (e : Sent) (body reply : Body) (d : Word) (st : PieceState)
    (fe : FarSeen) (rp : Reply) (rq : Req),
    let here := 52 * r.y + r.x
    let exit := doorOf r.dest (coordOf (indexOf p.src))
    let next := pget 0 s.expects (p.who, p.home)
    let fresh := pget 0 s.seqs (p.who, p.home)
    let took (out lane : Nat) : State := { s with grants := tset s.grants out lane }.ticked
    let hurt (q : Route) : Prop := crosses r q = true ∧ (∀ k, p.body ≠ .revoke k ∧ p.body ≠ .revokeAck k) ∧ Config.damaged s.tick = true
    let a := fld va 47 0
    let k := (data.map (·.length)).getD len
    let far := (farKey who, 8192 + chip)
    let due := pget 0 s.expects far
    let seen := s.farSeen.find? fun d => d.chip = chip && d.who = who && d.num = num
    let first : FarSeen := { chip := chip, who := who, num := num }
    let kept := s.farSeen.filter fun d => !(d.chip = chip && d.who = who) || inWindow d.num (due + 1)
    let came : Prop := (seen = some fe ∧ inWindow num due = true ∧ u = s) ∨
      (seen = none ∧ num = due ∧ fe = first ∧ u = { s with farSeen := kept ++ [first], expects := pset s.expects far (due + 1) })
    let ignored : Prop := (seen = none ∧ num ≠ due) ∨ (seen = some fe ∧ inWindow num due = false)
    let load (k : Nat) : Reply := .bytes ((List.range k).map fun i => BitVec.ofNat 8 (readBits rq.pieces / 2 ^ (8 * i)))
    let told : Body := if count then .count h ((ws.getD 0 0).setWidth 32) else .msg h ws
    let fibres := fibresTo s (p.dst - 8192) m
    let fibre := (fibres[n % fibres.length]?).filter (fibreLive s (p.dst - 8192))
    let away (w : Nat) (s : State) : State :=
      { updSent (dropPacket s p.id) p.orig fun o => { o with away := true } with fibre := some ⟨p.dst - 8192, w, body⟩ }
    (s.net.find? (·.id = id) = some p →
      (p.route = none → unfilled p.body = false → pieceRoom s p = true →
        (inject s p = some r → (p.orig = 0 ∨ isAnswer p.body = true) →
          exec (.routerForward id) s = .next (requeue s { p with route := some r })) ∧
        (inject s p = some r → p.orig ≠ 0 → isAnswer p.body = false → findSent s p.orig = some e →
          (e.gone = true → exec (.routerForward id) s = .next (requeue s { p with route := some r, num := e.pkt.num })) ∧
          (e.gone = false → mayDepart s e = true → exec (.routerForward id) s = .next (requeue
            (updSent { s with seqs := pset s.seqs (p.who, p.home) (fresh + 1) } p.orig fun e => { e with gone := true, pkt := { e.pkt with num := fresh } })
            { p with route := some r, num := fresh })) ∧
          (e.gone = false → mayDepart s e = false → exec (.routerForward id) s = .next s)) ∧
        (p.orig ≠ 0 → isAnswer p.body = false → findSent s p.orig = none → exec (.routerForward id) s = .next (dropPacket s p.id))) ∧
      (p.route = some r → p.came = false →
        (nextHop s p r = .go out lane q → granted s p.id out lane = true →
          (¬ hurt q → exec (.routerForward id) s = .next (requeue (took out lane) { p with route := some q })) ∧
          (hurt q → exec (.routerForward id) s = .next (dropPacket (took out lane) p.id))) ∧
        (nextHop s p r = .go out lane q → granted s p.id out lane = false → exec (.routerForward id) s = .next s) ∧
        (nextHop s p r = .turn q → exec (.routerForward id) s = .next (setPacket s { p with route := some q })) ∧
        (nextHop s p r = .discard → exec (.routerForward id) s = .next (dropPacket s p.id)) ∧
        (nextHop s p r = .wait → exec (.routerForward id) s = .next s)) ∧
      (p.route = some r → p.came = true →
        (p.body = .memAns req i st d → exec (.routerForward id) s = .next (updPiece (dropPacket s p.id) req i fun q =>
          if q.back then q else { q with st := st, data := d, back := true })) ∧
        (p.body = .ack → exec (.routerForward id) s = .next (dropSent (dropPacket s p.id) p.orig)) ∧
        (∀ x y, p.body = .msg x y → p.orig ≠ 0 → p.dst < 8192 → (s.getCore p.dst).shell.passed.any (·.1 = p.id) = false → p.num ≠ next →
          ahead p.num next = false →
          (inWindow p.num next = true → findSent s p.orig = some e → e.reply = some reply →
            exec (.routerForward id) s = .next (answerPacket (dropPacket s p.id) p reply)) ∧
          (inWindow p.num next = false → exec (.routerForward id) s = .next (dropPacket s p.id))) ∧
        (∀ x y, p.body = .msg x y → p.orig ≠ 0 → p.dst < 8192 → p.num ≠ next → ahead p.num next = true → exec (.routerForward id) s = .next s) ∧
        (p.orig ≠ 0 → 8192 ≤ p.dst → p.dst < 12288 → fibreOf s p = some (m, n, body) → findSent s p.orig = some e →
          (∀ w, fibre = some w → p.num = next → exec (.routerForward id) s = .next (away w { s with expects := pset s.expects (p.who, p.home) (next + 1) })) ∧
          (∀ w, fibre = some w → p.num ≠ next → inWindow p.num next = true →
            exec (.routerForward id) s = .next (if e.away then away w s else dropPacket s p.id)) ∧
          (fibre = none → exec (.routerForward id) s = .next s)))) ∧
    (s.net.find? (·.id = id) = none → findSent s id = some e → e.away = true → forRank e.pkt.body = true →
      exec (.routerForward id) s = .next (dropSent s id)) ∧
    (routerDead s here = true → nextHop s p r = .discard) ∧
    (routerDead s here = false → r.x < 52 → r.y < 52 →
      (r.mesh = .a → r.x < exit.1 → r.x < 51 → hopBroken s here 1 = false →
        nextHop s p r = .go (outputOf here 1 .a) (p.lane .a) { r with x := r.x + 1 }) ∧
      (r.mesh = .a → r.x = exit.1 → r.y < exit.2 → r.y < 51 → hopBroken s here 2 = false →
        nextHop s p r = .go (outputOf here 2 .a) (p.lane .a) { r with y := r.y + 1 }) ∧
      (r.mesh = .b → r.y < exit.2 → r.y < 51 → hopBroken s here 2 = false →
        nextHop s p r = .go (outputOf here 2 .b) (p.lane .b) { r with y := r.y + 1 }) ∧
      (r.mesh = .b → r.y = exit.2 → r.x < exit.1 → r.x < 51 → hopBroken s here 1 = false →
        nextHop s p r = .go (outputOf here 1 .b) (p.lane .b) { r with x := r.x + 1 }) ∧
      (r.mesh = .a → r.x < exit.1 → hopBroken s here 1 = true → nextHop s p r = .turn { r with mesh := .fixed }) ∧
      (r.mesh = .fixed → (r.down = false ∨ (escapeOf s here r.dest).getLsbD 3 = true) → out = (escapeOf s here r.dest).toNat % 8 → out < 4 →
        hopBroken s here out = true → nextHop s p r = .wait) ∧
      (r.mesh = .fixed → r.down = true → (escapeOf s here r.dest).getLsbD 3 = false → (escapeOf s here r.dest).toNat % 8 < 5 →
        nextHop s p r = .discard)) ∧
    (chip < 8 → chipSilent s (0x110 + chip) = false →
      (inGroup s (0x110 + chip) = true →
        ((∀ i < len, summaryPoison (groupView (measured s)) ((fld va 15 0 + i) / 8 * 8) = false) →
          exec (.farAccess ⟨chip, who, num⟩ va len none) s = .next { measured s with reply := .bytes (getList (severedBlock (measured s)) (fld va 15 0) len) }) ∧
        ((∃ i < len, summaryPoison (groupView (measured s)) ((fld va 15 0 + i) / 8 * 8) = true) →
          exec (.farAccess ⟨chip, who, num⟩ va len none) s = .next { measured s with reply := .poison }) ∧
        (∀ x, exec (.farAccess ⟨chip, who, num⟩ va len (some x)) s = .next s)) ∧
      (inGroup s (0x110 + chip) = false → ignored → exec (.farAccess ⟨chip, who, num⟩ va len data) s = .next s) ∧
      (inGroup s (0x110 + chip) = false → came →
        (fe.reply = some rp → data.isSome = true → exec (.farAccess ⟨chip, who, num⟩ va len data) s = .next { u with reply := rp }) ∧
        (fe.reply = none ∨ data = none →
          (∀ j, fe.sub = some j → findReq u j = some rq →
            ((settled rq = false ∨ awaitsRevs u j = true) → exec (.farAccess ⟨chip, who, num⟩ va len data) s = .next u) ∧
            (settled rq = true → awaitsRevs u j = false →
              (reqError rq = none → exec (.farAccess ⟨chip, who, num⟩ va len data) s = .next (replySeen (dropReq u rq.id) fe (if rq.op = .store then .acked else load k))) ∧
              (∀ cause y, reqError rq = some (cause, y) → cause ≠ 0x24 →
                exec (.farAccess ⟨chip, who, num⟩ va len data) s = .next (replySeen (dropReq u rq.id) fe (if rq.op = .store then .fault 7 else .poison))) ∧
              (∀ y, reqError rq = some (0x24, y) → exec (.farAccess ⟨chip, who, num⟩ va len data) s = .next (updSeen (dropReq u rq.id) fe fun d => { d with sub := none })))) ∧
          (fe.sub = none →
            (farFault u chip who a k data.isSome = some (f, x) → f = walkFault → exec (.farAccess ⟨chip, who, num⟩ va len data) s = .next (askWalk u (farUnit chip who) u.farTt x)) ∧
            (farFault u chip who a k data.isSome = some (f, x) → f ≠ walkFault →
              exec (.farAccess ⟨chip, who, num⟩ va len data) s = .next (replySeen (u.forget (farUnit chip who)) fe (.fault (BitVec.ofNat 8 f)))) ∧
            (farFault u chip who a k data.isSome = none → k ≠ 0 → exec (.farAccess ⟨chip, who, num⟩ va len data) s = .next (postServe u fe a k data)) ∧
            (k = 0 → exec (.farAccess ⟨chip, who, num⟩ va len data) s = .next (replySeen u fe (if data.isSome then .acked else .bytes [])))))) ∧
      (ignored → exec (.farMessage ⟨chip, who, num⟩ h words count) s = .next s) ∧
      (came →
        (fe.reply = some rp → exec (.farMessage ⟨chip, who, num⟩ h words count) s = .next { u with reply := rp }) ∧
        (fe.reply = none → farPayload h words = some ws → resolve u (8192 + chip) (hDest h) ≠ .absent → resolve u (8192 + chip) (hDest h) ≠ .dead →
          exec (.farMessage ⟨chip, who, num⟩ h words count) s = .next (replySeen (emit u (8192 + chip) (hDest h) (hTc h) told) fe .acked)) ∧
        (fe.reply = none → farPayload h words = some ws → (resolve u (8192 + chip) (hDest h) = .absent ∨ resolve u (8192 + chip) (hDest h) = .dead) →
          exec (.farMessage ⟨chip, who, num⟩ h words count) s = .next (replySeen u fe (.notice 0x33 (hDest h) h))) ∧
        (fe.reply = none → farPayload h words = none → exec (.farMessage ⟨chip, who, num⟩ h words count) s = .next u))) ∧
    (∃ t : State, exec (.farTtWrite v) s = .next t ∧ t.farTt = v &&& 0xFFFF00FFFFFFF001 ∧ t.farTlb = [] ∧
      (∀ q ∈ t.asks, ∀ c w, q.unit ≠ .far c w) ∧ ∀ q ∈ t.reqs, isWalk q.op = true → q.core < 8192) ∧
    (chip < 8 → fib < 4 → lam < 8 → (chip, fib, lam) ∉ s.deadWaves →
      exec (.wavelengthFailure chip fib lam) s = .next { s with deadWaves := s.deadWaves ++ [(chip, fib, lam)] }) ∧
    (b < 2 → clockRuns (s.getChiplet (0x120 + b)) = true → bustState s (0x120 + b) ≠ 6 →
      exec (.heartbeat b) s = .next (newPacket s (4096 + 2 * b) (4098 - 2 * b) (bcRank (1 - b)) 2 (.sync b) none)) ∧
    (chipSilent s 0x120 = false → ∃ t : State, exec (.heartbeatLossWest l) s = .next t ∧
      (∀ c ∈ l, isChiplet c = true → c ≠ 0x120 → chipSilent s c = false → isLost t c = true) ∧
      t.tables = some (survey t) ∧ (∀ g ∈ t.netSel, isLost t (siteOf g.1.1) = true) ∧ (∀ g ∈ t.escape, isLost t (siteOf g.1.1) = true) ∧
      (∀ c, isLost t (chipOf c) = true → t.getCore c = s.getCore c) ∧ t.hbm = s.hbm ∧ t.stacksBad = s.stacksBad) ∧
    (chipSilent s 0x121 = false → exec (.severed l) s = .next
      { s with severed := true, group := (0x121 :: l).filter fun cn => isChiplet cn && cn != 0x120 && !chipSilent s cn })

/-- A chiplet climbs from DARK to READY or is fenced, the module settles, and performance states change. R367 to R370, R373, R388, R393 and R397 to R399. Whether the signatures of the images are good is a free value, for each of which the statement holds. The model's choices: what a reset keeps and how an image is checked (log 21), the cut of the end of the ascents into two events (log 22), and PSTATE as a packet to core 0 of each cluster with the order of its transitions (log 24). -/
def Obligations.BringupAndPowerEvents : Prop :=
  ∀ (s : State) (cn b id : Nat) (fw sup : List Byte) (bondok spare : BitVec 4) (v : Word) (st : BitVec 3) (q : BitVec 3 × Option (CoreId × Nat × Nat))
    (p : Packet) (r : Route),
    let h := s.getChiplet cn
    let both := imageOk 0 fw && imageOk 1 sup
    let clean (n : Word) : State := { State.reset with agenda := s.agenda, focus := s.focus, tick := s.tick, fresh := s.fresh, modStat := n }
    let at' (t : State) (n : Nat) : Prop := bustState t cn = n ∧ ∀ m, m ≠ cn → bustState t m = bustState s m
    (both = false → exec (.moduleReset fw sup) s = .next (clean 0x101)) ∧
    (both = true → exec (.moduleReset fw sup) s = .next (startFirmware { clean 1 with fwImage := trimImage fw, supImage := trimImage sup } (trimImage fw)) ∧
      let t := startFirmware { clean 1 with fwImage := trimImage fw, supImage := trimImage sup } (trimImage fw)
      t.modStat = 1 ∧ t.hbm = [] ∧ t.fwImage = trimImage fw ∧ t.supImage = trimImage sup) ∧
    (ascending s = true →
      (isChiplet cn = true → bustState s cn = 0 → (0x120 ≤ cn ∨ heardFrom s cn (fun _ => true) = true) →
        exec (.clockLock cn) s = .next (setBustState s cn 1) ∧ at' (setBustState s cn 1) 1) ∧
      (isChiplet cn = true → bustState s cn = 0 → cn < 0x120 → heardFrom s cn (fun _ => true) = false → exec (.clockLock cn) s = .next s) ∧
      (bustState s cn = 1 → ∃ t : State, exec (.calibrationDone cn bondok spare) s = .next t ∧ at' t 2 ∧
        fld (t.getChiplet cn).bust 19 16 = bondok.toNat ∧ fld (t.getChiplet cn).bust 23 20 = spare.toNat ∧
        ∀ side < 4, bondok.getLsbD side = false → ∀ i ∈ sideLinks cn side, linkExists (i / 4) (i % 4) = true → i ∈ t.linksBad) ∧
      (climbing s cn = true → exec (.calibrationFail cn) s = .next (chipDown s cn) ∧ bustState (chipDown s cn) cn = 6) ∧
      (bustState s cn = 2 → exec (.frameTimeout cn) s = .next (chipDown s cn) ∧ bustState (chipDown s cn) cn = 6) ∧
      (bustState s cn = 2 → b < 2 → frameReaches s cn b = true → ∃ t : State, exec (.configurationFrame cn b) s = .next t ∧ at' t 3 ∧
        (cn < 2 ^ 16 → fld (t.getChiplet cn).bust 47 32 = cn) ∧ fld (t.getChiplet cn).bust 4 4 = b ∧ (t.getChiplet cn).framed = true ∧
        (cn < 169 → ∀ e ∈ t.netSel, siteOf e.1.1 ≠ cn) ∧ (cn < 169 → ∀ e ∈ t.escape, siteOf e.1.1 ≠ cn)) ∧
      (bustState s cn = 2 → frameReaches s cn 0 = true → frameReaches s cn 1 = true →
        exec (.configurationFrame cn 2) s = exec (.configurationFrame cn 0) s) ∧
      (b ≠ 2 → frameReaches s cn b = false → exec (.configurationFrame cn b) s = .next s) ∧
      (bustState s cn = 3 → exec (.belayed cn) s = .next (setBustState s cn 4) ∧ at' (setBustState s cn 4) 4) ∧
      (bustState s cn = 4 → exec (.ready cn) s = .next (setBustState s cn 5) ∧ at' (setBustState s cn 5) 5)) ∧
    (5 ≤ bustState s cn → ∀ i ∈ [Instr.clockLock cn, .calibrationDone cn bondok spare, .calibrationFail cn, .frameTimeout cn,
      .configurationFrame cn b, .belayed cn, .ready cn], exec i s = .next s) ∧
    (timesAscent s = true →
      (ascending s = true → exec .ascentSettled s = .next (settleAscent s) ∧ (settleAscent s).modStat = 2 ∧
        ∀ m, isChiplet m = true → climbing s m = true → bustState (settleAscent s) m = 6) ∧
      (modState s = 2 → ∃ t : State, exec .ascentSettled s = .next t ∧ t.modStat = 3 ∧ t.powcap = 0xD48 ∧ t.pstate = 3 ∧ t.farTt = 0 ∧
        t.hbm = [] ∧ t.co = [] ∧ t.ranks = [] ∧ t.groups = [])) ∧
    (h.busy = false → exec (.pstateTransitionDone cn) s = .next s) ∧
    (h.busy = true → (h.queue = [] ∨ h.target ≠ 7 ∧ h.queue = [q]) → ∃ t : State, exec (.pstateTransitionDone cn) s = .next t ∧
      (t.getChiplet cn).cur = h.target ∧ (t.getChiplet cn).busy = false ∧ (t.getChiplet cn).queue = []) ∧
    (h.busy = true → h.target ≠ 7 → h.queue = [q, (st, none)] → st ≠ h.target → st ≠ 7 → ∃ t : State,
      exec (.pstateTransitionDone cn) s = .next t ∧ (t.getChiplet cn).req = st ∧ (t.getChiplet cn).target = st ∧ (t.getChiplet cn).busy = true) ∧
    (isCluster cn = true → bustState s cn = 5 → h.busy = false → h.cur ≠ 7 →
      exec (.powerCapThrottle cn false st) s = .next (s.setChiplet cn { h with capped := false, cur := h.req }) ∧
      (h.req.toNat ≤ st.toNat → st ≠ 7 →
        exec (.powerCapThrottle cn true st) s = .next (s.setChiplet cn { h with capped := true, cur := st })) ∧
      (st.toNat < h.req.toNat → exec (.powerCapThrottle cn true st) s = .next s)) ∧
    (modState s = 3 →
      (∃ t : State, exec (.pstateWrite v) s = .next t ∧ t.pstate = v &&& 7 ∧ t.chiplets = s.chiplets ∧
        ∀ n ∈ liveClusters s, ∃ p ∈ t.net, p.dst = coreAt n 0 ∧ p.body = .pstate n (v.setWidth 3)) ∧
      exec (.powcapWrite v) s = .next { s with powcap := BitVec.ofNat 64 (min 5800 (max 1500 (fld v 12 0))) }) ∧
    (modState s ≠ 3 → exec (.pstateWrite v) s = .next s ∧ exec (.powcapWrite v) s = .next s) ∧
    (s.net.find? (·.id = id) = some p → p.route = some r → p.came = true → p.orig ≠ 0 → p.dst < 8192 → p.body = .pstate cn st →
      p.num = pget 0 s.expects (p.who, p.home) → h.busy = false → h.queue = [] →
      ∃ t : State, exec (.routerForward id) s = .next t ∧ (t.getChiplet cn).req = st)

/-- The host and the firmware write the register block, use CXL.mem and the mailbox, and read attestation answers. R102, R240, R383, R385, R389, R391 to R394, R396 and R402. Keys, certificates and signatures are free values. The model's choices: one SUMMARY event for each double (log 25); a command before READY leaves MB_CMD and gives RESULT 2, and one while BUSY is dropped (log 26); measurement 255 gives all four (log 27). -/
def Obligations.HostEvents : Prop :=
  ∀ (s : State) (off len i a n : Nat) (v data : Word) (arg : BitVec 48) (op : BitVec 16) (bytes nonce : List Byte) (l : Launch),
    let cmd (n : Nat) : State := { s with mbCmd := BitVec.ofNat 16 n ++ arg }
    let place (j : Nat) : Place := windowPlace s (off + j)
    let pa := windowPa off
    let q := fld data 2 0
    let cfg := data &&& ~~~7#64
    let kept : Prop := qBase cfg = qBase (s.queue q).cfg ∧ fld cfg 47 44 = fld (s.queue q).cfg 47 44
    let fits : Prop := arg.toNat < 2 ^ 40 ∧ arg.toNat % 2 ^ 16 = 0 ∧ stackLive s (arg.toNat / 2 ^ 36) = true ∧
      isLost s (0x100 + arg.toNat / 2 ^ 36) = false ∧ arg.toNat % 2 ^ 36 + 2 ^ 16 ≤ populated
    let spoilt (j : Nat) : Bool := poisoned s (place j) 1 || outOfReach s (place j)
    let view := westView (measured s)
    let sample := firmwareBytes (measured s) (takingBasecamp (measured s)) (a + 8 * n)
      (getList (summaryBlock view (s.summarySeq + 1) s.modStat) (8 * n) 8)
    let told : State := { cmd 0xC002 with mbData := data }
    (modState s = 3 →
      exec (.registerWrite true 0x08 v) s = .next { s with powcap := BitVec.ofNat 64 (min 5800 (max 1500 (fld v 12 0))) } ∧
      exec (.registerWrite true 0x10 v) s = exec (.pstateWrite v) s ∧
      exec (.registerWrite true 0x1010 v) s = .next { s with mbData := v } ∧
      (off ≠ 0x08 → off ≠ 0x10 → off ≠ 0x1000 → off ≠ 0x1010 → exec (.registerWrite true off v) s = .next s)) ∧
    (modState s ≠ 3 → off ≠ 0x1000 → exec (.registerWrite true off v) s = .next s) ∧
    (fld v 63 48 = 0xC001 → exec (.registerWrite true 0x1000 v) s = exec (.takeToken (v.setWidth 48)) s) ∧
    exec (.registerWrite false 0x188 v) s = .next { s with farCfg := v &&& 0xFF1F030001 } ∧
    exec (.registerWrite false 0x190 v) s = .next { s with switchBase := v &&& 0xFFFFE00000 } ∧
    (i < 8 → exec (.registerWrite false (0x100 + 8 * i) v) s = .next (s.setQueue i { s.queue i with cfg := v &&& 0x8007F0FFFFFFFF00 })) ∧
    (off + len ≤ 16 * populated →
      (modState s ≠ 3 → exec (.cxlMemRead off len) s = .next { s with reply := .poison }) ∧
      (modState s = 3 → (∃ j < len, spoilt j = true) → exec (.cxlMemRead off len) s = .next { s with reply := .poison }) ∧
      (modState s = 3 → (∀ j < len, spoilt j = false) →
        exec (.cxlMemRead off len) s = .next { s with reply := .bytes ((List.range len).map fun j => getByte s.hbm (windowPa (off + j))) })) ∧
    (off + bytes.length ≤ 16 * populated →
      (modState s ≠ 3 → exec (.cxlMemWrite off bytes) s = .next { s with reply := .acked }) ∧
      (modState s = 3 → 0 < bytes.length → bytes.length ≤ 32 - off % 32 →
        (partOf s bytes.length (place 0) = false → outOfReach s (place 0) = false → ∃ t : State, exec (.cxlMemWrite off bytes) s = .next t ∧ t.reply = .acked ∧
          getList t.hbm pa bytes.length = bytes ∧ ∀ a, a < pa ∨ pa + bytes.length ≤ a → getByte t.hbm a = getByte s.hbm a) ∧
        (partOf s bytes.length (place 0) = true ∨ outOfReach s (place 0) = true → exec (.cxlMemWrite off bytes) s = .next { s with reply := .acked }))) ∧
    (s.summary = some (a, n) →
      (n < 8192 →
        (summaryPoison view (8 * n) = false → exec (.summary arg) s = .next { sample with summary := some (a, n + 1) }) ∧
        (summaryPoison view (8 * n) = true → exec (.summary arg) s =
          .next { sample with summary := some (a, n + 1), hbmPoison := sins sample.hbmPoison ((a + 8 * n) / 32) })) ∧
      (8192 ≤ n → exec (.summary arg) s = .next { firmwareBytes s (takingBasecamp s) a (wordsBytes [s.summarySeq + 1]) with
        summarySeq := s.summarySeq + 1, summary := none, mbStat := 0, mbRet := s.summarySeq + 1 })) ∧
    (mbBusy s = true → exec (.takeToken arg) s = .next s ∧ exec (.registerWrite true 0x1000 v) s = .next s ∧
      (op.toNat < 0xC000 ∨ 0xC003 < op.toNat → exec (.mbUnsupportedOpcode op arg) s = .next s)) ∧
    (mbBusy s = false → modState s ≠ 3 → s.summary = none → ∀ i ∈ [Instr.summary arg, .takeToken arg, .abort arg data, .queueCfg arg data],
      exec i s = .next { s with mbStat := 2 }) ∧
    (mbBusy s = false → modState s = 3 →
      (s.summary = none → fits → exec (.summary arg) s = .next { cmd 0xC000 with summary := some (arg.toNat, 1), mbStat := BitVec.ofNat 64 (2 ^ 63) }) ∧
      (s.summary = none → ¬ fits → exec (.summary arg) s = .next { cmd 0xC000 with mbStat := 1 }) ∧
      (arg = s.token → exec (.takeToken arg) s = .next
        { cmd 0xC001 with token := s.token + 1, mbStat := 0, mbRet := (s.token + 1).setWidth 64 }) ∧
      (arg ≠ s.token →
        exec (.takeToken arg) s = .next { cmd 0xC001 with mbStat := 3 } ∧
        exec (.abort arg data) s = .next { told with mbStat := 3 } ∧
        exec (.queueCfg arg data) s = .next { cmd 0xC003 with mbData := data, mbStat := 3 }) ∧
      (arg = s.token →
        (launchById told data = none → exec (.abort arg data) s = .next { told with mbStat := 1 }) ∧
        (launchById told data = some l → exec (.abort arg data) s = .next { abortLaunch told l with mbStat := 0 } ∧
          let t : State := { abortLaunch told l with mbStat := 0 }
          ((∀ j < 8, readsPoison s (l.pa + 0xF8 + j) = false) → getDouble t.hbm (l.pa + 0xF8) = statusWord 5 0 l) ∧
          (l.state = .running → (∀ c ∈ l.cores, ∀ i < 8, ((t.seatAt c.2 i).firing.bind (·.launch)) ≠ some l.id) ∧
            ∃ g ∈ t.launches, g.id = l.id ∧ g.state = .aborted ∧ g.status = statusWord 5 0 l)) ∧
        (cfg &&& ~~~0x8007F0FFFFFFFF00#64 = 0 → qBase cfg % (256 * qRecords cfg) = 0 →
          (kept → ∃ t : State, exec (.queueCfg arg data) s = .next t ∧ t.mbStat = 0 ∧ t.mbRet = cfg ∧ (t.queue q).cfg = cfg ∧
            (t.queue q).rix = (s.queue q).rix) ∧
          (¬ kept → (s.queue q).cfg.getLsbD 63 = false → ∃ t : State, exec (.queueCfg arg data) s = .next t ∧ t.mbStat = 0 ∧
            (t.queue q).cfg = cfg ∧ (t.queue q).rix = 0) ∧
          (¬ kept → (s.queue q).cfg.getLsbD 63 = true → exec (.queueCfg arg data) s = .next { cmd 0xC003 with mbData := data, mbStat := 1 }))) ∧
      (op.toNat < 0xC000 ∨ 0xC003 < op.toNat →
        exec (.mbUnsupportedOpcode op arg) s = .next { s with mbCmd := op ++ arg, mbStat := 4 })) ∧
    exec .getVersion s = .next { s with reply := .version 1 2 } ∧
    exec .getCapabilities s = .next { s with reply := .capabilities false } ∧
    exec .negotiateAlgorithms s = .next { s with reply := .algorithms 3072 256 } ∧
    exec .getDigests s = .next { s with reply := .digests (Config.certSlots.map fun n => Config.sha256 (Config.certificate n)) } ∧
    exec (.getCertificate i) s = .next { s with reply := .certificate (Config.certificate i) } ∧
    exec (.challenge i nonce) s = .next { s with reply := .challenge (Config.challengeSig (Config.sha256 (Config.certificate i) ++ nonce)) } ∧
    exec (.getMeasurements i) s = .next { s with reply := .measurements (if i = 255 then [1, 2, 3, 4].flatMap (measurement s) else measurement s i) }

/-- Every supervisor instruction outside seat 7 takes the privilege trap, before its guard. R29. The cause number 0x02 and the TRAP_VAL are those of R375; before the guard as R30 orders the checks. -/
def Obligations.SupervisorInstructionsTrap : Prop :=
  ∀ (i : Instr) (c : Ctl) (s : State), issueOf i = some (c, true) → s.seat ≠ 7 →
    exec i s = .next (precise s 0x02 (encodeWord i))

/-- A false guard skips the instruction and a pending guard predicate makes the seat wait. R20, R30, R77, R117 and R324. That the privilege of a single register is checked before the guard, for sr.rd and sr.wr alike, is the model's choice (log 38). -/
def Obligations.GuardRules : Prop :=
  ∀ (i : Instr) (c : Ctl) (sup : Bool) (s : State), issueOf i = some (c, sup) → (sup = true → s.seat = 7) →
    (∀ d r, seat7Reads r.toNat = true → s.seat ≠ 7 → exec (.srRd c d r) s = .next (precise s 0x02 (encodeWord (.srRd c d r)))) ∧
    (∀ a r, writesReg s.core r.toNat = false → s.seat = 7 → exec (.srWr c a r) s = .next (precise s 0x02 (encodeWord (.srWr c a r)))) ∧
    ((∀ d r, i = .srRd c d r → seat7Reads r.toNat = false ∨ s.seat = 7) → (∀ a r, i = .srWr c a r → writesReg s.core r.toNat = true) →
    (s.thisSeat.pendP c.gp = true → exec i s = .next (blocked s)) ∧
    (s.thisSeat.pendP c.gp = false → guardTrue c s.thisSeat = false → exec i s = .next (retire c.sw 2 s)) ∧
    (s.thisSeat.pendP c.gp = false → guardTrue c s.thisSeat = false → repeating s = false → s.thisSeat.pc.toNat + 2 ≤ 0xFFFF →
      exec i s = .next ((s.forget s.me).setThisSeat (switched c.sw { s.thisSeat with pc := s.thisSeat.pc + 2, rpt := 0 })))) ∧
    (∀ (sw : Bool) (p : BitVec 3) (o : BitVec 6), (s.thisSeat.pendP p = true → exec (.hBp sw p o) s = .next (blocked s)) ∧
      (s.thisSeat.pendP p = false → s.thisSeat.getP p = false → exec (.hBp sw p o) s = .next (retire sw 1 s)))

/-- A pending destination, an outstanding acquire, an unregistered access before a release and a full OUT make the seat wait; EARLY_RD traps. R77, R78, R114 to R116 and R143. That a read before the return yields the old value is one of the two values of R115; the returned one comes of the event RESULT_RETURN standing before the read in the schedule. Which register TRAP_VAL names when several are pending, the first in operand order, is the model's choice (log 74). -/
def Obligations.WaitsAndEarlyReads : Prop :=
  ∀ (s : State) (c : Ctl) (d a b : BitVec 5) (vd va vb : BitVec 4) (k : BitVec 2) (t3 : BitVec 3) (f4 : BitVec 4) (o : BitVec 8) (z : BitVec 1),
    let t := s.thisSeat
    let early := s.thisCore.dbgCtl.getLsbD 0
    t.pendP c.gp = false → guardTrue c t = true →
    (t.pendX d = true →
      exec (.add c d a b) s = .next (blocked s) ∧ exec (.ldD c d a o) s = .next (blocked s) ∧ exec (.ldf c d a o) s = .next (blocked s) ∧
      exec (.amoSwap c d a b z) s = .next (blocked s) ∧ exec (.srRd c d 1) s = .next (blocked s)) ∧
    (t.pendV vd = true →
      exec (.vaddInt c vd va vb k t3) s = .next (blocked s) ∧ exec (.vld c vd a f4 k) s = .next (blocked s) ∧
      exec (.vgatherW c vd a va k) s = .next (blocked s)) ∧
    (acquiring t = true →
      exec (.ldW c d a o) s = .next (blocked s) ∧ exec (.stW c d a o) s = .next (blocked s) ∧ exec (.ldAcqW c d a o) s = .next (blocked s) ∧
      exec (.stRelW c d a o) s = .next (blocked s) ∧ exec (.ldt c d a o) s = .next (blocked s) ∧ exec (.stf c d a o) s = .next (blocked s) ∧
      exec (.amoAdd c d a b z) s = .next (blocked s) ∧ exec (.vld c vd a f4 k) s = .next (blocked s) ∧ exec (.vst c vd a k) s = .next (blocked s) ∧
      exec (.vscatterH c vd a va k) s = .next (blocked s) ∧ exec (.hlPost c a) s = .next (blocked s)) ∧
    (unreleased s s.core s.seat.val = true →
      exec (.stRelD c d a o) s = .next (blocked s) ∧ exec (.ste c d a o) s = .next (blocked s) ∧ exec (.stf c d a o) s = .next (blocked s) ∧
      exec (.feFill c a b) s = .next (blocked s) ∧ exec (.hlPost c a) s = .next (blocked s)) ∧
    (Ready c { rx := [a], wx := [d], mem := true } s → t.out = 32 → checkScalar s s.me .read (effAddr s a o 4) 4 = none →
      exec (.ldW c d a o) s = .next (blocked s)) ∧
    (early = false → t.pendX d = false → exec (.add c d a b) s = .next (retire c.sw 2 (wroteX s d (t.getX a + t.getX b)))) ∧
    (early = true → t.pendX d = false → t.pendX a = true → exec (.add c d a b) s = .next (precise s 0x04 (a.setWidth 64))) ∧
    (early = true → t.pendX d = false → t.pendX a = false → t.pendX b = true → exec (.add c d a b) s = .next (precise s 0x04 (b.setWidth 64))) ∧
    (early = true → t.pendV vd = false → t.pendV va = true →
      exec (.vaddInt c vd va vb k t3) s = .next (precise s 0x04 (32 + va.setWidth 64)))

/-- A trap of seats 0 to 6 writes the trap registers, stops the seat as TRAPPED and queues a firing of class 0xF0 plus the group. R118, R119, R374, R377 and R380. -/
def Obligations.TrapEntry : Prop :=
  ∀ (s : State) (c n : Nat) (cause : BitVec 8) (v : Word) (pc rpc : Parcel) (w : BitVec 32),
    let t := s.seatAt c n
    let u := trapSeat s c n cause v pc rpc
    let e := u.seatAt c n
    let d := supCore s c
    (n < 7 → t.status ≠ .trapped →
      e = { t with status := .trapped, trapPc := pc, trapCause := cause.setWidth 9, trapVal := v, rpc := rpc, preempt := false, beyond := none } ∧
      (u.getCore d).traps = (s.getCore d).traps ++ [⟨0xF0 + (cause >>> 4), cause, if d = c then some n else none,
        [fwdX16 s c (BitVec.ofNat 64 n), pc.setWidth 64, cause.setWidth 64, v]⟩] ∧
      (∀ (c' : CoreId) (m : Nat), c' ≠ c ∨ m ≠ n → u.seatAt c' m = s.seatAt c' m) ∧
      (∀ p : Place, p.read u 1 = p.read s 1) ∧ (u.getCore d).events = (s.getCore d).events) ∧
    (n < 8 → t.status = .trapped → u = s.updSeatAt c n fun t => { t with trapCause := t.trapCause ||| 0x100 }) ∧
    ((s.seatAt c 7).fenced = false → d = c ∧ fwdX16 s c (BitVec.ofNat 64 n) = BitVec.ofNat 64 n) ∧
    ((s.seatAt c 7).fenced = true → isBc c = false → d = coxOf c) ∧
    precise s cause v = trapSeat s s.core s.seat.val cause v s.thisSeat.pc s.thisSeat.pc ∧
    exec (.illegalInstruction w) s = .next (trapSeat s s.core s.seat.val 0x00 (w.setWidth 64) s.thisSeat.pc s.thisSeat.pc)

/-- A trap of seat 7 fences it, with the fence notice of the seat to the cox core, and raises the double trap where R121, R381 and R404 say. R121, R381, R382, R384 and R404. The model's readings: the notice comes before the double trap, and which basecamp a cluster without a launch has (log 6); x19 of the notice has GO set (log 46). -/
def Obligations.SeatSevenTrap : Prop :=
  ∀ (s : State) (c : CoreId) (cause : BitVec 8) (v : Word) (pc rpc : Parcel),
    let t := s.seatAt c 7
    let u := trapSeat s c 7 cause v pc rpc
    let e := u.seatAt c 7
    let notice : Queued := ⟨0xF7, 0x71, none, [0xFF, 0, 0x71, BitVec.ofNat 64 (2 ^ 63 + (8 * c + 7))]⟩
    let gets (d : CoreId) (qs : List Queued) : Prop :=
      let k := qs.foldl Core.addEvent (s.getCore d)
      (u.getCore d).events = k.events ∧ (u.getCore d).notices = k.notices
    let twice (regs : List Word) : Queued := ⟨0xF7, 0x70, none, regs⟩
    t.status ≠ .trapped →
    e.fenced = true ∧ e.status = .free ∧ e.firing = none ∧ e.trapPc = pc ∧ e.trapCause = cause.setWidth 9 ∧ e.trapVal = v ∧
    (∀ m < 7, u.seatAt c m = s.seatAt c m) ∧ (∀ p : Place, p.read u 1 = p.read s 1) ∧
    (isGridCore c = true → c ≠ coxOf c → u.inbox = s.inbox ∧
      gets (coxOf c) [notice, twice [0xFF, 0, 0x70, BitVec.ofNat 64 (coreNo c), cause.setWidth 64, pc.setWidth 64]]) ∧
    (isGridCore c = true → c = coxOf c →
      u.inbox = s.inbox ++ [(basecampOf s c, 0x3DC00080000, [BitVec.ofNat 64 (clusterOf c)])] ∧
      gets c [notice] ∧ gets (4096 + 2 * basecampOf s c) [twice [0xFF, 0, 0x70, BitVec.ofNat 64 (clusterOf c)]]) ∧
    (isBc c = true →
      u.inbox = s.inbox ++ [(1 - (c - 4096) / 2, 0x3DC00180000, [BitVec.ofNat 64 (chipOf c), BitVec.ofNat 64 (coreNo c % 2)])] ∧
      gets (4096 + 2 * (1 - (c - 4096) / 2)) [twice [0xFF, 0, 0x70, BitVec.ofNat 64 (chipOf c), BitVec.ofNat 64 (coreNo c % 2)]])

/-- trap takes the software trap 0x06 with TRAP_VAL := xa when its guard is true, and a double trap in seat 7. R326; the cause number 0x06 is that of R375. -/
def Obligations.SoftwareTrap : Prop :=
  ∀ (s : State) (c : Ctl) (a : BitVec 5),
    let t := s.thisSeat
    (Ready c { rx := [a] } s → t.status = .running → s.seat ≠ 7 → ∃ u : State, exec (.trap c a) s = .next u ∧
      u.seatAt s.core s.seat.val = { t with status := .trapped, trapPc := t.pc, trapCause := 0x006, trapVal := t.getX a, rpc := t.pc, preempt := false, beyond := none } ∧
      ∃ q : Queued, (u.getCore (supCore s s.core)).traps = (s.getCore (supCore s s.core)).traps ++ [q] ∧ q.cls = 0xF0 ∧ q.code = 0x06) ∧
    (t.pendP c.gp = false → guardTrue c t = false → exec (.trap c a) s = .next (retire c.sw 2 s)) ∧
    (Ready c { rx := [a] } s → t.status = .running → s.seat = 7 → ∃ u : State, exec (.trap c a) s = .next u ∧
      (u.seatAt s.core 7).fenced = true ∧ (u.seatAt s.core 7).status = .free ∧ (u.seatAt s.core 7).trapVal = t.getX a)

/-- A firing started by a trap finds the registers of R120. R111, R118 and R120. -/
def Obligations.TrapFiringRegisters : Prop :=
  ∀ (s : State) (core n : Nat) (e : Parcel) (cause : BitVec 8) (pc v : Word) (rest : List Queued),
    let k := s.getCore core
    let cls : BitVec 8 := 0xF0 + (cause >>> 4)
    k.traps = ⟨cls, cause, some n, [BitVec.ofNat 64 n, pc, cause.setWidth 64, v]⟩ :: rest → n < 7 → (k.getSeat n).status = .trapped →
    (k.getSeat n).outs = [] → seat7Free s core = true → handlerOf k cls = some e → k.starts e.toNat = true →
    ∃ t : State, exec (.trapFiringBinding core) s = .next t ∧ t.seatAt core n = s.seatAt core n ∧
      let u := t.seatAt core 7
      u.status = .running ∧ u.pc = e ∧ u.rpt = 0 ∧ u.outs = [] ∧ u.p = 0 ∧
      u.getX 1 = cls.setWidth 64 ∧ u.getX 2 = 0 ∧ u.getX 3 = 0 ∧ u.getX 4 = 0 ∧ u.getX 16 = BitVec.ofNat 64 n ∧ u.getX 17 = pc ∧
      u.getX 18 = (k.getSeat n).trapCause.setWidth 64 ∧ u.getX 19 = v ∧
      ∀ r : BitVec 5, 5 ≤ r.toNat → (r.toNat < 16 ∨ 20 ≤ r.toNat) → u.getX r = 0

/-- An access that fails a check of R93 takes its precise trap with the failing address, in the order of the checks, or awaits the walk of its translation. R18, R93, R137, R139, R140, R142, R148, R150, R151, R159 and R165. That a walk is awaited with the seat BLOCKED, one walk at a time, is the model's choice (log 93). -/
def Obligations.MemoryChecks : Prop :=
  ∀ (s : State) (c : Ctl) (d a b : BitVec 5) (o : BitVec 8) (z : BitVec 1) (sw : Bool) (d3 a3 o3 : BitVec 3) (vd vx tag : BitVec 4) (km : BitVec 2)
    (cause : BitVec 8) (v : Word) (x : Word) (size m act : Nat) (n : Need),
    let xs := s.thisSeat
    let ea (z : Nat) := effAddr s a o z
    let at' (i : Nat) : Word := x + BitVec.ofNat 64 i
    let amo : Nat := if z = 0 then 4 else 8
    let sealedAt (y : Word) : Prop := ∃ e, leafOf s s.me (fld y 47 0) = .hit e ∧ isSealed s (e.phys (fld y 47 0)) = true
    let actives (w : Nat) : Nat := (activeBits w (xs.getK km)).toNat
    let stored := tagWidth (xs.getV vd).tag
    let lane (need : Need) (z : Nat) := (laneAddrs xs a vx km z).findSome? fun l => checkScalar s s.me need l.2 z
    let stops (run : Result) (check : Option (BitVec 8 × Word)) : Prop := ∀ f y, check = some (f, y) →
      (f = walkCause → run = .next (askWalk (blocked s) s.me s.thisCore.ttRoot (fld y 47 0))) ∧
      (f ≠ walkCause → run = .next (precise s.ticked f y))
    (Ready c { rx := [a], wx := [d], mem := true } s →
      stops (exec (.ldB c d a o) s) (checkScalar s s.me .read (ea 1) 1) ∧
      stops (exec (.ldH c d a o) s) (checkScalar s s.me .read (ea 2) 2) ∧
      stops (exec (.ldW c d a o) s) (checkScalar s s.me .read (ea 4) 4) ∧
      stops (exec (.ldD c d a o) s) (checkScalar s s.me .read (ea 8) 8) ∧
      stops (exec (.ldBu c d a o) s) (checkScalar s s.me .read (ea 1) 1) ∧
      stops (exec (.ldHu c d a o) s) (checkScalar s s.me .read (ea 2) 2) ∧
      stops (exec (.ldWu c d a o) s) (checkScalar s s.me .read (ea 4) 4) ∧
      stops (exec (.ldAcqW c d a o) s) (checkScalar s s.me .read (ea 4) 4) ∧
      stops (exec (.ldAcqD c d a o) s) (checkScalar s s.me .read (ea 8) 8)) ∧
    (Ready c { rx := [a, d], mem := true } s →
      stops (exec (.stB c d a o) s) (checkScalar s s.me .write (ea 1) 1) ∧
      stops (exec (.stH c d a o) s) (checkScalar s s.me .write (ea 2) 2) ∧
      stops (exec (.stW c d a o) s) (checkScalar s s.me .write (ea 4) 4) ∧
      stops (exec (.stD c d a o) s) (checkScalar s s.me .write (ea 8) 8)) ∧
    (Ready c { rx := [a, d], mem := true, rel := true } s →
      stops (exec (.stRelW c d a o) s) (checkScalar s s.me .write (ea 4) 4) ∧
      stops (exec (.stRelD c d a o) s) (checkScalar s s.me .write (ea 8) 8)) ∧
    (Ready (halfCtl sw) { rx := [hx a3], wx := [hx d3], mem := true } s →
      stops (exec (.hLdW sw d3 a3 o3) s) (checkScalar s s.me .read (effAddr s (hx a3) (halfOff o3) 4) 4) ∧
      stops (exec (.hLdD sw d3 a3 o3) s) (checkScalar s s.me .read (effAddr s (hx a3) (halfOff o3) 8) 8)) ∧
    (Ready (halfCtl sw) { rx := [hx a3, hx d3], mem := true } s →
      stops (exec (.hStW sw d3 a3 o3) s) (checkScalar s s.me .write (effAddr s (hx a3) (halfOff o3) 4) 4) ∧
      stops (exec (.hStD sw d3 a3 o3) s) (checkScalar s s.me .write (effAddr s (hx a3) (halfOff o3) 8) 8)) ∧
    (Ready c { rx := [a], wx := [d], mem := true } s →
      stops (exec (.ldf c d a o) s) (checkSync s s.core (ea 4)) ∧
      stops (exec (.ldt c d a o) s) (checkSync s s.core (ea 4))) ∧
    (Ready c { rx := [a, d], mem := true, rel := true } s →
      stops (exec (.ste c d a o) s) (checkSync s s.core (ea 4)) ∧
      stops (exec (.stf c d a o) s) (checkSync s s.core (ea 4))) ∧
    (Ready c { rx := [a, b], wx := [d], mem := true } s →
      stops (exec (.amoAdd c d a b z) s) (checkAtomic s s.me (xs.getX a) amo amo) ∧
      stops (exec (.amoAnd c d a b z) s) (checkAtomic s s.me (xs.getX a) amo amo) ∧
      stops (exec (.amoOr c d a b z) s) (checkAtomic s s.me (xs.getX a) amo amo) ∧
      stops (exec (.amoXor c d a b z) s) (checkAtomic s s.me (xs.getX a) amo amo) ∧
      stops (exec (.amoMin c d a b z) s) (checkAtomic s s.me (xs.getX a) amo amo) ∧
      stops (exec (.amoMax c d a b z) s) (checkAtomic s s.me (xs.getX a) amo amo) ∧
      stops (exec (.amoMinu c d a b z) s) (checkAtomic s s.me (xs.getX a) amo amo) ∧
      stops (exec (.amoMaxu c d a b z) s) (checkAtomic s s.me (xs.getX a) amo amo) ∧
      stops (exec (.amoSwap c d a b z) s) (checkAtomic s s.me (xs.getX a) amo amo) ∧
      stops (exec (.amoFaddF32 c d a b) s) (checkAtomic s s.me (xs.getX a) 4 4)) ∧
    (Ready c { rx := [a, b, d], wx := [d], mem := true } s → stops (exec (.amoCas c d a b z) s) (checkAtomic s s.me (xs.getX a) amo amo)) ∧
    (Ready c { rx := [a], wv := [vd], mem := true } s →
      (actives (tagWidth tag) ≠ 0 → stops (exec (.vld c vd a tag km) s) (checkVec s .read (vecBase s a 512) (alignOf tag) 512 (actives (tagWidth tag)))) ∧
      stops (exec (.vldSc c vd a) s) (checkVec s .read (vecBase s a 32) 32 32 (2 ^ 256 - 1))) ∧
    (Ready c { rx := [a], rv := [vd], mem := true } s →
      (actives stored ≠ 0 → stops (exec (.vst c vd a km) s) (checkVec s .write (vecBase s a 512) (alignOf (xs.getV vd).tag) 512 (actives stored))) ∧
      stops (exec (.vstSc c vd a) s) (checkVec s .write (vecBase s a 32) 32 32 (2 ^ 256 - 1))) ∧
    (Ready c { rx := [a], rv := [vx], wv := [vd], mem := true } s →
      (indexFault xs vx 4 = none → stops (exec (.vgatherW c vd a vx km) s) (lane .read 4)) ∧
      (indexFault xs vx 2 = none → stops (exec (.vgatherH c vd a vx km) s) (lane .read 2))) ∧
    (Ready c { rx := [a], rv := [vx, vd], mem := true } s →
      (indexFault xs vx 4 = none → stops (exec (.vscatterW c vd a vx km) s) (lane .write 4)) ∧
      (indexFault xs vx 2 = none → stops (exec (.vscatterH c vd a vx km) s) (lane .write 2))) ∧
    (x.toNat % 4 ≠ 0 → checkSync s s.core x = some (0x10, x)) ∧
    (x.toNat % 4 = 0 →
      ((tagOf x = 1 ∨ tagOf x = 2) → layoutOk s s.core x = true → checkSync s s.core x = none) ∧
      (¬ ((tagOf x = 1 ∨ tagOf x = 2) ∧ layoutOk s s.core x = true) → checkSync s s.core x = some (0x11, x))) ∧
    (x.toNat % size ≠ 0 → checkAtomic s s.me x size size = some (0x10, x)) ∧
    (x.toNat % size = 0 →
      ((tagOf x ≠ 0 ∨ layoutOk s s.core x = false) → checkAtomic s s.me x size size = some (0x11, x)) ∧
      (tagOf x = 0 → layoutOk s s.core x = true → checkAtomic s s.me x size size = checkScalar s s.me .both x size)) ∧
    (x.toNat % m ≠ 0 → checkVec s n x m size act = some (0x10, x)) ∧
    (x.toNat % m = 0 →
      ((∀ i < size, act / 2 ^ (8 * i) % 256 ≠ 0 → layoutOk s s.core (at' i) = true) ∨
        ∃ i < size, act / 2 ^ (8 * i) % 256 ≠ 0 ∧ layoutOk s s.core (at' i) = false ∧
          (∀ j < i, act / 2 ^ (8 * j) % 256 ≠ 0 → layoutOk s s.core (at' j) = true) ∧ checkVec s n x m size act = some (0x11, at' i))) ∧
    (checkScalar s s.me n x size = some (cause, v) → v = x) ∧
    (x.toNat % size ≠ 0 → checkScalar s s.me n x size = some (0x10, x)) ∧
    (x.toNat % size = 0 → (∃ y ∈ byteAddrs x size, layoutOk s s.core y = false) → checkScalar s s.me n x size = some (0x11, x)) ∧
    (x.toNat % size = 0 → (∀ y ∈ byteAddrs x size, layoutOk s s.core y = true) → ∀ i < size, ∀ f, tagOf (at' i) = 0 →
      translate s s.me n (fld (at' i) 47 0) = .error f → (∀ j < i, tagOf (at' j) = 0 → ∃ e, translate s s.me n (fld (at' j) 47 0) = .ok e) →
      checkScalar s s.me n x size = some (f, x)) ∧
    (x.toNat % size = 0 → (∀ y ∈ byteAddrs x size, layoutOk s s.core y = true ∧ tagOf y = 0 ∧ ∃ e, translate s s.me n (fld y 47 0) = .ok e) →
      (n ≠ .read → (∃ y ∈ byteAddrs x size, sealedAt y) → checkScalar s s.me n x size = some (0x16, x)) ∧
      (n = .read ∨ (∀ y ∈ byteAddrs x size, ¬ sealedAt y) → checkScalar s s.me n x size = none)) ∧
    (x.toNat % size = 0 → (∀ y ∈ byteAddrs x size, layoutOk s s.core y = true ∧ tagOf y = 3) → 0 < size → n ≠ .read →
      checkScalar s s.me n x size = some (0x15, x)) ∧
    (x.toNat % size = 0 → (∀ y ∈ byteAddrs x size, layoutOk s s.core y = true ∧ (tagOf y = 1 ∨ tagOf y = 2 ∨ tagOf y = 4)) →
      checkScalar s s.me n x size = none)

/-- x0 reads zero, p7 reads one and k0 reads all ones, and writes to them are discarded. R76, R108 and R127. -/
def Obligations.HardwiredRegisters : Prop :=
  ∀ (t : Seat) (w : Word) (b : Bool) (m : BitVec 1024) (r q : BitVec 5) (e f : BitVec 3) (g h : BitVec 2),
    t.getX 0 = 0 ∧ t.getP 7 = true ∧ t.getK 0 = BitVec.allOnes 1024 ∧
    t.setX 0 w = t ∧ t.setP 7 b = t ∧ t.setK 0 m = t ∧
    (r ≠ 0 → (t.setX r w).getX r = w) ∧ (q ≠ r → (t.setX r w).getX q = t.getX q) ∧
    (e ≠ 7 → (t.setP e b).getP e = b) ∧ (f ≠ e → (t.setP e b).getP f = t.getP f) ∧
    (g ≠ 0 → (t.setK g m).getK g = m) ∧ (h ≠ g → (t.setK g m).getK h = t.getK h) ∧
    (∀ (s : State) (c : Ctl) (a b : BitVec 5), Ready c { rx := [a, b], wx := [0] } s →
      ∃ u : State, exec (.add c 0 a b) s = .next (retire c.sw 2 u) ∧ u.thisSeat = s.thisSeat ∧ ∀ (c' : CoreId) (n : Nat), u.seatAt c' n = s.seatAt c' n)

/-- An instruction on the registers of its seat leaves every other register, every memory and the system state as they were. R61, R76, R108, R118 and R123; from the sentences of the instruction pages that name the destination of each. -/
def Obligations.RegisterInstructionFrame : Prop :=
  ∀ (i : Instr) (w : Writes) (s t : State), writesOf i = some w → exec i s = .next t →
    let u := s.thisSeat
    let e := t.seatAt s.core s.seat.val
    (∀ r, r ∉ w.x → e.getX r = u.getX r) ∧ (∀ r, r ∉ w.p → e.getP r = u.getP r) ∧ (∀ r, r ∉ w.k → e.getK r = u.getK r) ∧
    (∀ r, r ∉ w.v → e.getV r = u.getV r) ∧ ((∀ c d a, i ≠ .vmov c d a) → (∀ c d a f, i ≠ .vtag c d a f) → ∀ r, (e.getV r).sc = (u.getV r).sc) ∧
    (∀ (c : CoreId) (n : Nat), c ≠ s.core ∨ n ≠ s.seat.val → (t.seatAt c n).x = (s.seatAt c n).x ∧ (t.seatAt c n).p = (s.seatAt c n).p ∧
      (t.seatAt c n).v = (s.seatAt c n).v ∧ (t.seatAt c n).k = (s.seatAt c n).k ∧ (t.seatAt c n).outs = (s.seatAt c n).outs) ∧
    (s.seat ≠ 7 → e.outs = u.outs ∧ e.q0 = u.q0 ∧ e.q2 = u.q2 ∧ e.q4 = u.q4 ∧ e.q6 = u.q6) ∧
    (∀ p : Place, p.read t 1 = p.read s 1) ∧
    (∀ c : CoreId, let k := t.getCore c
      let j := s.getCore c
      k.dbgCtl = j.dbgCtl ∧ k.ttRoot = j.ttRoot ∧ k.tretCtl = j.tretCtl ∧ k.bivBase = j.bivBase ∧ k.ctxBase = j.ctxBase ∧
      k.ovfCfg = j.ovfCfg ∧ k.ovfHead = j.ovfHead ∧ k.ovfTail = j.ovfTail ∧ k.sliceLen = j.sliceLen ∧ k.shell = j.shell ∧
      k.q1 = j.q1 ∧ k.q3 = j.q3 ∧ k.q6 = j.q6 ∧ k.q7 = j.q7 ∧ k.ports = j.ports ∧ k.patterns = j.patterns ∧ k.trees = j.trees ∧
      k.combine = j.combine ∧ k.code = j.code ∧ k.start = j.start ∧ k.handlers = j.handlers ∧ k.full = j.full) ∧
    t.ranks = s.ranks ∧ t.groups = s.groups ∧ t.codec = s.codec ∧ t.netSel = s.netSel ∧ t.escape = s.escape ∧ t.sealed = s.sealed ∧
    t.l2cfg = s.l2cfg ∧ t.l2pmap = s.l2pmap ∧ t.l2co = s.l2co ∧ t.powcap = s.powcap ∧ t.pstate = s.pstate ∧ t.clusters = s.clusters ∧
    t.chiplets = s.chiplets ∧ t.net = s.net

/-- A memory instruction changes no memory byte and no register of any seat at its issue. R78, R93, R115, R137 and R180. -/
def Obligations.MemoryInstructionIssueFrame : Prop :=
  ∀ (s t : State) (c : Ctl) (sw : Bool) (d a b : BitVec 5) (o : BitVec 8) (h3 i3 j3 : BitVec 3) (z : BitVec 1) (v y x : BitVec 4) (k : BitVec 2),
    let bytes : Prop := ∀ p : Place, p.read t 1 = p.read s 1
    let others : Prop := ∀ (c : CoreId) (n : Nat), (t.seatAt c n).x = (s.seatAt c n).x ∧ (t.seatAt c n).p = (s.seatAt c n).p ∧ (t.seatAt c n).k = (s.seatAt c n).k
    (∀ i ∈ ([.ldB c d a o, .ldH c d a o, .ldW c d a o, .ldD c d a o, .ldBu c d a o, .ldHu c d a o, .ldWu c d a o, .ldAcqW c d a o, .ldAcqD c d a o, .stB c d a o, .stH c d a o, .stW c d a o, .stD c d a o, .stRelW c d a o, .stRelD c d a o, .ldf c d a o, .ldt c d a o, .ste c d a o, .stf c d a o, .hLdW sw h3 i3 j3, .hLdD sw h3 i3 j3, .hStW sw h3 i3 j3, .hStD sw h3 i3 j3, .amoAdd c d a b z, .amoAnd c d a b z, .amoOr c d a b z, .amoXor c d a b z, .amoMin c d a b z, .amoMax c d a b z, .amoMinu c d a b z, .amoMaxu c d a b z, .amoSwap c d a b z, .amoCas c d a b z, .amoFaddF32 c d a b, .vst c v a k, .vldSc c v a, .vstSc c v a, .vgatherW c v a y k, .vgatherH c v a y k, .vscatterW c v a y k, .vscatterH c v a y k] : List Instr),
      exec i s = .next t → bytes ∧ others ∧ ∀ (c : CoreId) (n : Nat), (t.seatAt c n).v = (s.seatAt c n).v) ∧
    (exec (.vld c v a x k) s = .next t → bytes ∧ others ∧
      (∀ r, r ≠ v → (t.seatAt s.core s.seat.val).getV r = s.thisSeat.getV r) ∧
      ((t.seatAt s.core s.seat.val).getV v).data = (s.thisSeat.getV v).data ∧ ((t.seatAt s.core s.seat.val).getV v).sc = (s.thisSeat.getV v).sc ∧
      ∀ (c : CoreId) (n : Nat), c ≠ s.core ∨ n ≠ s.seat.val → (t.seatAt c n).v = (s.seatAt c n).v)

/-- A store or atomic at its point of order changes only the bytes of its piece, and a load none. R92, R142, R144, R150, R180 and R181. -/
def Obligations.PointOfOrderFrame : Prop :=
  ∀ (s t : State) (req i : Nat) (r : Req) (p : Piece),
    let same (q : Place) : Prop := q.read t 1 = q.read s 1
    let inside (q : Place) : Prop := match q, p.dst with
      | .sp c a, .sp c' b => c = c' ∧ b ≤ a ∧ a < b + p.len
      | .ws c a, .ws c' b => c = c' ∧ b ≤ a ∧ a < b + p.len
      | .co c a, .co c' b => c = c' ∧ b ≤ a ∧ a < b + p.len
      | .hbm a _, .hbm b _ => b ≤ a ∧ a < b + p.len
      | _, _ => False
    let inWord (q : Place) : Prop := match q, p.dst with
      | .sp c a, .sp c' b => c = c' ∧ a / 4 = b / 4
      | _, _ => False
    let registers : Prop := ∀ (c : CoreId) (n : Nat), t.seatAt c n = s.seatAt c n
    (exec (.loadAtHome req i) s = .next t → (∀ q, same q) ∧ registers) ∧
    (exec (.revocation req) s = .next t → (∀ q, same q) ∧ registers) ∧
    (exec (.revocationAck req) s = .next t → (∀ q, same q) ∧ registers) ∧
    (findPiece s req i = none → exec (.loadAtHome req i) s = .next s ∧ exec (.storeAtHome req i) s = .next s ∧
      exec (.peerAccessArrival req i) s = .next s ∧ exec (.syncAccessArrival req i) s = .next s) ∧
    (findPiece s req i = some (r, p) →
      (exec (.storeAtHome req i) s = .next t → (∀ q, ¬ inside q → same q) ∧ registers) ∧
      (exec (.peerAccessArrival req i) s = .next t → (∀ q, ¬ inside q → same q) ∧ registers ∧ (r.op ≠ .store → ∀ q, same q)) ∧
      (exec (.syncAccessArrival req i) s = .next t → (∀ q, ¬ inside q → ¬ inWord q → same q) ∧ registers)) ∧
    (findPiece s req 0 = some (r, p) → (∀ op size b d, r.op = .amo op size b d → size ≤ p.len) →
      exec (.atomicAtHome req) s = .next t → (∀ q, ¬ inside q → same q) ∧ registers)

/-- A step runs the decoded instruction of the seat that gets the cycle, or the event that the schedule names. R12, R14, R27, R30, R109 and R113. The model's choices: the schedule stands in the state (log 4), a turn of a position without a core is a fault (log 10), seat 7 leaves the rotation and a blocked seat the cycle to the next (log 8), a core on a parked chiplet is idle (log 59). -/
def Obligations.StepRunsTheSchedule : Prop :=
  ∀ (s t : State) (c : CoreId) (n : Nat) (more : List Nat) (late : BitVec 8) (rest : List Turn) (e i : Instr) (w : BitVec 32),
    let issued : Host.Outcome State Fault Refusal := .next (if n = 7 then t else t.updCore c fun k => { k with lastSeat := n })
    let k := s.thisCore
    let pc := s.thisSeat.pc.toNat
    let seat := onSeat s c n
    let turn : Prop := isCore c = true ∧ idle s c = false ∧ seatOrder s c late = n :: more
    (s.agenda = [] → step s = issueCycle s.focus 0 s) ∧
    (s.agenda = .issue c late :: rest → step s = issueCycle c late { s with agenda := rest }) ∧
    (s.agenda = .event e :: rest → isEvent e = true → step s = exec e { s with agenda := rest }) ∧
    (s.agenda = .event e :: rest → isEvent e = false → step s = .next { s with agenda := rest }) ∧
    (isCore c = false → issueCycle c late s = .fault (.noSuchCore c)) ∧
    (isCore c = true → idle s c = true → issueCycle c late s = .next s) ∧
    (isCore c = true → seatOrder s c late = [] → issueCycle c late s = .next s) ∧
    (turn → fetch seat = .run i → exec i seat = .next t →
      ((t.seatAt c n).status ≠ .blocked → issueCycle c late s = issued) ∧
      ((t.seatAt c n).status = .blocked → issueCycle c late s = trySeats c more t)) ∧
    (turn → fetch seat = .illegal w → precise seat 0x00 (w.setWidth 64) = t → (t.seatAt c n).status ≠ .blocked → issueCycle c late s = issued) ∧
    (n < 8 → seat.thisSeat = { s.seatAt c n with status := .running } ∧ seat.core = c ∧ seat.seat.val = n) ∧
    (repeating s = false → k.starts pc = true → pc < 0xFFFF →
      ((k.parcel pc).getLsbD 15 = true → k.starts (pc + 1) = false → badParcel k pc 2 = none →
        fetch s = match decode32 (k.parcel pc ++ k.parcel (pc + 1)) with
          | some i => .run i
          | none => .illegal (k.parcel pc ++ k.parcel (pc + 1))) ∧
      ((k.parcel pc).getLsbD 15 = false → badParcel k pc 1 = none →
        fetch s = match decode16 (k.parcel pc) with
          | some i => .run i
          | none => .illegal ((k.parcel pc).setWidth 32))) ∧
    (repeating s = true → badParcel k pc 4 = none →
      fetch s = match decode32 (stepWord (k.word pc) (k.word (pc + 2)) (iteration s)) with
        | some i => .run i
        | none => .illegal (stepWord (k.word pc) (k.word (pc + 2)) (iteration s)))

/-- Words written out from the encoding tables decode to the instruction they stand for. R17 to R48. -/
def Obligations.DecodedWords : Prop :=
  decodeTableWord 32 0xE80298E0 = some (.add ⟨true, true, 2⟩ 5 6 7) ∧
    decodeTableWord 32 0x9C000011 = some (.addw ⟨false, false, 7⟩ 0 0 0) ∧
    decodeTableWord 32 0x9C820060 = some (.li ⟨false, false, 7⟩ 4 96) ∧
    decodeTableWord 32 0x9C920040 = some (.lis ⟨false, false, 7⟩ 4 64) ∧
    decodeTableWord 32 0x9D028A62 = some (.cmpLt ⟨false, false, 7⟩ 1 2 5 6) ∧
    decodeTableWord 32 0x9DC49204 = some (.ldW ⟨false, false, 7⟩ 9 4 4) ∧
    decodeTableWord 16 0x447D = some (.hAddi true 1 0b111101) ∧
    decodeTableWord 32 0x9FC00E40 = some (.rpt 3 true false false true) ∧
    decodeTableWord 32 0x9EA02300 = some (.vld ⟨false, false, 7⟩ 0 4 6 0) ∧
    decodeTableWord 32 0x9FB39802 = some (.rtabWr ⟨false, false, 7⟩ 7 6) ∧
    decodeTableWord 32 0x9E200000 = some (.fence ⟨false, false, 7⟩) ∧
    decodeTableWord 32 0xBD700001 = some (.done ⟨false, true, 7⟩) ∧
    decodeTableWord 32 0x9E51232B = some (.vfma ⟨false, false, 7⟩ 1 2 3 0 5) ∧
    decodeTableWord 32 0x9ED014C0 = some (.send ⟨false, false, 7⟩ 5 6) ∧
    decodeTableWord 32 0x9EE52C06 = some (.ringWait ⟨false, false, 7⟩ 10 11) ∧
    decodeTableWord 32 0x9EF031A3 = some (.rankRel ⟨false, false, 7⟩ 12 13) ∧
    decodeTableWord 32 0x9F403000 = some (.hlPost ⟨false, false, 7⟩ 12) ∧
    decodeTableWord 32 0x9F601840 = some (.rtRedAddF32 ⟨false, false, 7⟩ 6 2) ∧
    decodeTableWord 32 0x9F828009 = some (.srRd ⟨false, false, 7⟩ 5 9) ∧
    decodeTableWord 32 0x9FA00000 = some (.tret ⟨false, false, 7⟩) ∧
    decodeTableWord 32 0x9D700011 = none ∧
    decodeTableWord 32 0xBFD00000 = none

/-- After reset every register whose reset value the manual states holds it. R116, R119, R169, R178, R209, R233, R261, R361, R393 and R394. That no seat runs and no unit is fenced at reset follows from R388. -/
def Obligations.ResetValues : Prop :=
  ∀ (c : CoreId) (n : Fin 8) (p cls : Nat),
    let s := State.reset
    let k := s.getCore c
    let t := k.getSeat n
    t.status = .free ∧ t.outs = [] ∧ t.trapPc = 0 ∧ t.trapCause = 0 ∧ t.trapVal = 0 ∧ t.firing = none ∧ t.fenced = false ∧
    k.dbgCtl = 0 ∧ k.ttRoot = 0 ∧ k.port p = {} ∧ k.ovfHead = 0 ∧ k.ovfTail = 0 ∧ fld k.ovfCfg 31 20 = 10 ∧ fld k.ovfCfg 19 0 = 0xB0000 ∧
    tget 0 k.handlers cls = 0 ∧ k.shell.link = 0xFFFF ∧ k.fenced = false ∧ fld s.l2cfg 3 2 = 2 ∧ fld s.l2cfg 1 0 = 0 ∧ s.l2pmap = 0 ∧ s.l2co = 0 ∧
    fld s.farCfg 17 16 = 3 ∧ fld s.farCfg 28 24 = 20 ∧ s.farCfg.getLsbD 0 = false ∧ s.farTt = 0 ∧ s.modStat = 0 ∧ s.powcap = 0xD48 ∧
    s.pstate = 3 ∧ s.mbCmd = 0 ∧ s.mbStat = 0 ∧ s.mbData = 0 ∧ s.mbRet = 0 ∧ s.token = 0 ∧ s.fenceCmd = 0 ∧ s.summarySeq = 0 ∧
    (s.getChiplet p).framed = false

/-- The invariants of the memories and of the register fields hold at reset. The canonical form is the model's own (log 2). -/
def Obligations.InvariantAtReset : Prop :=
  State.reset.memoriesWf = true ∧ State.reset.powerWf = true ∧ State.reset.reservedWf = true

/-- Every step keeps every memory in its canonical form. The invariant is the model's own (log 2): equal memories are equal data. -/
def Obligations.MemoriesStayCanonical : Prop :=
  ∀ s t : State, s.memoriesWf = true → step s = .next t → t.memoriesWf = true

/-- Every step keeps POWCAP and PSTATE within their limits and the reserved register fields at 0. R7, R178, R244, R261, R324, R327, R361 and R393. -/
def Obligations.RegistersKeepLimits : Prop :=
  ∀ s t : State, s.powerWf = true → s.reservedWf = true → step s = .next t → t.powerWf = true ∧ t.reservedWf = true

/-- Decoding the encoded bytes of any well-formed instruction gives it back and leaves the rest. R12, R17 to R22, R25 and R31 to R48. -/
def Obligations.RoundTripAll : Prop :=
  ∀ (i : Instr) (rest : List Byte), i.wellFormed = true → encode i ≠ [] → decode ((encode i).flatMap parcelBytes ++ rest) = .ok (i, rest)

end
end

