-- ==== Sys2Proof/Laws/State.lean ====
section
/-! SUPPORT. What each update of the state leaves and what it sets: one lemma per field and update. -/

namespace Sys2Proof.Machine

/-! ### Updates of one table of the module -/

@[simp] theorem State.setCore_agenda (s : State) (c : CoreId) (k : Core) : (s.setCore c k).agenda = s.agenda := rfl
@[simp] theorem State.setCore_focus (s : State) (c : CoreId) (k : Core) : (s.setCore c k).focus = s.focus := rfl
@[simp] theorem State.setCore_core (s : State) (c : CoreId) (k : Core) : (s.setCore c k).core = s.core := rfl
@[simp] theorem State.setCore_seat (s : State) (c : CoreId) (k : Core) : (s.setCore c k).seat = s.seat := rfl
@[simp] theorem State.setCore_tick (s : State) (c : CoreId) (k : Core) : (s.setCore c k).tick = s.tick := rfl
@[simp] theorem State.setCore_fresh (s : State) (c : CoreId) (k : Core) : (s.setCore c k).fresh = s.fresh := rfl
@[simp] theorem State.setCore_clusters (s : State) (c : CoreId) (k : Core) : (s.setCore c k).clusters = s.clusters := rfl
@[simp] theorem State.setCore_chiplets (s : State) (c : CoreId) (k : Core) : (s.setCore c k).chiplets = s.chiplets := rfl
@[simp] theorem State.setCore_hbm (s : State) (c : CoreId) (k : Core) : (s.setCore c k).hbm = s.hbm := rfl
@[simp] theorem State.setCore_hbmPoison (s : State) (c : CoreId) (k : Core) : (s.setCore c k).hbmPoison = s.hbmPoison := rfl
@[simp] theorem State.setCore_dirty (s : State) (c : CoreId) (k : Core) : (s.setCore c k).dirty = s.dirty := rfl
@[simp] theorem State.setCore_co (s : State) (c : CoreId) (k : Core) : (s.setCore c k).co = s.co := rfl
@[simp] theorem State.setCore_coPoison (s : State) (c : CoreId) (k : Core) : (s.setCore c k).coPoison = s.coPoison := rfl
@[simp] theorem State.setCore_owners (s : State) (c : CoreId) (k : Core) : (s.setCore c k).owners = s.owners := rfl
@[simp] theorem State.setCore_revs (s : State) (c : CoreId) (k : Core) : (s.setCore c k).revs = s.revs := rfl
@[simp] theorem State.setCore_reqs (s : State) (c : CoreId) (k : Core) : (s.setCore c k).reqs = s.reqs := rfl
@[simp] theorem State.setCore_net (s : State) (c : CoreId) (k : Core) : (s.setCore c k).net = s.net := rfl
@[simp] theorem State.setCore_waiting (s : State) (c : CoreId) (k : Core) : (s.setCore c k).waiting = s.waiting := rfl
@[simp] theorem State.setCore_seqs (s : State) (c : CoreId) (k : Core) : (s.setCore c k).seqs = s.seqs := rfl
@[simp] theorem State.setCore_expects (s : State) (c : CoreId) (k : Core) : (s.setCore c k).expects = s.expects := rfl
@[simp] theorem State.setCore_ranks (s : State) (c : CoreId) (k : Core) : (s.setCore c k).ranks = s.ranks := rfl
@[simp] theorem State.setCore_groups (s : State) (c : CoreId) (k : Core) : (s.setCore c k).groups = s.groups := rfl
@[simp] theorem State.setCore_l2cfg (s : State) (c : CoreId) (k : Core) : (s.setCore c k).l2cfg = s.l2cfg := rfl
@[simp] theorem State.setCore_l2pmap (s : State) (c : CoreId) (k : Core) : (s.setCore c k).l2pmap = s.l2pmap := rfl
@[simp] theorem State.setCore_l2co (s : State) (c : CoreId) (k : Core) : (s.setCore c k).l2co = s.l2co := rfl
@[simp] theorem State.setCore_slotMap (s : State) (c : CoreId) (k : Core) : (s.setCore c k).slotMap = s.slotMap := rfl
@[simp] theorem State.setCore_slotsBad (s : State) (c : CoreId) (k : Core) : (s.setCore c k).slotsBad = s.slotsBad := rfl
@[simp] theorem State.setCore_stacksBad (s : State) (c : CoreId) (k : Core) : (s.setCore c k).stacksBad = s.stacksBad := rfl
@[simp] theorem State.setCore_linksBad (s : State) (c : CoreId) (k : Core) : (s.setCore c k).linksBad = s.linksBad := rfl
@[simp] theorem State.setCore_sealed (s : State) (c : CoreId) (k : Core) : (s.setCore c k).sealed = s.sealed := rfl
@[simp] theorem State.setCore_netSel (s : State) (c : CoreId) (k : Core) : (s.setCore c k).netSel = s.netSel := rfl
@[simp] theorem State.setCore_escape (s : State) (c : CoreId) (k : Core) : (s.setCore c k).escape = s.escape := rfl
@[simp] theorem State.setCore_codec (s : State) (c : CoreId) (k : Core) : (s.setCore c k).codec = s.codec := rfl
@[simp] theorem State.setCore_queues (s : State) (c : CoreId) (k : Core) : (s.setCore c k).queues = s.queues := rfl
@[simp] theorem State.setCore_lastQueue (s : State) (c : CoreId) (k : Core) : (s.setCore c k).lastQueue = s.lastQueue := rfl
@[simp] theorem State.setCore_launches (s : State) (c : CoreId) (k : Core) : (s.setCore c k).launches = s.launches := rfl
@[simp] theorem State.setCore_portEnds (s : State) (c : CoreId) (k : Core) : (s.setCore c k).portEnds = s.portEnds := rfl
@[simp] theorem State.setCore_modStat (s : State) (c : CoreId) (k : Core) : (s.setCore c k).modStat = s.modStat := rfl
@[simp] theorem State.setCore_powcap (s : State) (c : CoreId) (k : Core) : (s.setCore c k).powcap = s.powcap := rfl
@[simp] theorem State.setCore_pstate (s : State) (c : CoreId) (k : Core) : (s.setCore c k).pstate = s.pstate := rfl
@[simp] theorem State.setCore_mbCmd (s : State) (c : CoreId) (k : Core) : (s.setCore c k).mbCmd = s.mbCmd := rfl
@[simp] theorem State.setCore_mbStat (s : State) (c : CoreId) (k : Core) : (s.setCore c k).mbStat = s.mbStat := rfl
@[simp] theorem State.setCore_mbData (s : State) (c : CoreId) (k : Core) : (s.setCore c k).mbData = s.mbData := rfl
@[simp] theorem State.setCore_mbRet (s : State) (c : CoreId) (k : Core) : (s.setCore c k).mbRet = s.mbRet := rfl
@[simp] theorem State.setCore_token (s : State) (c : CoreId) (k : Core) : (s.setCore c k).token = s.token := rfl
@[simp] theorem State.setCore_summarySeq (s : State) (c : CoreId) (k : Core) : (s.setCore c k).summarySeq = s.summarySeq := rfl
@[simp] theorem State.setCore_fenceCmd (s : State) (c : CoreId) (k : Core) : (s.setCore c k).fenceCmd = s.fenceCmd := rfl
@[simp] theorem State.setCore_farCfg (s : State) (c : CoreId) (k : Core) : (s.setCore c k).farCfg = s.farCfg := rfl
@[simp] theorem State.setCore_farTt (s : State) (c : CoreId) (k : Core) : (s.setCore c k).farTt = s.farTt := rfl
@[simp] theorem State.setCore_farTlb (s : State) (c : CoreId) (k : Core) : (s.setCore c k).farTlb = s.farTlb := rfl
@[simp] theorem State.setCore_farRoute (s : State) (c : CoreId) (k : Core) : (s.setCore c k).farRoute = s.farRoute := rfl
@[simp] theorem State.setCore_fib (s : State) (c : CoreId) (k : Core) : (s.setCore c k).fib = s.fib := rfl
@[simp] theorem State.setCore_deadWaves (s : State) (c : CoreId) (k : Core) : (s.setCore c k).deadWaves = s.deadWaves := rfl
@[simp] theorem State.setCore_switchBase (s : State) (c : CoreId) (k : Core) : (s.setCore c k).switchBase = s.switchBase := rfl
@[simp] theorem State.setCore_migrations (s : State) (c : CoreId) (k : Core) : (s.setCore c k).migrations = s.migrations := rfl
@[simp] theorem State.setCore_supImage (s : State) (c : CoreId) (k : Core) : (s.setCore c k).supImage = s.supImage := rfl
@[simp] theorem State.setCore_fwImage (s : State) (c : CoreId) (k : Core) : (s.setCore c k).fwImage = s.fwImage := rfl
@[simp] theorem State.setCore_severed (s : State) (c : CoreId) (k : Core) : (s.setCore c k).severed = s.severed := rfl
@[simp] theorem State.setCore_fibre (s : State) (c : CoreId) (k : Core) : (s.setCore c k).fibre = s.fibre := rfl
@[simp] theorem State.setCore_inbox (s : State) (c : CoreId) (k : Core) : (s.setCore c k).inbox = s.inbox := rfl
@[simp] theorem State.setCore_reply (s : State) (c : CoreId) (k : Core) : (s.setCore c k).reply = s.reply := rfl
@[simp] theorem State.setCore_sent (s : State) (c : CoreId) (k : Core) : (s.setCore c k).sent = s.sent := rfl
@[simp] theorem State.setCore_grants (s : State) (c : CoreId) (k : Core) : (s.setCore c k).grants = s.grants := rfl
@[simp] theorem State.setCore_routersBad (s : State) (c : CoreId) (k : Core) : (s.setCore c k).routersBad = s.routersBad := rfl
@[simp] theorem State.setCore_tables (s : State) (c : CoreId) (k : Core) : (s.setCore c k).tables = s.tables := rfl
@[simp] theorem State.setCore_summary (s : State) (c : CoreId) (k : Core) : (s.setCore c k).summary = s.summary := rfl
@[simp] theorem State.setCore_group (s : State) (c : CoreId) (k : Core) : (s.setCore c k).group = s.group := rfl
@[simp] theorem State.setCore_asks (s : State) (c : CoreId) (k : Core) : (s.setCore c k).asks = s.asks := rfl
@[simp] theorem State.setCore_farSeen (s : State) (c : CoreId) (k : Core) : (s.setCore c k).farSeen = s.farSeen := rfl
@[simp] theorem State.setCore_lost (s : State) (c : CoreId) (k : Core) : (s.setCore c k).lost = s.lost := rfl
@[simp] theorem State.setCore_lostTables (s : State) (c : CoreId) (k : Core) : (s.setCore c k).lostTables = s.lostTables := rfl

@[simp] theorem State.updCore_agenda (s : State) (c : CoreId) (f : Core → Core) : (s.updCore c f).agenda = s.agenda := rfl
@[simp] theorem State.updCore_focus (s : State) (c : CoreId) (f : Core → Core) : (s.updCore c f).focus = s.focus := rfl
@[simp] theorem State.updCore_core (s : State) (c : CoreId) (f : Core → Core) : (s.updCore c f).core = s.core := rfl
@[simp] theorem State.updCore_seat (s : State) (c : CoreId) (f : Core → Core) : (s.updCore c f).seat = s.seat := rfl
@[simp] theorem State.updCore_tick (s : State) (c : CoreId) (f : Core → Core) : (s.updCore c f).tick = s.tick := rfl
@[simp] theorem State.updCore_fresh (s : State) (c : CoreId) (f : Core → Core) : (s.updCore c f).fresh = s.fresh := rfl
@[simp] theorem State.updCore_clusters (s : State) (c : CoreId) (f : Core → Core) : (s.updCore c f).clusters = s.clusters := rfl
@[simp] theorem State.updCore_chiplets (s : State) (c : CoreId) (f : Core → Core) : (s.updCore c f).chiplets = s.chiplets := rfl
@[simp] theorem State.updCore_hbm (s : State) (c : CoreId) (f : Core → Core) : (s.updCore c f).hbm = s.hbm := rfl
@[simp] theorem State.updCore_hbmPoison (s : State) (c : CoreId) (f : Core → Core) : (s.updCore c f).hbmPoison = s.hbmPoison := rfl
@[simp] theorem State.updCore_dirty (s : State) (c : CoreId) (f : Core → Core) : (s.updCore c f).dirty = s.dirty := rfl
@[simp] theorem State.updCore_co (s : State) (c : CoreId) (f : Core → Core) : (s.updCore c f).co = s.co := rfl
@[simp] theorem State.updCore_coPoison (s : State) (c : CoreId) (f : Core → Core) : (s.updCore c f).coPoison = s.coPoison := rfl
@[simp] theorem State.updCore_owners (s : State) (c : CoreId) (f : Core → Core) : (s.updCore c f).owners = s.owners := rfl
@[simp] theorem State.updCore_revs (s : State) (c : CoreId) (f : Core → Core) : (s.updCore c f).revs = s.revs := rfl
@[simp] theorem State.updCore_reqs (s : State) (c : CoreId) (f : Core → Core) : (s.updCore c f).reqs = s.reqs := rfl
@[simp] theorem State.updCore_net (s : State) (c : CoreId) (f : Core → Core) : (s.updCore c f).net = s.net := rfl
@[simp] theorem State.updCore_waiting (s : State) (c : CoreId) (f : Core → Core) : (s.updCore c f).waiting = s.waiting := rfl
@[simp] theorem State.updCore_seqs (s : State) (c : CoreId) (f : Core → Core) : (s.updCore c f).seqs = s.seqs := rfl
@[simp] theorem State.updCore_expects (s : State) (c : CoreId) (f : Core → Core) : (s.updCore c f).expects = s.expects := rfl
@[simp] theorem State.updCore_ranks (s : State) (c : CoreId) (f : Core → Core) : (s.updCore c f).ranks = s.ranks := rfl
@[simp] theorem State.updCore_groups (s : State) (c : CoreId) (f : Core → Core) : (s.updCore c f).groups = s.groups := rfl
@[simp] theorem State.updCore_l2cfg (s : State) (c : CoreId) (f : Core → Core) : (s.updCore c f).l2cfg = s.l2cfg := rfl
@[simp] theorem State.updCore_l2pmap (s : State) (c : CoreId) (f : Core → Core) : (s.updCore c f).l2pmap = s.l2pmap := rfl
@[simp] theorem State.updCore_l2co (s : State) (c : CoreId) (f : Core → Core) : (s.updCore c f).l2co = s.l2co := rfl
@[simp] theorem State.updCore_slotMap (s : State) (c : CoreId) (f : Core → Core) : (s.updCore c f).slotMap = s.slotMap := rfl
@[simp] theorem State.updCore_slotsBad (s : State) (c : CoreId) (f : Core → Core) : (s.updCore c f).slotsBad = s.slotsBad := rfl
@[simp] theorem State.updCore_stacksBad (s : State) (c : CoreId) (f : Core → Core) : (s.updCore c f).stacksBad = s.stacksBad := rfl
@[simp] theorem State.updCore_linksBad (s : State) (c : CoreId) (f : Core → Core) : (s.updCore c f).linksBad = s.linksBad := rfl
@[simp] theorem State.updCore_sealed (s : State) (c : CoreId) (f : Core → Core) : (s.updCore c f).sealed = s.sealed := rfl
@[simp] theorem State.updCore_netSel (s : State) (c : CoreId) (f : Core → Core) : (s.updCore c f).netSel = s.netSel := rfl
@[simp] theorem State.updCore_escape (s : State) (c : CoreId) (f : Core → Core) : (s.updCore c f).escape = s.escape := rfl
@[simp] theorem State.updCore_codec (s : State) (c : CoreId) (f : Core → Core) : (s.updCore c f).codec = s.codec := rfl
@[simp] theorem State.updCore_queues (s : State) (c : CoreId) (f : Core → Core) : (s.updCore c f).queues = s.queues := rfl
@[simp] theorem State.updCore_lastQueue (s : State) (c : CoreId) (f : Core → Core) : (s.updCore c f).lastQueue = s.lastQueue := rfl
@[simp] theorem State.updCore_launches (s : State) (c : CoreId) (f : Core → Core) : (s.updCore c f).launches = s.launches := rfl
@[simp] theorem State.updCore_portEnds (s : State) (c : CoreId) (f : Core → Core) : (s.updCore c f).portEnds = s.portEnds := rfl
@[simp] theorem State.updCore_modStat (s : State) (c : CoreId) (f : Core → Core) : (s.updCore c f).modStat = s.modStat := rfl
@[simp] theorem State.updCore_powcap (s : State) (c : CoreId) (f : Core → Core) : (s.updCore c f).powcap = s.powcap := rfl
@[simp] theorem State.updCore_pstate (s : State) (c : CoreId) (f : Core → Core) : (s.updCore c f).pstate = s.pstate := rfl
@[simp] theorem State.updCore_mbCmd (s : State) (c : CoreId) (f : Core → Core) : (s.updCore c f).mbCmd = s.mbCmd := rfl
@[simp] theorem State.updCore_mbStat (s : State) (c : CoreId) (f : Core → Core) : (s.updCore c f).mbStat = s.mbStat := rfl
@[simp] theorem State.updCore_mbData (s : State) (c : CoreId) (f : Core → Core) : (s.updCore c f).mbData = s.mbData := rfl
@[simp] theorem State.updCore_mbRet (s : State) (c : CoreId) (f : Core → Core) : (s.updCore c f).mbRet = s.mbRet := rfl
@[simp] theorem State.updCore_token (s : State) (c : CoreId) (f : Core → Core) : (s.updCore c f).token = s.token := rfl
@[simp] theorem State.updCore_summarySeq (s : State) (c : CoreId) (f : Core → Core) : (s.updCore c f).summarySeq = s.summarySeq := rfl
@[simp] theorem State.updCore_fenceCmd (s : State) (c : CoreId) (f : Core → Core) : (s.updCore c f).fenceCmd = s.fenceCmd := rfl
@[simp] theorem State.updCore_farCfg (s : State) (c : CoreId) (f : Core → Core) : (s.updCore c f).farCfg = s.farCfg := rfl
@[simp] theorem State.updCore_farTt (s : State) (c : CoreId) (f : Core → Core) : (s.updCore c f).farTt = s.farTt := rfl
@[simp] theorem State.updCore_farTlb (s : State) (c : CoreId) (f : Core → Core) : (s.updCore c f).farTlb = s.farTlb := rfl
@[simp] theorem State.updCore_farRoute (s : State) (c : CoreId) (f : Core → Core) : (s.updCore c f).farRoute = s.farRoute := rfl
@[simp] theorem State.updCore_fib (s : State) (c : CoreId) (f : Core → Core) : (s.updCore c f).fib = s.fib := rfl
@[simp] theorem State.updCore_deadWaves (s : State) (c : CoreId) (f : Core → Core) : (s.updCore c f).deadWaves = s.deadWaves := rfl
@[simp] theorem State.updCore_switchBase (s : State) (c : CoreId) (f : Core → Core) : (s.updCore c f).switchBase = s.switchBase := rfl
@[simp] theorem State.updCore_migrations (s : State) (c : CoreId) (f : Core → Core) : (s.updCore c f).migrations = s.migrations := rfl
@[simp] theorem State.updCore_supImage (s : State) (c : CoreId) (f : Core → Core) : (s.updCore c f).supImage = s.supImage := rfl
@[simp] theorem State.updCore_fwImage (s : State) (c : CoreId) (f : Core → Core) : (s.updCore c f).fwImage = s.fwImage := rfl
@[simp] theorem State.updCore_severed (s : State) (c : CoreId) (f : Core → Core) : (s.updCore c f).severed = s.severed := rfl
@[simp] theorem State.updCore_fibre (s : State) (c : CoreId) (f : Core → Core) : (s.updCore c f).fibre = s.fibre := rfl
@[simp] theorem State.updCore_inbox (s : State) (c : CoreId) (f : Core → Core) : (s.updCore c f).inbox = s.inbox := rfl
@[simp] theorem State.updCore_reply (s : State) (c : CoreId) (f : Core → Core) : (s.updCore c f).reply = s.reply := rfl
@[simp] theorem State.updCore_sent (s : State) (c : CoreId) (f : Core → Core) : (s.updCore c f).sent = s.sent := rfl
@[simp] theorem State.updCore_grants (s : State) (c : CoreId) (f : Core → Core) : (s.updCore c f).grants = s.grants := rfl
@[simp] theorem State.updCore_routersBad (s : State) (c : CoreId) (f : Core → Core) : (s.updCore c f).routersBad = s.routersBad := rfl
@[simp] theorem State.updCore_tables (s : State) (c : CoreId) (f : Core → Core) : (s.updCore c f).tables = s.tables := rfl
@[simp] theorem State.updCore_summary (s : State) (c : CoreId) (f : Core → Core) : (s.updCore c f).summary = s.summary := rfl
@[simp] theorem State.updCore_group (s : State) (c : CoreId) (f : Core → Core) : (s.updCore c f).group = s.group := rfl
@[simp] theorem State.updCore_asks (s : State) (c : CoreId) (f : Core → Core) : (s.updCore c f).asks = s.asks := rfl
@[simp] theorem State.updCore_farSeen (s : State) (c : CoreId) (f : Core → Core) : (s.updCore c f).farSeen = s.farSeen := rfl
@[simp] theorem State.updCore_lost (s : State) (c : CoreId) (f : Core → Core) : (s.updCore c f).lost = s.lost := rfl
@[simp] theorem State.updCore_lostTables (s : State) (c : CoreId) (f : Core → Core) : (s.updCore c f).lostTables = s.lostTables := rfl

@[simp] theorem State.setCluster_agenda (s : State) (c : Nat) (k : Cluster) : (s.setCluster c k).agenda = s.agenda := rfl
@[simp] theorem State.setCluster_focus (s : State) (c : Nat) (k : Cluster) : (s.setCluster c k).focus = s.focus := rfl
@[simp] theorem State.setCluster_core (s : State) (c : Nat) (k : Cluster) : (s.setCluster c k).core = s.core := rfl
@[simp] theorem State.setCluster_seat (s : State) (c : Nat) (k : Cluster) : (s.setCluster c k).seat = s.seat := rfl
@[simp] theorem State.setCluster_tick (s : State) (c : Nat) (k : Cluster) : (s.setCluster c k).tick = s.tick := rfl
@[simp] theorem State.setCluster_fresh (s : State) (c : Nat) (k : Cluster) : (s.setCluster c k).fresh = s.fresh := rfl
@[simp] theorem State.setCluster_cores (s : State) (c : Nat) (k : Cluster) : (s.setCluster c k).cores = s.cores := rfl
@[simp] theorem State.setCluster_chiplets (s : State) (c : Nat) (k : Cluster) : (s.setCluster c k).chiplets = s.chiplets := rfl
@[simp] theorem State.setCluster_hbm (s : State) (c : Nat) (k : Cluster) : (s.setCluster c k).hbm = s.hbm := rfl
@[simp] theorem State.setCluster_hbmPoison (s : State) (c : Nat) (k : Cluster) : (s.setCluster c k).hbmPoison = s.hbmPoison := rfl
@[simp] theorem State.setCluster_dirty (s : State) (c : Nat) (k : Cluster) : (s.setCluster c k).dirty = s.dirty := rfl
@[simp] theorem State.setCluster_co (s : State) (c : Nat) (k : Cluster) : (s.setCluster c k).co = s.co := rfl
@[simp] theorem State.setCluster_coPoison (s : State) (c : Nat) (k : Cluster) : (s.setCluster c k).coPoison = s.coPoison := rfl
@[simp] theorem State.setCluster_owners (s : State) (c : Nat) (k : Cluster) : (s.setCluster c k).owners = s.owners := rfl
@[simp] theorem State.setCluster_revs (s : State) (c : Nat) (k : Cluster) : (s.setCluster c k).revs = s.revs := rfl
@[simp] theorem State.setCluster_reqs (s : State) (c : Nat) (k : Cluster) : (s.setCluster c k).reqs = s.reqs := rfl
@[simp] theorem State.setCluster_net (s : State) (c : Nat) (k : Cluster) : (s.setCluster c k).net = s.net := rfl
@[simp] theorem State.setCluster_waiting (s : State) (c : Nat) (k : Cluster) : (s.setCluster c k).waiting = s.waiting := rfl
@[simp] theorem State.setCluster_seqs (s : State) (c : Nat) (k : Cluster) : (s.setCluster c k).seqs = s.seqs := rfl
@[simp] theorem State.setCluster_expects (s : State) (c : Nat) (k : Cluster) : (s.setCluster c k).expects = s.expects := rfl
@[simp] theorem State.setCluster_ranks (s : State) (c : Nat) (k : Cluster) : (s.setCluster c k).ranks = s.ranks := rfl
@[simp] theorem State.setCluster_groups (s : State) (c : Nat) (k : Cluster) : (s.setCluster c k).groups = s.groups := rfl
@[simp] theorem State.setCluster_l2cfg (s : State) (c : Nat) (k : Cluster) : (s.setCluster c k).l2cfg = s.l2cfg := rfl
@[simp] theorem State.setCluster_l2pmap (s : State) (c : Nat) (k : Cluster) : (s.setCluster c k).l2pmap = s.l2pmap := rfl
@[simp] theorem State.setCluster_l2co (s : State) (c : Nat) (k : Cluster) : (s.setCluster c k).l2co = s.l2co := rfl
@[simp] theorem State.setCluster_slotMap (s : State) (c : Nat) (k : Cluster) : (s.setCluster c k).slotMap = s.slotMap := rfl
@[simp] theorem State.setCluster_slotsBad (s : State) (c : Nat) (k : Cluster) : (s.setCluster c k).slotsBad = s.slotsBad := rfl
@[simp] theorem State.setCluster_stacksBad (s : State) (c : Nat) (k : Cluster) : (s.setCluster c k).stacksBad = s.stacksBad := rfl
@[simp] theorem State.setCluster_linksBad (s : State) (c : Nat) (k : Cluster) : (s.setCluster c k).linksBad = s.linksBad := rfl
@[simp] theorem State.setCluster_sealed (s : State) (c : Nat) (k : Cluster) : (s.setCluster c k).sealed = s.sealed := rfl
@[simp] theorem State.setCluster_netSel (s : State) (c : Nat) (k : Cluster) : (s.setCluster c k).netSel = s.netSel := rfl
@[simp] theorem State.setCluster_escape (s : State) (c : Nat) (k : Cluster) : (s.setCluster c k).escape = s.escape := rfl
@[simp] theorem State.setCluster_codec (s : State) (c : Nat) (k : Cluster) : (s.setCluster c k).codec = s.codec := rfl
@[simp] theorem State.setCluster_queues (s : State) (c : Nat) (k : Cluster) : (s.setCluster c k).queues = s.queues := rfl
@[simp] theorem State.setCluster_lastQueue (s : State) (c : Nat) (k : Cluster) : (s.setCluster c k).lastQueue = s.lastQueue := rfl
@[simp] theorem State.setCluster_launches (s : State) (c : Nat) (k : Cluster) : (s.setCluster c k).launches = s.launches := rfl
@[simp] theorem State.setCluster_portEnds (s : State) (c : Nat) (k : Cluster) : (s.setCluster c k).portEnds = s.portEnds := rfl
@[simp] theorem State.setCluster_modStat (s : State) (c : Nat) (k : Cluster) : (s.setCluster c k).modStat = s.modStat := rfl
@[simp] theorem State.setCluster_powcap (s : State) (c : Nat) (k : Cluster) : (s.setCluster c k).powcap = s.powcap := rfl
@[simp] theorem State.setCluster_pstate (s : State) (c : Nat) (k : Cluster) : (s.setCluster c k).pstate = s.pstate := rfl
@[simp] theorem State.setCluster_mbCmd (s : State) (c : Nat) (k : Cluster) : (s.setCluster c k).mbCmd = s.mbCmd := rfl
@[simp] theorem State.setCluster_mbStat (s : State) (c : Nat) (k : Cluster) : (s.setCluster c k).mbStat = s.mbStat := rfl
@[simp] theorem State.setCluster_mbData (s : State) (c : Nat) (k : Cluster) : (s.setCluster c k).mbData = s.mbData := rfl
@[simp] theorem State.setCluster_mbRet (s : State) (c : Nat) (k : Cluster) : (s.setCluster c k).mbRet = s.mbRet := rfl
@[simp] theorem State.setCluster_token (s : State) (c : Nat) (k : Cluster) : (s.setCluster c k).token = s.token := rfl
@[simp] theorem State.setCluster_summarySeq (s : State) (c : Nat) (k : Cluster) : (s.setCluster c k).summarySeq = s.summarySeq := rfl
@[simp] theorem State.setCluster_fenceCmd (s : State) (c : Nat) (k : Cluster) : (s.setCluster c k).fenceCmd = s.fenceCmd := rfl
@[simp] theorem State.setCluster_farCfg (s : State) (c : Nat) (k : Cluster) : (s.setCluster c k).farCfg = s.farCfg := rfl
@[simp] theorem State.setCluster_farTt (s : State) (c : Nat) (k : Cluster) : (s.setCluster c k).farTt = s.farTt := rfl
@[simp] theorem State.setCluster_farTlb (s : State) (c : Nat) (k : Cluster) : (s.setCluster c k).farTlb = s.farTlb := rfl
@[simp] theorem State.setCluster_farRoute (s : State) (c : Nat) (k : Cluster) : (s.setCluster c k).farRoute = s.farRoute := rfl
@[simp] theorem State.setCluster_fib (s : State) (c : Nat) (k : Cluster) : (s.setCluster c k).fib = s.fib := rfl
@[simp] theorem State.setCluster_deadWaves (s : State) (c : Nat) (k : Cluster) : (s.setCluster c k).deadWaves = s.deadWaves := rfl
@[simp] theorem State.setCluster_switchBase (s : State) (c : Nat) (k : Cluster) : (s.setCluster c k).switchBase = s.switchBase := rfl
@[simp] theorem State.setCluster_migrations (s : State) (c : Nat) (k : Cluster) : (s.setCluster c k).migrations = s.migrations := rfl
@[simp] theorem State.setCluster_supImage (s : State) (c : Nat) (k : Cluster) : (s.setCluster c k).supImage = s.supImage := rfl
@[simp] theorem State.setCluster_fwImage (s : State) (c : Nat) (k : Cluster) : (s.setCluster c k).fwImage = s.fwImage := rfl
@[simp] theorem State.setCluster_severed (s : State) (c : Nat) (k : Cluster) : (s.setCluster c k).severed = s.severed := rfl
@[simp] theorem State.setCluster_fibre (s : State) (c : Nat) (k : Cluster) : (s.setCluster c k).fibre = s.fibre := rfl
@[simp] theorem State.setCluster_inbox (s : State) (c : Nat) (k : Cluster) : (s.setCluster c k).inbox = s.inbox := rfl
@[simp] theorem State.setCluster_reply (s : State) (c : Nat) (k : Cluster) : (s.setCluster c k).reply = s.reply := rfl
@[simp] theorem State.setCluster_sent (s : State) (c : Nat) (k : Cluster) : (s.setCluster c k).sent = s.sent := rfl
@[simp] theorem State.setCluster_grants (s : State) (c : Nat) (k : Cluster) : (s.setCluster c k).grants = s.grants := rfl
@[simp] theorem State.setCluster_routersBad (s : State) (c : Nat) (k : Cluster) : (s.setCluster c k).routersBad = s.routersBad := rfl
@[simp] theorem State.setCluster_tables (s : State) (c : Nat) (k : Cluster) : (s.setCluster c k).tables = s.tables := rfl
@[simp] theorem State.setCluster_summary (s : State) (c : Nat) (k : Cluster) : (s.setCluster c k).summary = s.summary := rfl
@[simp] theorem State.setCluster_group (s : State) (c : Nat) (k : Cluster) : (s.setCluster c k).group = s.group := rfl
@[simp] theorem State.setCluster_asks (s : State) (c : Nat) (k : Cluster) : (s.setCluster c k).asks = s.asks := rfl
@[simp] theorem State.setCluster_farSeen (s : State) (c : Nat) (k : Cluster) : (s.setCluster c k).farSeen = s.farSeen := rfl
@[simp] theorem State.setCluster_lost (s : State) (c : Nat) (k : Cluster) : (s.setCluster c k).lost = s.lost := rfl
@[simp] theorem State.setCluster_lostTables (s : State) (c : Nat) (k : Cluster) : (s.setCluster c k).lostTables = s.lostTables := rfl

@[simp] theorem State.updCluster_agenda (s : State) (c : Nat) (f : Cluster → Cluster) : (s.updCluster c f).agenda = s.agenda := rfl
@[simp] theorem State.updCluster_focus (s : State) (c : Nat) (f : Cluster → Cluster) : (s.updCluster c f).focus = s.focus := rfl
@[simp] theorem State.updCluster_core (s : State) (c : Nat) (f : Cluster → Cluster) : (s.updCluster c f).core = s.core := rfl
@[simp] theorem State.updCluster_seat (s : State) (c : Nat) (f : Cluster → Cluster) : (s.updCluster c f).seat = s.seat := rfl
@[simp] theorem State.updCluster_tick (s : State) (c : Nat) (f : Cluster → Cluster) : (s.updCluster c f).tick = s.tick := rfl
@[simp] theorem State.updCluster_fresh (s : State) (c : Nat) (f : Cluster → Cluster) : (s.updCluster c f).fresh = s.fresh := rfl
@[simp] theorem State.updCluster_cores (s : State) (c : Nat) (f : Cluster → Cluster) : (s.updCluster c f).cores = s.cores := rfl
@[simp] theorem State.updCluster_chiplets (s : State) (c : Nat) (f : Cluster → Cluster) : (s.updCluster c f).chiplets = s.chiplets := rfl
@[simp] theorem State.updCluster_hbm (s : State) (c : Nat) (f : Cluster → Cluster) : (s.updCluster c f).hbm = s.hbm := rfl
@[simp] theorem State.updCluster_hbmPoison (s : State) (c : Nat) (f : Cluster → Cluster) : (s.updCluster c f).hbmPoison = s.hbmPoison := rfl
@[simp] theorem State.updCluster_dirty (s : State) (c : Nat) (f : Cluster → Cluster) : (s.updCluster c f).dirty = s.dirty := rfl
@[simp] theorem State.updCluster_co (s : State) (c : Nat) (f : Cluster → Cluster) : (s.updCluster c f).co = s.co := rfl
@[simp] theorem State.updCluster_coPoison (s : State) (c : Nat) (f : Cluster → Cluster) : (s.updCluster c f).coPoison = s.coPoison := rfl
@[simp] theorem State.updCluster_owners (s : State) (c : Nat) (f : Cluster → Cluster) : (s.updCluster c f).owners = s.owners := rfl
@[simp] theorem State.updCluster_revs (s : State) (c : Nat) (f : Cluster → Cluster) : (s.updCluster c f).revs = s.revs := rfl
@[simp] theorem State.updCluster_reqs (s : State) (c : Nat) (f : Cluster → Cluster) : (s.updCluster c f).reqs = s.reqs := rfl
@[simp] theorem State.updCluster_net (s : State) (c : Nat) (f : Cluster → Cluster) : (s.updCluster c f).net = s.net := rfl
@[simp] theorem State.updCluster_waiting (s : State) (c : Nat) (f : Cluster → Cluster) : (s.updCluster c f).waiting = s.waiting := rfl
@[simp] theorem State.updCluster_seqs (s : State) (c : Nat) (f : Cluster → Cluster) : (s.updCluster c f).seqs = s.seqs := rfl
@[simp] theorem State.updCluster_expects (s : State) (c : Nat) (f : Cluster → Cluster) : (s.updCluster c f).expects = s.expects := rfl
@[simp] theorem State.updCluster_ranks (s : State) (c : Nat) (f : Cluster → Cluster) : (s.updCluster c f).ranks = s.ranks := rfl
@[simp] theorem State.updCluster_groups (s : State) (c : Nat) (f : Cluster → Cluster) : (s.updCluster c f).groups = s.groups := rfl
@[simp] theorem State.updCluster_l2cfg (s : State) (c : Nat) (f : Cluster → Cluster) : (s.updCluster c f).l2cfg = s.l2cfg := rfl
@[simp] theorem State.updCluster_l2pmap (s : State) (c : Nat) (f : Cluster → Cluster) : (s.updCluster c f).l2pmap = s.l2pmap := rfl
@[simp] theorem State.updCluster_l2co (s : State) (c : Nat) (f : Cluster → Cluster) : (s.updCluster c f).l2co = s.l2co := rfl
@[simp] theorem State.updCluster_slotMap (s : State) (c : Nat) (f : Cluster → Cluster) : (s.updCluster c f).slotMap = s.slotMap := rfl
@[simp] theorem State.updCluster_slotsBad (s : State) (c : Nat) (f : Cluster → Cluster) : (s.updCluster c f).slotsBad = s.slotsBad := rfl
@[simp] theorem State.updCluster_stacksBad (s : State) (c : Nat) (f : Cluster → Cluster) : (s.updCluster c f).stacksBad = s.stacksBad := rfl
@[simp] theorem State.updCluster_linksBad (s : State) (c : Nat) (f : Cluster → Cluster) : (s.updCluster c f).linksBad = s.linksBad := rfl
@[simp] theorem State.updCluster_sealed (s : State) (c : Nat) (f : Cluster → Cluster) : (s.updCluster c f).sealed = s.sealed := rfl
@[simp] theorem State.updCluster_netSel (s : State) (c : Nat) (f : Cluster → Cluster) : (s.updCluster c f).netSel = s.netSel := rfl
@[simp] theorem State.updCluster_escape (s : State) (c : Nat) (f : Cluster → Cluster) : (s.updCluster c f).escape = s.escape := rfl
@[simp] theorem State.updCluster_codec (s : State) (c : Nat) (f : Cluster → Cluster) : (s.updCluster c f).codec = s.codec := rfl
@[simp] theorem State.updCluster_queues (s : State) (c : Nat) (f : Cluster → Cluster) : (s.updCluster c f).queues = s.queues := rfl
@[simp] theorem State.updCluster_lastQueue (s : State) (c : Nat) (f : Cluster → Cluster) : (s.updCluster c f).lastQueue = s.lastQueue := rfl
@[simp] theorem State.updCluster_launches (s : State) (c : Nat) (f : Cluster → Cluster) : (s.updCluster c f).launches = s.launches := rfl
@[simp] theorem State.updCluster_portEnds (s : State) (c : Nat) (f : Cluster → Cluster) : (s.updCluster c f).portEnds = s.portEnds := rfl
@[simp] theorem State.updCluster_modStat (s : State) (c : Nat) (f : Cluster → Cluster) : (s.updCluster c f).modStat = s.modStat := rfl
@[simp] theorem State.updCluster_powcap (s : State) (c : Nat) (f : Cluster → Cluster) : (s.updCluster c f).powcap = s.powcap := rfl
@[simp] theorem State.updCluster_pstate (s : State) (c : Nat) (f : Cluster → Cluster) : (s.updCluster c f).pstate = s.pstate := rfl
@[simp] theorem State.updCluster_mbCmd (s : State) (c : Nat) (f : Cluster → Cluster) : (s.updCluster c f).mbCmd = s.mbCmd := rfl
@[simp] theorem State.updCluster_mbStat (s : State) (c : Nat) (f : Cluster → Cluster) : (s.updCluster c f).mbStat = s.mbStat := rfl
@[simp] theorem State.updCluster_mbData (s : State) (c : Nat) (f : Cluster → Cluster) : (s.updCluster c f).mbData = s.mbData := rfl
@[simp] theorem State.updCluster_mbRet (s : State) (c : Nat) (f : Cluster → Cluster) : (s.updCluster c f).mbRet = s.mbRet := rfl
@[simp] theorem State.updCluster_token (s : State) (c : Nat) (f : Cluster → Cluster) : (s.updCluster c f).token = s.token := rfl
@[simp] theorem State.updCluster_summarySeq (s : State) (c : Nat) (f : Cluster → Cluster) : (s.updCluster c f).summarySeq = s.summarySeq := rfl
@[simp] theorem State.updCluster_fenceCmd (s : State) (c : Nat) (f : Cluster → Cluster) : (s.updCluster c f).fenceCmd = s.fenceCmd := rfl
@[simp] theorem State.updCluster_farCfg (s : State) (c : Nat) (f : Cluster → Cluster) : (s.updCluster c f).farCfg = s.farCfg := rfl
@[simp] theorem State.updCluster_farTt (s : State) (c : Nat) (f : Cluster → Cluster) : (s.updCluster c f).farTt = s.farTt := rfl
@[simp] theorem State.updCluster_farTlb (s : State) (c : Nat) (f : Cluster → Cluster) : (s.updCluster c f).farTlb = s.farTlb := rfl
@[simp] theorem State.updCluster_farRoute (s : State) (c : Nat) (f : Cluster → Cluster) : (s.updCluster c f).farRoute = s.farRoute := rfl
@[simp] theorem State.updCluster_fib (s : State) (c : Nat) (f : Cluster → Cluster) : (s.updCluster c f).fib = s.fib := rfl
@[simp] theorem State.updCluster_deadWaves (s : State) (c : Nat) (f : Cluster → Cluster) : (s.updCluster c f).deadWaves = s.deadWaves := rfl
@[simp] theorem State.updCluster_switchBase (s : State) (c : Nat) (f : Cluster → Cluster) : (s.updCluster c f).switchBase = s.switchBase := rfl
@[simp] theorem State.updCluster_migrations (s : State) (c : Nat) (f : Cluster → Cluster) : (s.updCluster c f).migrations = s.migrations := rfl
@[simp] theorem State.updCluster_supImage (s : State) (c : Nat) (f : Cluster → Cluster) : (s.updCluster c f).supImage = s.supImage := rfl
@[simp] theorem State.updCluster_fwImage (s : State) (c : Nat) (f : Cluster → Cluster) : (s.updCluster c f).fwImage = s.fwImage := rfl
@[simp] theorem State.updCluster_severed (s : State) (c : Nat) (f : Cluster → Cluster) : (s.updCluster c f).severed = s.severed := rfl
@[simp] theorem State.updCluster_fibre (s : State) (c : Nat) (f : Cluster → Cluster) : (s.updCluster c f).fibre = s.fibre := rfl
@[simp] theorem State.updCluster_inbox (s : State) (c : Nat) (f : Cluster → Cluster) : (s.updCluster c f).inbox = s.inbox := rfl
@[simp] theorem State.updCluster_reply (s : State) (c : Nat) (f : Cluster → Cluster) : (s.updCluster c f).reply = s.reply := rfl
@[simp] theorem State.updCluster_sent (s : State) (c : Nat) (f : Cluster → Cluster) : (s.updCluster c f).sent = s.sent := rfl
@[simp] theorem State.updCluster_grants (s : State) (c : Nat) (f : Cluster → Cluster) : (s.updCluster c f).grants = s.grants := rfl
@[simp] theorem State.updCluster_routersBad (s : State) (c : Nat) (f : Cluster → Cluster) : (s.updCluster c f).routersBad = s.routersBad := rfl
@[simp] theorem State.updCluster_tables (s : State) (c : Nat) (f : Cluster → Cluster) : (s.updCluster c f).tables = s.tables := rfl
@[simp] theorem State.updCluster_summary (s : State) (c : Nat) (f : Cluster → Cluster) : (s.updCluster c f).summary = s.summary := rfl
@[simp] theorem State.updCluster_group (s : State) (c : Nat) (f : Cluster → Cluster) : (s.updCluster c f).group = s.group := rfl
@[simp] theorem State.updCluster_asks (s : State) (c : Nat) (f : Cluster → Cluster) : (s.updCluster c f).asks = s.asks := rfl
@[simp] theorem State.updCluster_farSeen (s : State) (c : Nat) (f : Cluster → Cluster) : (s.updCluster c f).farSeen = s.farSeen := rfl
@[simp] theorem State.updCluster_lost (s : State) (c : Nat) (f : Cluster → Cluster) : (s.updCluster c f).lost = s.lost := rfl
@[simp] theorem State.updCluster_lostTables (s : State) (c : Nat) (f : Cluster → Cluster) : (s.updCluster c f).lostTables = s.lostTables := rfl

@[simp] theorem State.setChiplet_agenda (s : State) (c : Nat) (k : Chiplet) : (s.setChiplet c k).agenda = s.agenda := rfl
@[simp] theorem State.setChiplet_focus (s : State) (c : Nat) (k : Chiplet) : (s.setChiplet c k).focus = s.focus := rfl
@[simp] theorem State.setChiplet_core (s : State) (c : Nat) (k : Chiplet) : (s.setChiplet c k).core = s.core := rfl
@[simp] theorem State.setChiplet_seat (s : State) (c : Nat) (k : Chiplet) : (s.setChiplet c k).seat = s.seat := rfl
@[simp] theorem State.setChiplet_tick (s : State) (c : Nat) (k : Chiplet) : (s.setChiplet c k).tick = s.tick := rfl
@[simp] theorem State.setChiplet_fresh (s : State) (c : Nat) (k : Chiplet) : (s.setChiplet c k).fresh = s.fresh := rfl
@[simp] theorem State.setChiplet_cores (s : State) (c : Nat) (k : Chiplet) : (s.setChiplet c k).cores = s.cores := rfl
@[simp] theorem State.setChiplet_clusters (s : State) (c : Nat) (k : Chiplet) : (s.setChiplet c k).clusters = s.clusters := rfl
@[simp] theorem State.setChiplet_hbm (s : State) (c : Nat) (k : Chiplet) : (s.setChiplet c k).hbm = s.hbm := rfl
@[simp] theorem State.setChiplet_hbmPoison (s : State) (c : Nat) (k : Chiplet) : (s.setChiplet c k).hbmPoison = s.hbmPoison := rfl
@[simp] theorem State.setChiplet_dirty (s : State) (c : Nat) (k : Chiplet) : (s.setChiplet c k).dirty = s.dirty := rfl
@[simp] theorem State.setChiplet_co (s : State) (c : Nat) (k : Chiplet) : (s.setChiplet c k).co = s.co := rfl
@[simp] theorem State.setChiplet_coPoison (s : State) (c : Nat) (k : Chiplet) : (s.setChiplet c k).coPoison = s.coPoison := rfl
@[simp] theorem State.setChiplet_owners (s : State) (c : Nat) (k : Chiplet) : (s.setChiplet c k).owners = s.owners := rfl
@[simp] theorem State.setChiplet_revs (s : State) (c : Nat) (k : Chiplet) : (s.setChiplet c k).revs = s.revs := rfl
@[simp] theorem State.setChiplet_reqs (s : State) (c : Nat) (k : Chiplet) : (s.setChiplet c k).reqs = s.reqs := rfl
@[simp] theorem State.setChiplet_net (s : State) (c : Nat) (k : Chiplet) : (s.setChiplet c k).net = s.net := rfl
@[simp] theorem State.setChiplet_waiting (s : State) (c : Nat) (k : Chiplet) : (s.setChiplet c k).waiting = s.waiting := rfl
@[simp] theorem State.setChiplet_seqs (s : State) (c : Nat) (k : Chiplet) : (s.setChiplet c k).seqs = s.seqs := rfl
@[simp] theorem State.setChiplet_expects (s : State) (c : Nat) (k : Chiplet) : (s.setChiplet c k).expects = s.expects := rfl
@[simp] theorem State.setChiplet_ranks (s : State) (c : Nat) (k : Chiplet) : (s.setChiplet c k).ranks = s.ranks := rfl
@[simp] theorem State.setChiplet_groups (s : State) (c : Nat) (k : Chiplet) : (s.setChiplet c k).groups = s.groups := rfl
@[simp] theorem State.setChiplet_l2cfg (s : State) (c : Nat) (k : Chiplet) : (s.setChiplet c k).l2cfg = s.l2cfg := rfl
@[simp] theorem State.setChiplet_l2pmap (s : State) (c : Nat) (k : Chiplet) : (s.setChiplet c k).l2pmap = s.l2pmap := rfl
@[simp] theorem State.setChiplet_l2co (s : State) (c : Nat) (k : Chiplet) : (s.setChiplet c k).l2co = s.l2co := rfl
@[simp] theorem State.setChiplet_slotMap (s : State) (c : Nat) (k : Chiplet) : (s.setChiplet c k).slotMap = s.slotMap := rfl
@[simp] theorem State.setChiplet_slotsBad (s : State) (c : Nat) (k : Chiplet) : (s.setChiplet c k).slotsBad = s.slotsBad := rfl
@[simp] theorem State.setChiplet_stacksBad (s : State) (c : Nat) (k : Chiplet) : (s.setChiplet c k).stacksBad = s.stacksBad := rfl
@[simp] theorem State.setChiplet_linksBad (s : State) (c : Nat) (k : Chiplet) : (s.setChiplet c k).linksBad = s.linksBad := rfl
@[simp] theorem State.setChiplet_sealed (s : State) (c : Nat) (k : Chiplet) : (s.setChiplet c k).sealed = s.sealed := rfl
@[simp] theorem State.setChiplet_netSel (s : State) (c : Nat) (k : Chiplet) : (s.setChiplet c k).netSel = s.netSel := rfl
@[simp] theorem State.setChiplet_escape (s : State) (c : Nat) (k : Chiplet) : (s.setChiplet c k).escape = s.escape := rfl
@[simp] theorem State.setChiplet_codec (s : State) (c : Nat) (k : Chiplet) : (s.setChiplet c k).codec = s.codec := rfl
@[simp] theorem State.setChiplet_queues (s : State) (c : Nat) (k : Chiplet) : (s.setChiplet c k).queues = s.queues := rfl
@[simp] theorem State.setChiplet_lastQueue (s : State) (c : Nat) (k : Chiplet) : (s.setChiplet c k).lastQueue = s.lastQueue := rfl
@[simp] theorem State.setChiplet_launches (s : State) (c : Nat) (k : Chiplet) : (s.setChiplet c k).launches = s.launches := rfl
@[simp] theorem State.setChiplet_portEnds (s : State) (c : Nat) (k : Chiplet) : (s.setChiplet c k).portEnds = s.portEnds := rfl
@[simp] theorem State.setChiplet_modStat (s : State) (c : Nat) (k : Chiplet) : (s.setChiplet c k).modStat = s.modStat := rfl
@[simp] theorem State.setChiplet_powcap (s : State) (c : Nat) (k : Chiplet) : (s.setChiplet c k).powcap = s.powcap := rfl
@[simp] theorem State.setChiplet_pstate (s : State) (c : Nat) (k : Chiplet) : (s.setChiplet c k).pstate = s.pstate := rfl
@[simp] theorem State.setChiplet_mbCmd (s : State) (c : Nat) (k : Chiplet) : (s.setChiplet c k).mbCmd = s.mbCmd := rfl
@[simp] theorem State.setChiplet_mbStat (s : State) (c : Nat) (k : Chiplet) : (s.setChiplet c k).mbStat = s.mbStat := rfl
@[simp] theorem State.setChiplet_mbData (s : State) (c : Nat) (k : Chiplet) : (s.setChiplet c k).mbData = s.mbData := rfl
@[simp] theorem State.setChiplet_mbRet (s : State) (c : Nat) (k : Chiplet) : (s.setChiplet c k).mbRet = s.mbRet := rfl
@[simp] theorem State.setChiplet_token (s : State) (c : Nat) (k : Chiplet) : (s.setChiplet c k).token = s.token := rfl
@[simp] theorem State.setChiplet_summarySeq (s : State) (c : Nat) (k : Chiplet) : (s.setChiplet c k).summarySeq = s.summarySeq := rfl
@[simp] theorem State.setChiplet_fenceCmd (s : State) (c : Nat) (k : Chiplet) : (s.setChiplet c k).fenceCmd = s.fenceCmd := rfl
@[simp] theorem State.setChiplet_farCfg (s : State) (c : Nat) (k : Chiplet) : (s.setChiplet c k).farCfg = s.farCfg := rfl
@[simp] theorem State.setChiplet_farTt (s : State) (c : Nat) (k : Chiplet) : (s.setChiplet c k).farTt = s.farTt := rfl
@[simp] theorem State.setChiplet_farTlb (s : State) (c : Nat) (k : Chiplet) : (s.setChiplet c k).farTlb = s.farTlb := rfl
@[simp] theorem State.setChiplet_farRoute (s : State) (c : Nat) (k : Chiplet) : (s.setChiplet c k).farRoute = s.farRoute := rfl
@[simp] theorem State.setChiplet_fib (s : State) (c : Nat) (k : Chiplet) : (s.setChiplet c k).fib = s.fib := rfl
@[simp] theorem State.setChiplet_deadWaves (s : State) (c : Nat) (k : Chiplet) : (s.setChiplet c k).deadWaves = s.deadWaves := rfl
@[simp] theorem State.setChiplet_switchBase (s : State) (c : Nat) (k : Chiplet) : (s.setChiplet c k).switchBase = s.switchBase := rfl
@[simp] theorem State.setChiplet_migrations (s : State) (c : Nat) (k : Chiplet) : (s.setChiplet c k).migrations = s.migrations := rfl
@[simp] theorem State.setChiplet_supImage (s : State) (c : Nat) (k : Chiplet) : (s.setChiplet c k).supImage = s.supImage := rfl
@[simp] theorem State.setChiplet_fwImage (s : State) (c : Nat) (k : Chiplet) : (s.setChiplet c k).fwImage = s.fwImage := rfl
@[simp] theorem State.setChiplet_severed (s : State) (c : Nat) (k : Chiplet) : (s.setChiplet c k).severed = s.severed := rfl
@[simp] theorem State.setChiplet_fibre (s : State) (c : Nat) (k : Chiplet) : (s.setChiplet c k).fibre = s.fibre := rfl
@[simp] theorem State.setChiplet_inbox (s : State) (c : Nat) (k : Chiplet) : (s.setChiplet c k).inbox = s.inbox := rfl
@[simp] theorem State.setChiplet_reply (s : State) (c : Nat) (k : Chiplet) : (s.setChiplet c k).reply = s.reply := rfl
@[simp] theorem State.setChiplet_sent (s : State) (c : Nat) (k : Chiplet) : (s.setChiplet c k).sent = s.sent := rfl
@[simp] theorem State.setChiplet_grants (s : State) (c : Nat) (k : Chiplet) : (s.setChiplet c k).grants = s.grants := rfl
@[simp] theorem State.setChiplet_routersBad (s : State) (c : Nat) (k : Chiplet) : (s.setChiplet c k).routersBad = s.routersBad := rfl
@[simp] theorem State.setChiplet_tables (s : State) (c : Nat) (k : Chiplet) : (s.setChiplet c k).tables = s.tables := rfl
@[simp] theorem State.setChiplet_summary (s : State) (c : Nat) (k : Chiplet) : (s.setChiplet c k).summary = s.summary := rfl
@[simp] theorem State.setChiplet_group (s : State) (c : Nat) (k : Chiplet) : (s.setChiplet c k).group = s.group := rfl
@[simp] theorem State.setChiplet_asks (s : State) (c : Nat) (k : Chiplet) : (s.setChiplet c k).asks = s.asks := rfl
@[simp] theorem State.setChiplet_farSeen (s : State) (c : Nat) (k : Chiplet) : (s.setChiplet c k).farSeen = s.farSeen := rfl
@[simp] theorem State.setChiplet_lost (s : State) (c : Nat) (k : Chiplet) : (s.setChiplet c k).lost = s.lost := rfl
@[simp] theorem State.setChiplet_lostTables (s : State) (c : Nat) (k : Chiplet) : (s.setChiplet c k).lostTables = s.lostTables := rfl

@[simp] theorem State.updChiplet_agenda (s : State) (c : Nat) (f : Chiplet → Chiplet) : (s.updChiplet c f).agenda = s.agenda := rfl
@[simp] theorem State.updChiplet_focus (s : State) (c : Nat) (f : Chiplet → Chiplet) : (s.updChiplet c f).focus = s.focus := rfl
@[simp] theorem State.updChiplet_core (s : State) (c : Nat) (f : Chiplet → Chiplet) : (s.updChiplet c f).core = s.core := rfl
@[simp] theorem State.updChiplet_seat (s : State) (c : Nat) (f : Chiplet → Chiplet) : (s.updChiplet c f).seat = s.seat := rfl
@[simp] theorem State.updChiplet_tick (s : State) (c : Nat) (f : Chiplet → Chiplet) : (s.updChiplet c f).tick = s.tick := rfl
@[simp] theorem State.updChiplet_fresh (s : State) (c : Nat) (f : Chiplet → Chiplet) : (s.updChiplet c f).fresh = s.fresh := rfl
@[simp] theorem State.updChiplet_cores (s : State) (c : Nat) (f : Chiplet → Chiplet) : (s.updChiplet c f).cores = s.cores := rfl
@[simp] theorem State.updChiplet_clusters (s : State) (c : Nat) (f : Chiplet → Chiplet) : (s.updChiplet c f).clusters = s.clusters := rfl
@[simp] theorem State.updChiplet_hbm (s : State) (c : Nat) (f : Chiplet → Chiplet) : (s.updChiplet c f).hbm = s.hbm := rfl
@[simp] theorem State.updChiplet_hbmPoison (s : State) (c : Nat) (f : Chiplet → Chiplet) : (s.updChiplet c f).hbmPoison = s.hbmPoison := rfl
@[simp] theorem State.updChiplet_dirty (s : State) (c : Nat) (f : Chiplet → Chiplet) : (s.updChiplet c f).dirty = s.dirty := rfl
@[simp] theorem State.updChiplet_co (s : State) (c : Nat) (f : Chiplet → Chiplet) : (s.updChiplet c f).co = s.co := rfl
@[simp] theorem State.updChiplet_coPoison (s : State) (c : Nat) (f : Chiplet → Chiplet) : (s.updChiplet c f).coPoison = s.coPoison := rfl
@[simp] theorem State.updChiplet_owners (s : State) (c : Nat) (f : Chiplet → Chiplet) : (s.updChiplet c f).owners = s.owners := rfl
@[simp] theorem State.updChiplet_revs (s : State) (c : Nat) (f : Chiplet → Chiplet) : (s.updChiplet c f).revs = s.revs := rfl
@[simp] theorem State.updChiplet_reqs (s : State) (c : Nat) (f : Chiplet → Chiplet) : (s.updChiplet c f).reqs = s.reqs := rfl
@[simp] theorem State.updChiplet_net (s : State) (c : Nat) (f : Chiplet → Chiplet) : (s.updChiplet c f).net = s.net := rfl
@[simp] theorem State.updChiplet_waiting (s : State) (c : Nat) (f : Chiplet → Chiplet) : (s.updChiplet c f).waiting = s.waiting := rfl
@[simp] theorem State.updChiplet_seqs (s : State) (c : Nat) (f : Chiplet → Chiplet) : (s.updChiplet c f).seqs = s.seqs := rfl
@[simp] theorem State.updChiplet_expects (s : State) (c : Nat) (f : Chiplet → Chiplet) : (s.updChiplet c f).expects = s.expects := rfl
@[simp] theorem State.updChiplet_ranks (s : State) (c : Nat) (f : Chiplet → Chiplet) : (s.updChiplet c f).ranks = s.ranks := rfl
@[simp] theorem State.updChiplet_groups (s : State) (c : Nat) (f : Chiplet → Chiplet) : (s.updChiplet c f).groups = s.groups := rfl
@[simp] theorem State.updChiplet_l2cfg (s : State) (c : Nat) (f : Chiplet → Chiplet) : (s.updChiplet c f).l2cfg = s.l2cfg := rfl
@[simp] theorem State.updChiplet_l2pmap (s : State) (c : Nat) (f : Chiplet → Chiplet) : (s.updChiplet c f).l2pmap = s.l2pmap := rfl
@[simp] theorem State.updChiplet_l2co (s : State) (c : Nat) (f : Chiplet → Chiplet) : (s.updChiplet c f).l2co = s.l2co := rfl
@[simp] theorem State.updChiplet_slotMap (s : State) (c : Nat) (f : Chiplet → Chiplet) : (s.updChiplet c f).slotMap = s.slotMap := rfl
@[simp] theorem State.updChiplet_slotsBad (s : State) (c : Nat) (f : Chiplet → Chiplet) : (s.updChiplet c f).slotsBad = s.slotsBad := rfl
@[simp] theorem State.updChiplet_stacksBad (s : State) (c : Nat) (f : Chiplet → Chiplet) : (s.updChiplet c f).stacksBad = s.stacksBad := rfl
@[simp] theorem State.updChiplet_linksBad (s : State) (c : Nat) (f : Chiplet → Chiplet) : (s.updChiplet c f).linksBad = s.linksBad := rfl
@[simp] theorem State.updChiplet_sealed (s : State) (c : Nat) (f : Chiplet → Chiplet) : (s.updChiplet c f).sealed = s.sealed := rfl
@[simp] theorem State.updChiplet_netSel (s : State) (c : Nat) (f : Chiplet → Chiplet) : (s.updChiplet c f).netSel = s.netSel := rfl
@[simp] theorem State.updChiplet_escape (s : State) (c : Nat) (f : Chiplet → Chiplet) : (s.updChiplet c f).escape = s.escape := rfl
@[simp] theorem State.updChiplet_codec (s : State) (c : Nat) (f : Chiplet → Chiplet) : (s.updChiplet c f).codec = s.codec := rfl
@[simp] theorem State.updChiplet_queues (s : State) (c : Nat) (f : Chiplet → Chiplet) : (s.updChiplet c f).queues = s.queues := rfl
@[simp] theorem State.updChiplet_lastQueue (s : State) (c : Nat) (f : Chiplet → Chiplet) : (s.updChiplet c f).lastQueue = s.lastQueue := rfl
@[simp] theorem State.updChiplet_launches (s : State) (c : Nat) (f : Chiplet → Chiplet) : (s.updChiplet c f).launches = s.launches := rfl
@[simp] theorem State.updChiplet_portEnds (s : State) (c : Nat) (f : Chiplet → Chiplet) : (s.updChiplet c f).portEnds = s.portEnds := rfl
@[simp] theorem State.updChiplet_modStat (s : State) (c : Nat) (f : Chiplet → Chiplet) : (s.updChiplet c f).modStat = s.modStat := rfl
@[simp] theorem State.updChiplet_powcap (s : State) (c : Nat) (f : Chiplet → Chiplet) : (s.updChiplet c f).powcap = s.powcap := rfl
@[simp] theorem State.updChiplet_pstate (s : State) (c : Nat) (f : Chiplet → Chiplet) : (s.updChiplet c f).pstate = s.pstate := rfl
@[simp] theorem State.updChiplet_mbCmd (s : State) (c : Nat) (f : Chiplet → Chiplet) : (s.updChiplet c f).mbCmd = s.mbCmd := rfl
@[simp] theorem State.updChiplet_mbStat (s : State) (c : Nat) (f : Chiplet → Chiplet) : (s.updChiplet c f).mbStat = s.mbStat := rfl
@[simp] theorem State.updChiplet_mbData (s : State) (c : Nat) (f : Chiplet → Chiplet) : (s.updChiplet c f).mbData = s.mbData := rfl
@[simp] theorem State.updChiplet_mbRet (s : State) (c : Nat) (f : Chiplet → Chiplet) : (s.updChiplet c f).mbRet = s.mbRet := rfl
@[simp] theorem State.updChiplet_token (s : State) (c : Nat) (f : Chiplet → Chiplet) : (s.updChiplet c f).token = s.token := rfl
@[simp] theorem State.updChiplet_summarySeq (s : State) (c : Nat) (f : Chiplet → Chiplet) : (s.updChiplet c f).summarySeq = s.summarySeq := rfl
@[simp] theorem State.updChiplet_fenceCmd (s : State) (c : Nat) (f : Chiplet → Chiplet) : (s.updChiplet c f).fenceCmd = s.fenceCmd := rfl
@[simp] theorem State.updChiplet_farCfg (s : State) (c : Nat) (f : Chiplet → Chiplet) : (s.updChiplet c f).farCfg = s.farCfg := rfl
@[simp] theorem State.updChiplet_farTt (s : State) (c : Nat) (f : Chiplet → Chiplet) : (s.updChiplet c f).farTt = s.farTt := rfl
@[simp] theorem State.updChiplet_farTlb (s : State) (c : Nat) (f : Chiplet → Chiplet) : (s.updChiplet c f).farTlb = s.farTlb := rfl
@[simp] theorem State.updChiplet_farRoute (s : State) (c : Nat) (f : Chiplet → Chiplet) : (s.updChiplet c f).farRoute = s.farRoute := rfl
@[simp] theorem State.updChiplet_fib (s : State) (c : Nat) (f : Chiplet → Chiplet) : (s.updChiplet c f).fib = s.fib := rfl
@[simp] theorem State.updChiplet_deadWaves (s : State) (c : Nat) (f : Chiplet → Chiplet) : (s.updChiplet c f).deadWaves = s.deadWaves := rfl
@[simp] theorem State.updChiplet_switchBase (s : State) (c : Nat) (f : Chiplet → Chiplet) : (s.updChiplet c f).switchBase = s.switchBase := rfl
@[simp] theorem State.updChiplet_migrations (s : State) (c : Nat) (f : Chiplet → Chiplet) : (s.updChiplet c f).migrations = s.migrations := rfl
@[simp] theorem State.updChiplet_supImage (s : State) (c : Nat) (f : Chiplet → Chiplet) : (s.updChiplet c f).supImage = s.supImage := rfl
@[simp] theorem State.updChiplet_fwImage (s : State) (c : Nat) (f : Chiplet → Chiplet) : (s.updChiplet c f).fwImage = s.fwImage := rfl
@[simp] theorem State.updChiplet_severed (s : State) (c : Nat) (f : Chiplet → Chiplet) : (s.updChiplet c f).severed = s.severed := rfl
@[simp] theorem State.updChiplet_fibre (s : State) (c : Nat) (f : Chiplet → Chiplet) : (s.updChiplet c f).fibre = s.fibre := rfl
@[simp] theorem State.updChiplet_inbox (s : State) (c : Nat) (f : Chiplet → Chiplet) : (s.updChiplet c f).inbox = s.inbox := rfl
@[simp] theorem State.updChiplet_reply (s : State) (c : Nat) (f : Chiplet → Chiplet) : (s.updChiplet c f).reply = s.reply := rfl
@[simp] theorem State.updChiplet_sent (s : State) (c : Nat) (f : Chiplet → Chiplet) : (s.updChiplet c f).sent = s.sent := rfl
@[simp] theorem State.updChiplet_grants (s : State) (c : Nat) (f : Chiplet → Chiplet) : (s.updChiplet c f).grants = s.grants := rfl
@[simp] theorem State.updChiplet_routersBad (s : State) (c : Nat) (f : Chiplet → Chiplet) : (s.updChiplet c f).routersBad = s.routersBad := rfl
@[simp] theorem State.updChiplet_tables (s : State) (c : Nat) (f : Chiplet → Chiplet) : (s.updChiplet c f).tables = s.tables := rfl
@[simp] theorem State.updChiplet_summary (s : State) (c : Nat) (f : Chiplet → Chiplet) : (s.updChiplet c f).summary = s.summary := rfl
@[simp] theorem State.updChiplet_group (s : State) (c : Nat) (f : Chiplet → Chiplet) : (s.updChiplet c f).group = s.group := rfl
@[simp] theorem State.updChiplet_asks (s : State) (c : Nat) (f : Chiplet → Chiplet) : (s.updChiplet c f).asks = s.asks := rfl
@[simp] theorem State.updChiplet_farSeen (s : State) (c : Nat) (f : Chiplet → Chiplet) : (s.updChiplet c f).farSeen = s.farSeen := rfl
@[simp] theorem State.updChiplet_lost (s : State) (c : Nat) (f : Chiplet → Chiplet) : (s.updChiplet c f).lost = s.lost := rfl
@[simp] theorem State.updChiplet_lostTables (s : State) (c : Nat) (f : Chiplet → Chiplet) : (s.updChiplet c f).lostTables = s.lostTables := rfl

@[simp] theorem State.setSeatAt_agenda (s : State) (c : CoreId) (n : Nat) (v : Seat) : (s.setSeatAt c n v).agenda = s.agenda := rfl
@[simp] theorem State.setSeatAt_focus (s : State) (c : CoreId) (n : Nat) (v : Seat) : (s.setSeatAt c n v).focus = s.focus := rfl
@[simp] theorem State.setSeatAt_core (s : State) (c : CoreId) (n : Nat) (v : Seat) : (s.setSeatAt c n v).core = s.core := rfl
@[simp] theorem State.setSeatAt_seat (s : State) (c : CoreId) (n : Nat) (v : Seat) : (s.setSeatAt c n v).seat = s.seat := rfl
@[simp] theorem State.setSeatAt_tick (s : State) (c : CoreId) (n : Nat) (v : Seat) : (s.setSeatAt c n v).tick = s.tick := rfl
@[simp] theorem State.setSeatAt_fresh (s : State) (c : CoreId) (n : Nat) (v : Seat) : (s.setSeatAt c n v).fresh = s.fresh := rfl
@[simp] theorem State.setSeatAt_clusters (s : State) (c : CoreId) (n : Nat) (v : Seat) : (s.setSeatAt c n v).clusters = s.clusters := rfl
@[simp] theorem State.setSeatAt_chiplets (s : State) (c : CoreId) (n : Nat) (v : Seat) : (s.setSeatAt c n v).chiplets = s.chiplets := rfl
@[simp] theorem State.setSeatAt_hbm (s : State) (c : CoreId) (n : Nat) (v : Seat) : (s.setSeatAt c n v).hbm = s.hbm := rfl
@[simp] theorem State.setSeatAt_hbmPoison (s : State) (c : CoreId) (n : Nat) (v : Seat) : (s.setSeatAt c n v).hbmPoison = s.hbmPoison := rfl
@[simp] theorem State.setSeatAt_dirty (s : State) (c : CoreId) (n : Nat) (v : Seat) : (s.setSeatAt c n v).dirty = s.dirty := rfl
@[simp] theorem State.setSeatAt_co (s : State) (c : CoreId) (n : Nat) (v : Seat) : (s.setSeatAt c n v).co = s.co := rfl
@[simp] theorem State.setSeatAt_coPoison (s : State) (c : CoreId) (n : Nat) (v : Seat) : (s.setSeatAt c n v).coPoison = s.coPoison := rfl
@[simp] theorem State.setSeatAt_owners (s : State) (c : CoreId) (n : Nat) (v : Seat) : (s.setSeatAt c n v).owners = s.owners := rfl
@[simp] theorem State.setSeatAt_revs (s : State) (c : CoreId) (n : Nat) (v : Seat) : (s.setSeatAt c n v).revs = s.revs := rfl
@[simp] theorem State.setSeatAt_reqs (s : State) (c : CoreId) (n : Nat) (v : Seat) : (s.setSeatAt c n v).reqs = s.reqs := rfl
@[simp] theorem State.setSeatAt_net (s : State) (c : CoreId) (n : Nat) (v : Seat) : (s.setSeatAt c n v).net = s.net := rfl
@[simp] theorem State.setSeatAt_waiting (s : State) (c : CoreId) (n : Nat) (v : Seat) : (s.setSeatAt c n v).waiting = s.waiting := rfl
@[simp] theorem State.setSeatAt_seqs (s : State) (c : CoreId) (n : Nat) (v : Seat) : (s.setSeatAt c n v).seqs = s.seqs := rfl
@[simp] theorem State.setSeatAt_expects (s : State) (c : CoreId) (n : Nat) (v : Seat) : (s.setSeatAt c n v).expects = s.expects := rfl
@[simp] theorem State.setSeatAt_ranks (s : State) (c : CoreId) (n : Nat) (v : Seat) : (s.setSeatAt c n v).ranks = s.ranks := rfl
@[simp] theorem State.setSeatAt_groups (s : State) (c : CoreId) (n : Nat) (v : Seat) : (s.setSeatAt c n v).groups = s.groups := rfl
@[simp] theorem State.setSeatAt_l2cfg (s : State) (c : CoreId) (n : Nat) (v : Seat) : (s.setSeatAt c n v).l2cfg = s.l2cfg := rfl
@[simp] theorem State.setSeatAt_l2pmap (s : State) (c : CoreId) (n : Nat) (v : Seat) : (s.setSeatAt c n v).l2pmap = s.l2pmap := rfl
@[simp] theorem State.setSeatAt_l2co (s : State) (c : CoreId) (n : Nat) (v : Seat) : (s.setSeatAt c n v).l2co = s.l2co := rfl
@[simp] theorem State.setSeatAt_slotMap (s : State) (c : CoreId) (n : Nat) (v : Seat) : (s.setSeatAt c n v).slotMap = s.slotMap := rfl
@[simp] theorem State.setSeatAt_slotsBad (s : State) (c : CoreId) (n : Nat) (v : Seat) : (s.setSeatAt c n v).slotsBad = s.slotsBad := rfl
@[simp] theorem State.setSeatAt_stacksBad (s : State) (c : CoreId) (n : Nat) (v : Seat) : (s.setSeatAt c n v).stacksBad = s.stacksBad := rfl
@[simp] theorem State.setSeatAt_linksBad (s : State) (c : CoreId) (n : Nat) (v : Seat) : (s.setSeatAt c n v).linksBad = s.linksBad := rfl
@[simp] theorem State.setSeatAt_sealed (s : State) (c : CoreId) (n : Nat) (v : Seat) : (s.setSeatAt c n v).sealed = s.sealed := rfl
@[simp] theorem State.setSeatAt_netSel (s : State) (c : CoreId) (n : Nat) (v : Seat) : (s.setSeatAt c n v).netSel = s.netSel := rfl
@[simp] theorem State.setSeatAt_escape (s : State) (c : CoreId) (n : Nat) (v : Seat) : (s.setSeatAt c n v).escape = s.escape := rfl
@[simp] theorem State.setSeatAt_codec (s : State) (c : CoreId) (n : Nat) (v : Seat) : (s.setSeatAt c n v).codec = s.codec := rfl
@[simp] theorem State.setSeatAt_queues (s : State) (c : CoreId) (n : Nat) (v : Seat) : (s.setSeatAt c n v).queues = s.queues := rfl
@[simp] theorem State.setSeatAt_lastQueue (s : State) (c : CoreId) (n : Nat) (v : Seat) : (s.setSeatAt c n v).lastQueue = s.lastQueue := rfl
@[simp] theorem State.setSeatAt_launches (s : State) (c : CoreId) (n : Nat) (v : Seat) : (s.setSeatAt c n v).launches = s.launches := rfl
@[simp] theorem State.setSeatAt_portEnds (s : State) (c : CoreId) (n : Nat) (v : Seat) : (s.setSeatAt c n v).portEnds = s.portEnds := rfl
@[simp] theorem State.setSeatAt_modStat (s : State) (c : CoreId) (n : Nat) (v : Seat) : (s.setSeatAt c n v).modStat = s.modStat := rfl
@[simp] theorem State.setSeatAt_powcap (s : State) (c : CoreId) (n : Nat) (v : Seat) : (s.setSeatAt c n v).powcap = s.powcap := rfl
@[simp] theorem State.setSeatAt_pstate (s : State) (c : CoreId) (n : Nat) (v : Seat) : (s.setSeatAt c n v).pstate = s.pstate := rfl
@[simp] theorem State.setSeatAt_mbCmd (s : State) (c : CoreId) (n : Nat) (v : Seat) : (s.setSeatAt c n v).mbCmd = s.mbCmd := rfl
@[simp] theorem State.setSeatAt_mbStat (s : State) (c : CoreId) (n : Nat) (v : Seat) : (s.setSeatAt c n v).mbStat = s.mbStat := rfl
@[simp] theorem State.setSeatAt_mbData (s : State) (c : CoreId) (n : Nat) (v : Seat) : (s.setSeatAt c n v).mbData = s.mbData := rfl
@[simp] theorem State.setSeatAt_mbRet (s : State) (c : CoreId) (n : Nat) (v : Seat) : (s.setSeatAt c n v).mbRet = s.mbRet := rfl
@[simp] theorem State.setSeatAt_token (s : State) (c : CoreId) (n : Nat) (v : Seat) : (s.setSeatAt c n v).token = s.token := rfl
@[simp] theorem State.setSeatAt_summarySeq (s : State) (c : CoreId) (n : Nat) (v : Seat) : (s.setSeatAt c n v).summarySeq = s.summarySeq := rfl
@[simp] theorem State.setSeatAt_fenceCmd (s : State) (c : CoreId) (n : Nat) (v : Seat) : (s.setSeatAt c n v).fenceCmd = s.fenceCmd := rfl
@[simp] theorem State.setSeatAt_farCfg (s : State) (c : CoreId) (n : Nat) (v : Seat) : (s.setSeatAt c n v).farCfg = s.farCfg := rfl
@[simp] theorem State.setSeatAt_farTt (s : State) (c : CoreId) (n : Nat) (v : Seat) : (s.setSeatAt c n v).farTt = s.farTt := rfl
@[simp] theorem State.setSeatAt_farTlb (s : State) (c : CoreId) (n : Nat) (v : Seat) : (s.setSeatAt c n v).farTlb = s.farTlb := rfl
@[simp] theorem State.setSeatAt_farRoute (s : State) (c : CoreId) (n : Nat) (v : Seat) : (s.setSeatAt c n v).farRoute = s.farRoute := rfl
@[simp] theorem State.setSeatAt_fib (s : State) (c : CoreId) (n : Nat) (v : Seat) : (s.setSeatAt c n v).fib = s.fib := rfl
@[simp] theorem State.setSeatAt_deadWaves (s : State) (c : CoreId) (n : Nat) (v : Seat) : (s.setSeatAt c n v).deadWaves = s.deadWaves := rfl
@[simp] theorem State.setSeatAt_switchBase (s : State) (c : CoreId) (n : Nat) (v : Seat) : (s.setSeatAt c n v).switchBase = s.switchBase := rfl
@[simp] theorem State.setSeatAt_migrations (s : State) (c : CoreId) (n : Nat) (v : Seat) : (s.setSeatAt c n v).migrations = s.migrations := rfl
@[simp] theorem State.setSeatAt_supImage (s : State) (c : CoreId) (n : Nat) (v : Seat) : (s.setSeatAt c n v).supImage = s.supImage := rfl
@[simp] theorem State.setSeatAt_fwImage (s : State) (c : CoreId) (n : Nat) (v : Seat) : (s.setSeatAt c n v).fwImage = s.fwImage := rfl
@[simp] theorem State.setSeatAt_severed (s : State) (c : CoreId) (n : Nat) (v : Seat) : (s.setSeatAt c n v).severed = s.severed := rfl
@[simp] theorem State.setSeatAt_fibre (s : State) (c : CoreId) (n : Nat) (v : Seat) : (s.setSeatAt c n v).fibre = s.fibre := rfl
@[simp] theorem State.setSeatAt_inbox (s : State) (c : CoreId) (n : Nat) (v : Seat) : (s.setSeatAt c n v).inbox = s.inbox := rfl
@[simp] theorem State.setSeatAt_reply (s : State) (c : CoreId) (n : Nat) (v : Seat) : (s.setSeatAt c n v).reply = s.reply := rfl
@[simp] theorem State.setSeatAt_sent (s : State) (c : CoreId) (n : Nat) (v : Seat) : (s.setSeatAt c n v).sent = s.sent := rfl
@[simp] theorem State.setSeatAt_grants (s : State) (c : CoreId) (n : Nat) (v : Seat) : (s.setSeatAt c n v).grants = s.grants := rfl
@[simp] theorem State.setSeatAt_routersBad (s : State) (c : CoreId) (n : Nat) (v : Seat) : (s.setSeatAt c n v).routersBad = s.routersBad := rfl
@[simp] theorem State.setSeatAt_tables (s : State) (c : CoreId) (n : Nat) (v : Seat) : (s.setSeatAt c n v).tables = s.tables := rfl
@[simp] theorem State.setSeatAt_summary (s : State) (c : CoreId) (n : Nat) (v : Seat) : (s.setSeatAt c n v).summary = s.summary := rfl
@[simp] theorem State.setSeatAt_group (s : State) (c : CoreId) (n : Nat) (v : Seat) : (s.setSeatAt c n v).group = s.group := rfl
@[simp] theorem State.setSeatAt_asks (s : State) (c : CoreId) (n : Nat) (v : Seat) : (s.setSeatAt c n v).asks = s.asks := rfl
@[simp] theorem State.setSeatAt_farSeen (s : State) (c : CoreId) (n : Nat) (v : Seat) : (s.setSeatAt c n v).farSeen = s.farSeen := rfl
@[simp] theorem State.setSeatAt_lost (s : State) (c : CoreId) (n : Nat) (v : Seat) : (s.setSeatAt c n v).lost = s.lost := rfl
@[simp] theorem State.setSeatAt_lostTables (s : State) (c : CoreId) (n : Nat) (v : Seat) : (s.setSeatAt c n v).lostTables = s.lostTables := rfl

@[simp] theorem State.updSeatAt_agenda (s : State) (c : CoreId) (n : Nat) (f : Seat → Seat) : (s.updSeatAt c n f).agenda = s.agenda := rfl
@[simp] theorem State.updSeatAt_focus (s : State) (c : CoreId) (n : Nat) (f : Seat → Seat) : (s.updSeatAt c n f).focus = s.focus := rfl
@[simp] theorem State.updSeatAt_core (s : State) (c : CoreId) (n : Nat) (f : Seat → Seat) : (s.updSeatAt c n f).core = s.core := rfl
@[simp] theorem State.updSeatAt_seat (s : State) (c : CoreId) (n : Nat) (f : Seat → Seat) : (s.updSeatAt c n f).seat = s.seat := rfl
@[simp] theorem State.updSeatAt_tick (s : State) (c : CoreId) (n : Nat) (f : Seat → Seat) : (s.updSeatAt c n f).tick = s.tick := rfl
@[simp] theorem State.updSeatAt_fresh (s : State) (c : CoreId) (n : Nat) (f : Seat → Seat) : (s.updSeatAt c n f).fresh = s.fresh := rfl
@[simp] theorem State.updSeatAt_clusters (s : State) (c : CoreId) (n : Nat) (f : Seat → Seat) : (s.updSeatAt c n f).clusters = s.clusters := rfl
@[simp] theorem State.updSeatAt_chiplets (s : State) (c : CoreId) (n : Nat) (f : Seat → Seat) : (s.updSeatAt c n f).chiplets = s.chiplets := rfl
@[simp] theorem State.updSeatAt_hbm (s : State) (c : CoreId) (n : Nat) (f : Seat → Seat) : (s.updSeatAt c n f).hbm = s.hbm := rfl
@[simp] theorem State.updSeatAt_hbmPoison (s : State) (c : CoreId) (n : Nat) (f : Seat → Seat) : (s.updSeatAt c n f).hbmPoison = s.hbmPoison := rfl
@[simp] theorem State.updSeatAt_dirty (s : State) (c : CoreId) (n : Nat) (f : Seat → Seat) : (s.updSeatAt c n f).dirty = s.dirty := rfl
@[simp] theorem State.updSeatAt_co (s : State) (c : CoreId) (n : Nat) (f : Seat → Seat) : (s.updSeatAt c n f).co = s.co := rfl
@[simp] theorem State.updSeatAt_coPoison (s : State) (c : CoreId) (n : Nat) (f : Seat → Seat) : (s.updSeatAt c n f).coPoison = s.coPoison := rfl
@[simp] theorem State.updSeatAt_owners (s : State) (c : CoreId) (n : Nat) (f : Seat → Seat) : (s.updSeatAt c n f).owners = s.owners := rfl
@[simp] theorem State.updSeatAt_revs (s : State) (c : CoreId) (n : Nat) (f : Seat → Seat) : (s.updSeatAt c n f).revs = s.revs := rfl
@[simp] theorem State.updSeatAt_reqs (s : State) (c : CoreId) (n : Nat) (f : Seat → Seat) : (s.updSeatAt c n f).reqs = s.reqs := rfl
@[simp] theorem State.updSeatAt_net (s : State) (c : CoreId) (n : Nat) (f : Seat → Seat) : (s.updSeatAt c n f).net = s.net := rfl
@[simp] theorem State.updSeatAt_waiting (s : State) (c : CoreId) (n : Nat) (f : Seat → Seat) : (s.updSeatAt c n f).waiting = s.waiting := rfl
@[simp] theorem State.updSeatAt_seqs (s : State) (c : CoreId) (n : Nat) (f : Seat → Seat) : (s.updSeatAt c n f).seqs = s.seqs := rfl
@[simp] theorem State.updSeatAt_expects (s : State) (c : CoreId) (n : Nat) (f : Seat → Seat) : (s.updSeatAt c n f).expects = s.expects := rfl
@[simp] theorem State.updSeatAt_ranks (s : State) (c : CoreId) (n : Nat) (f : Seat → Seat) : (s.updSeatAt c n f).ranks = s.ranks := rfl
@[simp] theorem State.updSeatAt_groups (s : State) (c : CoreId) (n : Nat) (f : Seat → Seat) : (s.updSeatAt c n f).groups = s.groups := rfl
@[simp] theorem State.updSeatAt_l2cfg (s : State) (c : CoreId) (n : Nat) (f : Seat → Seat) : (s.updSeatAt c n f).l2cfg = s.l2cfg := rfl
@[simp] theorem State.updSeatAt_l2pmap (s : State) (c : CoreId) (n : Nat) (f : Seat → Seat) : (s.updSeatAt c n f).l2pmap = s.l2pmap := rfl
@[simp] theorem State.updSeatAt_l2co (s : State) (c : CoreId) (n : Nat) (f : Seat → Seat) : (s.updSeatAt c n f).l2co = s.l2co := rfl
@[simp] theorem State.updSeatAt_slotMap (s : State) (c : CoreId) (n : Nat) (f : Seat → Seat) : (s.updSeatAt c n f).slotMap = s.slotMap := rfl
@[simp] theorem State.updSeatAt_slotsBad (s : State) (c : CoreId) (n : Nat) (f : Seat → Seat) : (s.updSeatAt c n f).slotsBad = s.slotsBad := rfl
@[simp] theorem State.updSeatAt_stacksBad (s : State) (c : CoreId) (n : Nat) (f : Seat → Seat) : (s.updSeatAt c n f).stacksBad = s.stacksBad := rfl
@[simp] theorem State.updSeatAt_linksBad (s : State) (c : CoreId) (n : Nat) (f : Seat → Seat) : (s.updSeatAt c n f).linksBad = s.linksBad := rfl
@[simp] theorem State.updSeatAt_sealed (s : State) (c : CoreId) (n : Nat) (f : Seat → Seat) : (s.updSeatAt c n f).sealed = s.sealed := rfl
@[simp] theorem State.updSeatAt_netSel (s : State) (c : CoreId) (n : Nat) (f : Seat → Seat) : (s.updSeatAt c n f).netSel = s.netSel := rfl
@[simp] theorem State.updSeatAt_escape (s : State) (c : CoreId) (n : Nat) (f : Seat → Seat) : (s.updSeatAt c n f).escape = s.escape := rfl
@[simp] theorem State.updSeatAt_codec (s : State) (c : CoreId) (n : Nat) (f : Seat → Seat) : (s.updSeatAt c n f).codec = s.codec := rfl
@[simp] theorem State.updSeatAt_queues (s : State) (c : CoreId) (n : Nat) (f : Seat → Seat) : (s.updSeatAt c n f).queues = s.queues := rfl
@[simp] theorem State.updSeatAt_lastQueue (s : State) (c : CoreId) (n : Nat) (f : Seat → Seat) : (s.updSeatAt c n f).lastQueue = s.lastQueue := rfl
@[simp] theorem State.updSeatAt_launches (s : State) (c : CoreId) (n : Nat) (f : Seat → Seat) : (s.updSeatAt c n f).launches = s.launches := rfl
@[simp] theorem State.updSeatAt_portEnds (s : State) (c : CoreId) (n : Nat) (f : Seat → Seat) : (s.updSeatAt c n f).portEnds = s.portEnds := rfl
@[simp] theorem State.updSeatAt_modStat (s : State) (c : CoreId) (n : Nat) (f : Seat → Seat) : (s.updSeatAt c n f).modStat = s.modStat := rfl
@[simp] theorem State.updSeatAt_powcap (s : State) (c : CoreId) (n : Nat) (f : Seat → Seat) : (s.updSeatAt c n f).powcap = s.powcap := rfl
@[simp] theorem State.updSeatAt_pstate (s : State) (c : CoreId) (n : Nat) (f : Seat → Seat) : (s.updSeatAt c n f).pstate = s.pstate := rfl
@[simp] theorem State.updSeatAt_mbCmd (s : State) (c : CoreId) (n : Nat) (f : Seat → Seat) : (s.updSeatAt c n f).mbCmd = s.mbCmd := rfl
@[simp] theorem State.updSeatAt_mbStat (s : State) (c : CoreId) (n : Nat) (f : Seat → Seat) : (s.updSeatAt c n f).mbStat = s.mbStat := rfl
@[simp] theorem State.updSeatAt_mbData (s : State) (c : CoreId) (n : Nat) (f : Seat → Seat) : (s.updSeatAt c n f).mbData = s.mbData := rfl
@[simp] theorem State.updSeatAt_mbRet (s : State) (c : CoreId) (n : Nat) (f : Seat → Seat) : (s.updSeatAt c n f).mbRet = s.mbRet := rfl
@[simp] theorem State.updSeatAt_token (s : State) (c : CoreId) (n : Nat) (f : Seat → Seat) : (s.updSeatAt c n f).token = s.token := rfl
@[simp] theorem State.updSeatAt_summarySeq (s : State) (c : CoreId) (n : Nat) (f : Seat → Seat) : (s.updSeatAt c n f).summarySeq = s.summarySeq := rfl
@[simp] theorem State.updSeatAt_fenceCmd (s : State) (c : CoreId) (n : Nat) (f : Seat → Seat) : (s.updSeatAt c n f).fenceCmd = s.fenceCmd := rfl
@[simp] theorem State.updSeatAt_farCfg (s : State) (c : CoreId) (n : Nat) (f : Seat → Seat) : (s.updSeatAt c n f).farCfg = s.farCfg := rfl
@[simp] theorem State.updSeatAt_farTt (s : State) (c : CoreId) (n : Nat) (f : Seat → Seat) : (s.updSeatAt c n f).farTt = s.farTt := rfl
@[simp] theorem State.updSeatAt_farTlb (s : State) (c : CoreId) (n : Nat) (f : Seat → Seat) : (s.updSeatAt c n f).farTlb = s.farTlb := rfl
@[simp] theorem State.updSeatAt_farRoute (s : State) (c : CoreId) (n : Nat) (f : Seat → Seat) : (s.updSeatAt c n f).farRoute = s.farRoute := rfl
@[simp] theorem State.updSeatAt_fib (s : State) (c : CoreId) (n : Nat) (f : Seat → Seat) : (s.updSeatAt c n f).fib = s.fib := rfl
@[simp] theorem State.updSeatAt_deadWaves (s : State) (c : CoreId) (n : Nat) (f : Seat → Seat) : (s.updSeatAt c n f).deadWaves = s.deadWaves := rfl
@[simp] theorem State.updSeatAt_switchBase (s : State) (c : CoreId) (n : Nat) (f : Seat → Seat) : (s.updSeatAt c n f).switchBase = s.switchBase := rfl
@[simp] theorem State.updSeatAt_migrations (s : State) (c : CoreId) (n : Nat) (f : Seat → Seat) : (s.updSeatAt c n f).migrations = s.migrations := rfl
@[simp] theorem State.updSeatAt_supImage (s : State) (c : CoreId) (n : Nat) (f : Seat → Seat) : (s.updSeatAt c n f).supImage = s.supImage := rfl
@[simp] theorem State.updSeatAt_fwImage (s : State) (c : CoreId) (n : Nat) (f : Seat → Seat) : (s.updSeatAt c n f).fwImage = s.fwImage := rfl
@[simp] theorem State.updSeatAt_severed (s : State) (c : CoreId) (n : Nat) (f : Seat → Seat) : (s.updSeatAt c n f).severed = s.severed := rfl
@[simp] theorem State.updSeatAt_fibre (s : State) (c : CoreId) (n : Nat) (f : Seat → Seat) : (s.updSeatAt c n f).fibre = s.fibre := rfl
@[simp] theorem State.updSeatAt_inbox (s : State) (c : CoreId) (n : Nat) (f : Seat → Seat) : (s.updSeatAt c n f).inbox = s.inbox := rfl
@[simp] theorem State.updSeatAt_reply (s : State) (c : CoreId) (n : Nat) (f : Seat → Seat) : (s.updSeatAt c n f).reply = s.reply := rfl
@[simp] theorem State.updSeatAt_sent (s : State) (c : CoreId) (n : Nat) (f : Seat → Seat) : (s.updSeatAt c n f).sent = s.sent := rfl
@[simp] theorem State.updSeatAt_grants (s : State) (c : CoreId) (n : Nat) (f : Seat → Seat) : (s.updSeatAt c n f).grants = s.grants := rfl
@[simp] theorem State.updSeatAt_routersBad (s : State) (c : CoreId) (n : Nat) (f : Seat → Seat) : (s.updSeatAt c n f).routersBad = s.routersBad := rfl
@[simp] theorem State.updSeatAt_tables (s : State) (c : CoreId) (n : Nat) (f : Seat → Seat) : (s.updSeatAt c n f).tables = s.tables := rfl
@[simp] theorem State.updSeatAt_summary (s : State) (c : CoreId) (n : Nat) (f : Seat → Seat) : (s.updSeatAt c n f).summary = s.summary := rfl
@[simp] theorem State.updSeatAt_group (s : State) (c : CoreId) (n : Nat) (f : Seat → Seat) : (s.updSeatAt c n f).group = s.group := rfl
@[simp] theorem State.updSeatAt_asks (s : State) (c : CoreId) (n : Nat) (f : Seat → Seat) : (s.updSeatAt c n f).asks = s.asks := rfl
@[simp] theorem State.updSeatAt_farSeen (s : State) (c : CoreId) (n : Nat) (f : Seat → Seat) : (s.updSeatAt c n f).farSeen = s.farSeen := rfl
@[simp] theorem State.updSeatAt_lost (s : State) (c : CoreId) (n : Nat) (f : Seat → Seat) : (s.updSeatAt c n f).lost = s.lost := rfl
@[simp] theorem State.updSeatAt_lostTables (s : State) (c : CoreId) (n : Nat) (f : Seat → Seat) : (s.updSeatAt c n f).lostTables = s.lostTables := rfl

@[simp] theorem State.updThisCore_agenda (s : State) (f : Core → Core) : (s.updThisCore f).agenda = s.agenda := rfl
@[simp] theorem State.updThisCore_focus (s : State) (f : Core → Core) : (s.updThisCore f).focus = s.focus := rfl
@[simp] theorem State.updThisCore_core (s : State) (f : Core → Core) : (s.updThisCore f).core = s.core := rfl
@[simp] theorem State.updThisCore_seat (s : State) (f : Core → Core) : (s.updThisCore f).seat = s.seat := rfl
@[simp] theorem State.updThisCore_tick (s : State) (f : Core → Core) : (s.updThisCore f).tick = s.tick := rfl
@[simp] theorem State.updThisCore_fresh (s : State) (f : Core → Core) : (s.updThisCore f).fresh = s.fresh := rfl
@[simp] theorem State.updThisCore_clusters (s : State) (f : Core → Core) : (s.updThisCore f).clusters = s.clusters := rfl
@[simp] theorem State.updThisCore_chiplets (s : State) (f : Core → Core) : (s.updThisCore f).chiplets = s.chiplets := rfl
@[simp] theorem State.updThisCore_hbm (s : State) (f : Core → Core) : (s.updThisCore f).hbm = s.hbm := rfl
@[simp] theorem State.updThisCore_hbmPoison (s : State) (f : Core → Core) : (s.updThisCore f).hbmPoison = s.hbmPoison := rfl
@[simp] theorem State.updThisCore_dirty (s : State) (f : Core → Core) : (s.updThisCore f).dirty = s.dirty := rfl
@[simp] theorem State.updThisCore_co (s : State) (f : Core → Core) : (s.updThisCore f).co = s.co := rfl
@[simp] theorem State.updThisCore_coPoison (s : State) (f : Core → Core) : (s.updThisCore f).coPoison = s.coPoison := rfl
@[simp] theorem State.updThisCore_owners (s : State) (f : Core → Core) : (s.updThisCore f).owners = s.owners := rfl
@[simp] theorem State.updThisCore_revs (s : State) (f : Core → Core) : (s.updThisCore f).revs = s.revs := rfl
@[simp] theorem State.updThisCore_reqs (s : State) (f : Core → Core) : (s.updThisCore f).reqs = s.reqs := rfl
@[simp] theorem State.updThisCore_net (s : State) (f : Core → Core) : (s.updThisCore f).net = s.net := rfl
@[simp] theorem State.updThisCore_waiting (s : State) (f : Core → Core) : (s.updThisCore f).waiting = s.waiting := rfl
@[simp] theorem State.updThisCore_seqs (s : State) (f : Core → Core) : (s.updThisCore f).seqs = s.seqs := rfl
@[simp] theorem State.updThisCore_expects (s : State) (f : Core → Core) : (s.updThisCore f).expects = s.expects := rfl
@[simp] theorem State.updThisCore_ranks (s : State) (f : Core → Core) : (s.updThisCore f).ranks = s.ranks := rfl
@[simp] theorem State.updThisCore_groups (s : State) (f : Core → Core) : (s.updThisCore f).groups = s.groups := rfl
@[simp] theorem State.updThisCore_l2cfg (s : State) (f : Core → Core) : (s.updThisCore f).l2cfg = s.l2cfg := rfl
@[simp] theorem State.updThisCore_l2pmap (s : State) (f : Core → Core) : (s.updThisCore f).l2pmap = s.l2pmap := rfl
@[simp] theorem State.updThisCore_l2co (s : State) (f : Core → Core) : (s.updThisCore f).l2co = s.l2co := rfl
@[simp] theorem State.updThisCore_slotMap (s : State) (f : Core → Core) : (s.updThisCore f).slotMap = s.slotMap := rfl
@[simp] theorem State.updThisCore_slotsBad (s : State) (f : Core → Core) : (s.updThisCore f).slotsBad = s.slotsBad := rfl
@[simp] theorem State.updThisCore_stacksBad (s : State) (f : Core → Core) : (s.updThisCore f).stacksBad = s.stacksBad := rfl
@[simp] theorem State.updThisCore_linksBad (s : State) (f : Core → Core) : (s.updThisCore f).linksBad = s.linksBad := rfl
@[simp] theorem State.updThisCore_sealed (s : State) (f : Core → Core) : (s.updThisCore f).sealed = s.sealed := rfl
@[simp] theorem State.updThisCore_netSel (s : State) (f : Core → Core) : (s.updThisCore f).netSel = s.netSel := rfl
@[simp] theorem State.updThisCore_escape (s : State) (f : Core → Core) : (s.updThisCore f).escape = s.escape := rfl
@[simp] theorem State.updThisCore_codec (s : State) (f : Core → Core) : (s.updThisCore f).codec = s.codec := rfl
@[simp] theorem State.updThisCore_queues (s : State) (f : Core → Core) : (s.updThisCore f).queues = s.queues := rfl
@[simp] theorem State.updThisCore_lastQueue (s : State) (f : Core → Core) : (s.updThisCore f).lastQueue = s.lastQueue := rfl
@[simp] theorem State.updThisCore_launches (s : State) (f : Core → Core) : (s.updThisCore f).launches = s.launches := rfl
@[simp] theorem State.updThisCore_portEnds (s : State) (f : Core → Core) : (s.updThisCore f).portEnds = s.portEnds := rfl
@[simp] theorem State.updThisCore_modStat (s : State) (f : Core → Core) : (s.updThisCore f).modStat = s.modStat := rfl
@[simp] theorem State.updThisCore_powcap (s : State) (f : Core → Core) : (s.updThisCore f).powcap = s.powcap := rfl
@[simp] theorem State.updThisCore_pstate (s : State) (f : Core → Core) : (s.updThisCore f).pstate = s.pstate := rfl
@[simp] theorem State.updThisCore_mbCmd (s : State) (f : Core → Core) : (s.updThisCore f).mbCmd = s.mbCmd := rfl
@[simp] theorem State.updThisCore_mbStat (s : State) (f : Core → Core) : (s.updThisCore f).mbStat = s.mbStat := rfl
@[simp] theorem State.updThisCore_mbData (s : State) (f : Core → Core) : (s.updThisCore f).mbData = s.mbData := rfl
@[simp] theorem State.updThisCore_mbRet (s : State) (f : Core → Core) : (s.updThisCore f).mbRet = s.mbRet := rfl
@[simp] theorem State.updThisCore_token (s : State) (f : Core → Core) : (s.updThisCore f).token = s.token := rfl
@[simp] theorem State.updThisCore_summarySeq (s : State) (f : Core → Core) : (s.updThisCore f).summarySeq = s.summarySeq := rfl
@[simp] theorem State.updThisCore_fenceCmd (s : State) (f : Core → Core) : (s.updThisCore f).fenceCmd = s.fenceCmd := rfl
@[simp] theorem State.updThisCore_farCfg (s : State) (f : Core → Core) : (s.updThisCore f).farCfg = s.farCfg := rfl
@[simp] theorem State.updThisCore_farTt (s : State) (f : Core → Core) : (s.updThisCore f).farTt = s.farTt := rfl
@[simp] theorem State.updThisCore_farTlb (s : State) (f : Core → Core) : (s.updThisCore f).farTlb = s.farTlb := rfl
@[simp] theorem State.updThisCore_farRoute (s : State) (f : Core → Core) : (s.updThisCore f).farRoute = s.farRoute := rfl
@[simp] theorem State.updThisCore_fib (s : State) (f : Core → Core) : (s.updThisCore f).fib = s.fib := rfl
@[simp] theorem State.updThisCore_deadWaves (s : State) (f : Core → Core) : (s.updThisCore f).deadWaves = s.deadWaves := rfl
@[simp] theorem State.updThisCore_switchBase (s : State) (f : Core → Core) : (s.updThisCore f).switchBase = s.switchBase := rfl
@[simp] theorem State.updThisCore_migrations (s : State) (f : Core → Core) : (s.updThisCore f).migrations = s.migrations := rfl
@[simp] theorem State.updThisCore_supImage (s : State) (f : Core → Core) : (s.updThisCore f).supImage = s.supImage := rfl
@[simp] theorem State.updThisCore_fwImage (s : State) (f : Core → Core) : (s.updThisCore f).fwImage = s.fwImage := rfl
@[simp] theorem State.updThisCore_severed (s : State) (f : Core → Core) : (s.updThisCore f).severed = s.severed := rfl
@[simp] theorem State.updThisCore_fibre (s : State) (f : Core → Core) : (s.updThisCore f).fibre = s.fibre := rfl
@[simp] theorem State.updThisCore_inbox (s : State) (f : Core → Core) : (s.updThisCore f).inbox = s.inbox := rfl
@[simp] theorem State.updThisCore_reply (s : State) (f : Core → Core) : (s.updThisCore f).reply = s.reply := rfl
@[simp] theorem State.updThisCore_sent (s : State) (f : Core → Core) : (s.updThisCore f).sent = s.sent := rfl
@[simp] theorem State.updThisCore_grants (s : State) (f : Core → Core) : (s.updThisCore f).grants = s.grants := rfl
@[simp] theorem State.updThisCore_routersBad (s : State) (f : Core → Core) : (s.updThisCore f).routersBad = s.routersBad := rfl
@[simp] theorem State.updThisCore_tables (s : State) (f : Core → Core) : (s.updThisCore f).tables = s.tables := rfl
@[simp] theorem State.updThisCore_summary (s : State) (f : Core → Core) : (s.updThisCore f).summary = s.summary := rfl
@[simp] theorem State.updThisCore_group (s : State) (f : Core → Core) : (s.updThisCore f).group = s.group := rfl
@[simp] theorem State.updThisCore_asks (s : State) (f : Core → Core) : (s.updThisCore f).asks = s.asks := rfl
@[simp] theorem State.updThisCore_farSeen (s : State) (f : Core → Core) : (s.updThisCore f).farSeen = s.farSeen := rfl
@[simp] theorem State.updThisCore_lost (s : State) (f : Core → Core) : (s.updThisCore f).lost = s.lost := rfl
@[simp] theorem State.updThisCore_lostTables (s : State) (f : Core → Core) : (s.updThisCore f).lostTables = s.lostTables := rfl

@[simp] theorem State.setThisSeat_agenda (s : State) (v : Seat) : (s.setThisSeat v).agenda = s.agenda := rfl
@[simp] theorem State.setThisSeat_focus (s : State) (v : Seat) : (s.setThisSeat v).focus = s.focus := rfl
@[simp] theorem State.setThisSeat_core (s : State) (v : Seat) : (s.setThisSeat v).core = s.core := rfl
@[simp] theorem State.setThisSeat_seat (s : State) (v : Seat) : (s.setThisSeat v).seat = s.seat := rfl
@[simp] theorem State.setThisSeat_tick (s : State) (v : Seat) : (s.setThisSeat v).tick = s.tick := rfl
@[simp] theorem State.setThisSeat_fresh (s : State) (v : Seat) : (s.setThisSeat v).fresh = s.fresh := rfl
@[simp] theorem State.setThisSeat_clusters (s : State) (v : Seat) : (s.setThisSeat v).clusters = s.clusters := rfl
@[simp] theorem State.setThisSeat_chiplets (s : State) (v : Seat) : (s.setThisSeat v).chiplets = s.chiplets := rfl
@[simp] theorem State.setThisSeat_hbm (s : State) (v : Seat) : (s.setThisSeat v).hbm = s.hbm := rfl
@[simp] theorem State.setThisSeat_hbmPoison (s : State) (v : Seat) : (s.setThisSeat v).hbmPoison = s.hbmPoison := rfl
@[simp] theorem State.setThisSeat_dirty (s : State) (v : Seat) : (s.setThisSeat v).dirty = s.dirty := rfl
@[simp] theorem State.setThisSeat_co (s : State) (v : Seat) : (s.setThisSeat v).co = s.co := rfl
@[simp] theorem State.setThisSeat_coPoison (s : State) (v : Seat) : (s.setThisSeat v).coPoison = s.coPoison := rfl
@[simp] theorem State.setThisSeat_owners (s : State) (v : Seat) : (s.setThisSeat v).owners = s.owners := rfl
@[simp] theorem State.setThisSeat_revs (s : State) (v : Seat) : (s.setThisSeat v).revs = s.revs := rfl
@[simp] theorem State.setThisSeat_reqs (s : State) (v : Seat) : (s.setThisSeat v).reqs = s.reqs := rfl
@[simp] theorem State.setThisSeat_net (s : State) (v : Seat) : (s.setThisSeat v).net = s.net := rfl
@[simp] theorem State.setThisSeat_waiting (s : State) (v : Seat) : (s.setThisSeat v).waiting = s.waiting := rfl
@[simp] theorem State.setThisSeat_seqs (s : State) (v : Seat) : (s.setThisSeat v).seqs = s.seqs := rfl
@[simp] theorem State.setThisSeat_expects (s : State) (v : Seat) : (s.setThisSeat v).expects = s.expects := rfl
@[simp] theorem State.setThisSeat_ranks (s : State) (v : Seat) : (s.setThisSeat v).ranks = s.ranks := rfl
@[simp] theorem State.setThisSeat_groups (s : State) (v : Seat) : (s.setThisSeat v).groups = s.groups := rfl
@[simp] theorem State.setThisSeat_l2cfg (s : State) (v : Seat) : (s.setThisSeat v).l2cfg = s.l2cfg := rfl
@[simp] theorem State.setThisSeat_l2pmap (s : State) (v : Seat) : (s.setThisSeat v).l2pmap = s.l2pmap := rfl
@[simp] theorem State.setThisSeat_l2co (s : State) (v : Seat) : (s.setThisSeat v).l2co = s.l2co := rfl
@[simp] theorem State.setThisSeat_slotMap (s : State) (v : Seat) : (s.setThisSeat v).slotMap = s.slotMap := rfl
@[simp] theorem State.setThisSeat_slotsBad (s : State) (v : Seat) : (s.setThisSeat v).slotsBad = s.slotsBad := rfl
@[simp] theorem State.setThisSeat_stacksBad (s : State) (v : Seat) : (s.setThisSeat v).stacksBad = s.stacksBad := rfl
@[simp] theorem State.setThisSeat_linksBad (s : State) (v : Seat) : (s.setThisSeat v).linksBad = s.linksBad := rfl
@[simp] theorem State.setThisSeat_sealed (s : State) (v : Seat) : (s.setThisSeat v).sealed = s.sealed := rfl
@[simp] theorem State.setThisSeat_netSel (s : State) (v : Seat) : (s.setThisSeat v).netSel = s.netSel := rfl
@[simp] theorem State.setThisSeat_escape (s : State) (v : Seat) : (s.setThisSeat v).escape = s.escape := rfl
@[simp] theorem State.setThisSeat_codec (s : State) (v : Seat) : (s.setThisSeat v).codec = s.codec := rfl
@[simp] theorem State.setThisSeat_queues (s : State) (v : Seat) : (s.setThisSeat v).queues = s.queues := rfl
@[simp] theorem State.setThisSeat_lastQueue (s : State) (v : Seat) : (s.setThisSeat v).lastQueue = s.lastQueue := rfl
@[simp] theorem State.setThisSeat_launches (s : State) (v : Seat) : (s.setThisSeat v).launches = s.launches := rfl
@[simp] theorem State.setThisSeat_portEnds (s : State) (v : Seat) : (s.setThisSeat v).portEnds = s.portEnds := rfl
@[simp] theorem State.setThisSeat_modStat (s : State) (v : Seat) : (s.setThisSeat v).modStat = s.modStat := rfl
@[simp] theorem State.setThisSeat_powcap (s : State) (v : Seat) : (s.setThisSeat v).powcap = s.powcap := rfl
@[simp] theorem State.setThisSeat_pstate (s : State) (v : Seat) : (s.setThisSeat v).pstate = s.pstate := rfl
@[simp] theorem State.setThisSeat_mbCmd (s : State) (v : Seat) : (s.setThisSeat v).mbCmd = s.mbCmd := rfl
@[simp] theorem State.setThisSeat_mbStat (s : State) (v : Seat) : (s.setThisSeat v).mbStat = s.mbStat := rfl
@[simp] theorem State.setThisSeat_mbData (s : State) (v : Seat) : (s.setThisSeat v).mbData = s.mbData := rfl
@[simp] theorem State.setThisSeat_mbRet (s : State) (v : Seat) : (s.setThisSeat v).mbRet = s.mbRet := rfl
@[simp] theorem State.setThisSeat_token (s : State) (v : Seat) : (s.setThisSeat v).token = s.token := rfl
@[simp] theorem State.setThisSeat_summarySeq (s : State) (v : Seat) : (s.setThisSeat v).summarySeq = s.summarySeq := rfl
@[simp] theorem State.setThisSeat_fenceCmd (s : State) (v : Seat) : (s.setThisSeat v).fenceCmd = s.fenceCmd := rfl
@[simp] theorem State.setThisSeat_farCfg (s : State) (v : Seat) : (s.setThisSeat v).farCfg = s.farCfg := rfl
@[simp] theorem State.setThisSeat_farTt (s : State) (v : Seat) : (s.setThisSeat v).farTt = s.farTt := rfl
@[simp] theorem State.setThisSeat_farTlb (s : State) (v : Seat) : (s.setThisSeat v).farTlb = s.farTlb := rfl
@[simp] theorem State.setThisSeat_farRoute (s : State) (v : Seat) : (s.setThisSeat v).farRoute = s.farRoute := rfl
@[simp] theorem State.setThisSeat_fib (s : State) (v : Seat) : (s.setThisSeat v).fib = s.fib := rfl
@[simp] theorem State.setThisSeat_deadWaves (s : State) (v : Seat) : (s.setThisSeat v).deadWaves = s.deadWaves := rfl
@[simp] theorem State.setThisSeat_switchBase (s : State) (v : Seat) : (s.setThisSeat v).switchBase = s.switchBase := rfl
@[simp] theorem State.setThisSeat_migrations (s : State) (v : Seat) : (s.setThisSeat v).migrations = s.migrations := rfl
@[simp] theorem State.setThisSeat_supImage (s : State) (v : Seat) : (s.setThisSeat v).supImage = s.supImage := rfl
@[simp] theorem State.setThisSeat_fwImage (s : State) (v : Seat) : (s.setThisSeat v).fwImage = s.fwImage := rfl
@[simp] theorem State.setThisSeat_severed (s : State) (v : Seat) : (s.setThisSeat v).severed = s.severed := rfl
@[simp] theorem State.setThisSeat_fibre (s : State) (v : Seat) : (s.setThisSeat v).fibre = s.fibre := rfl
@[simp] theorem State.setThisSeat_inbox (s : State) (v : Seat) : (s.setThisSeat v).inbox = s.inbox := rfl
@[simp] theorem State.setThisSeat_reply (s : State) (v : Seat) : (s.setThisSeat v).reply = s.reply := rfl
@[simp] theorem State.setThisSeat_sent (s : State) (v : Seat) : (s.setThisSeat v).sent = s.sent := rfl
@[simp] theorem State.setThisSeat_grants (s : State) (v : Seat) : (s.setThisSeat v).grants = s.grants := rfl
@[simp] theorem State.setThisSeat_routersBad (s : State) (v : Seat) : (s.setThisSeat v).routersBad = s.routersBad := rfl
@[simp] theorem State.setThisSeat_tables (s : State) (v : Seat) : (s.setThisSeat v).tables = s.tables := rfl
@[simp] theorem State.setThisSeat_summary (s : State) (v : Seat) : (s.setThisSeat v).summary = s.summary := rfl
@[simp] theorem State.setThisSeat_group (s : State) (v : Seat) : (s.setThisSeat v).group = s.group := rfl
@[simp] theorem State.setThisSeat_asks (s : State) (v : Seat) : (s.setThisSeat v).asks = s.asks := rfl
@[simp] theorem State.setThisSeat_farSeen (s : State) (v : Seat) : (s.setThisSeat v).farSeen = s.farSeen := rfl
@[simp] theorem State.setThisSeat_lost (s : State) (v : Seat) : (s.setThisSeat v).lost = s.lost := rfl
@[simp] theorem State.setThisSeat_lostTables (s : State) (v : Seat) : (s.setThisSeat v).lostTables = s.lostTables := rfl

@[simp] theorem State.updThisSeat_agenda (s : State) (f : Seat → Seat) : (s.updThisSeat f).agenda = s.agenda := rfl
@[simp] theorem State.updThisSeat_focus (s : State) (f : Seat → Seat) : (s.updThisSeat f).focus = s.focus := rfl
@[simp] theorem State.updThisSeat_core (s : State) (f : Seat → Seat) : (s.updThisSeat f).core = s.core := rfl
@[simp] theorem State.updThisSeat_seat (s : State) (f : Seat → Seat) : (s.updThisSeat f).seat = s.seat := rfl
@[simp] theorem State.updThisSeat_tick (s : State) (f : Seat → Seat) : (s.updThisSeat f).tick = s.tick := rfl
@[simp] theorem State.updThisSeat_fresh (s : State) (f : Seat → Seat) : (s.updThisSeat f).fresh = s.fresh := rfl
@[simp] theorem State.updThisSeat_clusters (s : State) (f : Seat → Seat) : (s.updThisSeat f).clusters = s.clusters := rfl
@[simp] theorem State.updThisSeat_chiplets (s : State) (f : Seat → Seat) : (s.updThisSeat f).chiplets = s.chiplets := rfl
@[simp] theorem State.updThisSeat_hbm (s : State) (f : Seat → Seat) : (s.updThisSeat f).hbm = s.hbm := rfl
@[simp] theorem State.updThisSeat_hbmPoison (s : State) (f : Seat → Seat) : (s.updThisSeat f).hbmPoison = s.hbmPoison := rfl
@[simp] theorem State.updThisSeat_dirty (s : State) (f : Seat → Seat) : (s.updThisSeat f).dirty = s.dirty := rfl
@[simp] theorem State.updThisSeat_co (s : State) (f : Seat → Seat) : (s.updThisSeat f).co = s.co := rfl
@[simp] theorem State.updThisSeat_coPoison (s : State) (f : Seat → Seat) : (s.updThisSeat f).coPoison = s.coPoison := rfl
@[simp] theorem State.updThisSeat_owners (s : State) (f : Seat → Seat) : (s.updThisSeat f).owners = s.owners := rfl
@[simp] theorem State.updThisSeat_revs (s : State) (f : Seat → Seat) : (s.updThisSeat f).revs = s.revs := rfl
@[simp] theorem State.updThisSeat_reqs (s : State) (f : Seat → Seat) : (s.updThisSeat f).reqs = s.reqs := rfl
@[simp] theorem State.updThisSeat_net (s : State) (f : Seat → Seat) : (s.updThisSeat f).net = s.net := rfl
@[simp] theorem State.updThisSeat_waiting (s : State) (f : Seat → Seat) : (s.updThisSeat f).waiting = s.waiting := rfl
@[simp] theorem State.updThisSeat_seqs (s : State) (f : Seat → Seat) : (s.updThisSeat f).seqs = s.seqs := rfl
@[simp] theorem State.updThisSeat_expects (s : State) (f : Seat → Seat) : (s.updThisSeat f).expects = s.expects := rfl
@[simp] theorem State.updThisSeat_ranks (s : State) (f : Seat → Seat) : (s.updThisSeat f).ranks = s.ranks := rfl
@[simp] theorem State.updThisSeat_groups (s : State) (f : Seat → Seat) : (s.updThisSeat f).groups = s.groups := rfl
@[simp] theorem State.updThisSeat_l2cfg (s : State) (f : Seat → Seat) : (s.updThisSeat f).l2cfg = s.l2cfg := rfl
@[simp] theorem State.updThisSeat_l2pmap (s : State) (f : Seat → Seat) : (s.updThisSeat f).l2pmap = s.l2pmap := rfl
@[simp] theorem State.updThisSeat_l2co (s : State) (f : Seat → Seat) : (s.updThisSeat f).l2co = s.l2co := rfl
@[simp] theorem State.updThisSeat_slotMap (s : State) (f : Seat → Seat) : (s.updThisSeat f).slotMap = s.slotMap := rfl
@[simp] theorem State.updThisSeat_slotsBad (s : State) (f : Seat → Seat) : (s.updThisSeat f).slotsBad = s.slotsBad := rfl
@[simp] theorem State.updThisSeat_stacksBad (s : State) (f : Seat → Seat) : (s.updThisSeat f).stacksBad = s.stacksBad := rfl
@[simp] theorem State.updThisSeat_linksBad (s : State) (f : Seat → Seat) : (s.updThisSeat f).linksBad = s.linksBad := rfl
@[simp] theorem State.updThisSeat_sealed (s : State) (f : Seat → Seat) : (s.updThisSeat f).sealed = s.sealed := rfl
@[simp] theorem State.updThisSeat_netSel (s : State) (f : Seat → Seat) : (s.updThisSeat f).netSel = s.netSel := rfl
@[simp] theorem State.updThisSeat_escape (s : State) (f : Seat → Seat) : (s.updThisSeat f).escape = s.escape := rfl
@[simp] theorem State.updThisSeat_codec (s : State) (f : Seat → Seat) : (s.updThisSeat f).codec = s.codec := rfl
@[simp] theorem State.updThisSeat_queues (s : State) (f : Seat → Seat) : (s.updThisSeat f).queues = s.queues := rfl
@[simp] theorem State.updThisSeat_lastQueue (s : State) (f : Seat → Seat) : (s.updThisSeat f).lastQueue = s.lastQueue := rfl
@[simp] theorem State.updThisSeat_launches (s : State) (f : Seat → Seat) : (s.updThisSeat f).launches = s.launches := rfl
@[simp] theorem State.updThisSeat_portEnds (s : State) (f : Seat → Seat) : (s.updThisSeat f).portEnds = s.portEnds := rfl
@[simp] theorem State.updThisSeat_modStat (s : State) (f : Seat → Seat) : (s.updThisSeat f).modStat = s.modStat := rfl
@[simp] theorem State.updThisSeat_powcap (s : State) (f : Seat → Seat) : (s.updThisSeat f).powcap = s.powcap := rfl
@[simp] theorem State.updThisSeat_pstate (s : State) (f : Seat → Seat) : (s.updThisSeat f).pstate = s.pstate := rfl
@[simp] theorem State.updThisSeat_mbCmd (s : State) (f : Seat → Seat) : (s.updThisSeat f).mbCmd = s.mbCmd := rfl
@[simp] theorem State.updThisSeat_mbStat (s : State) (f : Seat → Seat) : (s.updThisSeat f).mbStat = s.mbStat := rfl
@[simp] theorem State.updThisSeat_mbData (s : State) (f : Seat → Seat) : (s.updThisSeat f).mbData = s.mbData := rfl
@[simp] theorem State.updThisSeat_mbRet (s : State) (f : Seat → Seat) : (s.updThisSeat f).mbRet = s.mbRet := rfl
@[simp] theorem State.updThisSeat_token (s : State) (f : Seat → Seat) : (s.updThisSeat f).token = s.token := rfl
@[simp] theorem State.updThisSeat_summarySeq (s : State) (f : Seat → Seat) : (s.updThisSeat f).summarySeq = s.summarySeq := rfl
@[simp] theorem State.updThisSeat_fenceCmd (s : State) (f : Seat → Seat) : (s.updThisSeat f).fenceCmd = s.fenceCmd := rfl
@[simp] theorem State.updThisSeat_farCfg (s : State) (f : Seat → Seat) : (s.updThisSeat f).farCfg = s.farCfg := rfl
@[simp] theorem State.updThisSeat_farTt (s : State) (f : Seat → Seat) : (s.updThisSeat f).farTt = s.farTt := rfl
@[simp] theorem State.updThisSeat_farTlb (s : State) (f : Seat → Seat) : (s.updThisSeat f).farTlb = s.farTlb := rfl
@[simp] theorem State.updThisSeat_farRoute (s : State) (f : Seat → Seat) : (s.updThisSeat f).farRoute = s.farRoute := rfl
@[simp] theorem State.updThisSeat_fib (s : State) (f : Seat → Seat) : (s.updThisSeat f).fib = s.fib := rfl
@[simp] theorem State.updThisSeat_deadWaves (s : State) (f : Seat → Seat) : (s.updThisSeat f).deadWaves = s.deadWaves := rfl
@[simp] theorem State.updThisSeat_switchBase (s : State) (f : Seat → Seat) : (s.updThisSeat f).switchBase = s.switchBase := rfl
@[simp] theorem State.updThisSeat_migrations (s : State) (f : Seat → Seat) : (s.updThisSeat f).migrations = s.migrations := rfl
@[simp] theorem State.updThisSeat_supImage (s : State) (f : Seat → Seat) : (s.updThisSeat f).supImage = s.supImage := rfl
@[simp] theorem State.updThisSeat_fwImage (s : State) (f : Seat → Seat) : (s.updThisSeat f).fwImage = s.fwImage := rfl
@[simp] theorem State.updThisSeat_severed (s : State) (f : Seat → Seat) : (s.updThisSeat f).severed = s.severed := rfl
@[simp] theorem State.updThisSeat_fibre (s : State) (f : Seat → Seat) : (s.updThisSeat f).fibre = s.fibre := rfl
@[simp] theorem State.updThisSeat_inbox (s : State) (f : Seat → Seat) : (s.updThisSeat f).inbox = s.inbox := rfl
@[simp] theorem State.updThisSeat_reply (s : State) (f : Seat → Seat) : (s.updThisSeat f).reply = s.reply := rfl
@[simp] theorem State.updThisSeat_sent (s : State) (f : Seat → Seat) : (s.updThisSeat f).sent = s.sent := rfl
@[simp] theorem State.updThisSeat_grants (s : State) (f : Seat → Seat) : (s.updThisSeat f).grants = s.grants := rfl
@[simp] theorem State.updThisSeat_routersBad (s : State) (f : Seat → Seat) : (s.updThisSeat f).routersBad = s.routersBad := rfl
@[simp] theorem State.updThisSeat_tables (s : State) (f : Seat → Seat) : (s.updThisSeat f).tables = s.tables := rfl
@[simp] theorem State.updThisSeat_summary (s : State) (f : Seat → Seat) : (s.updThisSeat f).summary = s.summary := rfl
@[simp] theorem State.updThisSeat_group (s : State) (f : Seat → Seat) : (s.updThisSeat f).group = s.group := rfl
@[simp] theorem State.updThisSeat_asks (s : State) (f : Seat → Seat) : (s.updThisSeat f).asks = s.asks := rfl
@[simp] theorem State.updThisSeat_farSeen (s : State) (f : Seat → Seat) : (s.updThisSeat f).farSeen = s.farSeen := rfl
@[simp] theorem State.updThisSeat_lost (s : State) (f : Seat → Seat) : (s.updThisSeat f).lost = s.lost := rfl
@[simp] theorem State.updThisSeat_lostTables (s : State) (f : Seat → Seat) : (s.updThisSeat f).lostTables = s.lostTables := rfl

@[simp] theorem State.bump_agenda (s : State) : (s.bump).agenda = s.agenda := rfl
@[simp] theorem State.bump_focus (s : State) : (s.bump).focus = s.focus := rfl
@[simp] theorem State.bump_core (s : State) : (s.bump).core = s.core := rfl
@[simp] theorem State.bump_seat (s : State) : (s.bump).seat = s.seat := rfl
@[simp] theorem State.bump_tick (s : State) : (s.bump).tick = s.tick := rfl
@[simp] theorem State.bump_cores (s : State) : (s.bump).cores = s.cores := rfl
@[simp] theorem State.bump_clusters (s : State) : (s.bump).clusters = s.clusters := rfl
@[simp] theorem State.bump_chiplets (s : State) : (s.bump).chiplets = s.chiplets := rfl
@[simp] theorem State.bump_hbm (s : State) : (s.bump).hbm = s.hbm := rfl
@[simp] theorem State.bump_hbmPoison (s : State) : (s.bump).hbmPoison = s.hbmPoison := rfl
@[simp] theorem State.bump_dirty (s : State) : (s.bump).dirty = s.dirty := rfl
@[simp] theorem State.bump_co (s : State) : (s.bump).co = s.co := rfl
@[simp] theorem State.bump_coPoison (s : State) : (s.bump).coPoison = s.coPoison := rfl
@[simp] theorem State.bump_owners (s : State) : (s.bump).owners = s.owners := rfl
@[simp] theorem State.bump_revs (s : State) : (s.bump).revs = s.revs := rfl
@[simp] theorem State.bump_reqs (s : State) : (s.bump).reqs = s.reqs := rfl
@[simp] theorem State.bump_net (s : State) : (s.bump).net = s.net := rfl
@[simp] theorem State.bump_waiting (s : State) : (s.bump).waiting = s.waiting := rfl
@[simp] theorem State.bump_seqs (s : State) : (s.bump).seqs = s.seqs := rfl
@[simp] theorem State.bump_expects (s : State) : (s.bump).expects = s.expects := rfl
@[simp] theorem State.bump_ranks (s : State) : (s.bump).ranks = s.ranks := rfl
@[simp] theorem State.bump_groups (s : State) : (s.bump).groups = s.groups := rfl
@[simp] theorem State.bump_l2cfg (s : State) : (s.bump).l2cfg = s.l2cfg := rfl
@[simp] theorem State.bump_l2pmap (s : State) : (s.bump).l2pmap = s.l2pmap := rfl
@[simp] theorem State.bump_l2co (s : State) : (s.bump).l2co = s.l2co := rfl
@[simp] theorem State.bump_slotMap (s : State) : (s.bump).slotMap = s.slotMap := rfl
@[simp] theorem State.bump_slotsBad (s : State) : (s.bump).slotsBad = s.slotsBad := rfl
@[simp] theorem State.bump_stacksBad (s : State) : (s.bump).stacksBad = s.stacksBad := rfl
@[simp] theorem State.bump_linksBad (s : State) : (s.bump).linksBad = s.linksBad := rfl
@[simp] theorem State.bump_sealed (s : State) : (s.bump).sealed = s.sealed := rfl
@[simp] theorem State.bump_netSel (s : State) : (s.bump).netSel = s.netSel := rfl
@[simp] theorem State.bump_escape (s : State) : (s.bump).escape = s.escape := rfl
@[simp] theorem State.bump_codec (s : State) : (s.bump).codec = s.codec := rfl
@[simp] theorem State.bump_queues (s : State) : (s.bump).queues = s.queues := rfl
@[simp] theorem State.bump_lastQueue (s : State) : (s.bump).lastQueue = s.lastQueue := rfl
@[simp] theorem State.bump_launches (s : State) : (s.bump).launches = s.launches := rfl
@[simp] theorem State.bump_portEnds (s : State) : (s.bump).portEnds = s.portEnds := rfl
@[simp] theorem State.bump_modStat (s : State) : (s.bump).modStat = s.modStat := rfl
@[simp] theorem State.bump_powcap (s : State) : (s.bump).powcap = s.powcap := rfl
@[simp] theorem State.bump_pstate (s : State) : (s.bump).pstate = s.pstate := rfl
@[simp] theorem State.bump_mbCmd (s : State) : (s.bump).mbCmd = s.mbCmd := rfl
@[simp] theorem State.bump_mbStat (s : State) : (s.bump).mbStat = s.mbStat := rfl
@[simp] theorem State.bump_mbData (s : State) : (s.bump).mbData = s.mbData := rfl
@[simp] theorem State.bump_mbRet (s : State) : (s.bump).mbRet = s.mbRet := rfl
@[simp] theorem State.bump_token (s : State) : (s.bump).token = s.token := rfl
@[simp] theorem State.bump_summarySeq (s : State) : (s.bump).summarySeq = s.summarySeq := rfl
@[simp] theorem State.bump_fenceCmd (s : State) : (s.bump).fenceCmd = s.fenceCmd := rfl
@[simp] theorem State.bump_farCfg (s : State) : (s.bump).farCfg = s.farCfg := rfl
@[simp] theorem State.bump_farTt (s : State) : (s.bump).farTt = s.farTt := rfl
@[simp] theorem State.bump_farTlb (s : State) : (s.bump).farTlb = s.farTlb := rfl
@[simp] theorem State.bump_farRoute (s : State) : (s.bump).farRoute = s.farRoute := rfl
@[simp] theorem State.bump_fib (s : State) : (s.bump).fib = s.fib := rfl
@[simp] theorem State.bump_deadWaves (s : State) : (s.bump).deadWaves = s.deadWaves := rfl
@[simp] theorem State.bump_switchBase (s : State) : (s.bump).switchBase = s.switchBase := rfl
@[simp] theorem State.bump_migrations (s : State) : (s.bump).migrations = s.migrations := rfl
@[simp] theorem State.bump_supImage (s : State) : (s.bump).supImage = s.supImage := rfl
@[simp] theorem State.bump_fwImage (s : State) : (s.bump).fwImage = s.fwImage := rfl
@[simp] theorem State.bump_severed (s : State) : (s.bump).severed = s.severed := rfl
@[simp] theorem State.bump_fibre (s : State) : (s.bump).fibre = s.fibre := rfl
@[simp] theorem State.bump_inbox (s : State) : (s.bump).inbox = s.inbox := rfl
@[simp] theorem State.bump_reply (s : State) : (s.bump).reply = s.reply := rfl
@[simp] theorem State.bump_sent (s : State) : (s.bump).sent = s.sent := rfl
@[simp] theorem State.bump_grants (s : State) : (s.bump).grants = s.grants := rfl
@[simp] theorem State.bump_routersBad (s : State) : (s.bump).routersBad = s.routersBad := rfl
@[simp] theorem State.bump_tables (s : State) : (s.bump).tables = s.tables := rfl
@[simp] theorem State.bump_summary (s : State) : (s.bump).summary = s.summary := rfl
@[simp] theorem State.bump_group (s : State) : (s.bump).group = s.group := rfl
@[simp] theorem State.bump_asks (s : State) : (s.bump).asks = s.asks := rfl
@[simp] theorem State.bump_farSeen (s : State) : (s.bump).farSeen = s.farSeen := rfl
@[simp] theorem State.bump_lost (s : State) : (s.bump).lost = s.lost := rfl
@[simp] theorem State.bump_lostTables (s : State) : (s.bump).lostTables = s.lostTables := rfl
@[simp] theorem State.forget_agenda (s : State) (u : Asker) : (s.forget u).agenda = s.agenda := rfl
@[simp] theorem State.forget_focus (s : State) (u : Asker) : (s.forget u).focus = s.focus := rfl
@[simp] theorem State.forget_core (s : State) (u : Asker) : (s.forget u).core = s.core := rfl
@[simp] theorem State.forget_seat (s : State) (u : Asker) : (s.forget u).seat = s.seat := rfl
@[simp] theorem State.forget_tick (s : State) (u : Asker) : (s.forget u).tick = s.tick := rfl
@[simp] theorem State.forget_fresh (s : State) (u : Asker) : (s.forget u).fresh = s.fresh := rfl
@[simp] theorem State.forget_cores (s : State) (u : Asker) : (s.forget u).cores = s.cores := rfl
@[simp] theorem State.forget_clusters (s : State) (u : Asker) : (s.forget u).clusters = s.clusters := rfl
@[simp] theorem State.forget_chiplets (s : State) (u : Asker) : (s.forget u).chiplets = s.chiplets := rfl
@[simp] theorem State.forget_hbm (s : State) (u : Asker) : (s.forget u).hbm = s.hbm := rfl
@[simp] theorem State.forget_hbmPoison (s : State) (u : Asker) : (s.forget u).hbmPoison = s.hbmPoison := rfl
@[simp] theorem State.forget_dirty (s : State) (u : Asker) : (s.forget u).dirty = s.dirty := rfl
@[simp] theorem State.forget_co (s : State) (u : Asker) : (s.forget u).co = s.co := rfl
@[simp] theorem State.forget_coPoison (s : State) (u : Asker) : (s.forget u).coPoison = s.coPoison := rfl
@[simp] theorem State.forget_owners (s : State) (u : Asker) : (s.forget u).owners = s.owners := rfl
@[simp] theorem State.forget_revs (s : State) (u : Asker) : (s.forget u).revs = s.revs := rfl
@[simp] theorem State.forget_reqs (s : State) (u : Asker) : (s.forget u).reqs = s.reqs := rfl
@[simp] theorem State.forget_net (s : State) (u : Asker) : (s.forget u).net = s.net := rfl
@[simp] theorem State.forget_sent (s : State) (u : Asker) : (s.forget u).sent = s.sent := rfl
@[simp] theorem State.forget_grants (s : State) (u : Asker) : (s.forget u).grants = s.grants := rfl
@[simp] theorem State.forget_waiting (s : State) (u : Asker) : (s.forget u).waiting = s.waiting := rfl
@[simp] theorem State.forget_seqs (s : State) (u : Asker) : (s.forget u).seqs = s.seqs := rfl
@[simp] theorem State.forget_expects (s : State) (u : Asker) : (s.forget u).expects = s.expects := rfl
@[simp] theorem State.forget_ranks (s : State) (u : Asker) : (s.forget u).ranks = s.ranks := rfl
@[simp] theorem State.forget_groups (s : State) (u : Asker) : (s.forget u).groups = s.groups := rfl
@[simp] theorem State.forget_l2cfg (s : State) (u : Asker) : (s.forget u).l2cfg = s.l2cfg := rfl
@[simp] theorem State.forget_l2pmap (s : State) (u : Asker) : (s.forget u).l2pmap = s.l2pmap := rfl
@[simp] theorem State.forget_l2co (s : State) (u : Asker) : (s.forget u).l2co = s.l2co := rfl
@[simp] theorem State.forget_slotMap (s : State) (u : Asker) : (s.forget u).slotMap = s.slotMap := rfl
@[simp] theorem State.forget_slotsBad (s : State) (u : Asker) : (s.forget u).slotsBad = s.slotsBad := rfl
@[simp] theorem State.forget_stacksBad (s : State) (u : Asker) : (s.forget u).stacksBad = s.stacksBad := rfl
@[simp] theorem State.forget_linksBad (s : State) (u : Asker) : (s.forget u).linksBad = s.linksBad := rfl
@[simp] theorem State.forget_routersBad (s : State) (u : Asker) : (s.forget u).routersBad = s.routersBad := rfl
@[simp] theorem State.forget_sealed (s : State) (u : Asker) : (s.forget u).sealed = s.sealed := rfl
@[simp] theorem State.forget_netSel (s : State) (u : Asker) : (s.forget u).netSel = s.netSel := rfl
@[simp] theorem State.forget_escape (s : State) (u : Asker) : (s.forget u).escape = s.escape := rfl
@[simp] theorem State.forget_tables (s : State) (u : Asker) : (s.forget u).tables = s.tables := rfl
@[simp] theorem State.forget_codec (s : State) (u : Asker) : (s.forget u).codec = s.codec := rfl
@[simp] theorem State.forget_queues (s : State) (u : Asker) : (s.forget u).queues = s.queues := rfl
@[simp] theorem State.forget_lastQueue (s : State) (u : Asker) : (s.forget u).lastQueue = s.lastQueue := rfl
@[simp] theorem State.forget_launches (s : State) (u : Asker) : (s.forget u).launches = s.launches := rfl
@[simp] theorem State.forget_portEnds (s : State) (u : Asker) : (s.forget u).portEnds = s.portEnds := rfl
@[simp] theorem State.forget_modStat (s : State) (u : Asker) : (s.forget u).modStat = s.modStat := rfl
@[simp] theorem State.forget_powcap (s : State) (u : Asker) : (s.forget u).powcap = s.powcap := rfl
@[simp] theorem State.forget_pstate (s : State) (u : Asker) : (s.forget u).pstate = s.pstate := rfl
@[simp] theorem State.forget_mbCmd (s : State) (u : Asker) : (s.forget u).mbCmd = s.mbCmd := rfl
@[simp] theorem State.forget_mbStat (s : State) (u : Asker) : (s.forget u).mbStat = s.mbStat := rfl
@[simp] theorem State.forget_mbData (s : State) (u : Asker) : (s.forget u).mbData = s.mbData := rfl
@[simp] theorem State.forget_mbRet (s : State) (u : Asker) : (s.forget u).mbRet = s.mbRet := rfl
@[simp] theorem State.forget_token (s : State) (u : Asker) : (s.forget u).token = s.token := rfl
@[simp] theorem State.forget_summarySeq (s : State) (u : Asker) : (s.forget u).summarySeq = s.summarySeq := rfl
@[simp] theorem State.forget_summary (s : State) (u : Asker) : (s.forget u).summary = s.summary := rfl
@[simp] theorem State.forget_fenceCmd (s : State) (u : Asker) : (s.forget u).fenceCmd = s.fenceCmd := rfl
@[simp] theorem State.forget_farCfg (s : State) (u : Asker) : (s.forget u).farCfg = s.farCfg := rfl
@[simp] theorem State.forget_farTt (s : State) (u : Asker) : (s.forget u).farTt = s.farTt := rfl
@[simp] theorem State.forget_farTlb (s : State) (u : Asker) : (s.forget u).farTlb = s.farTlb := rfl
@[simp] theorem State.forget_farSeen (s : State) (u : Asker) : (s.forget u).farSeen = s.farSeen := rfl
@[simp] theorem State.forget_farRoute (s : State) (u : Asker) : (s.forget u).farRoute = s.farRoute := rfl
@[simp] theorem State.forget_fib (s : State) (u : Asker) : (s.forget u).fib = s.fib := rfl
@[simp] theorem State.forget_deadWaves (s : State) (u : Asker) : (s.forget u).deadWaves = s.deadWaves := rfl
@[simp] theorem State.forget_switchBase (s : State) (u : Asker) : (s.forget u).switchBase = s.switchBase := rfl
@[simp] theorem State.forget_migrations (s : State) (u : Asker) : (s.forget u).migrations = s.migrations := rfl
@[simp] theorem State.forget_supImage (s : State) (u : Asker) : (s.forget u).supImage = s.supImage := rfl
@[simp] theorem State.forget_fwImage (s : State) (u : Asker) : (s.forget u).fwImage = s.fwImage := rfl
@[simp] theorem State.forget_severed (s : State) (u : Asker) : (s.forget u).severed = s.severed := rfl
@[simp] theorem State.forget_lost (s : State) (u : Asker) : (s.forget u).lost = s.lost := rfl
@[simp] theorem State.forget_lostTables (s : State) (u : Asker) : (s.forget u).lostTables = s.lostTables := rfl
@[simp] theorem State.forget_group (s : State) (u : Asker) : (s.forget u).group = s.group := rfl
@[simp] theorem State.forget_fibre (s : State) (u : Asker) : (s.forget u).fibre = s.fibre := rfl
@[simp] theorem State.forget_inbox (s : State) (u : Asker) : (s.forget u).inbox = s.inbox := rfl
@[simp] theorem State.forget_reply (s : State) (u : Asker) : (s.forget u).reply = s.reply := rfl
@[simp] theorem State.forget_asks (s : State) (u : Asker) : (s.forget u).asks = s.asks.filter (·.unit != u) := rfl

@[simp] theorem State.ticked_agenda (s : State) : (s.ticked).agenda = s.agenda := rfl
@[simp] theorem State.ticked_focus (s : State) : (s.ticked).focus = s.focus := rfl
@[simp] theorem State.ticked_core (s : State) : (s.ticked).core = s.core := rfl
@[simp] theorem State.ticked_seat (s : State) : (s.ticked).seat = s.seat := rfl
@[simp] theorem State.ticked_fresh (s : State) : (s.ticked).fresh = s.fresh := rfl
@[simp] theorem State.ticked_cores (s : State) : (s.ticked).cores = s.cores := rfl
@[simp] theorem State.ticked_clusters (s : State) : (s.ticked).clusters = s.clusters := rfl
@[simp] theorem State.ticked_chiplets (s : State) : (s.ticked).chiplets = s.chiplets := rfl
@[simp] theorem State.ticked_hbm (s : State) : (s.ticked).hbm = s.hbm := rfl
@[simp] theorem State.ticked_hbmPoison (s : State) : (s.ticked).hbmPoison = s.hbmPoison := rfl
@[simp] theorem State.ticked_dirty (s : State) : (s.ticked).dirty = s.dirty := rfl
@[simp] theorem State.ticked_co (s : State) : (s.ticked).co = s.co := rfl
@[simp] theorem State.ticked_coPoison (s : State) : (s.ticked).coPoison = s.coPoison := rfl
@[simp] theorem State.ticked_owners (s : State) : (s.ticked).owners = s.owners := rfl
@[simp] theorem State.ticked_revs (s : State) : (s.ticked).revs = s.revs := rfl
@[simp] theorem State.ticked_reqs (s : State) : (s.ticked).reqs = s.reqs := rfl
@[simp] theorem State.ticked_net (s : State) : (s.ticked).net = s.net := rfl
@[simp] theorem State.ticked_waiting (s : State) : (s.ticked).waiting = s.waiting := rfl
@[simp] theorem State.ticked_seqs (s : State) : (s.ticked).seqs = s.seqs := rfl
@[simp] theorem State.ticked_expects (s : State) : (s.ticked).expects = s.expects := rfl
@[simp] theorem State.ticked_ranks (s : State) : (s.ticked).ranks = s.ranks := rfl
@[simp] theorem State.ticked_groups (s : State) : (s.ticked).groups = s.groups := rfl
@[simp] theorem State.ticked_l2cfg (s : State) : (s.ticked).l2cfg = s.l2cfg := rfl
@[simp] theorem State.ticked_l2pmap (s : State) : (s.ticked).l2pmap = s.l2pmap := rfl
@[simp] theorem State.ticked_l2co (s : State) : (s.ticked).l2co = s.l2co := rfl
@[simp] theorem State.ticked_slotMap (s : State) : (s.ticked).slotMap = s.slotMap := rfl
@[simp] theorem State.ticked_slotsBad (s : State) : (s.ticked).slotsBad = s.slotsBad := rfl
@[simp] theorem State.ticked_stacksBad (s : State) : (s.ticked).stacksBad = s.stacksBad := rfl
@[simp] theorem State.ticked_linksBad (s : State) : (s.ticked).linksBad = s.linksBad := rfl
@[simp] theorem State.ticked_sealed (s : State) : (s.ticked).sealed = s.sealed := rfl
@[simp] theorem State.ticked_netSel (s : State) : (s.ticked).netSel = s.netSel := rfl
@[simp] theorem State.ticked_escape (s : State) : (s.ticked).escape = s.escape := rfl
@[simp] theorem State.ticked_codec (s : State) : (s.ticked).codec = s.codec := rfl
@[simp] theorem State.ticked_queues (s : State) : (s.ticked).queues = s.queues := rfl
@[simp] theorem State.ticked_lastQueue (s : State) : (s.ticked).lastQueue = s.lastQueue := rfl
@[simp] theorem State.ticked_launches (s : State) : (s.ticked).launches = s.launches := rfl
@[simp] theorem State.ticked_portEnds (s : State) : (s.ticked).portEnds = s.portEnds := rfl
@[simp] theorem State.ticked_modStat (s : State) : (s.ticked).modStat = s.modStat := rfl
@[simp] theorem State.ticked_powcap (s : State) : (s.ticked).powcap = s.powcap := rfl
@[simp] theorem State.ticked_pstate (s : State) : (s.ticked).pstate = s.pstate := rfl
@[simp] theorem State.ticked_mbCmd (s : State) : (s.ticked).mbCmd = s.mbCmd := rfl
@[simp] theorem State.ticked_mbStat (s : State) : (s.ticked).mbStat = s.mbStat := rfl
@[simp] theorem State.ticked_mbData (s : State) : (s.ticked).mbData = s.mbData := rfl
@[simp] theorem State.ticked_mbRet (s : State) : (s.ticked).mbRet = s.mbRet := rfl
@[simp] theorem State.ticked_token (s : State) : (s.ticked).token = s.token := rfl
@[simp] theorem State.ticked_summarySeq (s : State) : (s.ticked).summarySeq = s.summarySeq := rfl
@[simp] theorem State.ticked_fenceCmd (s : State) : (s.ticked).fenceCmd = s.fenceCmd := rfl
@[simp] theorem State.ticked_farCfg (s : State) : (s.ticked).farCfg = s.farCfg := rfl
@[simp] theorem State.ticked_farTt (s : State) : (s.ticked).farTt = s.farTt := rfl
@[simp] theorem State.ticked_farTlb (s : State) : (s.ticked).farTlb = s.farTlb := rfl
@[simp] theorem State.ticked_farRoute (s : State) : (s.ticked).farRoute = s.farRoute := rfl
@[simp] theorem State.ticked_fib (s : State) : (s.ticked).fib = s.fib := rfl
@[simp] theorem State.ticked_deadWaves (s : State) : (s.ticked).deadWaves = s.deadWaves := rfl
@[simp] theorem State.ticked_switchBase (s : State) : (s.ticked).switchBase = s.switchBase := rfl
@[simp] theorem State.ticked_migrations (s : State) : (s.ticked).migrations = s.migrations := rfl
@[simp] theorem State.ticked_supImage (s : State) : (s.ticked).supImage = s.supImage := rfl
@[simp] theorem State.ticked_fwImage (s : State) : (s.ticked).fwImage = s.fwImage := rfl
@[simp] theorem State.ticked_severed (s : State) : (s.ticked).severed = s.severed := rfl
@[simp] theorem State.ticked_fibre (s : State) : (s.ticked).fibre = s.fibre := rfl
@[simp] theorem State.ticked_inbox (s : State) : (s.ticked).inbox = s.inbox := rfl
@[simp] theorem State.ticked_reply (s : State) : (s.ticked).reply = s.reply := rfl
@[simp] theorem State.ticked_sent (s : State) : (s.ticked).sent = s.sent := rfl
@[simp] theorem State.ticked_grants (s : State) : (s.ticked).grants = s.grants := rfl
@[simp] theorem State.ticked_routersBad (s : State) : (s.ticked).routersBad = s.routersBad := rfl
@[simp] theorem State.ticked_tables (s : State) : (s.ticked).tables = s.tables := rfl
@[simp] theorem State.ticked_summary (s : State) : (s.ticked).summary = s.summary := rfl
@[simp] theorem State.ticked_group (s : State) : (s.ticked).group = s.group := rfl
@[simp] theorem State.ticked_asks (s : State) : (s.ticked).asks = s.asks := rfl
@[simp] theorem State.ticked_farSeen (s : State) : (s.ticked).farSeen = s.farSeen := rfl
@[simp] theorem State.ticked_lost (s : State) : (s.ticked).lost = s.lost := rfl
@[simp] theorem State.ticked_lostTables (s : State) : (s.ticked).lostTables = s.lostTables := rfl

/-! ### Updates of one seat of a core -/

@[simp] theorem Core.setSeat_lastSeat (k : Core) (n : Nat) (v : Seat) : (k.setSeat n v).lastSeat = k.lastSeat := rfl
@[simp] theorem Core.setSeat_code (k : Core) (n : Nat) (v : Seat) : (k.setSeat n v).code = k.code := rfl
@[simp] theorem Core.setSeat_start (k : Core) (n : Nat) (v : Seat) : (k.setSeat n v).start = k.start := rfl
@[simp] theorem Core.setSeat_handlers (k : Core) (n : Nat) (v : Seat) : (k.setSeat n v).handlers = k.handlers := rfl
@[simp] theorem Core.setSeat_seatMap (k : Core) (n : Nat) (v : Seat) : (k.setSeat n v).seatMap = k.seatMap := rfl
@[simp] theorem Core.setSeat_seatArea (k : Core) (n : Nat) (v : Seat) : (k.setSeat n v).seatArea = k.seatArea := rfl
@[simp] theorem Core.setSeat_sp (k : Core) (n : Nat) (v : Seat) : (k.setSeat n v).sp = k.sp := rfl
@[simp] theorem Core.setSeat_full (k : Core) (n : Nat) (v : Seat) : (k.setSeat n v).full = k.full := rfl
@[simp] theorem Core.setSeat_spPoison (k : Core) (n : Nat) (v : Seat) : (k.setSeat n v).spPoison = k.spPoison := rfl
@[simp] theorem Core.setSeat_waiters (k : Core) (n : Nat) (v : Seat) : (k.setSeat n v).waiters = k.waiters := rfl
@[simp] theorem Core.setSeat_codeBad (k : Core) (n : Nat) (v : Seat) : (k.setSeat n v).codeBad = k.codeBad := rfl
@[simp] theorem Core.setSeat_q1 (k : Core) (n : Nat) (v : Seat) : (k.setSeat n v).q1 = k.q1 := rfl
@[simp] theorem Core.setSeat_q3 (k : Core) (n : Nat) (v : Seat) : (k.setSeat n v).q3 = k.q3 := rfl
@[simp] theorem Core.setSeat_q6 (k : Core) (n : Nat) (v : Seat) : (k.setSeat n v).q6 = k.q6 := rfl
@[simp] theorem Core.setSeat_q7 (k : Core) (n : Nat) (v : Seat) : (k.setSeat n v).q7 = k.q7 := rfl
@[simp] theorem Core.setSeat_ports (k : Core) (n : Nat) (v : Seat) : (k.setSeat n v).ports = k.ports := rfl
@[simp] theorem Core.setSeat_patterns (k : Core) (n : Nat) (v : Seat) : (k.setSeat n v).patterns = k.patterns := rfl
@[simp] theorem Core.setSeat_rp (k : Core) (n : Nat) (v : Seat) : (k.setSeat n v).rp = k.rp := rfl
@[simp] theorem Core.setSeat_ovfCfg (k : Core) (n : Nat) (v : Seat) : (k.setSeat n v).ovfCfg = k.ovfCfg := rfl
@[simp] theorem Core.setSeat_ovfHead (k : Core) (n : Nat) (v : Seat) : (k.setSeat n v).ovfHead = k.ovfHead := rfl
@[simp] theorem Core.setSeat_ovfTail (k : Core) (n : Nat) (v : Seat) : (k.setSeat n v).ovfTail = k.ovfTail := rfl
@[simp] theorem Core.setSeat_ovfFull (k : Core) (n : Nat) (v : Seat) : (k.setSeat n v).ovfFull = k.ovfFull := rfl
@[simp] theorem Core.setSeat_input (k : Core) (n : Nat) (v : Seat) : (k.setSeat n v).input = k.input := rfl
@[simp] theorem Core.setSeat_traps (k : Core) (n : Nat) (v : Seat) : (k.setSeat n v).traps = k.traps := rfl
@[simp] theorem Core.setSeat_events (k : Core) (n : Nat) (v : Seat) : (k.setSeat n v).events = k.events := rfl
@[simp] theorem Core.setSeat_errs (k : Core) (n : Nat) (v : Seat) : (k.setSeat n v).errs = k.errs := rfl
@[simp] theorem Core.setSeat_spawns (k : Core) (n : Nat) (v : Seat) : (k.setSeat n v).spawns = k.spawns := rfl
@[simp] theorem Core.setSeat_resumes (k : Core) (n : Nat) (v : Seat) : (k.setSeat n v).resumes = k.resumes := rfl
@[simp] theorem Core.setSeat_rank (k : Core) (n : Nat) (v : Seat) : (k.setSeat n v).rank = k.rank := rfl
@[simp] theorem Core.setSeat_launch (k : Core) (n : Nat) (v : Seat) : (k.setSeat n v).launch = k.launch := rfl
@[simp] theorem Core.setSeat_stopped (k : Core) (n : Nat) (v : Seat) : (k.setSeat n v).stopped = k.stopped := rfl
@[simp] theorem Core.setSeat_ended (k : Core) (n : Nat) (v : Seat) : (k.setSeat n v).ended = k.ended := rfl
@[simp] theorem Core.setSeat_sliceLen (k : Core) (n : Nat) (v : Seat) : (k.setSeat n v).sliceLen = k.sliceLen := rfl
@[simp] theorem Core.setSeat_dbgCtl (k : Core) (n : Nat) (v : Seat) : (k.setSeat n v).dbgCtl = k.dbgCtl := rfl
@[simp] theorem Core.setSeat_ttRoot (k : Core) (n : Nat) (v : Seat) : (k.setSeat n v).ttRoot = k.ttRoot := rfl
@[simp] theorem Core.setSeat_seatCtl (k : Core) (n : Nat) (v : Seat) : (k.setSeat n v).seatCtl = k.seatCtl := rfl
@[simp] theorem Core.setSeat_tretCtl (k : Core) (n : Nat) (v : Seat) : (k.setSeat n v).tretCtl = k.tretCtl := rfl
@[simp] theorem Core.setSeat_bivBase (k : Core) (n : Nat) (v : Seat) : (k.setSeat n v).bivBase = k.bivBase := rfl
@[simp] theorem Core.setSeat_ctxBase (k : Core) (n : Nat) (v : Seat) : (k.setSeat n v).ctxBase = k.ctxBase := rfl
@[simp] theorem Core.setSeat_tlb (k : Core) (n : Nat) (v : Seat) : (k.setSeat n v).tlb = k.tlb := rfl
@[simp] theorem Core.setSeat_l1 (k : Core) (n : Nat) (v : Seat) : (k.setSeat n v).l1 = k.l1 := rfl
@[simp] theorem Core.setSeat_trees (k : Core) (n : Nat) (v : Seat) : (k.setSeat n v).trees = k.trees := rfl
@[simp] theorem Core.setSeat_combine (k : Core) (n : Nat) (v : Seat) : (k.setSeat n v).combine = k.combine := rfl
@[simp] theorem Core.setSeat_left (k : Core) (n : Nat) (v : Seat) : (k.setSeat n v).left = k.left := rfl
@[simp] theorem Core.setSeat_shell (k : Core) (n : Nat) (v : Seat) : (k.setSeat n v).shell = k.shell := rfl
@[simp] theorem Core.setSeat_fenced (k : Core) (n : Nat) (v : Seat) : (k.setSeat n v).fenced = k.fenced := rfl
@[simp] theorem Core.setSeat_notices (k : Core) (n : Nat) (v : Seat) : (k.setSeat n v).notices = k.notices := rfl

@[simp] theorem Core.updSeat_lastSeat (k : Core) (n : Nat) (f : Seat → Seat) : (k.updSeat n f).lastSeat = k.lastSeat := rfl
@[simp] theorem Core.updSeat_code (k : Core) (n : Nat) (f : Seat → Seat) : (k.updSeat n f).code = k.code := rfl
@[simp] theorem Core.updSeat_start (k : Core) (n : Nat) (f : Seat → Seat) : (k.updSeat n f).start = k.start := rfl
@[simp] theorem Core.updSeat_handlers (k : Core) (n : Nat) (f : Seat → Seat) : (k.updSeat n f).handlers = k.handlers := rfl
@[simp] theorem Core.updSeat_seatMap (k : Core) (n : Nat) (f : Seat → Seat) : (k.updSeat n f).seatMap = k.seatMap := rfl
@[simp] theorem Core.updSeat_seatArea (k : Core) (n : Nat) (f : Seat → Seat) : (k.updSeat n f).seatArea = k.seatArea := rfl
@[simp] theorem Core.updSeat_sp (k : Core) (n : Nat) (f : Seat → Seat) : (k.updSeat n f).sp = k.sp := rfl
@[simp] theorem Core.updSeat_full (k : Core) (n : Nat) (f : Seat → Seat) : (k.updSeat n f).full = k.full := rfl
@[simp] theorem Core.updSeat_spPoison (k : Core) (n : Nat) (f : Seat → Seat) : (k.updSeat n f).spPoison = k.spPoison := rfl
@[simp] theorem Core.updSeat_waiters (k : Core) (n : Nat) (f : Seat → Seat) : (k.updSeat n f).waiters = k.waiters := rfl
@[simp] theorem Core.updSeat_codeBad (k : Core) (n : Nat) (f : Seat → Seat) : (k.updSeat n f).codeBad = k.codeBad := rfl
@[simp] theorem Core.updSeat_q1 (k : Core) (n : Nat) (f : Seat → Seat) : (k.updSeat n f).q1 = k.q1 := rfl
@[simp] theorem Core.updSeat_q3 (k : Core) (n : Nat) (f : Seat → Seat) : (k.updSeat n f).q3 = k.q3 := rfl
@[simp] theorem Core.updSeat_q6 (k : Core) (n : Nat) (f : Seat → Seat) : (k.updSeat n f).q6 = k.q6 := rfl
@[simp] theorem Core.updSeat_q7 (k : Core) (n : Nat) (f : Seat → Seat) : (k.updSeat n f).q7 = k.q7 := rfl
@[simp] theorem Core.updSeat_ports (k : Core) (n : Nat) (f : Seat → Seat) : (k.updSeat n f).ports = k.ports := rfl
@[simp] theorem Core.updSeat_patterns (k : Core) (n : Nat) (f : Seat → Seat) : (k.updSeat n f).patterns = k.patterns := rfl
@[simp] theorem Core.updSeat_rp (k : Core) (n : Nat) (f : Seat → Seat) : (k.updSeat n f).rp = k.rp := rfl
@[simp] theorem Core.updSeat_ovfCfg (k : Core) (n : Nat) (f : Seat → Seat) : (k.updSeat n f).ovfCfg = k.ovfCfg := rfl
@[simp] theorem Core.updSeat_ovfHead (k : Core) (n : Nat) (f : Seat → Seat) : (k.updSeat n f).ovfHead = k.ovfHead := rfl
@[simp] theorem Core.updSeat_ovfTail (k : Core) (n : Nat) (f : Seat → Seat) : (k.updSeat n f).ovfTail = k.ovfTail := rfl
@[simp] theorem Core.updSeat_ovfFull (k : Core) (n : Nat) (f : Seat → Seat) : (k.updSeat n f).ovfFull = k.ovfFull := rfl
@[simp] theorem Core.updSeat_input (k : Core) (n : Nat) (f : Seat → Seat) : (k.updSeat n f).input = k.input := rfl
@[simp] theorem Core.updSeat_traps (k : Core) (n : Nat) (f : Seat → Seat) : (k.updSeat n f).traps = k.traps := rfl
@[simp] theorem Core.updSeat_events (k : Core) (n : Nat) (f : Seat → Seat) : (k.updSeat n f).events = k.events := rfl
@[simp] theorem Core.updSeat_errs (k : Core) (n : Nat) (f : Seat → Seat) : (k.updSeat n f).errs = k.errs := rfl
@[simp] theorem Core.updSeat_spawns (k : Core) (n : Nat) (f : Seat → Seat) : (k.updSeat n f).spawns = k.spawns := rfl
@[simp] theorem Core.updSeat_resumes (k : Core) (n : Nat) (f : Seat → Seat) : (k.updSeat n f).resumes = k.resumes := rfl
@[simp] theorem Core.updSeat_rank (k : Core) (n : Nat) (f : Seat → Seat) : (k.updSeat n f).rank = k.rank := rfl
@[simp] theorem Core.updSeat_launch (k : Core) (n : Nat) (f : Seat → Seat) : (k.updSeat n f).launch = k.launch := rfl
@[simp] theorem Core.updSeat_stopped (k : Core) (n : Nat) (f : Seat → Seat) : (k.updSeat n f).stopped = k.stopped := rfl
@[simp] theorem Core.updSeat_ended (k : Core) (n : Nat) (f : Seat → Seat) : (k.updSeat n f).ended = k.ended := rfl
@[simp] theorem Core.updSeat_sliceLen (k : Core) (n : Nat) (f : Seat → Seat) : (k.updSeat n f).sliceLen = k.sliceLen := rfl
@[simp] theorem Core.updSeat_dbgCtl (k : Core) (n : Nat) (f : Seat → Seat) : (k.updSeat n f).dbgCtl = k.dbgCtl := rfl
@[simp] theorem Core.updSeat_ttRoot (k : Core) (n : Nat) (f : Seat → Seat) : (k.updSeat n f).ttRoot = k.ttRoot := rfl
@[simp] theorem Core.updSeat_seatCtl (k : Core) (n : Nat) (f : Seat → Seat) : (k.updSeat n f).seatCtl = k.seatCtl := rfl
@[simp] theorem Core.updSeat_tretCtl (k : Core) (n : Nat) (f : Seat → Seat) : (k.updSeat n f).tretCtl = k.tretCtl := rfl
@[simp] theorem Core.updSeat_bivBase (k : Core) (n : Nat) (f : Seat → Seat) : (k.updSeat n f).bivBase = k.bivBase := rfl
@[simp] theorem Core.updSeat_ctxBase (k : Core) (n : Nat) (f : Seat → Seat) : (k.updSeat n f).ctxBase = k.ctxBase := rfl
@[simp] theorem Core.updSeat_tlb (k : Core) (n : Nat) (f : Seat → Seat) : (k.updSeat n f).tlb = k.tlb := rfl
@[simp] theorem Core.updSeat_l1 (k : Core) (n : Nat) (f : Seat → Seat) : (k.updSeat n f).l1 = k.l1 := rfl
@[simp] theorem Core.updSeat_trees (k : Core) (n : Nat) (f : Seat → Seat) : (k.updSeat n f).trees = k.trees := rfl
@[simp] theorem Core.updSeat_combine (k : Core) (n : Nat) (f : Seat → Seat) : (k.updSeat n f).combine = k.combine := rfl
@[simp] theorem Core.updSeat_left (k : Core) (n : Nat) (f : Seat → Seat) : (k.updSeat n f).left = k.left := rfl
@[simp] theorem Core.updSeat_shell (k : Core) (n : Nat) (f : Seat → Seat) : (k.updSeat n f).shell = k.shell := rfl
@[simp] theorem Core.updSeat_fenced (k : Core) (n : Nat) (f : Seat → Seat) : (k.updSeat n f).fenced = k.fenced := rfl
@[simp] theorem Core.updSeat_notices (k : Core) (n : Nat) (f : Seat → Seat) : (k.updSeat n f).notices = k.notices := rfl

@[simp] theorem Core.news_lastSeat (k : Core) : (k.news).lastSeat = k.lastSeat := rfl
@[simp] theorem Core.news_code (k : Core) : (k.news).code = k.code := rfl
@[simp] theorem Core.news_start (k : Core) : (k.news).start = k.start := rfl
@[simp] theorem Core.news_handlers (k : Core) : (k.news).handlers = k.handlers := rfl
@[simp] theorem Core.news_seatMap (k : Core) : (k.news).seatMap = k.seatMap := rfl
@[simp] theorem Core.news_seatArea (k : Core) : (k.news).seatArea = k.seatArea := rfl
@[simp] theorem Core.news_sp (k : Core) : (k.news).sp = k.sp := rfl
@[simp] theorem Core.news_full (k : Core) : (k.news).full = k.full := rfl
@[simp] theorem Core.news_spPoison (k : Core) : (k.news).spPoison = k.spPoison := rfl
@[simp] theorem Core.news_waiters (k : Core) : (k.news).waiters = k.waiters := rfl
@[simp] theorem Core.news_codeBad (k : Core) : (k.news).codeBad = k.codeBad := rfl
@[simp] theorem Core.news_q1 (k : Core) : (k.news).q1 = k.q1 := rfl
@[simp] theorem Core.news_q3 (k : Core) : (k.news).q3 = k.q3 := rfl
@[simp] theorem Core.news_q6 (k : Core) : (k.news).q6 = k.q6 := rfl
@[simp] theorem Core.news_q7 (k : Core) : (k.news).q7 = k.q7 := rfl
@[simp] theorem Core.news_ports (k : Core) : (k.news).ports = k.ports := rfl
@[simp] theorem Core.news_patterns (k : Core) : (k.news).patterns = k.patterns := rfl
@[simp] theorem Core.news_rp (k : Core) : (k.news).rp = k.rp := rfl
@[simp] theorem Core.news_ovfCfg (k : Core) : (k.news).ovfCfg = k.ovfCfg := rfl
@[simp] theorem Core.news_ovfHead (k : Core) : (k.news).ovfHead = k.ovfHead := rfl
@[simp] theorem Core.news_ovfTail (k : Core) : (k.news).ovfTail = k.ovfTail := rfl
@[simp] theorem Core.news_ovfFull (k : Core) : (k.news).ovfFull = k.ovfFull := rfl
@[simp] theorem Core.news_input (k : Core) : (k.news).input = k.input := rfl
@[simp] theorem Core.news_traps (k : Core) : (k.news).traps = k.traps := rfl
@[simp] theorem Core.news_events (k : Core) : (k.news).events = k.events := rfl
@[simp] theorem Core.news_errs (k : Core) : (k.news).errs = k.errs := rfl
@[simp] theorem Core.news_spawns (k : Core) : (k.news).spawns = k.spawns := rfl
@[simp] theorem Core.news_resumes (k : Core) : (k.news).resumes = k.resumes := rfl
@[simp] theorem Core.news_rank (k : Core) : (k.news).rank = k.rank := rfl
@[simp] theorem Core.news_launch (k : Core) : (k.news).launch = k.launch := rfl
@[simp] theorem Core.news_stopped (k : Core) : (k.news).stopped = k.stopped := rfl
@[simp] theorem Core.news_ended (k : Core) : (k.news).ended = k.ended := rfl
@[simp] theorem Core.news_sliceLen (k : Core) : (k.news).sliceLen = k.sliceLen := rfl
@[simp] theorem Core.news_dbgCtl (k : Core) : (k.news).dbgCtl = k.dbgCtl := rfl
@[simp] theorem Core.news_ttRoot (k : Core) : (k.news).ttRoot = k.ttRoot := rfl
@[simp] theorem Core.news_seatCtl (k : Core) : (k.news).seatCtl = k.seatCtl := rfl
@[simp] theorem Core.news_tretCtl (k : Core) : (k.news).tretCtl = k.tretCtl := rfl
@[simp] theorem Core.news_bivBase (k : Core) : (k.news).bivBase = k.bivBase := rfl
@[simp] theorem Core.news_ctxBase (k : Core) : (k.news).ctxBase = k.ctxBase := rfl
@[simp] theorem Core.news_tlb (k : Core) : (k.news).tlb = k.tlb := rfl
@[simp] theorem Core.news_l1 (k : Core) : (k.news).l1 = k.l1 := rfl
@[simp] theorem Core.news_trees (k : Core) : (k.news).trees = k.trees := rfl
@[simp] theorem Core.news_combine (k : Core) : (k.news).combine = k.combine := rfl
@[simp] theorem Core.news_left (k : Core) : (k.news).left = k.left := rfl
@[simp] theorem Core.news_shell (k : Core) : (k.news).shell = k.shell := rfl
@[simp] theorem Core.news_fenced (k : Core) : (k.news).fenced = k.fenced := rfl
@[simp] theorem Core.news_notices (k : Core) : (k.news).notices = k.notices := rfl

/-! ### Registers of a seat -/

@[simp] theorem Seat.setX_status (t : Seat) (r : BitVec 5) (w : Word) : (t.setX r w).status = t.status := by unfold Seat.setX; split <;> rfl
@[simp] theorem Seat.setX_p (t : Seat) (r : BitVec 5) (w : Word) : (t.setX r w).p = t.p := by unfold Seat.setX; split <;> rfl
@[simp] theorem Seat.setX_v (t : Seat) (r : BitVec 5) (w : Word) : (t.setX r w).v = t.v := by unfold Seat.setX; split <;> rfl
@[simp] theorem Seat.setX_k (t : Seat) (r : BitVec 5) (w : Word) : (t.setX r w).k = t.k := by unfold Seat.setX; split <;> rfl
@[simp] theorem Seat.setX_pc (t : Seat) (r : BitVec 5) (w : Word) : (t.setX r w).pc = t.pc := by unfold Seat.setX; split <;> rfl
@[simp] theorem Seat.setX_rpt (t : Seat) (r : BitVec 5) (w : Word) : (t.setX r w).rpt = t.rpt := by unfold Seat.setX; split <;> rfl
@[simp] theorem Seat.setX_outs (t : Seat) (r : BitVec 5) (w : Word) : (t.setX r w).outs = t.outs := by unfold Seat.setX; split <;> rfl
@[simp] theorem Seat.setX_trapPc (t : Seat) (r : BitVec 5) (w : Word) : (t.setX r w).trapPc = t.trapPc := by unfold Seat.setX; split <;> rfl
@[simp] theorem Seat.setX_trapCause (t : Seat) (r : BitVec 5) (w : Word) : (t.setX r w).trapCause = t.trapCause := by unfold Seat.setX; split <;> rfl
@[simp] theorem Seat.setX_trapVal (t : Seat) (r : BitVec 5) (w : Word) : (t.setX r w).trapVal = t.trapVal := by unfold Seat.setX; split <;> rfl
@[simp] theorem Seat.setX_rpc (t : Seat) (r : BitVec 5) (w : Word) : (t.setX r w).rpc = t.rpc := by unfold Seat.setX; split <;> rfl
@[simp] theorem Seat.setX_firing (t : Seat) (r : BitVec 5) (w : Word) : (t.setX r w).firing = t.firing := by unfold Seat.setX; split <;> rfl
@[simp] theorem Seat.setX_fenced (t : Seat) (r : BitVec 5) (w : Word) : (t.setX r w).fenced = t.fenced := by unfold Seat.setX; split <;> rfl
@[simp] theorem Seat.setX_preempt (t : Seat) (r : BitVec 5) (w : Word) : (t.setX r w).preempt = t.preempt := by unfold Seat.setX; split <;> rfl
@[simp] theorem Seat.setX_slice (t : Seat) (r : BitVec 5) (w : Word) : (t.setX r w).slice = t.slice := by unfold Seat.setX; split <;> rfl
@[simp] theorem Seat.setX_event (t : Seat) (r : BitVec 5) (w : Word) : (t.setX r w).event = t.event := by unfold Seat.setX; split <;> rfl
@[simp] theorem Seat.setX_q0 (t : Seat) (r : BitVec 5) (w : Word) : (t.setX r w).q0 = t.q0 := by unfold Seat.setX; split <;> rfl
@[simp] theorem Seat.setX_q2 (t : Seat) (r : BitVec 5) (w : Word) : (t.setX r w).q2 = t.q2 := by unfold Seat.setX; split <;> rfl
@[simp] theorem Seat.setX_q4 (t : Seat) (r : BitVec 5) (w : Word) : (t.setX r w).q4 = t.q4 := by unfold Seat.setX; split <;> rfl
@[simp] theorem Seat.setX_q6 (t : Seat) (r : BitVec 5) (w : Word) : (t.setX r w).q6 = t.q6 := by unfold Seat.setX; split <;> rfl
@[simp] theorem Seat.setX_payWords (t : Seat) (r : BitVec 5) (w : Word) : (t.setX r w).payWords = t.payWords := by unfold Seat.setX; split <;> rfl
@[simp] theorem Seat.setX_items (t : Seat) (r : BitVec 5) (w : Word) : (t.setX r w).items = t.items := by unfold Seat.setX; split <;> rfl
@[simp] theorem Seat.setX_q5read (t : Seat) (r : BitVec 5) (w : Word) : (t.setX r w).q5read = t.q5read := by unfold Seat.setX; split <;> rfl
@[simp] theorem Seat.setX_beyond (t : Seat) (r : BitVec 5) (w : Word) : (t.setX r w).beyond = t.beyond := by unfold Seat.setX; split <;> rfl

@[simp] theorem Seat.setP_status (t : Seat) (r : BitVec 3) (b : Bool) : (t.setP r b).status = t.status := by unfold Seat.setP; split <;> rfl
@[simp] theorem Seat.setP_x (t : Seat) (r : BitVec 3) (b : Bool) : (t.setP r b).x = t.x := by unfold Seat.setP; split <;> rfl
@[simp] theorem Seat.setP_v (t : Seat) (r : BitVec 3) (b : Bool) : (t.setP r b).v = t.v := by unfold Seat.setP; split <;> rfl
@[simp] theorem Seat.setP_k (t : Seat) (r : BitVec 3) (b : Bool) : (t.setP r b).k = t.k := by unfold Seat.setP; split <;> rfl
@[simp] theorem Seat.setP_pc (t : Seat) (r : BitVec 3) (b : Bool) : (t.setP r b).pc = t.pc := by unfold Seat.setP; split <;> rfl
@[simp] theorem Seat.setP_rpt (t : Seat) (r : BitVec 3) (b : Bool) : (t.setP r b).rpt = t.rpt := by unfold Seat.setP; split <;> rfl
@[simp] theorem Seat.setP_outs (t : Seat) (r : BitVec 3) (b : Bool) : (t.setP r b).outs = t.outs := by unfold Seat.setP; split <;> rfl
@[simp] theorem Seat.setP_trapPc (t : Seat) (r : BitVec 3) (b : Bool) : (t.setP r b).trapPc = t.trapPc := by unfold Seat.setP; split <;> rfl
@[simp] theorem Seat.setP_trapCause (t : Seat) (r : BitVec 3) (b : Bool) : (t.setP r b).trapCause = t.trapCause := by unfold Seat.setP; split <;> rfl
@[simp] theorem Seat.setP_trapVal (t : Seat) (r : BitVec 3) (b : Bool) : (t.setP r b).trapVal = t.trapVal := by unfold Seat.setP; split <;> rfl
@[simp] theorem Seat.setP_rpc (t : Seat) (r : BitVec 3) (b : Bool) : (t.setP r b).rpc = t.rpc := by unfold Seat.setP; split <;> rfl
@[simp] theorem Seat.setP_firing (t : Seat) (r : BitVec 3) (b : Bool) : (t.setP r b).firing = t.firing := by unfold Seat.setP; split <;> rfl
@[simp] theorem Seat.setP_fenced (t : Seat) (r : BitVec 3) (b : Bool) : (t.setP r b).fenced = t.fenced := by unfold Seat.setP; split <;> rfl
@[simp] theorem Seat.setP_preempt (t : Seat) (r : BitVec 3) (b : Bool) : (t.setP r b).preempt = t.preempt := by unfold Seat.setP; split <;> rfl
@[simp] theorem Seat.setP_slice (t : Seat) (r : BitVec 3) (b : Bool) : (t.setP r b).slice = t.slice := by unfold Seat.setP; split <;> rfl
@[simp] theorem Seat.setP_event (t : Seat) (r : BitVec 3) (b : Bool) : (t.setP r b).event = t.event := by unfold Seat.setP; split <;> rfl
@[simp] theorem Seat.setP_q0 (t : Seat) (r : BitVec 3) (b : Bool) : (t.setP r b).q0 = t.q0 := by unfold Seat.setP; split <;> rfl
@[simp] theorem Seat.setP_q2 (t : Seat) (r : BitVec 3) (b : Bool) : (t.setP r b).q2 = t.q2 := by unfold Seat.setP; split <;> rfl
@[simp] theorem Seat.setP_q4 (t : Seat) (r : BitVec 3) (b : Bool) : (t.setP r b).q4 = t.q4 := by unfold Seat.setP; split <;> rfl
@[simp] theorem Seat.setP_q6 (t : Seat) (r : BitVec 3) (b : Bool) : (t.setP r b).q6 = t.q6 := by unfold Seat.setP; split <;> rfl
@[simp] theorem Seat.setP_payWords (t : Seat) (r : BitVec 3) (b : Bool) : (t.setP r b).payWords = t.payWords := by unfold Seat.setP; split <;> rfl
@[simp] theorem Seat.setP_items (t : Seat) (r : BitVec 3) (b : Bool) : (t.setP r b).items = t.items := by unfold Seat.setP; split <;> rfl
@[simp] theorem Seat.setP_q5read (t : Seat) (r : BitVec 3) (b : Bool) : (t.setP r b).q5read = t.q5read := by unfold Seat.setP; split <;> rfl
@[simp] theorem Seat.setP_beyond (t : Seat) (r : BitVec 3) (b : Bool) : (t.setP r b).beyond = t.beyond := by unfold Seat.setP; split <;> rfl

@[simp] theorem Seat.setV_status (t : Seat) (r : BitVec 4) (w : VReg) : (t.setV r w).status = t.status := rfl
@[simp] theorem Seat.setV_x (t : Seat) (r : BitVec 4) (w : VReg) : (t.setV r w).x = t.x := rfl
@[simp] theorem Seat.setV_p (t : Seat) (r : BitVec 4) (w : VReg) : (t.setV r w).p = t.p := rfl
@[simp] theorem Seat.setV_k (t : Seat) (r : BitVec 4) (w : VReg) : (t.setV r w).k = t.k := rfl
@[simp] theorem Seat.setV_pc (t : Seat) (r : BitVec 4) (w : VReg) : (t.setV r w).pc = t.pc := rfl
@[simp] theorem Seat.setV_rpt (t : Seat) (r : BitVec 4) (w : VReg) : (t.setV r w).rpt = t.rpt := rfl
@[simp] theorem Seat.setV_outs (t : Seat) (r : BitVec 4) (w : VReg) : (t.setV r w).outs = t.outs := rfl
@[simp] theorem Seat.setV_trapPc (t : Seat) (r : BitVec 4) (w : VReg) : (t.setV r w).trapPc = t.trapPc := rfl
@[simp] theorem Seat.setV_trapCause (t : Seat) (r : BitVec 4) (w : VReg) : (t.setV r w).trapCause = t.trapCause := rfl
@[simp] theorem Seat.setV_trapVal (t : Seat) (r : BitVec 4) (w : VReg) : (t.setV r w).trapVal = t.trapVal := rfl
@[simp] theorem Seat.setV_rpc (t : Seat) (r : BitVec 4) (w : VReg) : (t.setV r w).rpc = t.rpc := rfl
@[simp] theorem Seat.setV_firing (t : Seat) (r : BitVec 4) (w : VReg) : (t.setV r w).firing = t.firing := rfl
@[simp] theorem Seat.setV_fenced (t : Seat) (r : BitVec 4) (w : VReg) : (t.setV r w).fenced = t.fenced := rfl
@[simp] theorem Seat.setV_preempt (t : Seat) (r : BitVec 4) (w : VReg) : (t.setV r w).preempt = t.preempt := rfl
@[simp] theorem Seat.setV_slice (t : Seat) (r : BitVec 4) (w : VReg) : (t.setV r w).slice = t.slice := rfl
@[simp] theorem Seat.setV_event (t : Seat) (r : BitVec 4) (w : VReg) : (t.setV r w).event = t.event := rfl
@[simp] theorem Seat.setV_q0 (t : Seat) (r : BitVec 4) (w : VReg) : (t.setV r w).q0 = t.q0 := rfl
@[simp] theorem Seat.setV_q2 (t : Seat) (r : BitVec 4) (w : VReg) : (t.setV r w).q2 = t.q2 := rfl
@[simp] theorem Seat.setV_q4 (t : Seat) (r : BitVec 4) (w : VReg) : (t.setV r w).q4 = t.q4 := rfl
@[simp] theorem Seat.setV_q6 (t : Seat) (r : BitVec 4) (w : VReg) : (t.setV r w).q6 = t.q6 := rfl
@[simp] theorem Seat.setV_payWords (t : Seat) (r : BitVec 4) (w : VReg) : (t.setV r w).payWords = t.payWords := rfl
@[simp] theorem Seat.setV_items (t : Seat) (r : BitVec 4) (w : VReg) : (t.setV r w).items = t.items := rfl
@[simp] theorem Seat.setV_q5read (t : Seat) (r : BitVec 4) (w : VReg) : (t.setV r w).q5read = t.q5read := rfl
@[simp] theorem Seat.setV_beyond (t : Seat) (r : BitVec 4) (w : VReg) : (t.setV r w).beyond = t.beyond := rfl

@[simp] theorem Seat.setK_status (t : Seat) (r : BitVec 2) (w : BitVec 1024) : (t.setK r w).status = t.status := by unfold Seat.setK; split <;> rfl
@[simp] theorem Seat.setK_x (t : Seat) (r : BitVec 2) (w : BitVec 1024) : (t.setK r w).x = t.x := by unfold Seat.setK; split <;> rfl
@[simp] theorem Seat.setK_p (t : Seat) (r : BitVec 2) (w : BitVec 1024) : (t.setK r w).p = t.p := by unfold Seat.setK; split <;> rfl
@[simp] theorem Seat.setK_v (t : Seat) (r : BitVec 2) (w : BitVec 1024) : (t.setK r w).v = t.v := by unfold Seat.setK; split <;> rfl
@[simp] theorem Seat.setK_pc (t : Seat) (r : BitVec 2) (w : BitVec 1024) : (t.setK r w).pc = t.pc := by unfold Seat.setK; split <;> rfl
@[simp] theorem Seat.setK_rpt (t : Seat) (r : BitVec 2) (w : BitVec 1024) : (t.setK r w).rpt = t.rpt := by unfold Seat.setK; split <;> rfl
@[simp] theorem Seat.setK_outs (t : Seat) (r : BitVec 2) (w : BitVec 1024) : (t.setK r w).outs = t.outs := by unfold Seat.setK; split <;> rfl
@[simp] theorem Seat.setK_trapPc (t : Seat) (r : BitVec 2) (w : BitVec 1024) : (t.setK r w).trapPc = t.trapPc := by unfold Seat.setK; split <;> rfl
@[simp] theorem Seat.setK_trapCause (t : Seat) (r : BitVec 2) (w : BitVec 1024) : (t.setK r w).trapCause = t.trapCause := by unfold Seat.setK; split <;> rfl
@[simp] theorem Seat.setK_trapVal (t : Seat) (r : BitVec 2) (w : BitVec 1024) : (t.setK r w).trapVal = t.trapVal := by unfold Seat.setK; split <;> rfl
@[simp] theorem Seat.setK_rpc (t : Seat) (r : BitVec 2) (w : BitVec 1024) : (t.setK r w).rpc = t.rpc := by unfold Seat.setK; split <;> rfl
@[simp] theorem Seat.setK_firing (t : Seat) (r : BitVec 2) (w : BitVec 1024) : (t.setK r w).firing = t.firing := by unfold Seat.setK; split <;> rfl
@[simp] theorem Seat.setK_fenced (t : Seat) (r : BitVec 2) (w : BitVec 1024) : (t.setK r w).fenced = t.fenced := by unfold Seat.setK; split <;> rfl
@[simp] theorem Seat.setK_preempt (t : Seat) (r : BitVec 2) (w : BitVec 1024) : (t.setK r w).preempt = t.preempt := by unfold Seat.setK; split <;> rfl
@[simp] theorem Seat.setK_slice (t : Seat) (r : BitVec 2) (w : BitVec 1024) : (t.setK r w).slice = t.slice := by unfold Seat.setK; split <;> rfl
@[simp] theorem Seat.setK_event (t : Seat) (r : BitVec 2) (w : BitVec 1024) : (t.setK r w).event = t.event := by unfold Seat.setK; split <;> rfl
@[simp] theorem Seat.setK_q0 (t : Seat) (r : BitVec 2) (w : BitVec 1024) : (t.setK r w).q0 = t.q0 := by unfold Seat.setK; split <;> rfl
@[simp] theorem Seat.setK_q2 (t : Seat) (r : BitVec 2) (w : BitVec 1024) : (t.setK r w).q2 = t.q2 := by unfold Seat.setK; split <;> rfl
@[simp] theorem Seat.setK_q4 (t : Seat) (r : BitVec 2) (w : BitVec 1024) : (t.setK r w).q4 = t.q4 := by unfold Seat.setK; split <;> rfl
@[simp] theorem Seat.setK_q6 (t : Seat) (r : BitVec 2) (w : BitVec 1024) : (t.setK r w).q6 = t.q6 := by unfold Seat.setK; split <;> rfl
@[simp] theorem Seat.setK_payWords (t : Seat) (r : BitVec 2) (w : BitVec 1024) : (t.setK r w).payWords = t.payWords := by unfold Seat.setK; split <;> rfl
@[simp] theorem Seat.setK_items (t : Seat) (r : BitVec 2) (w : BitVec 1024) : (t.setK r w).items = t.items := by unfold Seat.setK; split <;> rfl
@[simp] theorem Seat.setK_q5read (t : Seat) (r : BitVec 2) (w : BitVec 1024) : (t.setK r w).q5read = t.q5read := by unfold Seat.setK; split <;> rfl
@[simp] theorem Seat.setK_beyond (t : Seat) (r : BitVec 2) (w : BitVec 1024) : (t.setK r w).beyond = t.beyond := by unfold Seat.setK; split <;> rfl

/-! ### What an update sets -/

theorem tget_tset_same {α : Type} (d : α) (l : List (Nat × α)) (i : Nat) (v : α) : tget d (tset l i v) i = v := by
  induction l with
  | nil => simp [tset, tget]
  | cons e t ih => obtain ⟨k, w⟩ := e; simp only [tset]; split <;> [simp [tget]; split <;> simp_all [tget]]

theorem tget_tset_other {α : Type} (d : α) (l : List (Nat × α)) {i j : Nat} (v : α) (h : j ≠ i) :
    tget d (tset l i v) j = tget d l j := by
  induction l with
  | nil => simp [tset, tget, h]
  | cons e t ih =>
    obtain ⟨k, w⟩ := e
    simp only [tset]
    split
    · simp [tget, h]
    · split
      · rename_i h'; subst h'; simp [tget, h]
      · simp only [tget]; split <;> simp_all

@[simp] theorem State.getCore_setCore (s : State) (c : CoreId) (k : Core) : (s.setCore c k).getCore c = k :=
  tget_tset_same _ _ _ _

theorem State.getCore_setCore_other (s : State) {c d : CoreId} (k : Core) (h : d ≠ c) :
    (s.setCore c k).getCore d = s.getCore d := tget_tset_other _ _ _ h

@[simp] theorem State.getCluster_setCluster (s : State) (n : Nat) (k : Cluster) : (s.setCluster n k).getCluster n = k :=
  tget_tset_same _ _ _ _

theorem State.getCluster_setCluster_other (s : State) {m n : Nat} (k : Cluster) (h : m ≠ n) :
    (s.setCluster n k).getCluster m = s.getCluster m := tget_tset_other _ _ _ h

@[simp] theorem State.getChiplet_setChiplet (s : State) (n : Nat) (k : Chiplet) : (s.setChiplet n k).getChiplet n = k :=
  tget_tset_same _ _ _ _

theorem State.getChiplet_setChiplet_other (s : State) {m n : Nat} (k : Chiplet) (h : m ≠ n) :
    (s.setChiplet n k).getChiplet m = s.getChiplet m := tget_tset_other _ _ _ h

@[simp] theorem State.getCore_updCore (s : State) (c : CoreId) (f : Core → Core) :
    (s.updCore c f).getCore c = f (s.getCore c) := s.getCore_setCore _ _

theorem State.getCore_updCore_other (s : State) {c d : CoreId} (f : Core → Core) (h : d ≠ c) :
    (s.updCore c f).getCore d = s.getCore d := s.getCore_setCore_other _ h

@[simp] theorem State.getChiplet_setCore (s : State) (c : CoreId) (k : Core) (n : Nat) :
    (s.setCore c k).getChiplet n = s.getChiplet n := rfl

@[simp] theorem State.getCluster_setCore (s : State) (c : CoreId) (k : Core) (n : Nat) :
    (s.setCore c k).getCluster n = s.getCluster n := rfl

@[simp] theorem State.getCore_setCluster (s : State) (n : Nat) (k : Cluster) (c : CoreId) :
    (s.setCluster n k).getCore c = s.getCore c := rfl

@[simp] theorem State.getCore_setChiplet (s : State) (n : Nat) (k : Chiplet) (c : CoreId) :
    (s.setChiplet n k).getCore c = s.getCore c := rfl

@[simp] theorem State.thisCore_updThisCore (s : State) (f : Core → Core) : (s.updThisCore f).thisCore = f s.thisCore :=
  s.getCore_setCore _ _

@[simp] theorem State.thisSeat_setThisSeat (s : State) (v : Seat) : (s.setThisSeat v).thisSeat = v := by
  simp [State.thisSeat, State.setThisSeat]

@[simp] theorem State.thisSeat_updThisSeat (s : State) (f : Seat → Seat) : (s.updThisSeat f).thisSeat = f s.thisSeat :=
  s.thisSeat_setThisSeat _

theorem State.getCore_updThisSeat_other (s : State) (f : Seat → Seat) {c : CoreId} (h : c ≠ s.core) :
    (s.updThisSeat f).getCore c = s.getCore c := s.getCore_setCore_other _ h

@[simp] theorem State.updThisSeat_code (s : State) (f : Seat → Seat) : (s.updThisSeat f).thisCore.code = s.thisCore.code := by
  simp [State.updThisSeat, State.setThisSeat]

@[simp] theorem State.thisSeat_bump (s : State) : s.bump.thisSeat = s.thisSeat := rfl
@[simp] theorem State.thisSeat_ticked (s : State) : s.ticked.thisSeat = s.thisSeat := rfl
@[simp] theorem State.thisCore_bump (s : State) : s.bump.thisCore = s.thisCore := rfl
@[simp] theorem State.thisCore_ticked (s : State) : s.ticked.thisCore = s.thisCore := rfl
@[simp] theorem State.getCore_bump (s : State) (c : CoreId) : s.bump.getCore c = s.getCore c := rfl
@[simp] theorem State.thisSeat_forget (s : State) (u : Asker) : (s.forget u).thisSeat = s.thisSeat := rfl
@[simp] theorem State.thisCore_forget (s : State) (u : Asker) : (s.forget u).thisCore = s.thisCore := rfl
@[simp] theorem State.getCore_forget (s : State) (u : Asker) (c : CoreId) : (s.forget u).getCore c = s.getCore c := rfl
@[simp] theorem State.getCluster_forget (s : State) (u : Asker) (n : Nat) : (s.forget u).getCluster n = s.getCluster n := rfl
@[simp] theorem State.seatAt_forget (s : State) (u : Asker) (c : CoreId) (n : Nat) : (s.forget u).seatAt c n = s.seatAt c n := rfl
@[simp] theorem State.getCore_ticked (s : State) (c : CoreId) : s.ticked.getCore c = s.getCore c := rfl

/-- `x0` reads zero, and any other register reads what it was set to (R76). -/
theorem Seat.getX_setX (t : Seat) (r : BitVec 5) (w : Word) : (t.setX r w).getX r = if r = 0 then 0 else w := by
  unfold Seat.setX Seat.getX; split <;> simp_all

/-- A write of a register leaves every other (R76). -/
theorem Seat.getX_setX_other (t : Seat) {r q : BitVec 5} (w : Word) (h : q ≠ r) : (t.setX r w).getX q = t.getX q := by
  unfold Seat.setX Seat.getX
  split
  · rfl
  · split
    · rfl
    · rw [Vector.getElem_set_ne]; intro e; exact h (BitVec.eq_of_toNat_eq e.symm)

theorem Seat.getV_setV (t : Seat) (r : BitVec 4) (w : VReg) : (t.setV r w).getV r = w := by simp [Seat.setV, Seat.getV]

theorem Seat.getV_setV_other (t : Seat) {r q : BitVec 4} (w : VReg) (h : q ≠ r) : (t.setV r w).getV q = t.getV q := by
  unfold Seat.setV Seat.getV
  rw [Vector.getElem_set_ne]; intro e; exact h (BitVec.eq_of_toNat_eq e.symm)

/-- A register of a seat and the predicates are read through accessors that an update of other registers leaves. -/
@[simp] theorem Seat.getP_setX (t : Seat) (r : BitVec 5) (w : Word) (p : BitVec 3) : (t.setX r w).getP p = t.getP p := by
  simp [Seat.getP]
@[simp] theorem Seat.getV_setX (t : Seat) (r : BitVec 5) (w : Word) (v : BitVec 4) : (t.setX r w).getV v = t.getV v := by
  simp [Seat.getV]
@[simp] theorem Seat.getK_setX (t : Seat) (r : BitVec 5) (w : Word) (k : BitVec 2) : (t.setX r w).getK k = t.getK k := by
  simp [Seat.getK]
@[simp] theorem Seat.out_setX (t : Seat) (r : BitVec 5) (w : Word) : (t.setX r w).out = t.out := by simp [Seat.out]
@[simp] theorem Seat.out_setP (t : Seat) (r : BitVec 3) (b : Bool) : (t.setP r b).out = t.out := by simp [Seat.out]
@[simp] theorem Seat.out_setV (t : Seat) (r : BitVec 4) (w : VReg) : (t.setV r w).out = t.out := by simp [Seat.out]
@[simp] theorem Seat.out_setK (t : Seat) (r : BitVec 2) (w : BitVec 1024) : (t.setK r w).out = t.out := by simp [Seat.out]

end Sys2Proof.Machine
end

