-- ==== Sys2Proof/Laws/Issue.lean ====
section
/-! SUPPORT. What the issue of an instruction can do, said once: under a known guard, with its effect, or waiting. -/

namespace Sys2Proof.Machine

@[simp] theorem thisSeat_wroteX (s : State) (d : BitVec 5) (w : Word) : (wroteX s d w).thisSeat = s.thisSeat.setX d w := by
  simp [wroteX]
@[simp] theorem thisSeat_wroteP (s : State) (d : BitVec 3) (b : Bool) : (wroteP s d b).thisSeat = s.thisSeat.setP d b := by
  simp [wroteP]
@[simp] theorem thisSeat_wroteV (s : State) (d tag : BitVec 4) (w : BitVec 4096) :
    (wroteV s d tag w).thisSeat = s.thisSeat.setV d { s.thisSeat.getV d with data := w, tag := tag } := by simp [wroteV]
@[simp] theorem thisSeat_wroteK (s : State) (d : BitVec 2) (w : BitVec 1024) :
    (wroteK s d w).thisSeat = s.thisSeat.setK d w := by simp [wroteK]

theorem putX_eq (s : State) (d : BitVec 5) (w : Word) : putX s d w = .next (wroteX s d w) := rfl
theorem putV_eq (s : State) (d tag : BitVec 4) (w : BitVec 4096) : putV s d tag w = .next (wroteV s d tag w) := rfl
theorem putK_eq (s : State) (d : BitVec 2) (w : BitVec 1024) : putK s d w = .next (wroteK s d w) := rfl

/-- A new outstanding operation is the last one of the seat (R114). -/
@[simp] theorem thisSeat_raise (s : State) (target : Target) (acq : Bool) (what : Pending) (ans : Answer) (left : List Nat) :
    (raise s target acq what ans left).thisSeat =
      { s.thisSeat with outs := s.thisSeat.outs ++ [⟨s.fresh, s.thisSeat.pc, target, acq, what, ans, left, s.thisSeat.rpt⟩] } :=
  s.thisSeat_updThisSeat fun t => { t with outs := t.outs ++ [⟨s.fresh, t.pc, target, acq, what, ans, left, t.rpt⟩] }

theorem out_raise (s : State) (target : Target) (acq : Bool) (what : Pending) (ans : Answer) (left : List Nat) :
    (raise s target acq what ans left).thisSeat.out = s.thisSeat.out + 1 := by simp [Seat.out]

/-- A seat with nothing outstanding and no request of the module under way is ready for any instruction under a true guard. -/
theorem ready_idle {c : Ctl} {s : State} (o : s.thisSeat.outs = []) (g : guardTrue c s.thisSeat = true) (q : s.reqs = [])
    (u : Uses) : Ready c u s := by
  have h1 : s.thisSeat.pendX = fun _ => false := by funext r; simp [Seat.pendX, o]
  have h2 : s.thisSeat.pendV = fun _ => false := by funext r; simp [Seat.pendV, o]
  have h3 : s.thisSeat.pendP = fun _ => false := by funext r; simp [Seat.pendP, o]
  have h4 : acquiring s.thisSeat = false := by simp [acquiring, o]
  have h5 : unreleased s s.core s.seat.val = false := by simp [unreleased, seatReqs, q]
  refine ⟨by rw [h3], g, by simp [interlocked, h1, h2, h3], by simp [h4], by simp [h5], ?_⟩
  have e1 : u.rx.find? (fun _ => false) = none := List.find?_eq_none.2 (by simp)
  have e2 : u.rv.find? (fun _ => false) = none := List.find?_eq_none.2 (by simp)
  simp [earlyRead, h1, h2, e1, e2]

/-- Without requests under way no word is claimed by a synchronising access (R143). -/
theorem sameWord_none {s : State} (q : s.reqs = []) (p : List Piece) : sameWord s p = false := by simp [sameWord, seatReqs, q]

/-! ### `issue` -/

theorem issue_pending {c : Ctl} {len : Nat} {u : Uses} {body : State → Act} {s : State} (h : s.thisSeat.pendP c.gp = true) :
    issue c len u body s = .next (blocked s) := by simp [issue, h]

theorem issue_skipped {c : Ctl} {len : Nat} {u : Uses} {body : State → Act} {s : State} (h : s.thisSeat.pendP c.gp = false)
    (g : guardTrue c s.thisSeat = false) : issue c len u body s = .next (retire c.sw len s) := by simp [issue, h, g]

theorem issue_waits {c : Ctl} {len : Nat} {u : Uses} {body : State → Act} {s : State} (h : s.thisSeat.pendP c.gp = false)
    (g : guardTrue c s.thisSeat = true)
    (w : interlocked s.thisSeat u = true ∨ (u.mem && acquiring s.thisSeat) = true ∨
      (u.rel && unreleased s s.core s.seat.val) = true) :
    issue c len u body s = .next (blocked s) := by
  rcases w with w | w | w <;> simp [issue, h, g, w]

theorem issue_early {c : Ctl} {len : Nat} {u : Uses} {body : State → Act} {s : State} {r : Word}
    (h : s.thisSeat.pendP c.gp = false) (g : guardTrue c s.thisSeat = true) (i : interlocked s.thisSeat u = false)
    (m : (u.mem && acquiring s.thisSeat) = false) (l : (u.rel && unreleased s s.core s.seat.val) = false)
    (e : earlyRead s u = some r) : issue c len u body s = .next (precise s 0x04 r) := by
  simp [issue, h, g, i, m, l, e]

theorem issue_ready {c : Ctl} {len : Nat} {u : Uses} {body : State → Act} {s : State} (h : Ready c u s) :
    issue c len u body s = .next (finish c.sw len s (body s)) := by
  obtain ⟨h1, h2, h3, h4, h5, h6⟩ := h
  simp [issue, h1, h2, h3, h4, h5, h6]

theorem issueS_seat7 {word : BitVec 32} {c : Ctl} {u : Uses} {body : State → Act} {s : State} (h : s.seat = 7) :
    issueS word c u body s = issue c 2 u body s := by simp [issueS, h]

theorem issueS_other {word : BitVec 32} {c : Ctl} {u : Uses} {body : State → Act} {s : State} (h : s.seat ≠ 7) :
    issueS word c u body s = .next (precise s 0x02 (word.setWidth 64)) := by simp [issueS, h]

/-- Everything `issue` can answer. -/
theorem issue_cases {c : Ctl} {len : Nat} {u : Uses} {body : State → Act} {s t : State} (h : issue c len u body s = .next t) :
    t = blocked s ∨ t = retire c.sw len s ∨ (∃ r, t = precise s 0x04 r) ∨ t = finish c.sw len s (body s) := by
  simp only [issue, Host.Outcome.next.injEq] at h
  subst h
  split
  · simp
  · split
    · simp
    · split
      · simp
      · split <;> simp

/-! ### `finish` -/

theorem finish_next {sw : Bool} {len : Nat} {s s' : State} (h : s'.thisSeat.out ≤ s.thisSeat.out) :
    finish sw len s (.next s') = retire sw len s' := by
  simp only [finish]; rw [if_neg (by simp only [Bool.and_eq_true, decide_eq_true_eq]; omega)]

theorem finish_room {sw : Bool} {len : Nat} {s s' : State} (h : s'.thisSeat.out ≤ 32) :
    finish sw len s (.next s') = retire sw len s' := by
  simp only [finish]; rw [if_neg (by simp only [Bool.and_eq_true, decide_eq_true_eq]; omega)]

@[simp] theorem finish_wroteX {sw : Bool} {len : Nat} (s : State) (d : BitVec 5) (w : Word) :
    finish sw len s (.next (wroteX s d w)) = retire sw len (wroteX s d w) := finish_next (by simp)
@[simp] theorem finish_wroteP {sw : Bool} {len : Nat} (s : State) (d : BitVec 3) (b : Bool) :
    finish sw len s (.next (wroteP s d b)) = retire sw len (wroteP s d b) := finish_next (by simp)
@[simp] theorem finish_wroteV {sw : Bool} {len : Nat} (s : State) (d tag : BitVec 4) (w : BitVec 4096) :
    finish sw len s (.next (wroteV s d tag w)) = retire sw len (wroteV s d tag w) := finish_next (by simp)
@[simp] theorem finish_wroteK {sw : Bool} {len : Nat} (s : State) (d : BitVec 2) (w : BitVec 1024) :
    finish sw len s (.next (wroteK s d w)) = retire sw len (wroteK s d w) := finish_next (by simp)
@[simp] theorem finish_same {sw : Bool} {len : Nat} (s : State) : finish sw len s (.next s) = retire sw len s :=
  finish_next (Nat.le_refl _)
@[simp] theorem finish_goto {sw : Bool} {len : Nat} (s s' : State) (a : Parcel) :
    finish sw len s (.goto s' a) = jump sw a s' := rfl
@[simp] theorem finish_trap {sw : Bool} {len : Nat} (s : State) (cause : BitVec 8) (v : Word) :
    finish sw len s (.trap cause v) = precise s.ticked cause v := rfl
@[simp] theorem finish_walk {sw : Bool} {len : Nat} (s : State) (va : Word) :
    finish sw len s (.walk va) = askWalk (blocked s) s.me s.thisCore.ttRoot (fld va 47 0) := rfl
@[simp] theorem finish_block {sw : Bool} {len : Nat} (s : State) : finish sw len s .block = blocked s := rfl
@[simp] theorem finish_stop {sw : Bool} {len : Nat} (s s' : State) : finish sw len s (.stop s') = s' := rfl
@[simp] theorem finish_raise {sw : Bool} {len : Nat} (s : State) (h : Room s) (target : Target) (acq : Bool) (what : Pending)
    (ans : Answer) (left : List Nat) :
    finish sw len s (.next (raise s target acq what ans left)) = retire sw len (raise s target acq what ans left) :=
  finish_room (by rw [out_raise]; omega)

/-! ### `retire` (R25, R27) -/

theorem retire_plain {sw : Bool} {len : Nat} {s : State} (h : repeating s = false) : retire sw len s = advance sw len s := by
  simp [retire, h]

theorem retire_again {sw : Bool} {len : Nat} {s : State} (h : repeating s = true) (n : s.thisSeat.rpt ≠ 1) :
    retire sw len s = (s.forget s.me).updThisSeat fun t => { t with rpt := t.rpt - 1 } := by
  unfold retire; rw [if_pos h, if_neg n]

theorem retire_last {sw : Bool} {len : Nat} {s : State} (h : repeating s = true) (n : s.thisSeat.rpt = 1) :
    retire sw len s = advance sw 4 s := by simp [retire, h, n]

theorem advance_inside {sw : Bool} {len : Nat} {s : State} (h : s.thisSeat.pc.toNat + len ≤ 0xFFFF) :
    advance sw len s =
      (s.forget s.me).setThisSeat (switched sw { s.thisSeat with pc := BitVec.ofNat 16 (s.thisSeat.pc.toNat + len), rpt := 0 }) := by
  simp [advance, h]

end Sys2Proof.Machine
end

