-- ==== Sys2Proof/Laws/Memory.lean ====
section
/-! SUPPORT. Memory: a byte read after a write, what a write leaves alone, and that every memory operation keeps the canonical
form. -/

namespace Sys2Proof.Machine

/-! ### One byte -/

theorem tget_tdel_same {α : Type} (d : α) (l : List (Nat × α)) (i : Nat) : tget d (tdel l i) i = d := by
  induction l with
  | nil => rfl
  | cons e t ih => obtain ⟨k, w⟩ := e; simp only [tdel]; split <;> simp_all [tget]

theorem tget_tdel_other {α : Type} (d : α) (l : List (Nat × α)) {i j : Nat} (h : j ≠ i) :
    tget d (tdel l i) j = tget d l j := by
  induction l with
  | nil => rfl
  | cons e t ih =>
    obtain ⟨k, w⟩ := e
    simp only [tdel]
    split
    · rename_i h'; subst h'; simp [tget, h, ih]
    · simp [tget, ih]

theorem getByte_setByte (m : Memory) (a : Nat) (b : Byte) (i : Nat) :
    getByte (setByte m a b) i = if i = a then b else getByte m i := by
  unfold getByte setByte
  by_cases h : i = a
  · subst h; split <;> simp_all [tget_tdel_same, tget_tset_same]
  · split <;> simp [h, tget_tdel_other, tget_tset_other]

@[simp] theorem getByte_setByte_same (m : Memory) (a : Nat) (b : Byte) : getByte (setByte m a b) a = b := by
  simp [getByte_setByte]

theorem getByte_setByte_other (m : Memory) {a i : Nat} (b : Byte) (h : i ≠ a) :
    getByte (setByte m a b) i = getByte m i := by simp [getByte_setByte, h]

/-! ### Several bytes -/

theorem getByte_setBytes_outside (m : Memory) (n : Nat) : ∀ (a v i : Nat), i < a ∨ a + n ≤ i →
    getByte (setBytes m a n v) i = getByte m i := by
  induction n with
  | zero => intro a v i _; rfl
  | succ n ih =>
    intro a v i h
    rw [setBytes, getByte_setByte_other _ _ (by omega), ih _ _ _ (by omega)]

theorem getByte_setBytes_inside (m : Memory) (n : Nat) : ∀ (a v j : Nat), j < n →
    getByte (setBytes m a n v) (a + j) = BitVec.ofNat 8 (v / 256 ^ j) := by
  induction n with
  | zero => intro a v j h; omega
  | succ n ih =>
    intro a v j h
    cases j with
    | zero => simp [setBytes]
    | succ j =>
      rw [setBytes, getByte_setByte_other _ _ (by omega), show a + (j + 1) = a + 1 + j by omega, ih _ _ _ (by omega),
        Nat.div_div_eq_div_mul, Nat.pow_succ, Nat.mul_comm]

theorem getBytes_congr (m m' : Memory) (n : Nat) : ∀ a : Nat, (∀ i, a ≤ i → i < a + n → getByte m i = getByte m' i) →
    getBytes m a n = getBytes m' a n := by
  induction n with
  | zero => intro a _; rfl
  | succ n ih =>
    intro a h
    rw [getBytes, getBytes, h a (by omega) (by omega), ih (a + 1) fun i h1 h2 => h i (by omega) (by omega)]

/-- Bytes that a write does not touch read as before. -/
theorem getBytes_setBytes_outside (m : Memory) {a n v b k : Nat} (h : b + k ≤ a ∨ a + n ≤ b) :
    getBytes (setBytes m a n v) b k = getBytes m b k :=
  getBytes_congr _ _ _ _ fun i _ _ => getByte_setBytes_outside m n a v i (by omega)

/-- A read of what was just written gives the number, narrowed to the bytes written. -/
theorem getBytes_setBytes_same (m : Memory) (n : Nat) : ∀ a v : Nat, getBytes (setBytes m a n v) a n = v % 256 ^ n := by
  induction n with
  | zero => intro a v; simp [getBytes, Nat.mod_one]
  | succ n ih =>
    intro a v
    have tail : getBytes (setBytes m a (n + 1) v) (a + 1) n = getBytes (setBytes m (a + 1) n (v / 256)) (a + 1) n :=
      getBytes_congr _ _ _ _ fun i _ _ => getByte_setByte_other _ _ (by omega)
    rw [getBytes, tail, ih, setBytes, getByte_setByte_same, BitVec.toNat_ofNat, show 2 ^ 8 = 256 from rfl,
      Nat.pow_succ, Nat.mul_comm (256 ^ n) 256, Nat.mod_mul]

theorem getBytes_lt (m : Memory) (n : Nat) : ∀ a : Nat, getBytes m a n < 256 ^ n := by
  induction n with
  | zero => intro a; simp [getBytes]
  | succ n ih =>
    intro a
    have h := ih (a + 1)
    have b := (getByte m a).isLt
    rw [getBytes, Nat.pow_succ]
    omega

/-- A double read where it was written is the double. -/
@[simp] theorem getDouble_setDouble_same (m : Memory) (a : Nat) (v : Word) : getDouble (setDouble m a v) a = v := by
  unfold getDouble setDouble
  rw [getBytes_setBytes_same]
  apply BitVec.eq_of_toNat_eq
  rw [BitVec.toNat_ofNat, show 256 ^ 8 = 2 ^ 64 by norm_num, Nat.mod_mod, Nat.mod_eq_of_lt v.isLt]

theorem getDouble_setDouble_outside (m : Memory) {a b : Nat} (v : Word) (h : b + 8 ≤ a ∨ a + 8 ≤ b) :
    getDouble (setDouble m a v) b = getDouble m b := by
  unfold getDouble setDouble; rw [getBytes_setBytes_outside _ h]

theorem getByte_setDoubles_outside (ws : List Word) : ∀ (m : Memory) (a i : Nat), i < a ∨ a + 8 * ws.length ≤ i →
    getByte (setDoubles m a ws) i = getByte m i := by
  induction ws with
  | nil => intro m a i _; rfl
  | cons v t ih =>
    intro m a i h
    simp only [List.length_cons] at h
    rw [setDoubles, ih _ _ _ (by omega)]
    exact getByte_setBytes_outside m 8 a v.toNat i (by omega)

theorem getByte_setList_outside (l : List Byte) (m : Memory) : ∀ a i : Nat, i < a ∨ a + l.length ≤ i →
    getByte (setList m a l) i = getByte m i := by
  induction l with
  | nil => intro a i _; rfl
  | cons b t ih =>
    intro a i h
    simp only [List.length_cons] at h
    rw [setList, getByte_setByte_other _ _ (by omega), ih _ _ (by omega)]

/-- A byte after `putBytes` is the one of the list where the condition holds, and the old one elsewhere. -/
theorem getByte_putBytes (keep : Nat → Bool) (l : List Byte) (m : Memory) : ∀ a i : Nat, getByte (putBytes keep m a l) i =
    if a ≤ i ∧ i < a + l.length ∧ keep i = true then l.getD (i - a) 0 else getByte m i := by
  induction l with
  | nil => intro a i; simp only [putBytes, List.length_nil]; rw [if_neg (by omega)]
  | cons b t ih =>
    intro a i
    by_cases e : i = a
    · subst e
      have h := ih (i + 1) i
      rw [if_neg (by omega)] at h
      by_cases k : keep i = true <;> simp [putBytes, k, h]
    · have h : getByte (putBytes keep m a (b :: t)) i = getByte (putBytes keep m (a + 1) t) i := by
        simp only [putBytes]
        split
        · exact getByte_setByte_other _ _ e
        · rfl
      rw [h, ih, List.length_cons]
      by_cases c : a ≤ i ∧ i < a + (t.length + 1) ∧ keep i = true
      · rw [if_pos c, if_pos ⟨by omega, by omega, c.2.2⟩, show i - a = (i - (a + 1)) + 1 by omega, List.getD_cons_succ]
      · rw [if_neg c, if_neg fun d => c ⟨by omega, by omega, d.2.2⟩]

theorem getList_congr (m m' : Memory) (n : Nat) : ∀ a : Nat, (∀ i, a ≤ i → i < a + n → getByte m i = getByte m' i) →
    getList m a n = getList m' a n := by
  induction n with
  | zero => intro a _; rfl
  | succ n ih =>
    intro a h
    rw [getList, getList, h a (by omega) (by omega), ih (a + 1) fun i h1 h2 => h i (by omega) (by omega)]

@[simp] theorem getList_length (m : Memory) (n : Nat) : ∀ a : Nat, (getList m a n).length = n := by
  induction n with
  | zero => intro a; rfl
  | succ n ih => intro a; simp [getList, ih]

/-- A list read where it was written is the list. -/
theorem getList_setList_same (l : List Byte) (m : Memory) : ∀ a : Nat, getList (setList m a l) a l.length = l := by
  induction l with
  | nil => intro a; rfl
  | cons b t ih =>
    intro a
    rw [List.length_cons, getList, setList, getByte_setByte_same,
      getList_congr _ (setList m (a + 1) t) _ _ fun i _ _ => getByte_setByte_other _ _ (by omega), ih]

/-! ### The canonical form -/

theorem wfFrom_cons {lo k : Nat} {w : Byte} {t : Memory} :
    wfFrom (some lo) ((k, w) :: t) = true ↔ lo < k ∧ w ≠ 0 ∧ wfFrom (some k) t = true := by
  simp only [wfFrom, Bool.and_eq_true, decide_eq_true_eq, bne_iff_ne, and_assoc]

theorem wf_cons {k : Nat} {w : Byte} {t : Memory} :
    Memory.wf ((k, w) :: t) = true ↔ w ≠ 0 ∧ wfFrom (some k) t = true := by
  simp only [Memory.wf, wfFrom, Bool.and_eq_true, bne_iff_ne]

theorem wf_of_wfFrom {m : Memory} {lo : Nat} (h : wfFrom (some lo) m = true) : Memory.wf m = true := by
  cases m with
  | nil => rfl
  | cons c t => exact wf_cons.2 (wfFrom_cons.1 h).2

theorem wfFrom_lower {m : Memory} {lo lo' : Nat} (h : wfFrom (some lo) m = true) (le : lo' ≤ lo) :
    wfFrom (some lo') m = true := by
  cases m with
  | nil => rfl
  | cons c t => exact wfFrom_cons.2 ⟨by have := (wfFrom_cons.1 h).1; omega, (wfFrom_cons.1 h).2⟩

theorem wfFrom_tset (m : Memory) (a : Nat) (b : Byte) (hb : b ≠ 0) : ∀ lo : Nat, wfFrom (some lo) m = true → lo < a →
    wfFrom (some lo) (tset m a b) = true := by
  induction m with
  | nil => intro lo _ h; exact wfFrom_cons.2 ⟨h, hb, rfl⟩
  | cons c t ih =>
    obtain ⟨k, w⟩ := c
    intro lo h hlo
    obtain ⟨h1, h2, h3⟩ := wfFrom_cons.1 h
    simp only [tset]
    split
    · exact wfFrom_cons.2 ⟨hlo, hb, wfFrom_cons.2 ⟨‹_›, h2, h3⟩⟩
    · split
      · exact wfFrom_cons.2 ⟨hlo, hb, by simp_all⟩
      · exact wfFrom_cons.2 ⟨h1, h2, ih k h3 (by omega)⟩

theorem wfFrom_tdel (m : Memory) (a : Nat) : ∀ lo : Nat, wfFrom (some lo) m = true → wfFrom (some lo) (tdel m a) = true := by
  induction m with
  | nil => intro lo _; rfl
  | cons c t ih =>
    obtain ⟨k, w⟩ := c
    intro lo h
    obtain ⟨h1, h2, h3⟩ := wfFrom_cons.1 h
    simp only [tdel]
    split
    · exact wfFrom_lower (ih k h3) (by omega)
    · exact wfFrom_cons.2 ⟨h1, h2, ih k h3⟩

theorem wfFrom_setByte {m : Memory} {a lo : Nat} (b : Byte) (h : wfFrom (some lo) m = true) (hlo : lo < a) :
    wfFrom (some lo) (setByte m a b) = true := by
  unfold setByte
  split
  · exact wfFrom_tdel _ _ _ h
  · exact wfFrom_tset _ _ _ ‹_› _ h hlo

/-- Writing a byte keeps the canonical form. -/
theorem wf_setByte {m : Memory} (a : Nat) (b : Byte) (h : Memory.wf m = true) : Memory.wf (setByte m a b) = true := by
  unfold setByte
  cases m with
  | nil => split <;> [rfl; exact wf_cons.2 ⟨‹_›, rfl⟩]
  | cons c t =>
    obtain ⟨k, w⟩ := c
    obtain ⟨h1, h2⟩ := wf_cons.1 h
    split
    · simp only [tdel]
      split
      · exact wf_of_wfFrom (wfFrom_tdel _ _ _ h2)
      · exact wf_cons.2 ⟨h1, wfFrom_tdel _ _ _ h2⟩
    · simp only [tset]
      split
      · exact wf_cons.2 ⟨‹_›, wfFrom_cons.2 ⟨‹_›, h1, h2⟩⟩
      · split
        · exact wf_cons.2 ⟨‹_›, by simp_all⟩
        · exact wf_cons.2 ⟨h1, wfFrom_tset _ _ _ ‹_› _ h2 (by omega)⟩

theorem wf_setBytes {m : Memory} (n : Nat) (h : Memory.wf m = true) : ∀ a v : Nat, Memory.wf (setBytes m a n v) = true := by
  induction n with
  | zero => intro _ _; exact h
  | succ n ih => intro a v; exact wf_setByte _ _ (ih _ _)

theorem wf_setDouble {m : Memory} (a : Nat) (v : Word) (h : Memory.wf m = true) : Memory.wf (setDouble m a v) = true :=
  wf_setBytes 8 h a v.toNat

theorem wf_setDoubles (ws : List Word) : ∀ (m : Memory) (a : Nat), Memory.wf m = true →
    Memory.wf (setDoubles m a ws) = true := by
  induction ws with
  | nil => intro m a h; exact h
  | cons v t ih => intro m a h; exact ih _ _ (wf_setDouble a v h)

theorem wf_setList {m : Memory} (l : List Byte) (h : Memory.wf m = true) : ∀ a : Nat, Memory.wf (setList m a l) = true := by
  induction l with
  | nil => intro _; exact h
  | cons b t ih => intro a; exact wf_setByte _ _ (ih _)

theorem wf_putBytes (keep : Nat → Bool) {m : Memory} (l : List Byte) (h : Memory.wf m = true) :
    ∀ a : Nat, Memory.wf (putBytes keep m a l) = true := by
  induction l with
  | nil => exact fun _ => h
  | cons b t ih =>
    intro a
    simp only [putBytes]
    split
    · exact wf_setByte _ _ (ih _)
    · exact ih _

theorem wfFrom_filter (p : Host.Cell → Bool) (m : Memory) : ∀ lo : Nat, wfFrom (some lo) m = true →
    wfFrom (some lo) (m.filter p) = true := by
  induction m with
  | nil => intro lo _; rfl
  | cons c t ih =>
    obtain ⟨k, w⟩ := c
    intro lo h
    obtain ⟨h1, h2, h3⟩ := wfFrom_cons.1 h
    simp only [List.filter_cons]
    split
    · exact wfFrom_cons.2 ⟨h1, h2, ih k h3⟩
    · exact wfFrom_lower (ih k h3) (by omega)

/-- Leaving out listed bytes keeps the canonical form. -/
theorem wf_filter (p : Host.Cell → Bool) {m : Memory} (h : Memory.wf m = true) : Memory.wf (m.filter p) = true := by
  cases m with
  | nil => rfl
  | cons c t =>
    obtain ⟨k, w⟩ := c
    obtain ⟨h1, h2⟩ := wf_cons.1 h
    simp only [List.filter_cons]
    split
    · exact wf_cons.2 ⟨h1, wfFrom_filter p _ _ h2⟩
    · exact wf_of_wfFrom (wfFrom_filter p _ _ h2)

theorem wf_clearRange {m : Memory} (lo hi : Nat) (h : Memory.wf m = true) : Memory.wf (clearRange m lo hi) = true :=
  wf_filter _ h

theorem wf_takeRange {m : Memory} (lo hi : Nat) (h : Memory.wf m = true) : Memory.wf (takeRange m lo hi) = true :=
  wf_filter _ h

theorem wf_maskedBytes {m : Memory} (a n : Nat) (mask data : BitVec 64) (h : Memory.wf m = true) :
    Memory.wf (maskedBytes m a n mask data) = true := wf_setBytes n h _ _

/-- A fold whose every step keeps the canonical form keeps it. -/
theorem wf_foldl {β : Type} (f : Memory → β → Memory) (hf : ∀ m b, Memory.wf m = true → Memory.wf (f m b) = true) (l : List β) :
    ∀ m : Memory, Memory.wf m = true → Memory.wf (l.foldl f m) = true := by
  induction l with
  | nil => intro m h; exact h
  | cons b t ih => intro m h; exact ih _ (hf m b h)

theorem wf_putTable {m : Memory} (a n : Nat) (l : List (Nat × Nat)) (h : Memory.wf m = true) :
    Memory.wf (putTable m a n l) = true := wf_foldl _ (fun _ _ h => wf_setBytes n h _ _) l m h

/-- The memory with nothing listed is in canonical form. -/
@[simp] theorem wf_nil : Memory.wf [] = true := rfl

/-! ### The memories of the machine -/

theorem all_tset {α : Type} (p : Nat × α → Bool) (l : List (Nat × α)) (i : Nat) (v : α) (h : l.all p = true)
    (hv : p (i, v) = true) : (tset l i v).all p = true := by
  induction l with
  | nil => simpa [tset] using hv
  | cons e t ih =>
    obtain ⟨k, w⟩ := e
    simp only [List.all_cons, Bool.and_eq_true] at h
    simp only [tset]
    split
    · simp [hv, h]
    · split <;> simp [hv, h, ih]

theorem tget_all {α : Type} (d : α) (p : α → Bool) (l : List (Nat × α)) (i : Nat) (h : (l.all fun e => p e.2) = true)
    (hd : p d = true) : p (tget d l i) = true := by
  induction l with
  | nil => exact hd
  | cons e t ih =>
    obtain ⟨k, w⟩ := e
    simp only [List.all_cons, Bool.and_eq_true] at h
    simp only [tget]
    split
    · exact h.1
    · exact ih h.2

theorem State.memoriesWf_iff (s : State) : s.memoriesWf = true ↔
    Memory.wf s.hbm = true ∧ (s.cores.all fun e => Memory.wf e.2.sp) = true ∧
      (s.clusters.all fun e => Memory.wf e.2.ws) = true ∧ (s.co.all fun e => Memory.wf e.2) = true := by
  simp only [State.memoriesWf, Bool.and_eq_true, and_assoc]

theorem State.memoriesWf_sp {s : State} (h : s.memoriesWf = true) (c : CoreId) : Memory.wf (s.getCore c).sp = true :=
  tget_all ({} : Core) (fun k : Core => Memory.wf k.sp) s.cores c (s.memoriesWf_iff.1 h).2.1 rfl

theorem State.memoriesWf_ws {s : State} (h : s.memoriesWf = true) (n : Nat) : Memory.wf (s.getCluster n).ws = true :=
  tget_all ({} : Cluster) (fun k : Cluster => Memory.wf k.ws) s.clusters n (s.memoriesWf_iff.1 h).2.2.1 rfl

theorem State.memoriesWf_co {s : State} (h : s.memoriesWf = true) (p : Nat) : Memory.wf (tget [] s.co p) = true :=
  tget_all [] (fun m : Memory => Memory.wf m) s.co p (s.memoriesWf_iff.1 h).2.2.2 rfl

theorem State.memoriesWf_setCore {s : State} (c : CoreId) (k : Core) (h : s.memoriesWf = true) (hk : Memory.wf k.sp = true) :
    (s.setCore c k).memoriesWf = true := by
  rw [State.memoriesWf_iff] at h ⊢
  exact ⟨h.1, all_tset _ _ _ _ h.2.1 hk, h.2.2.1, h.2.2.2⟩

theorem State.memoriesWf_updCore {s : State} (c : CoreId) (f : Core → Core) (h : s.memoriesWf = true)
    (hf : Memory.wf (f (s.getCore c)).sp = true) : (s.updCore c f).memoriesWf = true := State.memoriesWf_setCore c _ h hf

theorem State.memoriesWf_setCluster {s : State} (n : Nat) (k : Cluster) (h : s.memoriesWf = true) (hk : Memory.wf k.ws = true) :
    (s.setCluster n k).memoriesWf = true := by
  rw [State.memoriesWf_iff] at h ⊢
  exact ⟨h.1, h.2.1, all_tset _ _ _ _ h.2.2.1 hk, h.2.2.2⟩

theorem State.memoriesWf_setSeatAt {s : State} (c : CoreId) (n : Nat) (v : Seat) (h : s.memoriesWf = true) :
    (s.setSeatAt c n v).memoriesWf = true := State.memoriesWf_updCore c _ h (State.memoriesWf_sp h c)

theorem State.memoriesWf_setThisSeat {s : State} (v : Seat) (h : s.memoriesWf = true) :
    (s.setThisSeat v).memoriesWf = true := State.memoriesWf_setCore _ _ h (State.memoriesWf_sp h _)

/-- A place written keeps every memory in canonical form. -/
theorem Place.write_memoriesWf {s : State} (n : Nat) (mask data : BitVec 64) (p : Place) (h : s.memoriesWf = true) :
    (p.write s n mask data).memoriesWf = true := by
  have w := s.memoriesWf_iff.1 h
  cases p with
  | sp c a => exact State.memoriesWf_updCore c _ h (wf_maskedBytes _ _ _ _ (State.memoriesWf_sp h c))
  | ws g a => exact h
  | co p a => exact (State.memoriesWf_iff _).2 ⟨w.1, w.2.1, w.2.2.1,
      all_tset _ _ _ _ w.2.2.2 (wf_maskedBytes _ _ _ _ (State.memoriesWf_co h p))⟩
  | hbm a m => exact (State.memoriesWf_iff _).2 ⟨wf_maskedBytes _ _ _ _ w.1, w.2⟩
  | walker _ => exact h

end Sys2Proof.Machine
end

