-- ==== Sys2Proof/Laws/Shared.lean ====
section
/-! SUPPORT. What each shared operation does to the seats: one lemma per operation, for the later proofs to cite. -/

namespace Sys2Proof.Machine

/-! ### Seats of a core -/

theorem Core.getSeat_setSeat (k : Core) (n m : Nat) (v : Seat) (h : n < 8) :
    (k.setSeat n v).getSeat m = if m = n then v else k.getSeat m := by
  unfold Core.getSeat Core.setSeat
  by_cases e : m = n
  · subst e; simp [Vector.getD, h]
  · simp [Vector.getD, e, Ne.symm e]

/-- A number from 8 on names no seat, and a write to it changes nothing. -/
theorem Core.setSeat_beyond (k : Core) {n : Nat} (v : Seat) (h : 8 ≤ n) : k.setSeat n v = k := by
  unfold Core.setSeat
  congr 1
  apply Vector.ext
  intro i hi
  rw [Vector.getElem_setIfInBounds]
  rw [if_neg (by omega)]

theorem State.seatAt_setSeatAt_same (s : State) (c : CoreId) {n : Nat} (v : Seat) (h : n < 8) :
    (s.setSeatAt c n v).seatAt c n = v := by
  simp [State.seatAt, State.setSeatAt, Core.getSeat_setSeat _ _ _ _ h]

theorem State.seatAt_setSeatAt_seat (s : State) (c : CoreId) {n m : Nat} (v : Seat) (h : m ≠ n) :
    (s.setSeatAt c n v).seatAt c m = s.seatAt c m := by
  by_cases b : n < 8
  · simp [State.seatAt, State.setSeatAt, Core.getSeat_setSeat _ _ _ _ b, h]
  · simp [State.seatAt, State.setSeatAt, Core.setSeat_beyond _ _ (Nat.not_lt.1 b)]

theorem State.seatAt_setSeatAt_core (s : State) {c d : CoreId} (n m : Nat) (v : Seat) (h : d ≠ c) :
    (s.setSeatAt c n v).seatAt d m = s.seatAt d m := by
  simp only [State.seatAt, State.setSeatAt, State.getCore_updCore_other _ _ h]

theorem State.seatAt_updSeatAt_same (s : State) (c : CoreId) {n : Nat} (f : Seat → Seat) (h : n < 8) :
    (s.updSeatAt c n f).seatAt c n = f (s.seatAt c n) := s.seatAt_setSeatAt_same c _ h

theorem State.seatAt_updSeatAt_seat (s : State) (c : CoreId) {n m : Nat} (f : Seat → Seat) (h : m ≠ n) :
    (s.updSeatAt c n f).seatAt c m = s.seatAt c m := s.seatAt_setSeatAt_seat c _ h

theorem State.seatAt_updSeatAt_core (s : State) {c d : CoreId} (n m : Nat) (f : Seat → Seat) (h : d ≠ c) :
    (s.updSeatAt c n f).seatAt d m = s.seatAt d m := s.seatAt_setSeatAt_core n m _ h

/-- The running seat is the seat of its number. -/
theorem State.thisSeat_eq (s : State) : s.thisSeat = s.seatAt s.core s.seat.val := by
  simp [State.thisSeat, State.seatAt, State.thisCore, Core.getSeat, Vector.getD]

/-- An update of a core that keeps its seats keeps every seat of the machine. -/
theorem State.seatAt_updCore_seats (s : State) (c : CoreId) (f : Core → Core) (h : (f (s.getCore c)).seats = (s.getCore c).seats)
    (d : CoreId) (m : Nat) : (s.updCore c f).seatAt d m = s.seatAt d m := by
  by_cases e : d = c
  · subst e; simp [State.seatAt, Core.getSeat, h]
  · simp only [State.seatAt, State.getCore_updCore_other _ _ e]

/-! ### Firings -/

theorem Core.addEvent_seats (k : Core) (q : Queued) : (k.addEvent q).seats = k.seats := by
  unfold Core.addEvent; split <;> rfl

theorem Core.count_seats (k : Core) (launch : Option Nat) (n : Nat) : (k.count launch n).seats = k.seats := by
  unfold Core.count; split
  · split <;> rfl
  · rfl

theorem queueTrap_seatAt (s : State) (c : CoreId) (n : Nat) (cause : BitVec 8) (regs : List Word) (d : CoreId) (m : Nat) :
    (queueTrap s c n cause regs).seatAt d m = s.seatAt d m := s.seatAt_updCore_seats _ _ rfl d m

theorem queueEvent_seatAt (s : State) (c : CoreId) (code : BitVec 8) (x17 : Word) (rest : List Word) (d : CoreId) (m : Nat) :
    (queueEvent s c code x17 rest).seatAt d m = s.seatAt d m :=
  s.seatAt_updCore_seats _ _ (Core.addEvent_seats _ _) d m

/-- Where a trap firing stands: last in the queue of the core that takes it (R118, R380). -/
theorem queueTrap_traps (s : State) (c : CoreId) (n : Nat) (cause : BitVec 8) (regs : List Word) :
    ((queueTrap s c n cause regs).getCore (supCore s c)).traps = (s.getCore (supCore s c)).traps ++
      [⟨0xF0 + (cause >>> 4), cause, if supCore s c = c then some n else none, fwdX16 s c (BitVec.ofNat 64 n) :: regs⟩] := by
  simp [queueTrap]

theorem queueEvent_core (s : State) (c : CoreId) (code : BitVec 8) (x17 : Word) (rest : List Word) :
    (queueEvent s c code x17 rest).getCore (supCore s c) = (s.getCore (supCore s c)).addEvent
      ⟨0xF0 + (code >>> 4), code, none, fwdX16 s c 0xFF :: x17 :: code.setWidth 64 :: rest⟩ := by
  simp [queueEvent]

/-- The seats of the core in which a firing ends. -/
theorem endFiring_seats (s : State) (c : CoreId) (n : Nat) : ((endFiring s c n).getCore c).seats = (s.seatAt c n |> fun t =>
    (s.getCore c).setSeat n
      { t with status := .free, firing := none, outs := [], preempt := false, q0 := [], q2 := [], q4 := [], q6 := [],
               beyond := none }).seats := by
  simp [endFiring, Core.setSeat, Core.count_seats, State.seatAt]

/-- The seat of an ended firing is free, with nothing outstanding (R107, R109). -/
theorem endFiring_seatAt (s : State) (c : CoreId) {n : Nat} (h : n < 8) :
    (endFiring s c n).seatAt c n =
      { s.seatAt c n with status := .free, firing := none, outs := [], preempt := false, q0 := [], q2 := [], q4 := [], q6 := [],
                          beyond := none } := by
  rw [State.seatAt, Core.getSeat, endFiring_seats]
  exact (Core.getSeat_setSeat _ _ _ _ h).trans (if_pos rfl)

theorem endFiring_other (s : State) (c : CoreId) {n m : Nat} (h : m ≠ n) : (endFiring s c n).seatAt c m = s.seatAt c m := by
  rw [State.seatAt, Core.getSeat, endFiring_seats]
  by_cases b : n < 8
  · exact (Core.getSeat_setSeat _ _ _ _ b).trans (if_neg h)
  · simp only [Core.setSeat_beyond _ _ (Nat.not_lt.1 b)]; rfl

theorem endFiring_core (s : State) {c d : CoreId} (n m : Nat) (h : d ≠ c) : (endFiring s c n).seatAt d m = s.seatAt d m := by
  simp only [endFiring, State.seatAt, State.getCore_updCore_other _ _ h, State.getCore_forget]

/-! ### Traps (R118, R377) -/

/-- A seat that is TRAPPED already: MORE is set and nothing else changes. -/
theorem trapSeat_again {s : State} {c : CoreId} {n : Nat} (cause : BitVec 8) (val : Word) (pc rpc : Parcel)
    (h : (s.seatAt c n).status = .trapped) :
    trapSeat s c n cause val pc rpc = s.updSeatAt c n fun t => { t with trapCause := t.trapCause ||| 0x100 } := by
  simp [trapSeat, h]

/-- The trapped seat's registers, for a seat below 7. -/
theorem trapSeat_seatAt {s : State} {c : CoreId} {n : Nat} (cause : BitVec 8) (val : Word) (pc rpc : Parcel)
    (h : (s.seatAt c n).status ≠ .trapped) (n7 : n < 7) :
    (trapSeat s c n cause val pc rpc).seatAt c n =
      { s.seatAt c n with status := .trapped, trapPc := pc, trapCause := cause.setWidth 9, trapVal := val, rpc := rpc,
                          preempt := false, beyond := none } := by
  simp only [trapSeat, if_neg h, if_neg (show n ≠ 7 by omega), queueTrap_seatAt]
  exact (s.forget (.seat c n)).seatAt_updSeatAt_same c _ (by omega)

/-- Every other seat of the machine is as before. -/
theorem trapSeat_other {s : State} {c d : CoreId} {n m : Nat} (cause : BitVec 8) (val : Word) (pc rpc : Parcel)
    (n7 : n ≠ 7) (h : d ≠ c ∨ m ≠ n) : (trapSeat s c n cause val pc rpc).seatAt d m = s.seatAt d m := by
  have u (s : State) (f : Seat → Seat) : (s.updSeatAt c n f).seatAt d m = s.seatAt d m := by
    by_cases e : d = c
    · subst e; exact s.seatAt_updSeatAt_seat d f (by simpa using h)
    · exact s.seatAt_updSeatAt_core n m f e
  unfold trapSeat
  simp only [if_neg n7]
  split
  · exact u s _
  · rw [queueTrap_seatAt, u, State.seatAt_forget]

/-! ### Requests that leave a seat (R93, R143, R179, R363) -/

theorem fillTlb_seatAt (s : State) (c : CoreId) (e : Tlb) (d : CoreId) (m : Nat) : (fillTlb s c e).seatAt d m = s.seatAt d m := by
  have h := s.ticked.seatAt_updCore_seats c (fun k => { k with tlb := addTlb 32 (Config.tlbVictim s.tick) k.tlb e }) rfl d m
  unfold fillTlb
  split <;> exact h

theorem noteTlb_seatAt (c : Asker) (l : List Piece) : ∀ (s : State) (d : CoreId) (m : Nat),
    (noteTlb s c l).seatAt d m = s.seatAt d m := by
  induction l with
  | nil => intro s d m; rfl
  | cons p t ih =>
    intro s d m
    rw [noteTlb, List.foldl_cons]
    refine (ih _ d m).trans ?_
    split
    · split
      · split
        · rfl
        · exact fillTlb_seatAt ..
      · rfl
    · rfl

theorem fillTlb_core (s : State) (c : CoreId) (e : Tlb) : (fillTlb s c e).core = s.core ∧ (fillTlb s c e).seat = s.seat ∧
    (fillTlb s c e).reqs = s.reqs ∧ (fillTlb s c e).hbm = s.hbm := by
  unfold fillTlb; split <;> exact ⟨rfl, rfl, rfl, rfl⟩

theorem noteTlb_core (c : Asker) (l : List Piece) : ∀ s : State, (noteTlb s c l).core = s.core ∧
    (noteTlb s c l).seat = s.seat ∧ (noteTlb s c l).reqs = s.reqs ∧ (noteTlb s c l).hbm = s.hbm := by
  induction l with
  | nil => intro s; exact ⟨rfl, rfl, rfl, rfl⟩
  | cons p t ih =>
    intro s
    have step : ∀ s' : State, (s'.core = s.core ∧ s'.seat = s.seat ∧ s'.reqs = s.reqs ∧ s'.hbm = s.hbm) →
        (noteTlb s' c t).core = s.core ∧ (noteTlb s' c t).seat = s.seat ∧ (noteTlb s' c t).reqs = s.reqs ∧
          (noteTlb s' c t).hbm = s.hbm := fun s' h =>
      ⟨(ih s').1.trans h.1, (ih s').2.1.trans h.2.1, (ih s').2.2.1.trans h.2.2.1, (ih s').2.2.2.trans h.2.2.2⟩
    rw [noteTlb, List.foldl_cons]
    apply step
    split
    · split
      · split
        · exact ⟨rfl, rfl, rfl, rfl⟩
        · exact fillTlb_core ..
      · exact ⟨rfl, rfl, rfl, rfl⟩
    · exact ⟨rfl, rfl, rfl, rfl⟩

/-- Numbering changes the counters alone. -/
theorem number_state (c : Nat) (l : List Piece) : ∀ s : State, ∃ q, (number s c l).1 = { s with seqs := q } := by
  induction l with
  | nil => intro s; exact ⟨s.seqs, rfl⟩
  | cons p t ih =>
    intro s
    simp only [number]
    split
    · exact ih s
    · obtain ⟨q, h⟩ := ih { s with seqs := pset s.seqs (c, ‹_›) (pget 0 s.seqs (c, ‹_›) + 1) }
      exact ⟨q, by rw [h]⟩

theorem number_length (c : Nat) (l : List Piece) : ∀ s : State, (number s c l).2.length = l.length := by
  induction l with
  | nil => intro s; rfl
  | cons p t ih => intro s; simp only [number]; split <;> simp [ih]

/-- A copy of a piece is a packet: the net and the counter of numbers change alone. -/
theorem sendPiece_state (s : State) (r : Req) (i : Nat) (p : Piece) :
    ∃ n f, sendPiece s r i p = { s with net := n, fresh := f } := by
  unfold sendPiece
  split
  · exact ⟨s.net, s.fresh, rfl⟩
  · exact ⟨_, _, rfl⟩

theorem sendPieces_state (r : Req) (l : List (Piece × Nat)) : ∀ s : State,
    ∃ n f, l.foldl (fun s (p, i) => if p.st = .waiting then sendPiece s r i p else s) s = { s with net := n, fresh := f } := by
  induction l with
  | nil => intro s; exact ⟨s.net, s.fresh, rfl⟩
  | cons p t ih =>
    intro s
    obtain ⟨p, i⟩ := p
    rw [List.foldl_cons]
    by_cases w : p.st = .waiting
    · obtain ⟨n, f, h⟩ := sendPiece_state s r i p
      simp only [w, ↓reduceIte, h]
      exact ih { s with net := n, fresh := f }
    · simp only [w, ↓reduceIte]
      exact ih s

/-- A request that leaves an interface: counters and packets apart, one request more at the end, which keeps its name. -/
theorem postReq_state (s : State) (r : Req) : ∃ (ps : List Piece) (q : List ((Nat × Nat) × BitVec 16)) (n : List Packet) (f : Nat),
    postReq s r = { s with seqs := q, net := n, fresh := f, reqs := s.reqs ++ [{ r with pieces := ps }] } := by
  obtain ⟨q, hq⟩ := number_state r.who r.pieces s
  obtain ⟨n, f, h⟩ := sendPieces_state { r with pieces := (number s r.who r.pieces).2 } (number s r.who r.pieces).2.zipIdx
    { (number s r.who r.pieces).1 with
      reqs := (number s r.who r.pieces).1.reqs ++ [{ r with pieces := (number s r.who r.pieces).2 }] }
  exact ⟨(number s r.who r.pieces).2, q, n, f, h.trans (by rw [hq])⟩

/-- A unit that awaits a translation changes no seat and no memory; at most one request is added (R179). -/
theorem askWalk_spec (s : State) (u : Asker) (root : Word) (va : Nat) :
    (∀ d m, (askWalk s u root va).seatAt d m = s.seatAt d m) ∧ (askWalk s u root va).cores = s.cores ∧
    (askWalk s u root va).hbm = s.hbm ∧ ∃ l, (askWalk s u root va).reqs = s.reqs ++ l := by
  unfold askWalk
  split
  · exact ⟨fun _ _ => rfl, rfl, rfl, [], (List.append_nil _).symm⟩
  · dsimp only
    split
    · exact ⟨fun _ _ => rfl, rfl, rfl, [], (List.append_nil _).symm⟩
    · obtain ⟨ps, q, n, f, e⟩ := postReq_state _ _
      rw [e]
      exact ⟨fun _ _ => rfl, rfl, rfl, _, rfl⟩

/-- A request that leaves: one request more at the end, no seat changed, memory as before. -/
theorem post_spec (s : State) (id : Nat) (op : ReqOp) (pieces : List Piece) :
    (∀ d m, (post s id op pieces).seatAt d m = s.seatAt d m) ∧ (post s id op pieces).core = s.core ∧
    (post s id op pieces).seat = s.seat ∧ (post s id op pieces).hbm = s.hbm ∧
    ∃ r : Req, (post s id op pieces).reqs = s.reqs ++ [r] ∧ r.id = id ∧ r.core = s.core ∧ r.seat = s.seat.val ∧ r.op = op := by
  obtain ⟨h1, h2, h3, h4⟩ := noteTlb_core s.me pieces s
  obtain ⟨ps, q, n, f, e⟩ := postReq_state (noteTlb s s.me pieces) ⟨id, (noteTlb s s.me pieces).core,
    (noteTlb s s.me pieces).seat.val, (noteTlb s s.me pieces).thisSeat.firingId, (noteTlb s s.me pieces).thisSeat.pc, op,
    pieces, .seat⟩
  rw [post, e]
  exact ⟨fun d m => noteTlb_seatAt s.me pieces s d m, h1, h2, h4, _, congrArg (· ++ _) h3, rfl, h1, by rw [← h2], rfl⟩

theorem thisSeat_post (s : State) (id : Nat) (op : ReqOp) (pieces : List Piece) : (post s id op pieces).thisSeat = s.thisSeat := by
  obtain ⟨h, h1, h2, -, -⟩ := post_spec s id op pieces
  rw [State.thisSeat_eq, State.thisSeat_eq, h, h1, h2]

/-- A load-like request leaves with one more operation outstanding at the running seat (R114). -/
theorem thisSeat_postLoad (s : State) (target : Target) (acq : Bool) (op : ReqOp) (pieces : List Piece) (left : List Nat) :
    (postLoad s target acq op pieces left).thisSeat =
      { s.thisSeat with outs := s.thisSeat.outs ++ [⟨s.fresh, s.thisSeat.pc, target, acq, .plain, .waiting, left, s.thisSeat.rpt⟩] } := by
  rw [postLoad, thisSeat_post, thisSeat_raise]

theorem thisSeat_updThisCore_seats (s : State) (f : Core → Core) (h : (f s.thisCore).seats = s.thisCore.seats) :
    (s.updThisCore f).thisSeat = s.thisSeat := by
  rw [State.thisSeat_eq, State.thisSeat_eq]
  exact s.seatAt_updCore_seats s.core f h s.core s.seat.val

theorem l1Store_seats (k : Core) (p : Piece) : (l1Store k p).seats = k.seats := by unfold l1Store; split <;> rfl

theorem foldl_l1Store_seats (l : List Piece) : ∀ k : Core, (l.foldl l1Store k).seats = k.seats := by
  induction l with
  | nil => intro k; rfl
  | cons p t ih => intro k; rw [List.foldl_cons, ih, l1Store_seats]

/-- A store leaves nothing outstanding at the seat and changes no register of it. -/
theorem thisSeat_postStore (s : State) (pieces : List Piece) : (postStore s pieces).thisSeat = s.thisSeat := by
  rw [postStore, thisSeat_post]
  exact thisSeat_updThisCore_seats s (fun k => pieces.foldl l1Store k) (foldl_l1Store_seats _ _)

end Sys2Proof.Machine
end

