-- ==== Sys2Proof/Laws/Scheduling.lean ====
section
/-! SUPPORT. What starting a firing sets (R111, R120), said once for patterns, spawns, trap and event firings. -/

namespace Sys2Proof.Machine

theorem State.getCore_updSeatAt_same (s : State) (c : CoreId) (n : Nat) (f : Seat → Seat) :
    (s.updSeatAt c n f).getCore c = (s.getCore c).setSeat n (f (s.seatAt c n)) := by
  simp [State.updSeatAt, State.setSeatAt]

theorem State.getCore_updSeatAt_other (s : State) {c d : CoreId} (n : Nat) (f : Seat → Seat) (h : d ≠ c) :
    (s.updSeatAt c n f).getCore d = s.getCore d := State.getCore_updCore_other _ _ h

/-- The registers that an entry list gives (R111). -/
theorem entryRegs_getElem (head args : List Word) (i : Nat) (h : i < 32) : (entryRegs head args)[i] =
    if 1 ≤ i ∧ i ≤ 4 then head.getD (i - 1) 0 else if 16 ≤ i ∧ i ≤ 23 then args.getD (i - 16) 0 else 0 := by
  simp [entryRegs]

theorem startFiring_eq (s : State) (c : CoreId) (n : Nat) (f : Firing) (e : Parcel) (head args : List Word)
    (st : (s.getCore c).starts e.toNat = true) : ∃ g : Seat → Seat, startFiring s c n f (some e) head args = (s.updSeatAt c n g).bump ∧
      ∀ t, (g t).status = .running ∧ (g t).x = entryRegs head args ∧ (g t).p = 0 ∧ (g t).pc = e ∧ (g t).rpt = 0 ∧ (g t).outs = [] ∧
        (g t).firing = some { f with id := s.fresh } ∧ (g t).preempt = false ∧ (g t).slice = (s.getCore c).sliceLen ∧
        (g t).event = t.event := by
  refine ⟨fun t => { t with
    status := .running, x := entryRegs head args, p := 0, pc := e, rpt := 0, outs := [], firing := some { f with id := s.fresh },
    preempt := false, slice := (s.getCore c).sliceLen, q0 := [], q2 := [], q4 := [], q6 := [], payWords := 0, items := 0,
    q5read := 0 }, ?_, fun t => ⟨rfl, rfl, rfl, rfl, rfl, rfl, rfl, rfl, rfl, rfl⟩⟩
  simp [startFiring, st]

/-- The seat of a firing that starts at a parcel of the start map. -/
theorem startFiring_seatAt (s : State) (c : CoreId) {n : Nat} (f : Firing) (e : Parcel) (head args : List Word) (h : n < 8)
    (st : (s.getCore c).starts e.toNat = true) (t : Seat) (ht : (startFiring s c n f (some e) head args).seatAt c n = t) :
    t.status = .running ∧ t.pc = e ∧ t.rpt = 0 ∧ t.p = 0 ∧ t.outs = [] ∧ t.firing = some { f with id := s.fresh } ∧
      t.preempt = false ∧ t.event = (s.seatAt c n).event ∧
      ∀ r : BitVec 5, t.getX r = if r = 0 then 0 else if 1 ≤ r.toNat ∧ r.toNat ≤ 4 then head.getD (r.toNat - 1) 0
        else if 16 ≤ r.toNat ∧ r.toNat ≤ 23 then args.getD (r.toNat - 16) 0 else 0 := by
  obtain ⟨g, e1, e2⟩ := startFiring_eq s c n f e head args st
  have e3 : t = g (s.seatAt c n) := by
    rw [← ht, e1]; exact s.seatAt_updSeatAt_same c g h
  subst e3
  obtain ⟨h1, h2, h3, h4, h5, h6, h7, h8, -, h10⟩ := e2 (s.seatAt c n)
  refine ⟨h1, h4, h5, h3, h6, h7, h8, h10, fun r => ?_⟩
  unfold Seat.getX
  split
  · rfl
  · rw [show (g (s.seatAt c n)).x[r.toNat] = (entryRegs head args)[r.toNat] by rw [h2], entryRegs_getElem]

/-- Every other seat of the machine is as before. -/
theorem startFiring_other (s : State) (c : CoreId) {n m : Nat} {d : CoreId} (f : Firing) (e : Parcel) (head args : List Word)
    (st : (s.getCore c).starts e.toNat = true) (h : d ≠ c ∨ m ≠ n) :
    (startFiring s c n f (some e) head args).seatAt d m = s.seatAt d m := by
  obtain ⟨g, e1, -⟩ := startFiring_eq s c n f e head args st
  rw [e1]
  by_cases q : d = c
  · subst q; exact s.seatAt_updSeatAt_seat d g (by simpa using h)
  · exact s.seatAt_updSeatAt_core n m g q

/-- The core keeps everything but its seats, and the module's memory is as before. -/
theorem startFiring_core (s : State) (c : CoreId) (n : Nat) (f : Firing) (e : Parcel) (head args : List Word)
    (st : (s.getCore c).starts e.toNat = true) :
    ∃ v : Seat, (startFiring s c n f (some e) head args).getCore c = (s.getCore c).setSeat n v ∧
      (startFiring s c n f (some e) head args).hbm = s.hbm := by
  obtain ⟨g, e1, -⟩ := startFiring_eq s c n f e head args st
  exact ⟨g (s.seatAt c n), by rw [e1]; exact s.getCore_updSeatAt_same c n g, by rw [e1]; rfl⟩

end Sys2Proof.Machine
end

