-- ==== Sys2Proof/Laws/Values.lean ====
section
/-! SUPPORT. The results of the integer instructions in other words: bit-vector operations and exact integers. -/

namespace Sys2Proof.Machine

theorem fld_zero {n : Nat} (w : BitVec n) (hi : Nat) : fld w hi 0 = w.toNat % 2 ^ (hi + 1) := by
  simp [fld, BitVec.extractLsb'_toNat]

theorem mul32W_eq (x y : Word) : mul32W x y = ((x.setWidth 32 * y.setWidth 32 : BitVec 32)).signExtend 64 := by
  unfold mul32W sext
  congr 1
  apply BitVec.eq_of_toNat_eq
  simp [fld, BitVec.extractLsb'_toNat, BitVec.toNat_setWidth, BitVec.toNat_mul]

/-- The one quotient that overflows is clamped (R80). -/
theorem clamp64_tdiv {x y : Word} (h : y ≠ 0) :
    clamp64 (x.toInt.tdiv y.toInt) =
      if x = 0x8000000000000000 ∧ y = BitVec.allOnes 64 then 2 ^ 63 - 1 else x.toInt.tdiv y.toInt := by
  have hx1 := BitVec.two_mul_toInt_lt (x := x)
  have hx2 := BitVec.le_two_mul_toInt (x := x)
  have hy0 : y.toInt ≠ 0 := fun e => h (BitVec.eq_of_toInt_eq (by simpa using e))
  have habs : (x.toInt.tdiv y.toInt).natAbs = x.toInt.natAbs / y.toInt.natAbs := Int.natAbs_tdiv _ _
  have hle : x.toInt.natAbs / y.toInt.natAbs ≤ x.toInt.natAbs := Nat.div_le_self _ _
  split
  · rename_i e
    obtain ⟨rfl, rfl⟩ := e
    decide
  · rename_i e
    by_cases hx : x = 0x8000000000000000
    · have hy : y.toInt ≠ -1 := fun q => e ⟨hx, BitVec.eq_of_toInt_eq (by rw [q]; decide)⟩
      have hx' : x.toInt = -2 ^ 63 := by rw [hx]; decide
      unfold clamp64
      by_cases hy1 : y.toInt = 1
      · rw [hx', hy1]; decide
      · have h2 : 2 ≤ y.toInt.natAbs := by omega
        have h3 : x.toInt.natAbs / y.toInt.natAbs ≤ x.toInt.natAbs / 2 := Nat.div_le_div_left h2 (by decide)
        rw [hx'] at h3 habs ⊢
        omega
    · have hx' : x.toInt ≠ -2 ^ 63 := fun q => hx (BitVec.eq_of_toInt_eq (by rw [q]; decide))
      unfold clamp64
      omega

theorem divW_eq (x y : Word) : divW x y = if y = 0 then (if 0 ≤ x.toInt then 0x7FFFFFFFFFFFFFFF else 0x8000000000000000)
    else if x = 0x8000000000000000 ∧ y = BitVec.allOnes 64 then 0x7FFFFFFFFFFFFFFF else BitVec.ofInt 64 (x.toInt.tdiv y.toInt) := by
  unfold divW
  split
  · rfl
  · rename_i h
    rw [clamp64_tdiv h]
    split <;> rfl

theorem divuW_eq (x y : Word) : divuW x y = if y = 0 then BitVec.allOnes 64 else x / y := by
  unfold divuW
  split
  · rfl
  · apply BitVec.eq_of_toNat_eq
    have := Nat.div_le_self x.toNat y.toNat
    have := x.isLt
    rw [BitVec.toNat_ofNat, BitVec.toNat_udiv, Nat.mod_eq_of_lt (by omega)]

theorem remW_eq (x y : Word) : remW x y = if y = 0 then x else BitVec.ofInt 64 (x.toInt.tmod y.toInt) := by
  unfold remW; rw [Int.tmod_def]

theorem remuW_eq (x y : Word) : remuW x y = if y = 0 then x else x % y := by
  unfold remuW
  split
  · rfl
  · apply BitVec.eq_of_toNat_eq
    have h : x.toNat % y.toNat = x.toNat - y.toNat * (x.toNat / y.toNat) := Nat.mod_eq_sub_mul_div
    have := x.isLt
    have := Nat.mod_le x.toNat y.toNat
    rw [BitVec.toNat_ofNat, BitVec.toNat_umod, ← h, Nat.mod_eq_of_lt (by omega)]

theorem foldr_count (f : Nat → Bool) (l : List Nat) : l.foldr (fun i n => (f i).toNat + n) 0 = (l.filter f).length := by
  induction l with
  | nil => rfl
  | cons a t ih =>
    simp only [List.foldr_cons, ih, List.filter_cons]
    cases f a <;> simp [Nat.add_comm]

theorem onesW_eq (x : Word) : onesW x = BitVec.ofNat 64 (((List.range 64).filter fun i => x.getLsbD i).length) := by
  unfold onesW; rw [foldr_count]

theorem extzW_eq (x : Word) : BitVec.ofNat 64 (fld x 31 0) = (x.setWidth 32).setWidth 64 := by
  apply BitVec.eq_of_toNat_eq
  rw [fld_zero]
  simp

theorem fieldWidth_le (b : Word) : fld b 5 0 + fieldWidth b ≤ 64 := by
  have : fld b 5 0 < 64 := (b.extractLsb' 0 6).isLt
  unfold fieldWidth
  simp only []
  omega

theorem fieldWidth_pos (b : Word) : 0 < fieldWidth b := by
  have : fld b 5 0 < 64 := (b.extractLsb' 0 6).isLt
  unfold fieldWidth
  simp only []
  split <;> omega

theorem extractFieldS_eq (x b : Word) : extractFieldS x b = BitVec.ofInt 64
    (((x.toNat / 2 ^ fld b 5 0 % 2 ^ fieldWidth b : Nat) : Int) -
      if x.toNat / 2 ^ fld b 5 0 % 2 ^ fieldWidth b < 2 ^ (fieldWidth b - 1) then 0 else 2 ^ fieldWidth b) := by
  have h := fieldWidth_le b
  have h1 : x.toNat / 2 ^ fld b 5 0 % 2 ^ fieldWidth b < 2 ^ fieldWidth b := Nat.mod_lt _ (Nat.two_pow_pos _)
  have h2 : 2 ^ fieldWidth b ≤ 2 ^ 64 := Nat.pow_le_pow_right (by decide) (by omega)
  unfold extractFieldS extractField sxt
  rw [BitVec.toNat_ofNat, Nat.mod_eq_of_lt (Nat.lt_of_lt_of_le h1 h2), Nat.mod_eq_of_lt h1]
  split <;> simp

/-- `bfi` replaces exactly the bits of its field (R81). -/
theorem insertField_eq (d a b : Word) : insertField d a b = BitVec.ofNat 64
    (d.toNat % 2 ^ fld b 5 0 + a.toNat % 2 ^ fieldWidth b * 2 ^ fld b 5 0 +
      d.toNat / 2 ^ (fld b 5 0 + fieldWidth b) * 2 ^ (fld b 5 0 + fieldWidth b)) := by
  have hw := fieldWidth_le b
  unfold insertField
  generalize fld b 5 0 = p at *
  generalize hW : fieldWidth b = w at *
  have e : d.toNat % 2 ^ p + a.toNat % 2 ^ w * 2 ^ p + d.toNat / 2 ^ (p + w) * 2 ^ (p + w) =
      ((d.toNat / 2 ^ (p + w)) <<< w ||| a.toNat % 2 ^ w) <<< p ||| d.toNat % 2 ^ p := by
    rw [← Nat.shiftLeft_add_eq_or_of_lt (Nat.mod_lt _ (Nat.two_pow_pos w)),
      ← Nat.shiftLeft_add_eq_or_of_lt (Nat.mod_lt _ (Nat.two_pow_pos p)), Nat.shiftLeft_eq, Nat.shiftLeft_eq, Nat.pow_add]
    ring
  rw [e]
  simp only []
  have m (i : Nat) : ((2 ^ w - 1) * 2 ^ p).testBit i = (decide (p ≤ i) && decide (i < p + w)) := by
    rw [← Nat.shiftLeft_eq, Nat.testBit_shiftLeft, Nat.testBit_two_pow_sub_one]
    by_cases h : p ≤ i <;> simp [h]; omega
  apply BitVec.eq_of_getLsbD_eq
  intro i hi
  simp only [BitVec.getLsbD_or, BitVec.getLsbD_and, BitVec.getLsbD_not, BitVec.getLsbD_ofNat, BitVec.getLsbD_shiftLeft, m,
    Nat.testBit_or, Nat.testBit_shiftLeft, Nat.testBit_mod_two_pow, Nat.testBit_div_two_pow, hi, decide_true, Bool.true_and]
  simp only [BitVec.getLsbD]
  by_cases h1 : p ≤ i
  · have k : decide (i < p) = false := decide_eq_false (by omega)
    by_cases h2 : i < p + w
    · have k2 : decide (w ≤ i - p) = false := decide_eq_false (by omega)
      have k3 : decide (i - p < w) = true := decide_eq_true (by omega)
      simp [h1, h2, k, k2, k3]
    · have k2 : decide (w ≤ i - p) = true := decide_eq_true (by omega)
      have k3 : decide (i - p < w) = false := decide_eq_false (by omega)
      simp [h1, h2, k, k2, k3, (by omega : i - p - w + (p + w) = i)]
  · simp [h1, (by omega : i < p)]

end Sys2Proof.Machine
end

