-- ==== Sys2Proof/Tests/Slice0.lean ====
section
/-! SUPPORT. Tests: ill-formed terms that the checks refuse, words of the manual, worked results, and a state for the hypotheses
of every statement. -/

namespace Sys2Proof.Tests
open Sys2Proof Sys2Proof.Machine

-- Many small evaluations, one after another: side by side they would only fill memory.
set_option Elab.async false

/-! ### Small states -/

/-- Registers set in a seat. -/
def setXs (t : Seat) (l : List (BitVec 5 × Word)) : Seat := l.foldl (fun t e => t.setX e.1 e.2) t

/-- A running seat at parcel 16 of a firing without a launch. -/
def seatD : Seat := { status := .running, pc := 16, firing := some ⟨9, 0x20, 0, 0, none⟩ }

/-- Core 1 with one seat given, which runs. -/
def stateD (t : Seat := seatD) (k : Core := {}) (n : Fin 8 := 0) : State :=
  { State.reset with core := 1, seat := n, cores := [(1, { k with seats := k.seats.set n t })] }

/-- Unguarded. -/
def ctlD : Ctl := ⟨false, false, 7⟩

/-- A core whose global page 0 is mapped, readable and writable, at 1 MiB. -/
def pagedD : Core := { ttRoot := 1, tlb := [⟨0, 0, 65536, 0x100000, true, true, false, false⟩] }

theorem ready_plain (u : Uses) : Ready ctlD u stateD := ready_idle (by decide) (by decide) rfl u
theorem ready_half (u : Uses) : Ready (halfCtl false) u stateD := ready_idle (by decide) (by decide) rfl u

/-! ### The checks on operands refuse ill-formed terms (R24, R28, R34, R41 to R46, R60, R130, R135, R196, R258, R324) -/

theorem test_refuses_equal_compare_predicates : (Instr.cmpEq ctlD 3 3 1 2).wellFormed = false ∧ (Instr.cmpEq ctlD 7 7 1 2).wellFormed = true ∧
    (Instr.cmpTst ctlD 0 0 1 2).wellFormed = false ∧ (Instr.cmpGtImm ctlD 1 1 1 2).wellFormed = false := by decide
theorem test_refuses_scalar_float_type_3 : (Instr.fadd ctlD 1 2 3 3).wellFormed = false ∧ (Instr.fsqrt ctlD 1 2 3).wellFormed = false ∧
    (Instr.cmpLtFloat ctlD 1 2 3 4 3).wellFormed = false ∧ (Instr.frint ctlD 1 2 3).wellFormed = false := by decide
theorem test_refuses_vector_element_types : (Instr.vaddInt ctlD 1 2 3 0 3).wellFormed = false ∧ (Instr.vaddFloat ctlD 1 2 3 0 2).wellFormed = false ∧
    (Instr.vfma ctlD 1 2 3 0 6).wellFormed = false ∧ (Instr.vcmpEq ctlD 1 2 3 0 6).wellFormed = false ∧
    (Instr.vcmpLtu ctlD 1 2 3 0 3).wellFormed = false ∧ (Instr.vcmpUn ctlD 1 2 3 0 2).wellFormed = false ∧
    (Instr.vredsum ctlD 1 2 0 6).wellFormed = false ∧ (Instr.vext ctlD 1 2 0 7).wellFormed = false := by decide
theorem test_refuses_register_groups : (Instr.vwiden ctlD 1 2 0 0).wellFormed = false ∧ (Instr.vwiden ctlD 2 2 0 2).wellFormed = false ∧
    (Instr.vwiden4 ctlD 2 1 0 0).wellFormed = false ∧ (Instr.vnarrow ctlD 1 3 0 1).wellFormed = false ∧
    (Instr.vnarrow4 ctlD 1 2 0 2).wellFormed = false ∧ (Instr.vtrW ctlD 4 8 1).wellFormed = false ∧ (Instr.vtrW ctlD 0 8 4).wellFormed = false := by decide
theorem test_refuses_format_tags : (Instr.vcvt ctlD 1 2 0 0 0).wellFormed = false ∧ (Instr.vcvt ctlD 1 2 13 0 0).wellFormed = false ∧
    (Instr.vcvt ctlD 1 2 9 1 0).wellFormed = false ∧ (Instr.vcvt ctlD 1 2 5 0 3).wellFormed = false ∧
    (Instr.vtag ctlD 1 2 13).wellFormed = false ∧ (Instr.vld ctlD 1 2 13 0).wellFormed = false := by decide
theorem test_refuses_queue_directions : (Instr.qw ctlD 1 2).wellFormed = false ∧ (Instr.qr ctlD 1 4).wellFormed = false ∧
    (Instr.hQw false 3 0).wellFormed = false ∧ (Instr.hQr false 0 2).wellFormed = false ∧ (Instr.qwv ctlD 0 1).wellFormed = false ∧
    (Instr.qrv ctlD 0 3).wellFormed = false := by decide
theorem test_refuses_shell_formats : (Instr.shMmaSp ctlD 0 1 2 6).wellFormed = false ∧ (Instr.shMmap ctlD 0 1 2).wellFormed = false ∧
    (Instr.shDrain ctlD 0 1 0).wellFormed = false ∧ (Instr.shDrainz ctlD 0 1 13).wellFormed = false := by decide
theorem test_refuses_unlisted_system_registers : (Instr.srRd ctlD 1 3).wellFormed = false ∧ (Instr.srWr ctlD 1 0x43).wellFormed = false ∧
    (Instr.srRd ctlD 1 0x3B).wellFormed = false := by decide

/-! ### Words of the manual, field by field (R17, R19, R22 and the minor tables) -/

/-- A 32-bit word under guard `0b0111`: LEN, SW, GN, GP, MAJ, OPS. -/
noncomputable def w32 (maj : BitVec 6) (ops : BitVec 20) : Option Instr := decode32 (1#1 ++ 0#1 ++ 0#1 ++ 7#3 ++ maj ++ ops)
theorem test_words_scalar :
    w32 0x00 (7#5 ++ 5#5 ++ 6#5 ++ 0#5) = some (.add ctlD 7 5 6) ∧ w32 0x07 (4#5 ++ 4#5 ++ 2#10) = some (.tag ctlD 4 4 2) ∧
    w32 0x11 (6#3 ++ 0#3 ++ 18#5 ++ 0#6 ++ 0#3) = some (.cmpEqImm ctlD 6 0 18 0) ∧
    w32 0x12 (5#3 ++ 7#3 ++ 12#5 ++ 10#5 ++ 0b0101#4) = some (.cmpLtFloat ctlD 5 7 12 10 1) ∧
    w32 0x13 (4#3 ++ 4#3 ++ 4#3 ++ 0#7 ++ 2#4) = some (.pxor ctlD 4 4 4) ∧ w32 0x14 0xFFFF0 = some (.br ctlD 0xFFFF0) ∧
    w32 0x18 (30#5 ++ 14#5 ++ 15#5 ++ 6#5) = some (.fma ctlD 30 14 15 0) := by decide
theorem test_words_memory :
    w32 0x1C (9#5 ++ 4#5 ++ 2#2 ++ 4#8) = some (.ldW ctlD 9 4 4) ∧ w32 0x1F (24#5 ++ 9#5 ++ 3#2 ++ 0#8) = some (.stf ctlD 24 9 0) ∧
    w32 0x1F (5#5 ++ 4#5 ++ 0#2 ++ 2#8) = some (.ldf ctlD 5 4 2) ∧ w32 0x20 (14#5 ++ 15#5 ++ 3#2 ++ 17#8) = some (.stRelD ctlD 14 15 17) ∧
    w32 0x20 (6#5 ++ 7#5 ++ 0#2 ++ 0#8) = some (.ldAcqW ctlD 6 7 0) := by decide
theorem test_words_vector :
    w32 0x25 (1#4 ++ 2#4 ++ 3#4 ++ 0#2 ++ 5#3 ++ 3#3) = some (.vfma ctlD 1 2 3 0 5) ∧
    w32 0x27 (0#2 ++ 1#2 ++ 4#4 ++ 5#4 ++ 0#2 ++ 3#3 ++ 2#3) = some (.vcmpLt ctlD 1 4 5 0 3) ∧
    w32 0x29 (8#4 ++ 0#4 ++ 7#4 ++ 0#2 ++ 0#2 ++ 0#4) = some (.vcvt ctlD 8 0 7 0 0) ∧
    w32 0x2A (2#4 ++ 4#5 ++ 7#4 ++ 1#2 ++ 4#5) = some (.vgatherW ctlD 2 4 7 1) ∧
    w32 0x2A (0#4 ++ 21#5 ++ 0#4 ++ 0#2 ++ 1#5) = some (.vst ctlD 0 21 0) ∧
    w32 0x2B (12#4 ++ 20#5 ++ 0#5 ++ 5#3 ++ 1#3) = some (.vbcast ctlD 12 20 5) := by decide
theorem test_words_messages :
    w32 0x2C (20#5 ++ 5#5 ++ 0#5 ++ 1#5) = some (.qr ctlD 20 5) ∧ w32 0x2C (0#5 ++ 21#5 ++ 0#5 ++ 0#5) = some (.qw ctlD 0 21) ∧
    w32 0x2D (0#5 ++ 4#5 ++ 7#5 ++ 2#5) = some (.sendc ctlD 4 7) ∧ w32 0x2D (3#5 ++ 8#5 ++ 9#5 ++ 4#5) = some (.spawn ctlD 3 8 9) ∧
    w32 0x2E (10#5 ++ 11#5 ++ 0#5 ++ 6#5) = some (.ringWait ctlD 10 11) ∧ w32 0x2F (0#5 ++ 6#5 ++ 0#5 ++ 4#5) = some (.gbar ctlD 6) ∧
    w32 0x2F (14#5 ++ 0#5 ++ 0#5 ++ 6#5) = some (.myrank ctlD 14) := by decide
theorem test_words_shell_haul :
    w32 0x30 (2#3 ++ 5#5 ++ 6#5 ++ 1#2 ++ 0b01010#5) = some (.shMmaWs ctlD 2 5 6 5) ∧
    w32 0x30 (0#3 ++ 8#5 ++ 0#5 ++ 2#2 ++ 0b01111#5) = some (.shMmap ctlD 0 8 7) ∧
    w32 0x31 (2#3 ++ 9#5 ++ 0#5 ++ 0#2 ++ 0b01100#5) = some (.shDrain ctlD 2 9 6) ∧ w32 0x32 (2#3 ++ 0#12 ++ 4#5) = some (.shWait ctlD 2) ∧
    w32 0x33 (0#3 ++ 10#5 ++ 11#5 ++ 0#7) = some (.shRcmd ctlD 10 11) ∧ w32 0x34 (5#5 ++ 6#5 ++ 0#5 ++ 1#5) = some (.hlWp ctlD 5 6) ∧
    w32 0x36 (3#5 ++ 6#5 ++ 0#5 ++ 8#5) = some (.rtRes ctlD 3 6) := by decide
theorem test_words_system :
    w32 0x38 (5#5 ++ 0#5 ++ 0x009#10) = some (.srRd ctlD 5 9) ∧ w32 0x39 (0#5 ++ 7#5 ++ 0x031#10) = some (.srWr ctlD 7 0x31) ∧
    w32 0x3A (3#5 ++ 9#5 ++ 3#10) = some (.capWr ctlD 3 9) ∧ w32 0x3B (5#5 ++ 6#5 ++ 0#10) = some (.bustRd ctlD 5 6) ∧
    w32 0x3C (7#10 ++ 0b0100#4 ++ 0#6) = some (.rpt 7 false true false false) := by decide
theorem test_words_half :
    decode16 (0#1 ++ 1#1 ++ 0x02#5 ++ 1#3 ++ 0b111101#6) = some (.hAddi true 1 0b111101) ∧
    decode16 (0#1 ++ 0#1 ++ 0x14#5 ++ 1#3 ++ 1#3 ++ 0#3) = some (.hQr false 1 1) ∧
    decode16 (0#1 ++ 0#1 ++ 0x11#5 ++ 3#3 ++ 0b100000#6) = some (.hBp false 3 0b100000) ∧
    decode16 (0#1 ++ 0#1 ++ 0x14#5 ++ 1#3 ++ 4#3 ++ 0#3) = none ∧ decode16 0 = none := by decide

/-! ### Results of the manual (R80, R81, R83, R86) -/

def gotX (i : Instr) (l : List (BitVec 5 × Word)) (d : BitVec 5) : Word :=
  match exec i (stateD (setXs seatD l)) with
  | .next t => t.thisSeat.getX d
  | _ => 0
theorem test_div_truncates : gotX (.div ctlD 3 1 2) [(1, 0xFFFFFFFFFFFFFFF9), (2, 2)] 3 = 0xFFFFFFFFFFFFFFFD ∧
    gotX (.rem ctlD 3 1 2) [(1, 0xFFFFFFFFFFFFFFF9), (2, 2)] 3 = 0xFFFFFFFFFFFFFFFF := by decide +kernel
theorem test_div_saturates : gotX (.div ctlD 3 1 2) [(1, 5)] 3 = 0x7FFFFFFFFFFFFFFF ∧ gotX (.div ctlD 3 1 2) [(1, 0xFFFFFFFFFFFFFFF9)] 3 = 0x8000000000000000 ∧
    gotX (.div ctlD 3 1 2) [(1, 0x8000000000000000), (2, 0xFFFFFFFFFFFFFFFF)] 3 = 0x7FFFFFFFFFFFFFFF ∧
    gotX (.divu ctlD 3 1 2) [(1, 100)] 3 = 0xFFFFFFFFFFFFFFFF ∧ gotX (.rem ctlD 3 1 2) [(1, 0x8000000000000000), (2, 0xFFFFFFFFFFFFFFFF)] 3 = 0 ∧
    gotX (.mulhiu ctlD 3 1 2) [(1, 0xFFFFFFFFFFFFFFFF), (2, 2)] 3 = 1 := by decide +kernel
theorem test_bit_fields : gotX (.bfx ctlD 8 6 7) [(6, 0xDEADBEEF), (7, 0x0C04)] 8 = 0xBEE ∧
    gotX (.bfxs ctlD 8 6 7) [(6, 0xDEADBEEF), (7, 0x0C04)] 8 = 0xFFFFFFFFFFFFFBEE ∧
    gotX (.bfi ctlD 8 9 7) [(9, 0x123), (7, 0x0C04)] 8 = 0x1230 := by decide +kernel
theorem test_immediates : gotX (.li ctlD 4 96) [] 4 = 96 ∧ gotX (.lis ctlD 4 64) [(4, 96)] 4 = 0x300040 ∧
    gotX (.tag ctlD 4 4 2) [(4, 0x300040)] 4 = 0x0200000000300040 := by decide +kernel


/-! ### Hypotheses of the statements on scalar and vector instructions -/

theorem witness_IntegerRegisterResults : Ready ctlD { rx := [1, 2], wx := [3] } stateD := ready_plain _
theorem witness_MultiplyDivideCountResults :
    Ready ctlD { rx := [1, 2], wx := [0] } stateD ∧ Ready ctlD { rx := [1], wx := [31] } stateD := ⟨ready_plain _, ready_plain _⟩
theorem witness_ImmediateAndFieldResults :
    Ready ctlD { rx := [1], wx := [2] } stateD ∧ Ready ctlD { wx := [2] } stateD ∧ Ready ctlD { rx := [2], wx := [2] } stateD ∧
      Ready ctlD { rx := [1, 2], wx := [3] } stateD ∧ Ready ctlD { rx := [1, 2, 3], wx := [3] } stateD :=
  ⟨ready_plain _, ready_plain _, ready_plain _, ready_plain _, ready_plain _⟩
theorem witness_HalfWordForms :
    Ready (halfCtl false) { wx := [hx 0] } stateD ∧ Ready (halfCtl false) { rx := [hx 0], wx := [hx 0] } stateD ∧
      Ready (halfCtl false) { rx := [hx 1], wx := [hx 0] } stateD ∧
      Ready (halfCtl false) { rx := [hx 1, hx 7], wx := [hx 0] } stateD ∧ Ready (halfCtl false) {} stateD :=
  ⟨ready_half _, ready_half _, ready_half _, ready_half _, ready_half _⟩
theorem witness_CompareResults :
    Ready ctlD { rx := [1, 2], wp := [1, 2] } stateD ∧ Ready ctlD { rx := [1], wp := [7, 7] } stateD := ⟨ready_plain _, ready_plain _⟩
theorem witness_PredicateResults :
    Ready ctlD { rp := [1, 2], wp := [3] } stateD ∧ Ready ctlD { rp := [1, 1], wp := [3] } stateD ∧
      Ready ctlD { rp := [0, 1, 2, 3, 4, 5, 6], wx := [5] } stateD ∧ Ready ctlD { rx := [5], wp := [0, 1, 2, 3, 4, 5, 6] } stateD :=
  ⟨ready_plain _, ready_plain _, ready_plain _, ready_plain _⟩

/-- Branch targets at the first and the last parcel and just outside. -/
def stateB (pc : Parcel) (x1 x2 : Word) : State :=
  stateD { setXs seatD [(1, x1), (2, x2)] with pc := pc } { start := [0, 0xFFFF] }
theorem witness_BranchResults :
    (∀ u, Ready ctlD u (stateB 8 0 1)) ∧ (∀ u, Ready (halfCtl false) u (stateB 8 0 1)) ∧
      (8 + (-8 : BitVec 20).toInt = 0 ∧ (stateB 8 0 1).thisCore.starts 0 = true) ∧ (8 + (-9 : BitVec 20).toInt = -1) ∧
      (8 + (-8 : BitVec 9).toInt = 0) ∧ (8 + (-8 : BitVec 6).toInt = 0) ∧ (stateB 8 0 1).thisCore.starts 7 = false ∧
      ((stateB 8 0 1).thisSeat.getX 1).toNat = 0 ∧ ((stateB 8 0 1).thisSeat.getX 2).toNat = 1 ∧
      (stateB 8 0 1).thisCore.starts 1 = false ∧ (stateB 8 0xFFFF 0x10000).thisCore.starts 0xFFFF = true :=
  ⟨fun u => ready_idle (by decide) (by decide) rfl u, fun u => ready_idle (by decide) (by decide) rfl u, by decide⟩

/-- A seat with one operation outstanding. -/
def seatO : Seat := { seatD with outs := [⟨1, 8, .none, false, .send, .waiting, [0], 0⟩] }
theorem witness_FiringEndAndPlainResults :
    (Ready ctlD {} (stateD seatO) ∧ Ready (halfCtl false) {} (stateD seatO) ∧ (stateD seatO).thisSeat.outs ≠ [] ∧
      (stateD seatO).thisSeat.q0 = [] ∧ (stateD seatO).thisSeat.q2 = [] ∧ (stateD seatO).thisSeat.q4 = [] ∧ (stateD seatO).thisSeat.q6 = []) ∧
    (Ready ctlD {} stateD ∧ Ready (halfCtl false) {} stateD ∧ stateD.thisSeat.outs = [] ∧ stateD.thisSeat.q0 = [] ∧ stateD.thisSeat.q2 = [] ∧
      stateD.thisSeat.q4 = [] ∧ stateD.thisSeat.q6 = []) ∧ Ready ctlD { rx := [1] } stateD :=
  ⟨by decide, by decide, ready_plain _⟩
theorem witness_FloatResults :
    Ready ctlD { rx := [1, 2], wx := [3] } stateD ∧ Ready ctlD { rx := [1, 2, 3], wx := [3] } stateD ∧ Ready ctlD { rx := [1], wx := [3] } stateD :=
  ⟨ready_plain _, ready_plain _, ready_plain _⟩
theorem witness_ScalarConversionResults : Ready ctlD { rx := [1], wx := [3] } stateD := ready_plain _

/-- Vector registers of i16 for type 1, and of f16 for type 3. -/
def seatV (tag : BitVec 4) : Seat := (List.range 16).foldl (fun t i => t.setV (BitVec.ofNat 4 i) { tag := tag }) seatD
theorem ready_v (tag : BitVec 4) (h : (stateD (seatV tag)).thisSeat.outs = [] ∧ guardTrue ctlD (stateD (seatV tag)).thisSeat = true)
    (u : Uses) : Ready ctlD u (stateD (seatV tag)) := ready_idle h.1 h.2 rfl u
theorem witness_VectorLaneResults :
    (misread (stateD (seatV 2)).thisSeat 2 [1, 2] = some 1 ∧ misread (stateD (seatV 2)).thisSeat 2 [1, 2, 3] = some 1 ∧
      misread (stateD (seatV 2)).thisSeat 2 [1] = some 1 ∧ ∀ u, Ready ctlD u (stateD (seatV 2))) ∧
    (Ready ctlD { rv := [1, 2], wv := [3] } (stateD (seatV 2)) ∧ tagFaults (stateD (seatV 2)).thisSeat 1 [1, 2] = none) ∧
    (Ready ctlD { rv := [1, 2, 3], wv := [3] } (stateD (seatV 4)) ∧ tagFaults (stateD (seatV 4)).thisSeat 3 [1, 2, 3] = none) ∧
    (Ready ctlD { rv := [1], wv := [3] } (stateD (seatV 4)) ∧ tagFaults (stateD (seatV 4)).thisSeat 3 [1] = none) :=
  ⟨⟨by decide, by decide, by decide, fun u => ready_v 2 (by decide) u⟩, ⟨ready_v 2 (by decide) _, by decide⟩, ⟨ready_v 4 (by decide) _, by decide⟩, ⟨ready_v 4 (by decide) _, by decide⟩⟩
theorem witness_VectorLogicCompareMaskResults :
    Ready ctlD { rv := [1, 2], wv := [3] } stateD ∧
    (Ready ctlD { rv := [1, 2] } (stateD (seatV 2)) ∧ tagFaults (stateD (seatV 2)).thisSeat 1 [1, 2] = none) ∧ Ready ctlD {} stateD ∧
    Ready ctlD { rv := [1], wv := [3] } stateD ∧ Ready ctlD { rx := [1], wv := [3] } stateD ∧
    (Ready ctlD { rv := [3], wx := [1] } (stateD (seatV 2)) ∧ tagFaults (stateD (seatV 2)).thisSeat 1 [3] = none) ∧
    (Ready ctlD { rx := [1], rv := [3], wv := [3] } (stateD (seatV 2)) ∧ tagFaults (stateD (seatV 2)).thisSeat 1 [3] = none) ∧
    (misread (stateD (seatV 2)).thisSeat 3 [1, 2] = some 1 ∧ misread (stateD (seatV 2)).thisSeat 3 [3] = some 3) :=
  ⟨ready_plain _, ⟨ready_v 2 (by decide) _, by decide⟩, ready_plain _, ready_plain _, ready_plain _, ⟨ready_v 2 (by decide) _, by decide⟩,
    ⟨ready_v 2 (by decide) _, by decide⟩, by decide⟩
theorem witness_VectorReduceConvertResults :
    (∀ u, Ready ctlD u (stateD (seatV 2))) ∧ tagFaults (stateD (seatV 2)).thisSeat 1 [1] = none ∧
    tagFaults (stateD (seatV 2)).thisSeat 1 [1, 2] = none ∧ tagFaults (stateD (seatV 2)).thisSeat 1 (group 15 2) = none ∧
    (∀ u, Ready ctlD u (stateD (seatV 3))) ∧ tagFaults (stateD (seatV 3)).thisSeat 2 (group 4 4) = none ∧
    (∀ u, Ready ctlD u (stateD (seatV 1))) ∧ tagFaults (stateD (seatV 1)).thisSeat 0 [1] = none ∧
    (∀ u, Ready ctlD u (stateD (seatV 4))) ∧ cvtFault (stateD (seatV 4)).thisSeat 4 0 6 = none ∧
    (let t := (stateD (seatV 4)).thisSeat
     misread t 1 [1] = some 1 ∧ misread t 1 [1, 2] = some 1 ∧ misread t 1 (group 15 2) = some 15 ∧ misread t 2 (group 4 4) = some 4 ∧
      (t.getV 1).tag = 4 ∧ (1 : BitVec 4).toNat % cvtWrites 4 6 ≠ 0 ∧ (0 : BitVec 4).toNat % cvtReads 4 6 = 0) ∧
    ((stateD seatD).thisSeat.getV 1).tag = 0 ∧
    (let t := (seatV 6).setV 3 { tag := 5 }
     cvtReads 6 1 = 4 ∧ (1 : BitVec 4).toNat % 4 ≠ 0 ∧ (group 0 4).find? (fun v => (t.getV v).tag != 6) = some 3) :=
  ⟨fun u => ready_v 2 (by decide) u, by decide, by decide, by decide, fun u => ready_v 3 (by decide) u, by decide,
    fun u => ready_v 1 (by decide) u, by decide, fun u => ready_v 4 (by decide) u, by decide, by decide, by decide, by decide⟩


/-! ### Hypotheses of the statements on memory, messages and queues -/

theorem ready_of {s : State} (h : s.thisSeat.outs = [] ∧ guardTrue ctlD s.thisSeat = true) (q : s.reqs = []) (u : Uses) : Ready ctlD u s :=
  ready_idle h.1 h.2 q u
theorem half_of {s : State} (h : s.thisSeat.outs = [] ∧ guardTrue (halfCtl false) s.thisSeat = true) (q : s.reqs = []) (u : Uses) :
    Ready (halfCtl false) u s := ready_idle h.1 h.2 q u

/-- Words held in the queues of a seat. -/
def stateHeld (q0 q2 q4 q6 : List Word) : State := stateD { seatD with q0 := q0, q2 := q2, q4 := q4, q6 := q6 }
theorem witness_FiringEndAndPlainResults_held :
    (∀ q0 q2 q4 q6, Ready ctlD {} (stateHeld q0 q2 q4 q6) ∧ Ready (halfCtl false) {} (stateHeld q0 q2 q4 q6)) ∧
    (stateHeld [] [] [0] []).thisSeat.q4 ≠ [] ∧ ((stateHeld [0] [0] [] [0]).thisSeat.q4 = [] ∧ (stateHeld [0] [0] [] [0]).thisSeat.q0 ≠ []) ∧
    ((stateHeld [] [0] [] [0]).thisSeat.q0 = [] ∧ (stateHeld [] [0] [] [0]).thisSeat.q2 ≠ []) ∧
    ((stateHeld [] [] [] [0]).thisSeat.q2 = [] ∧ (stateHeld [] [] [] [0]).thisSeat.q6 ≠ []) :=
  ⟨fun _ _ _ _ => ⟨ready_of ⟨rfl, rfl⟩ rfl _, half_of ⟨rfl, rfl⟩ rfl _⟩, by decide⟩

/-- x4 and x12 name the last double of the scratchpad, x5 a double of global page 0, x6 a page, x7 and x9 four bytes. -/
def stateM : State :=
  stateD (setXs seatD [(4, 0x01000000000FFFF8), (12, 0x01000000000FFFF8), (5, 0xFFF8), (6, 0x10000), (7, 4), (8, 0x01000000000FFFFC)]) pagedD
theorem witness_LoadsIssue :
    (∀ u, Ready ctlD u stateM) ∧ (∀ u, Ready (halfCtl false) u stateM) ∧ Room stateM ∧ (∀ p, sameWord stateM p = false) ∧
    (checkScalar stateM stateM.me .read (effAddr stateM 4 7 1) 1 = none ∧ checkScalar stateM stateM.me .read (effAddr stateM 4 3 2) 2 = none ∧
      checkScalar stateM stateM.me .read (effAddr stateM 4 1 4) 4 = none ∧ checkScalar stateM stateM.me .read (effAddr stateM 4 0 8) 8 = none) ∧
    (checkScalar stateM stateM.me .read (effAddr stateM (hx 4) 1 4) 4 = none ∧ checkScalar stateM stateM.me .read (effAddr stateM (hx 4) 0 8) 8 = none) ∧
    checkScalar stateM stateM.me .read (effAddr stateM 5 0 8) 8 = none :=
  ⟨fun u => ready_of (by decide) rfl u, fun u => half_of (by decide) rfl u, by decide, fun p => sameWord_none rfl p, by decide⟩
theorem witness_StoresIssue :
    (∀ u, Ready ctlD u stateM) ∧ (∀ u, Ready (halfCtl false) u stateM) ∧ Room stateM ∧ (∀ p, sameWord stateM p = false) ∧
    (checkScalar stateM stateM.me .write (effAddr stateM 4 7 1) 1 = none ∧ checkScalar stateM stateM.me .write (effAddr stateM 4 3 2) 2 = none ∧
      checkScalar stateM stateM.me .write (effAddr stateM 4 1 4) 4 = none ∧ checkScalar stateM stateM.me .write (effAddr stateM 4 0 8) 8 = none) ∧
    (checkScalar stateM stateM.me .write (effAddr stateM (hx 4) 1 4) 4 = none ∧ checkScalar stateM stateM.me .write (effAddr stateM (hx 4) 0 8) 8 = none) ∧
    checkScalar stateM stateM.me .write (effAddr stateM 5 0 8) 8 = none :=
  ⟨fun u => ready_of (by decide) rfl u, fun u => half_of (by decide) rfl u, by decide, fun p => sameWord_none rfl p, by decide⟩
theorem witness_SyncAndAtomicsIssue :
    (∀ u, Ready ctlD u stateM) ∧ Room stateM ∧ (∀ p, sameWord stateM p = false) ∧ checkSync stateM 1 (effAddr stateM 4 1 4) = none ∧
      checkAtomic stateM stateM.me (stateM.thisSeat.getX 5) 8 8 = none ∧ checkAtomic stateM stateM.me (stateM.thisSeat.getX 5) 4 4 = none :=
  ⟨fun u => ready_of (by decide) rfl u, by decide, fun p => sameWord_none rfl p, by decide⟩
theorem witness_FenceSealRangeResults :
    (∀ u, Ready ctlD u stateM) ∧ Room stateM ∧ seatReqs stateM stateM.core stateM.seat.val = [] ∧
      checkSeal (stateM.thisSeat.getX 0) (stateM.thisSeat.getX 6) = none ∧
      (sealPages true 0 65536 1 0 (acquireInv stateM 1) []).2.2 = none ∧ (sealPages false 0 65536 1 0 (acquireInv stateM 1) []).2.2 = none ∧
      sameWord stateM (rangePieces stateM (stateM.thisSeat.getX 8) 4) = false ∧
      checkRange stateM 1 (stateM.thisSeat.getX 8) (stateM.thisSeat.getX 0) = none ∧ stateM.thisSeat.getX 0 = 0 ∧
      checkRange stateM 1 (stateM.thisSeat.getX 8) (stateM.thisSeat.getX 7) = none ∧ stateM.thisSeat.getX 7 ≠ 0 :=
  ⟨fun u => ready_of (by decide) rfl u, by decide, by decide, by decide, by decide, by decide, by decide⟩

/-- x1 names the last 512 bytes of the scratchpad, x2 its last sidecar, x3 a line; k1 holds lane 1; v1 indices 4. -/
def stateW : State :=
  stateD ((setXs (seatV 3) [(1, 0x01000000000FFE00), (2, 0x01000000000FFFE0), (3, 0x0100000000000100)]).setK 1 2) pagedD
theorem witness_VectorMemoryIssue :
    (∀ u, Ready ctlD u stateW) ∧ Room stateW ∧ (∀ p, sameWord stateW p = false) ∧ (activeBits 32 (stateW.thisSeat.getK 2)).toNat = 0 ∧
      (activeBits 32 (stateW.thisSeat.getK 1)).toNat ≠ 0 ∧
      checkVec stateW .read (vecBase stateW 1 512) 4 512 (activeBits 32 (stateW.thisSeat.getK 1)).toNat = none ∧
      checkVec stateW .write (vecBase stateW 1 512) 4 512 (activeBits 32 (stateW.thisSeat.getK 1)).toNat = none ∧
      checkVec stateW .read (vecBase stateW 2 32) 32 32 (2 ^ 256 - 1) = none ∧
      checkVec stateW .write (vecBase stateW 2 32) 32 32 (2 ^ 256 - 1) = none ∧
      indexFault stateW.thisSeat 1 4 = none ∧ (∀ l ∈ laneAddrs stateW.thisSeat 3 1 1 4, checkScalar stateW stateW.me .read l.2 4 = none) ∧
      (∀ l ∈ laneAddrs stateW.thisSeat 3 1 1 4, checkScalar stateW stateW.me .write l.2 4 = none) :=
  ⟨fun u => ready_of (by decide +kernel) rfl u, by decide +kernel, fun p => sameWord_none rfl p, by decide +kernel⟩
/-- The same with index registers of i16. -/
def stateW16 : State := stateD ((setXs (seatV 2) [(3, 0x0100000000000100)]).setK 1 2) pagedD
theorem witness_VectorMemoryIssue_half :
    (∀ u, Ready ctlD u stateW16) ∧ indexFault stateW16.thisSeat 1 2 = none ∧
      (∀ l ∈ laneAddrs stateW16.thisSeat 3 1 1 2, checkScalar stateW16 stateW16.me .read l.2 2 = none ∧ checkScalar stateW16 stateW16.me .write l.2 2 = none) ∧
    (stateW16.thisSeat.getV 1).tag ≠ 0 ∧ (stateW16.thisSeat.getV 1).tag ≠ 3 ∧ (stateW.thisSeat.getV 1).tag ≠ 2 :=
  ⟨fun u => ready_of (by decide +kernel) rfl u, by decide +kernel, by decide +kernel, by decide +kernel⟩

/-- Rank 5 lies on core 2; cores 1 and 2 form group 1; x1 is a header to rank 5, x2 a payload, x3 a header to group 1, x4 a rank. -/
def stateS : State :=
  { stateD (setXs seatD [(1, 0x0005000000000000), (2, 0x0100000000000100), (3, 0x0001000000000000), (4, 5), (12, 0x0005000000000000),
        (13, 3 * 2 ^ 18), (14, 2 * 2 ^ 18), (15, 0x0100000000000000), (16, 4 * 2 ^ 16), (17, 7 * 2 ^ 16), (18, 1 * 2 ^ 20)])
      { rank := 7 } with
    ranks := [(5, 0x8000000000020000), (7, 0x8000000000010000), (8, 0xA000000000020000), (9, 0x8000000001020000)], groups := [⟨1, 1, [(7, 1), (5, 2)], [], [], [], 0⟩] }
theorem witness_SendsIssue :
    (∀ u, Ready ctlD u stateS) ∧ Room stateS ∧ (∀ p, sameWord stateS p = false) ∧
    payloadFault stateS (stateS.thisSeat.getX 2) 8 = none ∧ hWords (stateS.thisSeat.getX 1) = 1 ∧
    (∀ w, sendFault stateS w (stateS.thisSeat.getX 1) = none) ∧ sendWaits stateS (stateS.thisSeat.getX 1) = false ∧
    (∀ w, headerFault stateS w (stateS.thisSeat.getX 3) = none) ∧ fld (stateS.thisSeat.getX 3) 63 56 = 0 ∧
    (∃ g, activeGroup stateS 1 (fld (stateS.thisSeat.getX 3) 55 48) = some g ∧
      (∀ m ∈ g.active, destFault stateS m.1 = none) ∧
      holdFull stateS 1 (g.active.filter fun m => resolve stateS 1 m.1 = .hold).length = false) ∧
    (hRb (stateS.thisSeat.getX 3) && unreleased stateS 1 0) = false ∧ (stateS.thisSeat.getX 1).getLsbD 17 = false ∧
    destFault stateS 5 = none ∧ fld (stateS.thisSeat.getX 4) 63 16 = 0 ∧ fld (stateS.thisSeat.getX 0) 63 19 = 0 ∧
    fld (stateS.thisSeat.getX 0) 18 16 < 4 ∧ eModule (rankEntry stateS 5) = ownModule stateS ∧ unreleased stateS 1 0 = false ∧
    holdFull stateS 1 0 = false :=
  ⟨fun u => ready_of (by decide) rfl u, by decide, fun p => sameWord_none rfl p, by decide, by decide, fun _ => rfl, by decide,
    fun _ => rfl, by decide, ⟨⟨1, 1, [(7, 1), (5, 2)], [], [], [], 0⟩, by decide +kernel⟩, by decide +kernel⟩

theorem witness_SendsIssue_traps :
    (hTc (stateS.thisSeat.getX 13) = 3 ∧ hTc (stateS.thisSeat.getX 14) = 2 ∧ stateS.seat ≠ 7) ∧
    (eValid (rankEntry stateS 6) = false ∧ eValid (rankEntry stateS 8) = true ∧ eDead (rankEntry stateS 8) = true) ∧
    ((stateS.thisSeat.getX 4).toNat % 8 ≠ 0 ∧ fld (stateS.thisSeat.getX 15) 63 56 ≠ 0 ∧ fld (stateS.thisSeat.getX 1) 63 56 = 0 ∧
      activeGroup stateS 1 (fld (stateS.thisSeat.getX 1) 55 48) = none ∧
      hWords (stateS.thisSeat.getX 18) ≠ 1 ∧ headerFault stateS 0 (stateS.thisSeat.getX 18) = none) ∧
    (fld (stateS.thisSeat.getX 16) 18 16 = 4 ∧ fld (stateS.thisSeat.getX 17) 18 16 = 7 ∧ fld (stateS.thisSeat.getX 17) 63 19 = 0 ∧
      destFault stateS 9 = none ∧ eModule (rankEntry stateS 9) ≠ ownModule stateS) := by
  decide +kernel

/-- x1 a header to rank 5, x3 a contribution to group 1; q0 holds three words of a ZERO; the core-wide queues hold words. -/
def stateQ (q0 q4 q6 : List Word) : State :=
  { stateD { setXs seatD [(1, 0x0005000000000000), (3, 1 * 2 ^ 32), (12, 0x0005000000000000)] with
        q0 := q0, q4 := q4, q6 := q6, payWords := 72 }
      { rank := 7, trees := [(0, 2 ^ 63)], q1 := [⟨List.replicate 64 5, 6, 0, true, 1⟩], q3 := List.replicate 64 9,
        q7 := [⟨List.replicate 64 7, 6, 3, true, 0⟩] } with
    ranks := [(5, 0x8000000000020000), (7, 0x8000000000010000)], groups := [⟨0, 1, [(7, 1), (5, 2)], [], [], [], 0⟩] }
theorem ready_q (q0 q4 q6 : List Word) (u : Uses) : Ready ctlD u (stateQ q0 q4 q6) :=
  ready_of ⟨rfl, rfl⟩ rfl u
theorem witness_QueueResults :
    (∀ q0 q4 q6 u, Ready ctlD u (stateQ q0 q4 q6)) ∧ (stateQ [] [] []).thisSeat.q0.length < 3 ∧
    (let s := stateQ [cmdWord 2 0 7 0 false false, 0, 0] [] []
     s.thisSeat.q0.length = 3 ∧ badField s s.me (s.thisSeat.q0 ++ [0]) = none ∧ ¬ 3 ≤ cOp (s.thisSeat.q0.headD 0) ∧
      kindFault s.thisCore.shell (s.thisSeat.q0.headD 0) = none ∧ q0Open s.thisCore.shell = true ∧
      drainWalk s s.me (s.thisSeat.q0 ++ [2 ^ 40]) = none ∧ badField s s.me (s.thisSeat.q0 ++ [2 ^ 40]) = some 5) ∧
    (let s := stateQ [] [] []
     s.thisSeat.q2.length < 8 ∧ s.thisSeat.q4 = [] ∧ sendFault s 0 (s.thisSeat.getX 1) = none ∧ s.thisSeat.q6 = [] ∧
      fld (s.thisSeat.getX 3) 63 39 = 0 ∧ fld (s.thisSeat.getX 3) 35 34 = 0 ∧ dDeliver (s.thisSeat.getX 3) ≠ 3 ∧ dFn (s.thisSeat.getX 3) < 5 ∧
      8 + s.thisSeat.q5read + 64 ≤ s.thisSeat.payWords) ∧
    (let s := stateQ [] [0x0005000000000000 + 63 * 2 ^ 20] []
     hWords (s.thisSeat.q4.headD 0) = 64 ∧ sendFault s 0 (s.thisSeat.q4.headD 0) = none ∧ sendWaits s (s.thisSeat.q4.headD 0) = false) ∧
    (let s := stateQ [] [] [0]
     groupFault s 0 0 = none ∧ q6Room s.thisCore = true ∧ (popCore s 1 1).isSome = true ∧ (popCore s 3 1).isSome = true ∧
      (popCore s 7 1).isSome = true ∧ (popCore s 1 64).isSome = true ∧ (popCore s 3 64).isSome = true ∧ (popCore s 7 64).isSome = true) ∧
    (∀ u, Ready (halfCtl false) u (stateQ [] [] [])) ∧ sendFault (stateQ [] [] []) 0 ((stateQ [] [] []).thisSeat.getX (hx 4)) = none ∧
    (let s := stateQ [] [5 * 2 ^ 48] [1, 0]
     0 + 1 = hWords (s.thisSeat.q4.headD 0) ∧ sendWaits s (s.thisSeat.q4.headD 0) = false ∧ 1 + 1 < 64) := by
  refine ⟨fun q0 q4 q6 u => ready_q q0 q4 q6 u, ?_, ?_, ?_, ?_, ?_, fun u => half_of ⟨rfl, rfl⟩ rfl u, ?_, ?_⟩ <;> decide +kernel

/-- The same seat with other words, its core-wide queues empty and two contributions in q6: x4 has class 3, x5 is no descriptor; q0 is shut to
new commands, tile 7 is of integers, the tree of group 1 alone is there, and the hold buffer is full. -/
def stateQ2 (q0 q2 q4 q6 : List Word) : State :=
  { stateD { setXs seatD [(4, 3 * 2 ^ 18), (5, 2 ^ 39), (12, 3 * 2 ^ 18)] with q0 := q0, q2 := q2, q4 := q4, q6 := q6, payWords := 8 }
      { trees := [(1, 2 ^ 63)], q6 := [⟨2, 1, 0, 0, 9, 16⟩, ⟨3, 1, 0, 0, 9, 16⟩],
        shell := { passed := [(4, 0)], kinds := Vector.replicate 8 .int } } with
    ranks := [(5, 0x8000000000020000)], groups := [⟨0, 1, [(7, 1)], [], [], [], 0⟩, ⟨1, 1, [(7, 1)], [], [], [], 0⟩]
    waiting := List.replicate 16 ⟨1, 5, 0, .ack, 4, none⟩ }
theorem ready_q2 (q0 q2 q4 q6 : List Word) (u : Uses) :
    Ready ctlD u (stateQ2 q0 q2 q4 q6) ∧ Ready (halfCtl false) u (stateQ2 q0 q2 q4 q6) :=
  ⟨ready_of ⟨rfl, rfl⟩ rfl u, half_of ⟨rfl, rfl⟩ rfl u⟩
theorem witness_QueueResults_waits :
    (let s := stateQ2 [cmdWord 2 0 7 0 false false, 0, 0] [] [] []
     badField s s.me (s.thisSeat.q0 ++ [0]) = none ∧ kindFault s.thisCore.shell (s.thisSeat.q0.headD 0) = none ∧
      q0Open s.thisCore.shell = false) ∧
    (let s := stateQ2 [] [] [5 * 2 ^ 48] []
     hWords (5 * 2 ^ 48) = 1 ∧ (0 : Nat) + 1 = hWords (5 * 2 ^ 48) ∧ sendFault s 0 (5 * 2 ^ 48) = none ∧ sendWaits s (5 * 2 ^ 48) = true) ∧
    (let s := stateQ2 [] [] [5 * 2 ^ 48 + 63 * 2 ^ 20] []
     hWords (s.thisSeat.q4.headD 0) = 64 ∧ sendFault s 0 (s.thisSeat.q4.headD 0) = none ∧ sendWaits s (s.thisSeat.q4.headD 0) = true) ∧
    1 < (stateQ2 [] [] [5 * 2 ^ 48 + 63 * 2 ^ 20, 0] []).thisSeat.q4.length ∧
    (let s := stateQ2 [] [] [] (1 :: List.replicate 62 0)
     s.thisSeat.q6.length + 1 = 64 ∧ groupFault s 1 1 = none ∧ q6Room s.thisCore = false) ∧
    (let s := stateQ2 [] [] [] []
     popCore s 1 1 = none ∧ popCore s 3 1 = none ∧ popCore s 7 1 = none ∧ popCore s 1 64 = none ∧ popCore s 3 64 = none ∧
      popCore s 7 64 = none) ∧ (stateQ2 [] [] [] [1]).thisSeat.q6 = [1] := by decide +kernel
theorem witness_QueueResults_traps :
    (let s := stateQ2 [cmdWord 0 5 7 0 false false, 0x0100000000000000, 0x0100000000000800] [] [] []
     let ws := s.thisSeat.q0 ++ [0]
     drainWalk s s.me ws = none ∧ badField s s.me ws = none ∧ cOp (s.thisSeat.q0.headD 0) < 3 ∧
      (kindFault s.thisCore.shell (s.thisSeat.q0.headD 0)).isSome = true) ∧
    (let s := stateQ2 [cmdWord 3 0 0 0 false false, 0, 0] [] [] []
     let ws := s.thisSeat.q0 ++ [0]
     drainWalk s s.me ws = none ∧ badField s s.me ws = none ∧ 3 ≤ cOp (s.thisSeat.q0.headD 0) ∧ linkOn s.thisCore.shell = false) ∧
    (8 ≤ (stateQ2 [] (List.replicate 8 0) [] []).thisSeat.q2.length) ∧
    (let s := stateQ2 [] [] [] []
     s.thisSeat.q4 = [] ∧ (sendFault s 0 (s.thisSeat.getX 4)).isSome = true ∧ s.thisSeat.q6 = [] ∧ fld (s.thisSeat.getX 5) 63 39 ≠ 0 ∧
      fld (s.thisSeat.getX (hx 4)) 35 34 = 0 ∧ s.thisSeat.payWords < 8 + s.thisSeat.q5read + 1 ∧ s.thisSeat.payWords < 8 + s.thisSeat.q5read + 64) ∧
    (let s := stateQ2 [] [] [3 * 2 ^ 18] []
     0 + 1 = hWords (s.thisSeat.q4.headD 0) ∧ (sendFault s 0 (s.thisSeat.q4.headD 0)).isSome = true) ∧
    (let s := stateQ2 [] [] [] (2 :: List.replicate 62 0)
     activeGroup s s.core (dGroup 2) = none) ∧
    (let s := stateQ2 [] [] [] (0 :: List.replicate 62 0)
     (activeGroup s s.core (dGroup 0)).isSome = true ∧ treeOf s.thisCore (dGroup 0) = none) := by decide +kernel

/-- Seat 7 with x1 the last port, rank or group number, x2 an entry, x3 a double; port 63 is a ring. -/
def stateP (x2 : Word) (tail : BitVec 32) (sp : Memory := []) : State :=
  { stateD (setXs seatD [(1, 63), (2, x2), (3, 8), (4, 31), (5, 0x01000000000FFFF0), (6, 64), (7, 4)])
      { ports := [(63, { entry := 2 * 2 ^ 62 + 2 ^ 61, tail := tail })], sp := sp } 7 with ranks := [(63, 0x8000000000020000)] }
theorem witness_PortAndRingResults :
    (∀ u, Ready ctlD u (stateP 0 8)) ∧ Room (stateP 0 8) ∧ (stateP 0 8).seat = 7 ∧
    (let s := stateP 0 8
     let p := s.thisCore.port 63
     (s.thisSeat.getX 1).toNat < 64 ∧ pKind p.entry = 2 ∧ pEn p.entry = true ∧ p.tail ≠ p.head ∧ (s.thisSeat.getX 3).toNat % 8 = 0 ∧
      (s.thisSeat.getX 3).toNat ≤ (p.tail - p.head).toNat ∧ unreleased s 1 7 = false ∧ portOk (s.thisSeat.getX 2) = true ∧
      portFits s.thisCore 63 (s.thisSeat.getX 2) = true ∧ (s.thisSeat.getX 4).toNat < 32 ∧ (s.thisSeat.getX 5).toNat % 16 = 0 ∧
      tagOf (s.thisSeat.getX 5) = 1 ∧ checkBytes s s.me .read (byteAddrs (s.thisSeat.getX 5) 16) = none ∧
      pendingTo s (readPieces s (s.thisSeat.getX 5) 16) true = false ∧
      (∀ q ∈ readPieces s (s.thisSeat.getX 5) 16, poisoned s q.dst q.len = false) ∧
      patOk s.thisCore.entryAt s.thisCore.nextEntries (BitVec.ofNat 64 (readNow s (readPieces s (s.thisSeat.getX 5) 16)))
        (BitVec.ofNat 64 (readNow s (readPieces s (s.thisSeat.getX 5) 16) / 2 ^ 64)) = true) ∧
    ((stateP 0 0).thisCore.port 63).tail = ((stateP 0 0).thisCore.port 63).head :=
  ⟨fun u => ready_of ⟨rfl, rfl⟩ rfl u, by decide, by decide, by decide +kernel, by decide⟩
theorem witness_PortAndRingResults_traps :
    let s := stateP (2 ^ 60) 0 [(0xFFFF7, 0xC0)]
    let t := s.thisSeat
    let read := readPieces s 0x01000000000FFFF0 16
    64 ≤ (t.getX 6).toNat ∧ (t.getX 4).toNat < 64 ∧ pKind (s.thisCore.port 31).entry ≠ 2 ∧ (t.getX 7).toNat % 8 ≠ 0 ∧
      ((s.thisCore.port 63).tail - (s.thisCore.port 63).head).toNat < (t.getX 3).toNat ∧ portOk (2 ^ 60) = false ∧
      32 ≤ (t.getX 1).toNat ∧ (t.getX 7).toNat % 16 ≠ 0 ∧ tagOf (t.getX 0) ≠ 1 ∧ (t.getX 0).toNat % 16 = 0 ∧
      checkBytes s s.me .read (byteAddrs (t.getX 5) 16) = none ∧ pendingTo s read true = false ∧
      (∀ q ∈ read, poisoned s q.dst q.len = false) ∧
      patOk s.thisCore.entryAt s.thisCore.nextEntries (BitVec.ofNat 64 (readNow s read)) (BitVec.ofNat 64 (readNow s read / 2 ^ 64)) = false := by
  decide +kernel
/-- Core 1 as a member of group 63 beside core 2. -/
def stateG : State := { stateP 0x8000000000020000 0 with groups := [⟨63, 1, [(7, 1), (5, 2)], [], [], [], 0⟩] }
/-- The same with rank 63 in transit. -/
def stateT : State := { stateG with ranks := [(63, 0xC000000000020000)] }
theorem witness_RankAndGroupResults :
    (∀ u, Ready ctlD u stateG ∧ Ready ctlD u stateT) ∧ Room stateG ∧ Room stateT ∧ stateG.seat = 7 ∧ stateT.seat = 7 ∧
    (stateG.thisSeat.getX 1).toNat < 2 ^ 16 ∧ rankOk (stateG.thisSeat.getX 2) = true ∧ rankOk (stateT.thisSeat.getX 2) = true ∧
    eTransit (rankEntry stateG 63) = false ∧ (tget? stateG.ranks 63).isSome = true ∧ eValid (stateT.thisSeat.getX 2) = true ∧
    eTransit (rankEntry stateT 63) = true ∧ eValid (rankEntry stateG 63) = true ∧ rankRoom stateG [62] = true ∧ (stateG.thisSeat.getX 1).toNat < 256 ∧
    activeGroup stateG 1 63 = some ⟨63, 1, [(7, 1), (5, 2)], [], [], [], 0⟩ ∧ unreleased stateG 1 7 = false :=
  ⟨fun u => ⟨ready_of ⟨rfl, rfl⟩ rfl u, ready_of ⟨rfl, rfl⟩ rfl u⟩, by decide, by decide, by decide +kernel⟩
theorem witness_RankAndGroupResults_traps :
    (let s := stateP 0x8000000000020000 0
     2 ^ 16 ≤ (s.thisSeat.getX 5).toNat ∧ rankOk (s.thisSeat.getX 5) = false ∧ eValid (s.thisSeat.getX 3) = false ∧
      rankOk (s.thisSeat.getX 2) = true ∧ eValid (s.thisSeat.getX 2) = true ∧ eTransit (rankEntry s 63) = false ∧
      eValid (rankEntry s 62) = false ∧ 256 ≤ (s.thisSeat.getX 5).toNat ∧ activeGroup s s.core 63 = none) ∧
    (let s := { stateP 0x8000000000020000 0 with ranks := (List.range 4096).map fun i => (i + 64, 0) }
     (tget? s.ranks 63).isNone = true ∧ rankRoom s [63] = false ∧ eTransit (rankEntry s 63) = false) ∧
    eTransit (rankEntry stateT 63) = true := by decide +kernel

/-- x1 and x2 name tiles of the scratchpad, x3 one of the weight store, x5 a rank, x6 32 bytes; SH_LINK is on or off; the last MMA stands in the queue. -/
def stateH (cmds : List Cmd) : State :=
  { stateD (setXs seatD [(1, 0x0100000000000040), (2, 0x01000000000FF7C0), (3, 0x0300000002FFF800), (5, 5), (6, 0x01000000000FFFE0),
        (7, 0x01000000000FFF00)])
      { rank := 7, shell := { link := 2 ^ 63, cmds := cmds, lastMma := some 3 } } with ranks := [(5, 0x8000000000020000)] }
theorem witness_ShellInstructionResults :
    (∀ cmds u, Ready ctlD u (stateH cmds)) ∧ Room (stateH []) ∧
    (let s := stateH []
     let h := s.thisCore.shell
     q0Open h = true ∧ (s.thisSeat.getX 1).toNat % 64 = 0 ∧ (s.thisSeat.getX 2).toNat % 64 = 0 ∧ (s.thisSeat.getX 3).toNat % 64 = 0 ∧
      operandOk s 1 1 (s.thisSeat.getX 1) (tileBytes 7) = true ∧ operandOk s 1 1 (s.thisSeat.getX 2) (tileBytes 7) = true ∧
      operandOk s 1 3 (s.thisSeat.getX 3) (tileBytes 7) = true ∧ kindFault h (cmdWord 0 7 0 0 false false) = none ∧
      kindFault h (cmdWord 0 7 0 1 false false) = none ∧ kindFault h (cmdWord 0 7 0 2 false false) = none ∧
      kindFault h (cmdWord 0 7 0 2 true false) = none ∧ linkOn h = true ∧ tagOf (s.thisSeat.getX 1) = 1 ∧
      checkBytes s s.me .write (byteAddrs (s.thisSeat.getX 1) (tileBytes 6)) = none ∧
      (s.thisSeat.getX 7).toNat % 8 = 0 ∧ tagOf (s.thisSeat.getX 7) = 1 ∧ rangeIn s 1 (s.thisSeat.getX 7) 256 = true ∧
      fld (s.thisSeat.getX 5) 63 16 = 0 ∧ (s.thisSeat.getX 6).toNat % 32 = 0 ∧ tagOf (s.thisSeat.getX 6) = 1 ∧
      checkBytes s s.me .read (byteAddrs (s.thisSeat.getX 6) 32) = none ∧ destFault s 5 = none ∧ eModule (rankEntry s 5) = ownModule s ∧
      unreleased s 1 0 = false ∧ holdFull s 1 0 = false ∧ sameWord s (readPieces s (s.thisSeat.getX 6) 32) = false) ∧
    (∀ id, (stateH []).thisCore.shell.lastMma = some id →
      ¬ ((stateH []).thisCore.shell.cmds.any fun q => q.id = id && q.stage matches .queued | .occupying) = true) ∧
    ((stateH [{ id := 3, words := [] }]).thisCore.shell.lastMma = some 3 ∧
      ((stateH [{ id := 3, words := [] }]).thisCore.shell.cmds.any fun q => q.id = 3 && q.stage matches .queued | .occupying) = true) :=
  ⟨fun cmds u => ready_of ⟨rfl, rfl⟩ rfl u, by decide, by decide +kernel, fun _ _ h => Bool.false_ne_true h, by decide +kernel⟩
/-- The same without SH_LINK and with tiles of integers; x8 to x11 are misplaced operands, x13 lies in no page. -/
def stateH2 : State :=
  { stateD (setXs seatD [(1, 0x0100000000000040), (8, 0x0100000000000044), (9, 0x0200000000000040), (10, 0x0100000000100000), (11, 0x10000),
        (13, 0x40), (14, 6), (15, 8), (16, 9)])
      { shell := { kinds := Vector.replicate 8 .int } } with
    ranks := [(8, 0xA000000000020000), (9, 0x8000000001020000)] }
theorem witness_ShellInstructionResults_traps :
    (∀ u, Ready ctlD u stateH2) ∧
    (let s := stateH2
     let t := s.thisSeat
     let h := s.thisCore.shell
     (t.getX 8).toNat % 64 ≠ 0 ∧ (t.getX 1).toNat % 64 = 0 ∧ (t.getX 9).toNat % 64 = 0 ∧
      operandOk s s.core 1 (t.getX 9) (tileBytes 5) = false ∧ operandOk s s.core 1 (t.getX 1) (tileBytes 5) = true ∧
      operandOk s s.core 3 (t.getX 9) (tileBytes 5) = false ∧
      (kindFault h (cmdWord 0 5 0 0 false false)).isSome = true ∧ (kindFault h (cmdWord 0 5 0 2 false false)).isSome = true ∧
      (kindFault h (cmdWord 0 5 0 2 true false)).isSome = true ∧ kindFault h (cmdWord 0 1 0 2 true false) = none ∧ linkOn h = false ∧
      operandOk s s.core 1 (t.getX 1) (tileBytes 1) = true) ∧
    (let s := stateH2
     let t := s.thisSeat
     ¬ (tagOf (t.getX 9) = 0 ∨ tagOf (t.getX 9) = 1 ∨ tagOf (t.getX 9) = 4) ∧ (t.getX 10).toNat % 64 = 0 ∧ tagOf (t.getX 10) = 1 ∧
      ((checkBytes s s.me .write (byteAddrs (t.getX 10) (tileBytes 6))).map (·.1)) = some 0x11 ∧ (0x11 : BitVec 8) ≠ walkCause ∧
      ((checkBytes s s.me .write (byteAddrs (t.getX 13) (tileBytes 6))).map (·.1)) = some 0x12 ∧
      (t.getX 14).toNat % 8 ≠ 0 ∧ (t.getX 9).toNat % 8 = 0 ∧ tagOf (t.getX 9) ≠ 1 ∧ rangeIn s s.core (t.getX 10) 256 = false) ∧
    (let s := stateH2
     let t := s.thisSeat
     fld (t.getX 11) 63 16 ≠ 0 ∧ fld (t.getX 14) 63 16 = 0 ∧ (t.getX 8).toNat % 32 ≠ 0 ∧ (t.getX 9).toNat % 32 = 0 ∧ tagOf (t.getX 9) ≠ 0 ∧
      tagOf (t.getX 9) ≠ 1 ∧ (t.getX 1).toNat % 32 = 0 ∧ tagOf (t.getX 1) = 1 ∧ checkBytes s s.me .read (byteAddrs (t.getX 1) 32) = none ∧
      eValid (rankEntry s 6) = false ∧ eDead (rankEntry s 8) = true ∧ destFault s 9 = none ∧ eModule (rankEntry s 9) ≠ ownModule s) :=
  ⟨fun u => ready_of ⟨rfl, rfl⟩ rfl u, by decide +kernel, by decide +kernel, by decide +kernel⟩


/-- Seat 7 of core 1 with x1 a record line, x2 a channel, x4 a descriptor of group 0, x5 a key, x6 a tree entry, x7 a table; channel 3
is faulted. -/
def stateR : State :=
  { stateD { ((((setXs seatD [(1, 0xFF80), (2, 3), (3, 7), (5, 3), (6, 2 ^ 63), (7, 0x01000000000FFFC0), (8, 0x40), (9, 2 ^ 34), (10, 2), (11, 1),
        (12, 0x100), (13, 0x41), (14, 0x0200000000000040), (15, 4), (16, 0x0100000000000000)]).setV 1 { tag := 6 }).setV 2 { tag := 5 }).setV 3 { tag := 3 })
        with q2 := List.replicate 8 0 }
      { pagedD with sp := [(0, 2)], rank := 7, trees := [(0, 2 ^ 63)], q7 := [⟨List.replicate 64 7, 6, 3, true, 0⟩] } 7 with
    groups := [⟨0, 1, [(7, 1), (5, 2)], [], [], [], 0⟩, ⟨1, 1, [(7, 1)], [], [], [], 0⟩], clusters := [(0, { chans := Vector.replicate 4 { st := 2 } })] }
theorem witness_HaulAndRouterInstructionResults :
    (∀ u, Ready ctlD u stateR) ∧ Room stateR ∧ stateR.seat = 7 ∧ isBc stateR.core = false ∧
    (let t := stateR.thisSeat
     let read := readPieces stateR (t.getX 7) 64
     t.q2.length = 8 ∧ checkAtomic stateR stateR.me (t.getX 1) 128 8 = none ∧ (t.getX 2).toNat < 4 ∧ t.getX 0 = 0 ∧
      (tagOf (t.getX 8) = 0 ∧ (t.getX 8).toNat % 64 = 0) ∧ (t.getX 3).toNat < 8 ∧ (stateR.chan 0 3).st = 2 ∧
      t.q6 = [] ∧ fld (t.getX 0) 63 34 = 0 ∧ dDeliver (t.getX 0) ≠ 3 ∧ groupFault stateR (t.getX 0) (t.getX 0) = none ∧
      q6Room stateR.thisCore = true ∧ (t.getV 0).tag = 0 ∧ (t.getV 1).tag = 6 ∧ (t.getV 2).tag = 5 ∧ (t.getV 3).tag = 3 ∧ fld (t.getX 5) 63 32 = 0 ∧
      (findRes stateR.thisCore (dKey (t.getX 5))).isSome = true ∧
      (findGroup stateR (fld (t.getX 0) 7 0)).any (fun g => g.members.any (·.2 = 1) && !g.active.isEmpty) = true ∧ fld (t.getX 6) 23 0 = 0 ∧
      stateR.thisCore.trees.length < 4 ∧ (t.getX 7).toNat % 64 = 0 ∧ tagOf (t.getX 7) = 1 ∧
      checkBytes stateR stateR.me .read (byteAddrs (t.getX 7) 64) = none ∧ pendingTo stateR read true = false ∧
      (∀ q ∈ read, poisoned stateR q.dst q.len = false) ∧ codecTable (readNow stateR read) = some {}) :=
  ⟨fun u => ready_of ⟨by decide +kernel, by decide +kernel⟩ rfl u, by decide +kernel, by decide, by decide, by decide +kernel⟩
/-- The same core with q6 of seat 7 begun, two contributions in its own q6, four trees of other groups and no result. -/
def stateR2 : State :=
  { stateD { setXs (seatV 6) [(6, 2 ^ 63), (11, 1), (16, 5)] with q6 := [1] }
      { trees := [(1, 2 ^ 63), (2, 2 ^ 63), (3, 2 ^ 63), (4, 2 ^ 63)], q6 := [⟨2, 1, 0, 0, 9, 16⟩, ⟨3, 1, 0, 0, 9, 16⟩] } 7 with
    groups := [⟨0, 1, [(7, 1)], [], [], [], 0⟩, ⟨1, 1, [(7, 1)], [], [], [], 0⟩] }
theorem witness_HaulAndRouterInstructionResults_traps :
    (∀ u, Ready ctlD u stateR2 ∧ Ready ctlD u { stateR2 with core := 4096 } ∧ Ready ctlD u { stateD (seatV 0) { trees := stateR2.thisCore.trees, q6 := stateR2.thisCore.q6 } with groups := stateR2.groups }) ∧
    (let t := stateR.thisSeat
     isBc ({ stateR2 with core := 4096 } : State).core = true ∧ stateR2.thisSeat.q2.length ≠ 8 ∧ 4 ≤ (t.getX 15).toNat ∧
      (t.getX 13 ≠ 0 ∧ ¬ (tagOf (t.getX 13) = 0 ∧ (t.getX 13).toNat % 64 = 0)) ∧ (t.getX 14 ≠ 0 ∧ ¬ (tagOf (t.getX 14) = 0)) ∧
      8 ≤ (t.getX 12).toNat ∧ (t.getX 0).toNat < 8 ∧ (stateR2.chan 0 0).st ≠ 2) ∧
    (let t := stateR.thisSeat
     stateR2.thisSeat.q6 ≠ [] ∧ fld (t.getX 9) 63 34 ≠ 0 ∧ t.q6 = [] ∧ fld (t.getX 10) 63 34 = 0 ∧ dDeliver (t.getX 10) ≠ 3 ∧
      activeGroup stateR 1 (dGroup (t.getX 10)) = none ∧ (activeGroup stateR 1 (dGroup (t.getX 11))).isSome = true ∧
      treeOf stateR.thisCore (dGroup (t.getX 11)) = none ∧ dDeliver (t.getX 11) ≠ 3 ∧ groupFault stateR (t.getX 0) (t.getX 0) = none ∧
      (t.getV 1).tag.toNat ≠ 3 ∧ (t.getV 1).tag.toNat ≠ 5 ∧ (t.getV 2).tag.toNat ≠ 6) ∧
    (let s := { stateD (setXs (seatV 0) [(11, 1)]) { trees := stateR2.thisCore.trees, q6 := stateR2.thisCore.q6 } with groups := stateR2.groups }
     s.thisSeat.q6 = [] ∧ groupFault s (s.thisSeat.getX 11) (s.thisSeat.getX 11) = none ∧ (s.thisSeat.getV 0).tag = 0 ∧ q6Room s.thisCore = false) ∧
    (let t := stateR2.thisSeat
     fld (t.getX 6) 63 32 ≠ 0 ∧ fld (t.getX 11) 63 32 = 0 ∧ findRes stateR2.thisCore (dKey (t.getX 11)) = none ∧
      ¬ (findGroup stateR2 (fld (t.getX 16) 7 0)).any (fun g => g.members.any (·.2 = 1) && !g.active.isEmpty) = true ∧
      (findGroup stateR2 (fld (t.getX 0) 7 0)).any (fun g => g.members.any (·.2 = 1) && !g.active.isEmpty) = true ∧ fld (t.getX 11) 23 0 ≠ 0 ∧
      (t.getX 6).getLsbD 63 = true ∧ treeOf stateR2.thisCore 0 = none ∧ 4 ≤ stateR2.thisCore.trees.length) ∧
    (let t := stateR.thisSeat
     let read := readPieces stateR (t.getX 16) 64
     (t.getX 13).toNat % 64 ≠ 0 ∧ (t.getX 14).toNat % 64 = 0 ∧ tagOf (t.getX 14) ≠ 0 ∧ tagOf (t.getX 14) ≠ 1 ∧ (t.getX 16).toNat % 64 = 0 ∧
      tagOf (t.getX 16) = 1 ∧ checkBytes stateR stateR.me .read (byteAddrs (t.getX 16) 64) = none ∧ pendingTo stateR read true = false ∧
      (∀ q ∈ read, poisoned stateR q.dst q.len = false) ∧ codecTable (readNow stateR read) = none) :=
  ⟨fun u => ⟨ready_of (by decide +kernel) rfl u, ready_of (by decide +kernel) rfl u, ready_of (by decide +kernel) rfl u⟩, by decide +kernel,
    by decide +kernel, by decide +kernel, by decide +kernel, by decide +kernel⟩
theorem witness_SystemRegisterResults :
    (∀ u, Ready ctlD u stateR ∧ Ready ctlD u stateD) ∧ stateR.seat = 7 ∧ isBc stateR.core = false ∧
      ¬ ((0x10 : BitVec 10).toNat < 0x10 ∨ 0x40 ≤ (0x10 : BitVec 10).toNat ∨ stateD.seat = 7) ∧
      isSysReg 0x10 = true ∧ isSysReg 0x3D = true ∧ isSysReg 0x48 = true ∧ isSysReg 0x3B = false ∧
      ¬ ((0x3D : BitVec 10).toNat < 0x10 ∨ 0x40 ≤ (0x3D : BitVec 10).toNat ∨ stateD.seat = 7) :=
  ⟨fun u => ⟨ready_of ⟨by decide +kernel, by decide +kernel⟩ rfl u, ready_plain u⟩, by decide, by decide, by decide, by decide⟩

/-- Seat 7 with seat 6 trapped at parcel 16, which TRET_CTL names with a mode; x1 an entry of router (51, 51), x2 a page, x3 a chiplet. -/
def stateY (mode : Word) (event : Bool) : State :=
  { stateD { setXs seatD [(1, 0x0000000100003333 + 2737 * 2 ^ 16), (2, 0xFF80), (3, 0x121), (4, 7), (5, 0xC00), (6, 2 ^ 63), (7, 13)] with event := event }
      { pagedD with start := [16, 18], tretCtl := 6 + mode * 2 ^ 8 + 18 * 2 ^ 16, seats := (Vector.replicate 8 {}).set 6 { status := .trapped, rpc := 16 } } 7 with
    chiplets := [(0, { bust := 5 })] }
theorem witness_SystemInstructionResults :
    (∀ m e u, Ready ctlD u (stateY m e)) ∧ (∀ m e, Room (stateY m e)) ∧ (stateY 0 true).seat = 7 ∧
    (let k := (stateY 0 true).thisCore
     fld k.tretCtl 2 0 ≠ 7 ∧ (k.getSeat (fld k.tretCtl 2 0)).status = .trapped ∧ fld k.tretCtl 9 8 ≠ 3 ∧
      (resumePoint k (k.getSeat 6) 0).1 ≤ 0xFFFF ∧ k.starts (resumePoint k (k.getSeat 6) 0).1 = true) ∧
    (let k := (stateY 2 true).thisCore
     fld k.tretCtl 9 8 ≠ 3 ∧ k.starts (resumePoint k (k.getSeat 6) 2).1 = true) ∧ fld (stateY 3 true).thisCore.tretCtl 9 8 = 3 ∧
    (stateY 0 true).thisSeat.event = true ∧ (stateY 0 false).thisSeat.event = false ∧
    (let s := stateY 0 true
     let t := s.thisSeat
     (t.getX 2).toNat % 128 = 0 ∧ tagOf (t.getX 2) = 0 ∧ checkBytes s s.me .read (byteAddrs (t.getX 2) 128) = none ∧
      placeOf s s.me (t.getX 2) = .hbm 0x10FF80 false ∧ fld (t.getX 2) 63 32 = 0 ∧ (t.getX 4).toNat < 8 ∧ isCluster (chipOf 1) = true ∧
      bustState s (chipOf 1) = 5 ∧ isLost s (chipOf 1) = false ∧ fld (t.getX 5) 63 12 = 0 ∧ fld (t.getX 5) 7 4 = 0 ∧ fld (t.getX 5) 3 0 < partitions s ∧ fld (t.getX 5) 11 8 ≤ 12 ∧
      fld (t.getX 6) 62 48 = 0 ∧ fld (t.getX 6) 47 16 = 0 ∧ (t.getX 3).toNat < 2 ^ 16 ∧ isChiplet (t.getX 3).toNat = true ∧
      (fld (t.getX 1) 63 34 = 0 ∧ fld (t.getX 1) 33 32 < 2 ∧ fld (t.getX 1) 31 16 < 2738 ∧ fld (t.getX 1) 15 8 < 52 ∧ fld (t.getX 1) 7 0 < 52) ∧
      tableEntryOk (fld (t.getX 1) 33 32) (t.getX 7) = true) := by
  refine ⟨fun m e u => ready_of ⟨rfl, rfl⟩ rfl u, fun m e => (by decide : Room stateD), ?_, ?_, ?_, ?_, rfl, rfl, ?_⟩ <;> decide +kernel
/-- Seat 7 with TRET_CTL naming a free seat or a return to no starting parcel; x1 to x12 are misformed operands. -/
def stateY2 (ctl : Word) : State :=
  stateD (setXs seatD [(1, 2 ^ 32), (2, 2 ^ 16), (3, 4), (4, 8 + 13 * 2 ^ 12), (5, 0x10), (6, 15 + 2 ^ 10), (7, 2 ^ 63 + 2 ^ 16), (8, 2 ^ 48), (9, 169),
      (10, 2 * 2 ^ 32), (11, 0x3400), (12, 0x0200000000000000)])
    { tretCtl := ctl, seats := (Vector.replicate 8 {}).set 6 { status := .trapped, rpc := 16 } } 7
theorem witness_SystemInstructionResults_traps :
    (∀ m u, Ready ctlD u (stateY2 m)) ∧
    (let k := (stateY2 0).thisCore
     fld k.tretCtl 2 0 = 0 ∧ (k.getSeat 0).status ≠ .trapped) ∧ (let k := (stateY2 7).thisCore; fld k.tretCtl 2 0 = 7) ∧
    (let k := (stateY2 6).thisCore
     fld k.tretCtl 2 0 = 6 ∧ (k.getSeat 6).status = .trapped ∧ k.starts (resumePoint k (k.getSeat 6) 0).1 = false) ∧
    (let t := (stateY2 0).thisSeat
     fld (t.getX 1) 63 32 ≠ 0 ∧ fld (t.getX 2) 63 16 ≠ 0 ∧ fld (t.getX 5) 7 4 ≠ 0 ∧ ((t.getX 4).getLsbD 3 = true ∧ 12 < fld (t.getX 4) 15 12) ∧
      ((t.getX 11).getLsbD 3 = false ∧ fld (t.getX 11) 15 8 ≠ 0) ∧
      (fld (t.getX 3) 63 16 = 0 ∧ fld (t.getX 3) 7 4 = 0 ∧ (t.getX 3).getLsbD 3 = false ∧ fld (t.getX 3) 15 8 = 0 ∧
        bustState (stateY2 0) (chipOf (stateY2 0).core) ≠ 5) ∧
      fld (t.getX 2) 63 12 ≠ 0 ∧ (fld (t.getX 6) 63 12 = 0 ∧ fld (t.getX 6) 7 4 = 0 ∧ partitions (stateY2 0) ≤ fld (t.getX 6) 3 0) ∧
      ((t.getX 7).getLsbD 63 = true ∧ fld (t.getX 7) 47 16 ≠ 0) ∧ fld (t.getX 8) 62 48 ≠ 0 ∧
      2 ^ 16 ≤ (t.getX 2).toNat ∧ (t.getX 9).toNat < 2 ^ 16 ∧ isChiplet (t.getX 9).toNat = false ∧ ¬ fld (t.getX 10) 33 32 < 2 ∧
      (fld (t.getX 11) 63 34 = 0 ∧ fld (t.getX 11) 33 32 < 2 ∧ fld (t.getX 11) 31 16 < 2738 ∧ 51 < fld (t.getX 11) 15 8) ∧
      tableEntryOk 0 (t.getX 3) = false ∧ tableEntryOk 0 (t.getX 0) = true ∧ (t.getX 3).toNat % 128 ≠ 0 ∧
      (t.getX 12).toNat % 128 = 0 ∧ tagOf (t.getX 12) ≠ 0) :=
  ⟨fun m u => ready_of ⟨rfl, rfl⟩ rfl u, by decide +kernel, by decide +kernel, by decide +kernel, by decide +kernel⟩


/-! ### Hypotheses of the statements on the events of cores and memory -/

/-- A prefix with steps d, a and b over `add x5, x6, x7` at a parcel, with a repeat counter. -/
def stateX (pre : Parcel) (pc : Parcel) (rpt : BitVec 11) : State :=
  stateD { seatD with pc := pc, rpt := rpt }
    { code := [(pc.toNat, 0x9FC0), (pc.toNat + 1, pre), (pc.toNat + 2, 0x9C02), (pc.toNat + 3, 0x98E0)], start := [pc.toNat, pc.toNat + 4] }
theorem witness_RepeatAndAdvance :
    (let s := stateX 0x0F80 0xFFFA 0
     let k := s.thisCore
     let w := k.word 0xFFFC
     let pre : BitVec 32 := 0x9FC00F80
     pre = 0x9FC#12 ++ 3#10 ++ BitVec.ofBool true ++ BitVec.ofBool true ++ BitVec.ofBool true ++ BitVec.ofBool false ++ 0#6 ∧
      badParcel k 0xFFFC 2 = none ∧ k.starts 0xFFFC = false ∧ (k.parcel 0xFFFC).getLsbD 15 = true ∧ k.starts 0xFFFD = false ∧
      legalWord w = true ∧ repeatFits pre w 4 = true ∧ (∀ i < 4, legalWord (stepWord pre w i) = true) ∧ repeatPrivileged w = false) ∧
    (repeating (stateX 0x0F80 0xFFFA 4) = true ∧ (stateX 0x0F80 0xFFFA 4).thisSeat.rpt ≠ 1) ∧
    (repeating (stateX 0x0F80 0xFFFA 1) = true ∧ (stateX 0x0F80 0xFFFA 1).thisSeat.rpt = 1) ∧
    (repeating (stateX 0x0F80 0xFFFD 0) = false ∧ (stateX 0x0F80 0xFFFD 0).thisSeat.pc.toNat + 2 ≤ 0xFFFF) ∧
    (repeating (stateX 0x0F80 0xFFFE 0) = false ∧ 0xFFFF < (stateX 0x0F80 0xFFFE 0).thisSeat.pc.toNat + 2) ∧
    (repeating (stateX 0x0F80 0xFFFC 1) = true ∧ (stateX 0x0F80 0xFFFC 1).thisSeat.pc.toNat + 2 ≤ 0xFFFF ∧
      0xFFFF < (stateX 0x0F80 0xFFFC 1).thisSeat.pc.toNat + 4) := by decide +kernel
theorem witness_RepeatAndAdvance_waits :
    ((true && !(stateD seatO).thisSeat.outs.isEmpty) = true ∧ (false && !(stateD seatO).thisSeat.outs.isEmpty) = false) ∧
    (∀ b : Option Parcel,
     let t := (stateD { seatD with status := .parked, beyond := b }).thisSeat
     t.status = .parked ∧ t.outs = [] ∧ t.beyond = b) := ⟨⟨rfl, rfl⟩, fun _ => ⟨rfl, rfl, rfl⟩⟩

/-- Core 1 with a counter port and a pattern of class 0x20 and PRIO 7, a trapped seat 3 with its firing queued, an event, a spawn for seat 2,
a resume entry for seat 4, and handlers. -/
def coreB : Core :=
  { ports := [(63, { entry := 1 * 2 ^ 62 + 2 ^ 61, tokens := [false] })]
    patterns := [(31, (2 ^ 63 + 0x20 * 2 ^ 48 + 7 * 2 ^ 45, 0x813F))]
    handlers := [(0x20, 0x80000010), (0xF0, 0x80000010), (0xF3, 0x80000010)], start := [16]
    seats := (Vector.replicate 8 {}).set 3 { status := .trapped, trapCause := 0x105 }
    traps := [⟨0xF0, 0x05, some 3, [3, 16, 5, 2]⟩]
    spawns := [⟨2, 0, 16, 7, [1, 2, 3, 4], none⟩], resumes := [⟨4, 0, ⟨9, 0x20, 0, 0, none⟩, false, false⟩] }
def stateE (k : Core) : State := { State.reset with cores := [(1, k)] }
theorem witness_BindingEvents :
    (let s := stateE coreB
     idle s 1 = false ∧ coreB.stopped = false ∧ isCore 1 = true ∧ choosePattern coreB = some 31 ∧
      (let d := tget (0, 0) coreB.patterns 31
       seatFor coreB d.1 = some 0 ∧ handlerOf coreB (patClass d.1) = some 16 ∧ ((patUses d.2).map (·.1)).Nodup ∧ patUses d.2 = [(63, 1)]) ∧
      coreB.starts 16 = true ∧
      seat7Free s 1 = true ∧ (trappedSeat s 1 ⟨0xF0, 0x05, some 3, [3, 16, 5, 2]⟩).outs = [] ∧
      (trappedSeat s 1 ⟨0xF0, 0x05, some 3, [3, 16, 5, 2]⟩).status = .trapped ∧ handlerOf coreB 0xF0 = some 16 ∧
      coreB.spawns.find? (·.seat = 2) = some ⟨2, 0, 16, 7, [1, 2, 3, 4], none⟩ ∧ (coreB.getSeat 2).status = .free ∧
      (coreB.getSeat 2).fenced = false) ∧
    (∀ q ∈ [(⟨0xF3, 0x31, none, [0xFF, 0, 0x31]⟩ : Queued), ⟨0xF3, 0x30, none, [0xFF, 0, 0x30, 0]⟩],
     let k := { coreB with traps := [], events := [q] }
     seat7Free (stateE k) 1 = true ∧ handlerOf k 0xF3 = some 16) ∧
    (let k := { coreB with patterns := [] }
     waitingResume k 4 = some ⟨4, 0, ⟨9, 0x20, 0, 0, none⟩, false, false⟩ ∧ (k.getSeat 4).status = .free ∧ (k.getSeat 4).fenced = false ∧
      idle (stateE k) 1 = false ∧ reserved k 4 = false ∧ outranked k 4 0 = false ∧
      (let s := stateE k
       let pa := recordAt s 1 false 0
       badGranules s pa 0x4500 = [] ∧ spoiledWrite s pa 8 = false ∧
        (badGranules { s with hbmPoison := [pa / 32 + 0x127] } pa 0x4500).any (· < 0x2500) = true)) ∧
    (let k : Core := { spawns := [⟨7, 7, 16, 7, [], none⟩], start := [16] }
     k.spawns.find? (·.seat = 7) = some ⟨7, 7, 16, 7, [], none⟩ ∧ (k.getSeat 7).status = .free ∧ k.traps = [] ∧ ∀ v ∈ k.events, v.code ≠ 0x30) := by
  decide +kernel

/-- A launch of the west basecamp with completion port 63, and a packet that has arrived. -/
def launchE (st : LaunchState) (n : Int) : Launch :=
  { id := 5, pa := 0x1000, words := [], prio := 0, basecamp := 0, cport := 63, counter := n, state := st, status := 0, cores := [(7, 1)] }
/-- A route that ends at a position or an edge chiplet. -/
def hereE (dst : CoreId) : Option Route := some ⟨indexOf dst % 52, indexOf dst / 52, indexOf dst, .a, .a, false⟩
def packetE (src dst : CoreId) (body : Body) : Packet :=
  { id := 8, src := src, dst := dst, rank := 7, tc := 0, body := body, route := hereE dst }
def stateJ (k : Core) (l : Launch) (p : Packet) : State := { State.reset with cores := [(1, k)], launches := [l], net := [p], fresh := 9 }
def coreF (t : Seat) : Core := { seats := (Vector.replicate 8 {}).set 3 t, sliceLen := 5, seatCtl := 0x103 }
def ranF : Seat := { status := .blocked, firing := some ⟨9, 0x20, 7, 0, none⟩, pc := 16, preempt := true }
def spawnJ (k : Core) : State := stateJ k (launchE .running 1) (packetE 2 1 (.spawnReq 0 5 16 [1, 2, 3, 4]))
def awaitF (tg : Target) (w : Pending) (a : Answer) (id : Nat := 5) (l : List Nat := [0]) : Seat := { seatD with outs := [⟨id, 15, tg, false, w, a, l, 0⟩] }
theorem witness_SchedulingEvents :
    (∀ n ∈ [1, 64],
     let k : Core := { launch := some 5, ended := [(5, n)] }
     dueReport (stateJ k (launchE .running 1) (packetE 1 2 (.unread 0 0))) k = some (launchE .running 1, n) ∧
      findLaunch (stateJ k (launchE .running 1) (packetE 1 2 (.unread 0 0))) 5 = some (launchE .running 1) ∧ k.noLive 5 = true ∧ k.fenced = false) ∧
    (∀ l ∈ [launchE .complete 1, launchE .aborted 1, launchE .running 2, launchE .running 1, launchE .switchedOut 1],
     let p := packetE 1 4096 (.count (0xFFFEFC0000000000 ||| 1) 0xFFFFFFFF)
     let s := stateJ {} l p
     duePacket s 8 = some p ∧ p.body = .count (0xFFFEFC0000000000 ||| 1) 0xFFFFFFFF ∧ isBc p.dst = true ∧ (s.getCore p.dst).fenced = false ∧
      portHolder s ((p.dst - 4096) / 2) (hPort (0xFFFEFC0000000000 ||| 1)) = some l) ∧
    (let k := coreF ranF
     idle (stateE k) 1 = false ∧ k.sliceLen ≠ 0 ∧ (k.getSeat 3).status ≠ .free ∧ (k.getSeat 3).status ≠ .trapped ∧
      (lacksSeat k (seatClassOf k 3) || k.stopped) = false ∧
      (lacksSeat { k with stopped := true } (seatClassOf k 3) || true) = true ∧ (freeSlotOf k).isSome = true ∧ preemptible (k.getSeat 3) = true) ∧
    (isCore 1 = true ∧ (({} : Core).seatCtl).getLsbD 8 = false) ∧
    (let k := coreF { ranF with preempt := false }
     (k.getSeat 3).firing = some ⟨9, 0x20, 7, 0, none⟩ ∧ freeSlotOf k = some 0 ∧ idle (stateE k) 1 = false ∧ (k.getSeat 3).status ≠ .free ∧
      (k.getSeat 3).status ≠ .trapped ∧ k.seatCtl.getLsbD 8 = true ∧ fld k.seatCtl 2 0 = 3 ∧ (k.getSeat 3).preempt = false) ∧
    (let k := coreF ranF
     (k.getSeat 3).firing = some ⟨9, 0x20, 7, 0, none⟩ ∧ freeSlotOf k = some 0 ∧ idle (stateE k) 1 = false ∧ preemptible (k.getSeat 3) = true ∧
      (k.getSeat 3).preempt = true ∧ noPartial (k.getSeat 3) = true ∧ (k.getSeat 3).outs = []) ∧
    (∀ k ∈ [({} : Core), { fenced := true }, { seatMap := 0x3FFF }],
     let p := packetE 2 1 (.spawnReq 0 5 16 [1, 2, 3, 4])
     duePacket (spawnJ k) 8 = some p ∧ p.body = .spawnReq 0 5 16 [1, 2, 3, 4] ∧ isGridCore p.dst = true ∧ k.ovfFull = false ∧ k.input = []) ∧
    (spawnSeat {} (fld (16 : Word) 18 16) = some 0 ∧ ({} : Core).spawns.length < 4 ∧ spawnSeat { seatMap := 0x3FFF } (fld (16 : Word) 18 16) = none) ∧
    (let k : Core := { seats := (Vector.replicate 8 {}).set 3 (awaitF (.pred 3) .spawn .waiting) }
     let p := packetE 2 1 (.spawnAns 3 5 true)
     let s := stateJ k (launchE .running 1) p
     dueAnswer s 8 = some p ∧ p.body = .spawnAns 3 5 true ∧ k.ovfFull = false ∧ k.input = [] ∧
      (s.seatAt p.dst 3).outs.find? (·.id = 5) = some ⟨5, 15, .pred 3, false, .spawn, .waiting, [0], 0⟩) := by decide +kernel

/-- A request of seat 0 of core 1 with its pieces, whose operation is outstanding with a target. -/
def reqF (op : ReqOp) (ps : List Piece) : Req := { id := 5, core := 1, seat := 0, firing := 9, pc := 15, op := op, pieces := ps }
/-- A piece at a place, whose home has answered when it is settled. -/
def pieceF (d : Place) (len : Nat) (data : BitVec 64) (st : PieceState) : Piece :=
  { va := 0x10000, dst := d, home := (d.home State.reset).getD 0, num := 0, len := len, mask := lowMask (8 * len), data := data, bit := 0, st := st,
    back := !(st matches .waiting | .held) }
def stateV (r : Req) (tg : Target := .none) (k : Core := {}) (w : Pending := .plain) : State :=
  { State.reset with cores := [(1, { k with seats := (Vector.replicate 8 {}).set 0 (awaitF tg w .waiting) }), (2, k)], reqs := [r], fresh := 9 }
/-- The copy of the first piece stands at its home. -/
def copied (s : State) (r : Req) (p : Piece) : State :=
  { s with net := [{ packetE r.core (homeEnd s p.home) (.memReq r.id 0 r.who p.home) with id := 40, tc := 4 }] }
def groupF : Group := { gid := 3, root := 1, members := [(1, 1), (2, 2)], exited := [], issued := [], arrived := [], done := 0 }
theorem witness_MemoryEvents :
    (∀ d ∈ [Place.hbm 0x10FFF8 true, .hbm 0x10FFF8 false, .co 0 0, .sp 1 0x1FFF8, .ws 1 0x2FFFFF8], ∀ op ∈ [ReqOp.load 8 false, .vload, .store],
     let p := pieceF d 8 7 .waiting
     let r := reqF op [p]
     let s := copied { stateV r with l2co := 1 } r p
     findPiece s 5 0 = some (r, p) ∧ atOrder s r 0 p = true ∧ isPeer r d = false ∧ isEngineFill r d = false ∧ servable s d = true ∧
      heldByMigration s p = false ∧ poisoned s d 8 = false) ∧
    (let p := pieceF (.hbm 0x100000 true) 8 7 .waiting
     let r := reqF (.load 8 false) [p]
     let s := copied { stateV r with hbmPoison := [0x8000] } r p
     atOrder s r 0 p = true ∧ servable s p.dst = true ∧ heldByMigration s p = false ∧ poisoned s p.dst 8 = true ∧
      fencedPlace (copied { stateV r with stacksBad := [0] } r p) p.dst = true) ∧
    (∀ op ∈ [ReqOp.vload, .store],
     let p := pieceF (.sp 2 0x1FFF8) 8 7 .waiting
     let r := reqF op [p]
     let s := stateV r
     findPiece s 5 0 = some (r, p) ∧ atOrder s r 0 p = true ∧ isPeer r p.dst = true ∧ refused s r p = true ∧
      refused { s with groups := [groupF] } r p = false ∧ poisoned s p.dst 8 = false) ∧
    (∀ n ∈ [4, 8],
     let p := pieceF (.hbm 0x100000 true) n 7 .waiting
     let r := reqF (.amo .add n 3 0) [p]
     let s := copied (stateV r) r p
     findPiece s 5 0 = some (r, p) ∧ atOrder s r 0 p = true ∧ heldByMigration s p = false ∧ poisoned s p.dst n = false ∧ p.len = n ∧
      p.mask = lowMask (8 * n)) ∧
    (∀ b ∈ [Body.revoke 7, .revokeAck 7],
     let s := { State.reset with revs := [⟨7, 64, 1, 5, 0, false⟩], net := [packetE 1 5 b] }
     s.revs.find? (·.id = 7) = some ⟨7, 64, 1, 5, 0, false⟩ ∧ s.net.find? (fun k => k.came && k.body = b) = some (packetE 1 5 b) ∧ findReq s 5 = none) ∧
    (let r := reqF .store [pieceF (.hbm 0x100000 true) 8 7 .performed]
     let s := stateV r
     findReq s 5 = some r ∧ settled r = true ∧ awaitsRevs s 5 = false ∧ reqError r = none ∧
      findOut s 5 = some (1, 0, ⟨5, 15, .none, false, .plain, .waiting, [0], 0⟩) ∧ findOut { s with cores := [] } 5 = none ∧
      ({ r with agent := .haul 1 3 } : Req).agent ≠ .seat) := by
  decide +kernel

theorem witness_MemoryEvents_writeBack :
    (let p := pieceF (.hbm 0x10FF80 false) 8 0 .waiting
     let r := reqF .wb [p]
     let s := copied (stateV r) r p
     findPiece s 5 0 = some (r, p) ∧ atOrder s r 0 p = true ∧ heldByMigration s p = false) ∧
    (let r := reqF .store [pieceF (.hbm 0x100000 true) 8 7 .performed]
     let s := { stateV r with revs := [⟨7, 64, 2, 5, 0, true⟩] }
     findReq s 5 = some r ∧ r.op = .store ∧ pieceRevs { s with revs := s.revs.filter (·.id != 7) } 5 0 = false ∧ pieceRevs s 5 0 = true) := by decide +kernel

/-- A root, three levels of tables and a leaf for page 0 at 1 MiB. -/
def treeF : Memory := setDouble (setDouble (setDouble (setDouble [] 0x1000 0x2001) 0x2000 0x3001) 0x3000 0x4001) 0x4000 0x10000F
def leafF : Tlb := ⟨0, 0, 65536, 0x100000, true, true, false, false⟩
def moveF (moved : Bool) : State := { State.reset with hbm := treeF, migrations := [⟨0x4000, 0x100000, 0x200000, 65536, moved⟩] }
theorem witness_SyncAndTranslationEvents :
    (∀ op ∈ [ReqOp.ldf, .ldt, .ste, .stf, .feFill, .feClr], ∀ full ∈ [[], [32767]],
     let p := pieceF (.sp 1 0x1FFFC) 4 7 .waiting
     let r := reqF op [p]
     let s := stateV r .none { full := full }
     findPiece s 5 0 = some (r, p) ∧ atOrder s r 0 p = true ∧ refused s r p = false ∧ (s.getCore 1).spPoison.contains 32767 = false ∧
      (s.getCore 1).waiters = [] ∧ isFull (s.getCore 1) 32767 = full.contains 32767 ∧ (r.pieces.take 0).all (·.st != .waiting) = true) ∧
    (let p := pieceF (.sp 1 0x1FFFC) 4 7 .waiting
     let r := { reqF .store [p] with agent := .haul 1 3 }
     atOrder (stateV r) r 0 p = true ∧ refused (stateV r) r p = false ∧ isEngineFill r p.dst = true) ∧
    (let p := { pieceF (.walker 0) 8 0 .waiting with va := 0 }
     let r := reqF (.walk 0x1001) [p]
     let s := copied (stateV r) r p
     findReq s 5 = some r ∧ walksAt s (walkerSlot 0) < 32 ∧ nextWalk s (walkerSlot 0) = some 5 ∧ nextWalk (stateV r) (walkerSlot 0) ≠ some 5) ∧
    (let p := { pieceF (.walker 0) 8 0 .held with va := 0 }
     let s := { stateV (reqF (.walk 0x1001) [p]) with hbm := treeF }
     let side := isLost s (slotSite (walkerSlot 0))
     fencedPlace s p.dst = false ∧ fencedPlace { s with slotsBad := [walkerSlot 0] } p.dst = true ∧ walk s 0x1001 0 side = .leaf leafF ∧
      walk { s with hbmPoison := [0x80] } 0x1001 0 side = .fault 0x60 ∧ walk { s with hbm := [] } 0x1001 0 side = .fault 0x12) ∧
    (let p := { pieceF (.walker 0) 8 (packLeaf leafF) .performed with va := 0 }
     let r := reqF (.walk 0x1001) [p]
     let s := { stateV r with asks := [⟨.seat 1 0, 5, 0x1001, 0, .waiting⟩] }
     findReq s 5 = some r ∧ settled r = true ∧ s.asks = [⟨.seat 1 0, 5, 0x1001, 0, .waiting⟩] ∧ walkAnswer 0x1001 p = .leaf leafF ∧
      (s.reqs.any fun r => isWalk r.op) = true) ∧
    isCore 1 = true ∧
    (isCluster 1 = true ∧ (({ State.reset with clusters := [(1, { wsOpen := true })] } : State).getCluster 1).wsOpen = true) ∧
    (({ State.reset with hbm := treeF } : State).migrations.find? (·.entry = 0x4000) = none ∧
      canMigrate { State.reset with hbm := treeF } 0x4000 0 0x200000 = true) ∧
    (∀ m, (moveF m).migrations.find? (·.entry = 0x4000) = some ⟨0x4000, 0x100000, 0x200000, 65536, m⟩ ∧ (moveF m).hbm.wf = true ∧
      (moveF m).reqs = []) ∧
    (let p := pieceF (.hbm 0x100000 true) 8 7 .held
     let r := reqF .store [p]
     let s := { moveF true with reqs := [r], cores := [(1, { ttRoot := 1, tlb := [⟨0, 0x10000, 65536, 0x200000, true, true, false, true⟩] })] }
     let u := dropTlb s 1 fun e => decide (0x100000 ≤ e.pa) && decide (e.pa < 0x110000)
     findReq s 5 = some r ∧ movedPiece u p = true ∧ (migrationAt s 0x100000).any (·.moved) = true ∧
      unitLeaf u r p.va = .hit ⟨0, 0x10000, 65536, 0x200000, true, true, false, true⟩ ∧
      permFault r.op.need ⟨0, 0x10000, 65536, 0x200000, true, true, false, true⟩ = none) ∧
    launchLive State.reset = false ∧ State.reset.stacksBad.contains (nbits 0x100000 36 4) = false ∧ State.reset.coPoison.contains (0, 0x5FFFF / 32) = false ∧ (0x5FFFF < coSize { State.reset with l2co := 1 } 0) := by decide +kernel

/-- Core 1 with a queue at page 0, whose translation it holds; slots are read through the same page. -/
def queuedF (w : Pending) : State :=
  { stateV (reqF .store []) .none { ttRoot := 1, tlb := [⟨0, 0, 65536, 0x100000, true, true, false, true⟩] } w with
    reqs := [], hbm := setDouble [] 0x100010 (2 ^ 63) }
/-- The same with one access of its `hl.post` come back. -/
def postF (op : ReqOp) (w : BitVec 64) (st : PostStage) (ps : PieceState := .performed) (msa : Bool := true) : State :=
  { queuedF (.haulPost 0 [] st (some 7)) with
    reqs := [{ reqF op [pieceF (.hbm 0x100010 msa) 8 w ps] with id := 7, agent := .post 5 }] }
/-- The operation 5 of seat 0 of core 1, answered. -/
def doneF (w : Pending) (a : Answer := .value 1) (bust : Word := 5) : State :=
  { State.reset with cores := [(1, { seats := (Vector.replicate 8 {}).set 0 (awaitF (.x 31) w a) })], chiplets := [(0, { bust := bust })], fresh := 9 }
theorem witness_ResultsAndTimeouts_post :
    (∀ g ∈ [(PostStage.config, Need.read, (0x10 : Word), 8), (.claim 1, .both, 0, 8), (.room 5 128, .read, 8, 8), (.body 5 128, .write, 0x1C0, 64),
        (.publish 5 128, .write, 0x1C0, 64)],
     let s := queuedF (.haulPost 0 [] g.1 none)
     findOut s 5 = some (1, 0, ⟨5, 15, .none, false, .haulPost 0 [] g.1 none, .waiting, [0], 0⟩) ∧ findReq s 5 = none ∧
      checkBytes s (.op 1 5) g.2.1 (byteAddrs g.2.2.1 g.2.2.2) = none ∧
      (checkBytes { s with cores := [(1, { (s.getCore 1) with tlb := [] })] } (.op 1 5) g.2.1 (byteAddrs g.2.2.1 g.2.2.2)).map (·.1) = some walkCause ∧
      (checkBytes { s with cores := [(1, { (s.getCore 1) with ttRoot := 0 })] } (.op 1 5) g.2.1 (byteAddrs g.2.2.1 g.2.2.2)).map (·.1) = some 0x12) ∧
    (∀ g ∈ [(PostStage.config, ReqOp.load 8 false, (2 ^ 63 : BitVec 64)), (.claim 1, .amo .add 8 1 0, 5), (.room 5 128, .load 8 false, 5), (.room 5 1, .load 8 false, 4),
        (.body 5 128, .store, 0), (.publish 5 128, .store, 0)],
     let s := postF g.2.1 g.2.2 g.1
     findReq s 7 = s.reqs.head? ∧ s.reqs.all settled = true ∧ awaitsRevs s 7 = false ∧ s.reqs.map reqError = [none] ∧
      (postF g.2.1 0 g.1 .rejected).reqs.map reqError = [some (0x61, 0x10000)]) ∧
    ((2 ^ 63 : BitVec 64).getLsbD 63 = true ∧ (2 ^ 63 : BitVec 64).getLsbD 62 = false ∧ (2 ^ 62 : BitVec 64).getLsbD 62 = true ∧
      ((postF (.load 8 false) 0 .config .performed false).reqs.all fun r => r.pieces.all fun p => p.dst matches .hbm _ true) = false ∧
      0 < ((5 : BitVec 64) + 128 - 5).toInt ∧ ¬ 0 < ((4 : BitVec 64) + 1 - 5).toInt) := by decide +kernel
theorem witness_ResultsAndTimeouts :
    (∀ op ∈ [ReqOp.load 1 true, .load 8 false, .amo .add 8 3 0, .ldf, .ldt],
     let p := pieceF (.hbm 0x100000 true) 8 0xFF .performed
     let r := reqF op [p]
     let s := stateV r (.x 31)
     findOut s 5 = some (1, 0, ⟨5, 15, .x 31, false, .plain, .waiting, [0], 0⟩) ∧ findReq s 5 = some r ∧ r.op ≠ .store ∧ settled r = true ∧
      reqError r = none ∧ r.pieces = p :: [] ∧ (31 : BitVec 5) ≠ 0) ∧
    (let p := { pieceF (.hbm 0x100000 true) 8 0xFF .performed with bit := 1024 }
     let r := reqF .vload [p]
     let s := { State.reset with cores := [(1, { seats := (Vector.replicate 8 {}).set 0 (awaitF (.v 15) .plain .waiting 5 [0, 1]) })], reqs := [r] }
     findOut s 5 = some (1, 0, ⟨5, 15, .v 15, false, .plain, .waiting, [0, 1], 0⟩) ∧ settled r = true ∧ reqError r = none ∧ ([0, 1] : List Nat) ≠ [1] ∧
      1031 / 1024 = 1 ∧ ((1031 : Nat) : Int) = p.bit + 7 ∧ p.mask.getLsbD 7 = true ∧ ((1023 : Nat) / 1024 ≠ 1) ∧
      ((7 : Nat) : Int) = (0 : Int) + 7) ∧
    (let r := reqF .vload [pieceF (.hbm 0x100000 true) 8 0xFF .performed]
     findOut (stateV r .none {} .send) 5 = some (1, 0, ⟨5, 15, .none, false, .send, .waiting, [0], 0⟩)) ∧
    (∀ w ∈ [Pending.plain, .pwr 0 1, .portWr 63 0, .patWr 31 0 0, .rankWr 5 0x8000000000020000, .rankWr 65535 0, .rankHold 5, .rankRel 5 0x8000000000020000,
        .tree 3 0, .tree 255 0x8000000000000000, .codec {}, .l1Inv, .l2Ways 0 12, .tcInv 0, .bust 0x121, .rtab 0 2737 0 none,
        .rtab 1 0 0 (some 1), .seal true [(0, 65536)], .seal false [], .shWait [], .bow false 3 0, .sums [] 0, .haulWp 1 3, .rfence 0, .rfence 64],
     findOut (doneF w) 5 = some (1, 0, ⟨5, 15, .x 31, false, w, .value 1, [0], 0⟩) ∧ findReq (doneF w) 5 = none ∧ (doneF w).ranks = [] ∧
      underWay (doneF w) 5 = false ∧ routerDead (doneF w) 0 = false ∧ isLost (doneF w) 0 = false ∧ routerDead (doneF w (.value 1) 6) 0 = true ∧
      walkBefore (doneF w) 1 5 = false ∧
      walkBefore { doneF w with reqs := [{ reqF (.walk 1) [pieceF (.walker 0) 8 0 .waiting] with id := 4 }] } 1 5 = true) ∧
    (∀ op ∈ [ReqOp.load 8 false, .amo .add 8 3 0],
     let r := reqF op [pieceF (.hbm 0x100000 true) 8 0 .poisoned]
     let s := stateV r (.x 31)
     findReq s 5 = some r ∧ r.agent = .seat ∧ settled r = true ∧ reqError r = some (0x60, 0x10000) ∧ (findOut s 5).isSome = true ∧
      (s.seatAt 1 0).firing.map (·.id) = some r.firing ∧ (s.seatAt 1 0).status ≠ .trapped) ∧
    (let s := doneF .plain (.error 0x42 7)
     (s.seatAt 1 0).outs.find? (·.id = 5) = some ⟨5, 15, .x 31, false, .plain, .error 0x42 7, [0], 0⟩ ∧ findReq s 5 = none ∧
      (s.seatAt 1 0).firing.map (·.id) ≠ some 8 ∧ setAside s 1 8 = false ∧
      setAside (stateE { resumes := [⟨0, 0, ⟨8, 0x20, 0, 0, none⟩, false, false⟩] }) 1 8 = true) ∧
    (let s := stateE { errs := [⟨5, 0, 8, 15, 0x60, 7⟩] }
     (s.seatAt 1 0).outs.find? (·.id = 5) = none ∧
      (s.getCore 1).errs.find? (fun e => e.id = 5 && e.seat = 0) = some ⟨5, 0, 8, 15, 0x60, 7⟩ ∧ setAside s 1 8 = false) ∧
    (∀ k ∈ [0, 1],
     let p := { pieceF (.hbm 0x100000 true) 8 0 .waiting with tries := k }
     let r := reqF (.load 8 false) [p]
     let s := { stateV r with farCfg := 2 ^ 16 }
     findPiece s 5 0 = some (r, p) ∧ canTimeOut s r 0 p = true ∧ canTimeOut s r 0 { p with back := true } = false ∧ retries s = 1 ∧
      decide (p.tries < retries s) = (k == 0)) ∧
    (∀ k ∈ [0, 1], ∀ b ∈ [Body.count 0 1, .farMem 1 3 0x010A000000001000 32 none],
     let w : Sent := { pkt := { packetE 1 2 b with route := none, orig := 5 }, gone := true, tries := k }
     let s := { State.reset with sent := [w], farCfg := 2 ^ 16 }
     findPiece s 5 0 = none ∧ findSent s 5 = some w ∧ s.net = [] ∧ retries s = 1 ∧ forRank (.count 0 1) = true) := by
  refine ⟨?_, ?_, ?_, ?_, ?_, ?_, ?_, ?_, ?_⟩ <;> decide +kernel

/-! ### Hypotheses of the statements on messages, groups, shells and fences -/

/-- A FIFO port 63 with two slots of one double at offset 8192, holding some messages. -/
def fifoG (held : List Held) : Core :=
  { ports := [(63, { entry := 2 ^ 61 + 1 * 2 ^ 52 + 8192, held := held, next := 1 })] }
def headG : Word := 0x0001FC0000000000
def msgG (h : Word) : Packet := packetE 2 1 (.msg h [7])
theorem witness_MessageEvents :
    (∀ held ∈ [[], [⟨0, 1, false⟩], [⟨0, 1, false⟩, ⟨1, 1, false⟩]],
     let k := fifoG held
     let p := msgG headG
     let s := stateJ k (launchE .running 1) p
     duePacket s 8 = some p ∧ isGridCore p.dst = true ∧ p.mc = none ∧ k.fenced = false ∧ k.ovfFull = false ∧ k.input.contains p.id = false ∧
      hPort headG = 63 ∧ pEn (k.port 63).entry = true ∧ pKind (k.port 63).entry = 0 ∧ pSlot (k.port 63).entry = 0 ∧
      pSize (k.port 63).entry + 1 = 2 ∧ 8 * (1 + 2) ≤ ringFree (ringBytes (fld k.ovfCfg 23 20)) k.ovfHead k.ovfTail) ∧
    (∀ b : Bool,
     let old : BitVec 32 := if b then 1 else 0
     let k : Core := { ports := [(63, { entry := 1 * 2 ^ 62 + 2 ^ 61, count := old })] }
     let p := packetE 2 1 (.count headG 0xFFFFFFFF)
     duePacket (stateJ k (launchE .running 1) p) 8 = some p ∧ pEn (k.port 63).entry = true ∧ pKind (k.port 63).entry = 1 ∧
      (k.port 63).tokens.length ≠ 255) ∧
    (let c : Core := { ovfHead := 0xFFFFFFF8, ovfTail := 8 }
     isCore 1 = true ∧ c.ovfFull = false ∧ (((16 : Word).setWidth 32) - c.ovfHead).toNat = 24 ∧ (c.ovfTail - c.ovfHead).toNat = 16) ∧
    (∀ away : Bool,
     let p := { msgG headG with orig := 8 }
     let e : Sent := { pkt := { p with route := none }, gone := true, away := away }
     let s := { stateJ { fenced := true } (launchE .running 1) p with sent := [e] }
     s.net.find? (·.id = 8) = some p ∧ isCore p.src = true ∧ (s.getCore p.dst).fenced = true ∧ forRank p.body = true ∧ findSent s 8 = some e ∧
      e.reply = none ∧ ({ s with net := [] } : State).net.find? (·.id = 8) = none) := by decide +kernel

def contribG : Contribution := ⟨8, 0x3, 5, 0, 9, 15⟩
/-- Core 1 of group 3 with a tree entry. -/
def treeG (e : Word) (k : Core := {}) : Core := { k with trees := [(3, e)], rank := 1 }
theorem witness_GroupAndCombineEvents :
    (∀ root : Bool,
     let p := packetE 2 1 (.gbarArrive 3 1 2)
     let s := { stateJ (if root then {} else treeG 0x8000000200000000) (launchE .running 1) p with groups := [groupF] }
     duePacket s 8 = some p ∧ (s.getCore p.dst).fenced = false ∧ (s.getCore p.dst).ovfFull = false ∧ (s.getCore p.dst).input = [] ∧
      findGroup s 3 = some groupF ∧ isTop s groupF p.dst = root ∧ groupF.done + 1 = 1 ∧
      groupF.active = [(1, 1), (2, 2)] ∧ (∃ m ∈ groupF.active, m.2 ≠ 2 ∧ tget 0 groupF.arrived m.2 ≤ groupF.done) ∧
      ∀ m ∈ ({ groupF with arrived := [(1, 1)] } : Group).active, m.2 ≠ 2 → 0 < tget 0 [(1, 1)] m.2) ∧
    (let k : Core := { seats := (Vector.replicate 8 {}).set 7 (awaitF .none (.gbar 3 1) .waiting) }
     let p := packetE 2 1 (.gbarDone 3 1)
     let s := stateJ k (launchE .running 1) p
     duePacket s 8 = some p ∧ k.ovfFull = false ∧ k.input = [] ∧
      ((List.range 8).findSome? fun n => ((s.seatAt p.dst n).outs.find? (·.what = .gbar 3 1)).map fun o => (n, o.id)) = some (7, 5)) ∧
    (∀ b : Bool,
     let e : Word := if b then 0xC000000002000000 else 0x8000000200000000
     let k := treeG e { q6 := [contribG] }
     let s := { stateE k with ranks := [(2, entryFor State.reset 2)] }
     findQ6 s 8 = some (1, contribG) ∧ k.fenced = false ∧ hasExited s 1 3 = false ∧ k.combine.find? (dKey ·.desc = dKey contribG.desc) = none ∧
      treeOf k (dGroup contribG.desc) = some e ∧
      k.combine.length < 8 ∧ (if e.getLsbD 62 then (leftOf k 3).length < treeChildren e
       else treeChildren e ≤ (leftOf k 3).length ∧ treeRoot e = false ∧ resolve s 1 (treeParent e) = .core 2)) ∧
    (∀ b : Bool,
     let slot : CombineSlot := ⟨3, 5, b, [], 2, 0xC000000002000000⟩
     let k := treeG 0xC000000002000000 { combine := [slot] }
     let p := packetE 2 1 (.combine 3 7)
     let s := stateJ k (launchE .running 1) p
     findQ6 s 8 = none ∧ duePacket s 8 = some p ∧ k.fenced = false ∧ k.combine.find? (dKey ·.desc = dKey 3) = some slot ∧ dFn slot.desc = dFn 3 ∧
      dDeliver slot.desc = dDeliver 3 ∧ (slot.children ++ [p.src]).eraseDups.length < slot.await) ∧
    (let p := packetE 2 1 (.deliver 3 7)
     let s := { stateJ (treeG 0xC000000002000000) (launchE .running 1) p with groups := [groupF] }
     duePacket s 8 = some p ∧ (s.getCore p.dst).fenced = false ∧ (activeGroup s p.dst (dGroup 3)).isSome = true ∧ q7Words (s.getCore p.dst) ≤ 64) ∧
    (let p := packetE 2 1 (.leave 3)
     let slot : CombineSlot := ⟨3, 5, true, [], 2, 0xC000000002000000⟩
     let s := stateJ { combine := [slot] } (launchE .running 1) p
     duePacket s 8 = some p ∧ (s.getCore p.dst).fenced = false ∧ (s.getCore p.dst).combine.find? (dKey ·.desc = dKey 3) = some slot ∧
      dGroup slot.desc = 3 ∧ slot.children.length < slot.await - 1 ∧ hasExited s p.dst 3 = false) := by
  refine ⟨?_, ?_, ?_, ?_, ?_, ?_⟩ <;> decide +kernel

/-- A command of core 1 at a stage, with its shell. -/
def cmdG (ws : List Word) (st : CmdStage := .queued) (dst : CoreId := 0) (rd : Option Nat := none) : Cmd :=
  { id := 6, words := ws, stage := st, dst := dst, rd := rd }
def shellG (c : Cmd) (h : Shell := {}) (rs : List Req := []) : State :=
  { State.reset with cores := [(1, { shell := { h with cmds := [c], link := 0x800000020000FFFF } })], ranks := [(2, entryFor State.reset 2)], reqs := rs }
def tileG (q : BitVec 16) : LatchTile := ⟨5, q, []⟩
/-- The tile at scratchpad 0 has been read for command 6. -/
def readG : Req := { reqF .vload [pieceF (.sp 1 0) 8 0 .performed] with agent := .shell 6 }
theorem witness_ShellEvents :
    (∀ ws ∈ [[cmdWord 0 5 7 0 false false, 0x0100000000000000, 0x0100000000001000, 0], [cmdWord 0 5 7 1 false false, 0x0100000000000000, 0x0300000000001000, 0],
        [cmdWord 0 5 7 2 true false, 0x0100000000000000, 0, 0]],
     let c := cmdG ws
     let s := shellG c { front := some (tileG 0) }
     findCmd s 1 6 = some c ∧ cOp (c.word 0) = 0 ∧ readDone s c = none ∧ mayBegin s 1 c = true ∧ arrayFree s 1 = true ∧
      (cBsel (c.word 0) ≠ 2 ∨ (s.getCore 1).shell.front = some (tileG 0) ∧ (tileG 0).fmt = cFmt (c.word 0))) ∧
    (let c := cmdG [cmdWord 0 5 7 2 true false, 0x0100000000000000, 0, 0]
     let s := shellG c { front := some ⟨4, 0, []⟩ }
     readDone s c = none ∧ mayBegin s 1 c = true ∧ arrayFree s 1 = true ∧ (4 : BitVec 4) ≠ cFmt (c.word 0)) ∧
    (∀ b ∈ [0, 2],
     let c := cmdG [cmdWord 0 5 7 b (b = 2) false, 0x0100000000000000, 0, 0] .occupying 0 (some 5)
     let s := shellG c { front := some (tileG 0) } [readG]
     findCmd s 1 6 = some c ∧ cOp (c.word 0) = 0 ∧ readDone s c = some readG ∧ reqError readG = none ∧ cBsel (c.word 0) = b ∧
      cPass (c.word 0) = decide (b = 2)) ∧
    (let c := cmdG [cmdWord 0 5 7 0 true false, 0, 0, 0] .occupying
     findCmd (shellG c) 1 6 = some c ∧ c.stage = .occupying ∧ c.rd = none ∧ cPass (c.word 0) = true) ∧
    (∀ ws ∈ [[cmdWord 1 5 7 0 false true, 0x0100000000000000, 0, 0], [cmdWord 1 5 7 0 false false, 0, 0, 0]],
     let c := cmdG ws
     let s := shellG c
     findCmd s 1 6 = some c ∧ cOp (c.word 0) = 1 ∧ mayBegin s 1 c = true ∧ drainFree s 1 = true ∧ c.wr = [] ∧ c.err = none) ∧
    (let s := shellG (cmdG [])
     let faults (s : State) (a : Word) := (firstFault (fun x => (pageFault s (.op 1 6) .write x).or (writeFault s (.op 1 6) .write x)) (byteAddrs a 8)).map (·.1)
     faults s 0x0100000000000000 = none ∧ faults s 0xFFC0 = some 0x12 ∧
      faults { s with cores := s.cores.map fun c => (c.1, { c.2 with ttRoot := 1 }) } 0xFFC0 = some walkCause) ∧
    (∀ ws ∈ [[cmdWord 1 5 7 0 false true, 0x0100000000000000, 0, 0], [cmdWord 1 5 7 0 false false, 0, 0, 0]],
     let c := cmdG ws .occupying
     findCmd (shellG c) 1 6 = some c ∧ cOp (c.word 0) = 1 ∧ c.stage = .occupying ∧ c.wr = [] ∧ c.err = none) ∧
    (let c := cmdG [cmdWord 2 0 7 0 false false, 0, 0, 0]
     findCmd (shellG c) 1 6 = some c ∧ cOp (c.word 0) = 2 ∧ mayBegin (shellG c) 1 c = true) ∧
    (∀ op ∈ [3, 4],
     let q := cmdG [cmdWord op 5 0 0 false false, 0x0100000000000000, 0, 0]
     let s := shellG q { front := some (tileG 0) }
     findCmd s 1 6 = some q ∧ cOp (q.word 0) = op ∧ mayBegin s 1 q = true ∧ (s.getCore 1).shell.front = some (tileG 0) ∧ lostNext s q = false ∧
      resolve s 1 (linkNext (s.getCore 1).shell) = .core 2 ∧ isBc 2 = false ∧ resolve { s with ranks := [] } 1 (linkNext (s.getCore 1).shell) = .absent ∧
      resolve { s with ranks := [(2, entryFor State.reset 4096)] } 1 (linkNext (s.getCore 1).shell) = .core 4096 ∧ isBc 4096 = true ∧
      lostNext s { q with stage := .granted, dst := 2 } = false) ∧
    (let c := cmdG [cmdWord 4 5 0 0 false false, 0x0100000000000000, 0, 0] .granted 2 (some 5)
     findCmd (shellG c {} [readG]) 1 6 = some c ∧ readDone (shellG c {} [readG]) c = some readG ∧ lostNext (shellG c {} [readG]) c = false) ∧
    (let s := { State.reset with cores := [(1, { shell := { asking := [(2, 6)] } }), (2, { shell := { cmds := [cmdG []] } })] }
     (s.getCore 1).shell.reserved = false ∧ (s.getCore 1).shell.back = none ∧ (s.getCore 1).fenced = false ∧
      (s.getCore 1).shell.asking = [(2, 6)] ∧ findCmd s 2 6 = some (cmdG [])) ∧
    (∀ front ∈ [none, some (tileG 0xFFFF)], ∀ n ∈ [0, 1],
     let q := BitVec.ofNat 16 n
     let h : Shell := { front := front, link := 0x800000020000FFFF, reserved := true }
     let p := packetE 2 1 (.latch (tileG q))
     let s := stateJ { shell := h } (launchE .running 1) p
     duePacket s 8 = some p ∧ (s.getCore p.dst).fenced = false ∧ (s.getCore p.dst).ovfFull = false ∧ (s.getCore p.dst).input = [] ∧
      (decide ((tileG q).seq = lastSeq h + 1) = decide (n = 0))) ∧
    (∀ e ∈ [(cmdWord 2 0 7 0 false false, 0), (cmdWord 3 0 0 0 false false, 4)], ∀ passed ∈ [[], [(9, 0)], [(8, 4), (9, 0)]],
     let ws := [e.1, 0, 0, 77]
     let h : Shell := { caps := Vector.replicate 8 77, front := some (tileG 0), passed := passed }
     let p := packetE 2 1 (.rcmd 0 5 ws)
     let s := stateJ { shell := h } (launchE .running 1) p
     duePacket s 8 = some p ∧ s.net.find? (·.id = 8) = some p ∧ isGridCore p.dst = true ∧ (s.getCore p.dst).fenced = false ∧
      (s.getCore p.dst).ovfFull = false ∧ (s.getCore p.dst).input = [] ∧ drainWalk s (.op p.dst p.id) ws = none ∧ rcmdCheck s p ws = e.2 ∧
      h.passed.any (·.1 = 8) = (passed.head? == some (8, 4)) ∧ q0Shut h = false ∧ q0Shut { h with cmds := List.replicate 8 (cmdG []) } = true) ∧
    (let ws := [cmdWord 1 5 7 0 false false, 0xFFC0, 0, 77]
     let p := packetE 2 1 (.rcmd 0 5 ws)
     let s := stateJ { ttRoot := 1, shell := { caps := Vector.replicate 8 77 } } (launchE .running 1) p
     duePacket s 8 = some p ∧ drainWalk s (.op p.dst p.id) ws = some 0xFFC0) ∧
    (∀ fail ∈ [0, 4],
     let p := packetE 2 1 (.rcmdAns 0 5 fail)
     let s := stateJ { seats := (Vector.replicate 8 {}).set 0 (awaitF .none (.rcmd 2) .waiting) } (launchE .running 1) p
     dueAnswer s 8 = some p ∧ (s.getCore 1).ovfFull = false ∧ (s.getCore 1).input = [] ∧ answersBefore (s.getCore 1) 0 5 = false ∧
      (s.seatAt p.dst 0).outs.find? (·.id = 5) = some ⟨5, 15, .none, false, .rcmd 2, .waiting, [0], 0⟩) ∧
    isCore 1 = true := by
  refine ⟨?_, ?_, ?_, ?_, ?_, ?_, ?_, ?_, ?_, ?_, ?_, ?_, ?_, ?_, ?_, ?_⟩ <;> decide +kernel

theorem witness_FenceEvents :
    canFence State.reset 0 7 = true ∧ canFence State.reset 1 0 = true ∧ canFence State.reset 2 3 = true ∧ canFence State.reset 3 7 = true ∧
      canFence State.reset 4 143 = true ∧ canFence State.reset 5 15 = true ∧ canFence State.reset 6 1 = true ∧
      canFence State.reset 7 0x121 = true := by decide +kernel

/-! ### Hypotheses of the statements on engines, launches, the fabric, bring-up and the host -/

/-- Page 0 at 1 MiB, read and written, MSA; a queue of one slot whose first packet is ready or not. -/
def queueF (flag : Nat) : Memory :=
  setBytes (setDouble (setDouble (setDouble (setDouble [] 0x1000 0x2001) 0x2000 0x3001) 0x3000 0x4001) 0x4000 0x100000000010000F) 0x100080 1 flag
def leafH : Tlb := ⟨0, 0, 65536, 0x100000, true, true, false, true⟩
/-- Channel 3 of cluster 1, which caches the page; its first core's scratchpad holds some doubles from its start on. -/
def haulF (c : Channel) (flag : Nat := 0x80) (sp : List Word := []) : State :=
  { State.reset with
    hbm := queueF flag, cores := [(coreAt 1 0, { ttRoot := 0x1001, sp := setDoubles [] 0 sp })]
    clusters := [(1, { chans := (Vector.replicate 4 ({} : Channel)).set 3 c, tlb := [leafH] })] }
def packetF (ws : List Word) (begun : Bool := false) : HaulPkt := { claim := 0, words := ws, root := 0x1001, begun := begun }
def busyF (p : HaulPkt) : Channel := { pkt := some p, st := 1 }
/-- Every request outstanding has been served. -/
def servedF (s : State) (st : PieceState := .performed) : State :=
  { s with reqs := s.reqs.map fun r => { r with pieces := r.pieces.map fun p =>
      { p with st := st, back := true, data := if st = .performed then BitVec.ofNat 64 (p.dst.read s p.len) else 0 } } }
/-- What a range that a channel reads gives it. -/
def gotF (s : State) (a : Word) (n : Nat) (st : PieceState := .performed) : Except Nat (List Byte) :=
  match fetchRange (servedF (askRange s 1 3 0x1001 a n none) st) 1 3 0x1001 none a n with
  | .ok _ b => .ok b
  | .bad f _ => .error f
  | .wait _ => .error 0
/-- A range that is read and one that is then written pass their checks. -/
def passesF (s : State) (a : Word) (n : Nat) (d : Word) (m : Nat) : Bool :=
  rangeFault s 1 3 0x1001 false a n = none && rangeFault s 1 3 0x1001 true d m = none
/-- Bytes that a channel may write. -/
def landsF (s : State) (d : Word) (l : List Byte) : Bool := l ≠ [] && !isRemote s d && writeCheck s 1 3 0x1001 d l = none
theorem witness_HaulEvents_queue :
    (∀ n ∈ [0, 1, 2, 3], isCluster 1 = true ∧ ((haulF { st := BitVec.ofNat 2 n }).chan 1 3).st = BitVec.ofNat 2 n) ∧
    (let s := haulF { asked := true, hlq := 0x8000000000000000 }
     (s.chan 1 3).asked = true ∧ (s.chan 1 3).st ≠ 3 ∧ engineLeaf s 1 3 0x1001 (BitVec.ofNat 64 (qHead (s.chan 1 3).hlq)) = .hit leafH ∧
      lineTaken s 0x100000 = false ∧ lineTaken (haulF { hlq := 0xC000000000000000, hpa := 0x100000 }) 0x100000 = true ∧
      engineLeaf { s with cores := [] } 1 3 0 0 = .fault 0x12) ∧
    engineLeaf (haulF { asked := true, hlq := 0x8000000000010000 }) 1 3 0x1001 0x10000 = .miss ∧
    (∀ k ∈ [0, 1],
     let c : Channel := { hlq := 0xC000000000000000, hpa := 0x100000, look := true, seenW := 5, known := k }
     let q := { reqF (.load 8 false) [pieceF (.hbm 0x100008 true) 8 1 .performed] with agent := .header 1 3 }
     let s := { haulF { c with hd := some 5 } with reqs := [q] }
     qSub c.hlq = true ∧ qEn c.hlq = true ∧ getDouble (haulF c).hbm c.hpa ≠ c.seenW ∧ c.st = 0 ∧ c.statq = [] ∧ ((haulF c).getChiplet 1).cur ≠ 7 ∧
      ((haulF c).chan 1 3).hd = none ∧ (s.chan 1 3).hd.bind (findReq s) = some q ∧ settled q = true ∧ reqError q = none ∧
      reqError { q with pieces := [pieceF (.hbm 0x100008 true) 8 0 .poisoned] } = some (0x60, 0x10000)) ∧
    (∀ b : Bool,
     let flag := if b then 0x80 else 0
     let c : Channel := { hlq := 0xC000000000000000, hpa := 0x100000, look := true, known := 2 }
     let s := haulF c flag
     let at' := slotAddr c 0
     at' = 0x80 ∧ c.rd = none ∧ rangeFault s 1 3 0x1001 false at' 8 = none ∧ rangeFault { s with cores := [] } 1 3 0 false at' 8 = some (3, at') ∧
      gotF s at' 8 = .ok (flag :: List.replicate 7 0) ∧ gotF s at' 64 = .ok (flag :: List.replicate 63 0) ∧ gotF s at' 8 .poisoned = .error 7 ∧
      (BitVec.ofNat 64 flag).getLsbD 7 = b ∧ (0 / queueSize c.qcfg + 1) % 2 = 1 ∧ commonOk (packetF (natWords 8 flag)) = true) := by
  refine ⟨?_, ?_, ?_, ?_, ?_⟩ <;> decide +kernel
theorem witness_HaulEvents_kinds :
    ((∀ i ∈ [1, 2, 3], ((packetF [0, 4, 8, 12]).word i).toNat % 4 = 0) ∧ ((packetF [0, 2]).word 1).toNat % 4 ≠ 0 ∧
      (packetF [3, 0, 4, 0x200000004]).kind = 3 ∧ fld ((packetF [3, 0, 4, 0x200000004]).word 3) 33 32 = 2 ∧ fld ((packetF [3]).word 3) 33 32 = 0 ∧
      (packetF [2, 4, 4, 4, 0x400000001, 4]).kind = 2 ∧ fld ((packetF [2]).word 4) 63 32 = 0 ∧
      (packetF [4, 8, 8, 0x400000001, 8]).kind = 4 ∧ 4 ≤ fld ((packetF [4, 8, 8, 0x400000001, 8]).word 3) 35 32 ∧ fld ((packetF [4]).word 3) 31 0 = 0 ∧
      (packetF [1, 64, 0, 0, 0, 0x0001000100010001]).kind = 1 ∧ (∀ i < 4, boxExt (packetF [1, 64, 0, 0, 0, 0x0001000100010001]) i ≠ 0) ∧
      boxExt (packetF [1, 64]) 0 = 0) ∧
    (let p := packetF [1, 64, 0, 0, 0, 0x0001000100010001]
     let s := { haulF (busyF p) with clusters := [(1, { chans := (Vector.replicate 4 ({} : Channel)).set 3 (busyF p), records := [((64, 0), [])] })] }
     (s.chan 1 3).pkt = some p ∧ (s.chan 1 3).st = 1 ∧ p.record = [] ∧ (s.chan 1 3).rd = none ∧ tagOf (p.word 1) = 0 ∧ (p.word 1).toNat % 64 = 0 ∧
      (s.getCluster 1).records.find? (·.1 = (p.word 1, rootAsid p.root)) = some ((64, 0), []) ∧
      ((haulF (busyF p)).getCluster 1).records.find? (·.1 = (p.word 1, rootAsid p.root)) = none ∧
      rangeFault (haulF (busyF p)) 1 3 p.root false (p.word 1) 64 = none ∧ rangeFault (haulF (busyF p)) 1 3 0 false (p.word 1) 64 = some (3, 64)) ∧
    (∀ good : Bool,
     let p := packetF [1, 0x100, 0, 0, 0, 0x0001000100010001]
     let s := { haulF (busyF p) with hbm := if good then setDoubles [] 0x100108 [0x0000000100000001, 0x0000000100000001] else [] }
     ((gotF s 0x100 64).toOption.map fun b => recordOk (natWords 8 (pack 8 (b.map (·.toNat))))) = some good) ∧
    (let p (esz : Word) := { packetF [1, 64, 2, 0, 0, 0x0001000100010001] with record := [0, 0x0000000100000001, 0x0000000100000001, 0, 0, 0, 0, esz] }
     (p 0).record ≠ [] ∧ (p 2).record ≠ [] ∧ (2 : Nat) % recEsz (p 0).record = 0 ∧ (2 : Nat) % recEsz (p 2).record ≠ 0) :=
  ⟨by decide +kernel, by decide +kernel, by decide +kernel, by decide +kernel⟩
theorem witness_HaulEvents_copyFillGather :
    (let p := packetF [0, 0x0200000000000000, 0x0200000000001020, 64] true
     let s := haulF (busyF p)
     let b := List.replicate 32 (0 : Byte)
     (s.chan 1 3).pkt = some p ∧ (s.chan 1 3).st = 1 ∧ p.progress < totalUnits p ∧ p.buf = none ∧ p.err = none ∧ (s.chan 1 3).rd = none ∧ copyLen p = 32 ∧
      passesF s (p.word 1) 32 (p.word 2) 32 = true ∧
      (rangeFault s 1 3 p.root false (p.word 1) 32).or (rangeFault s 1 3 p.root true 0x0300000000000000 32) = some (6, 0x0300000000000000) ∧
      gotF s (p.word 1) 32 = .ok b ∧ b ≠ [] ∧ isRemote s (p.word 2) = false ∧ writeCheck s 1 3 p.root (p.word 2) b = none ∧
      writeCheck s 1 3 p.root 0x0300000000000000 b = some (6, 0x0300000000000000)) ∧
    (let p := packetF [3, 7, 0x0200000000001020, 0x0000000200000008] true
     let s := { haulF (busyF p) with farCfg := 1, farRoute := [(5, 0x80)] }
     p.kind = 3 ∧ p.progress < totalUnits p ∧ copyLen p = 8 ∧ landsF s (p.word 2) ((List.range (8 / 4)).flatMap fun _ => valueBytes 7 4) = true ∧
      isRemote s 0x1005000000001020 = true ∧ (s.chan 1 3).rd = none ∧ rangeFault s 1 3 p.root true 0x1005000000001020 8 = none) ∧
    (let p := packetF [2, 0x0200000000000000, 0x0200000000001000, 0x0200000000002000, 0x0000000400000001, 4, 1] true
     let q := { p with idx := some 0 }
     let s := haulF (busyF p)
     p.kind = 2 ∧ p.progress < totalUnits p ∧ p.idx = none ∧ fld (p.word 4) 63 32 = 4 ∧ passesF s (p.word 3) 4 (p.word 2) 4 = true ∧
      passesF (haulF (busyF q)) (p.word 1) 4 (p.word 2) 4 = true ∧ gotF (haulF (busyF q)) (p.word 1) 4 = .ok (List.replicate 4 0) ∧
      landsF s (p.word 2) (List.replicate 4 0) = true ∧ landsF s (p.word 2) (valueBytes 0 4) = true ∧ sxt 32 0xFFFFFFFF < 0 ∧
      0 ≤ sxt 32 0 ∧ sxt 32 0 < fld (p.word 6) 31 0 ∧ fld (p.word 6) 31 0 ≤ sxt 32 1) := by
  refine ⟨?_, ?_, ?_⟩ <;> decide +kernel
/-- A box of two elements whose first lies in a tensor of one, and one whose element lies before it. -/
def boxF (x0 : Word) : HaulPkt :=
  { packetF [1, 64, 0x0200000000001000, x0, 0, 0x0001000100010002] true with
    record := [0x0200000000000000, 0x0000000100000001, 0x0000000100000001, 0, 0, 0, 7, 2] }
/-- A chunk of one i8 and its compressed form. -/
def codecF (back : Bool) (limit : Word) : HaulPkt :=
  packetF [4, 0x0200000000000000, 0x0200000000001000, (if back then 0x1400000001 else 0x400000001), (if back then 0 else 0x0200000000002000),
    if back then 0 else limit] true
theorem witness_HaulEvents_boxCodec :
    (let s := haulF (busyF (boxF 0))
     let pad := valueBytes 7 4
     (boxF 0).kind = 1 ∧ (boxF 0).progress < totalUnits (boxF 0) ∧ recEsz (boxF 0).record = 4 ∧ recDim (boxF 0).record 0 = 1 ∧ boxExt (boxF 0) 0 = 2 ∧
      sxt 32 0xFFFFFFFE = -2 ∧ landsF s 0x0200000000001000 (pad ++ pad) = true ∧ passesF s 0x0200000000000000 4 0x0200000000001000 8 = true ∧
      gotF s 0x0200000000000000 4 = .ok (List.replicate 4 0) ∧ landsF s 0x0200000000001000 (List.replicate 4 0 ++ pad) = true) ∧
    (let p := codecF false 64
     let s := haulF (busyF p)
     let out := wordsBytes (encodeChunk s.codec 4 [0])
     p.kind = 4 ∧ (p.word 3).getLsbD 36 = false ∧ p.progress < totalUnits p ∧ fld (p.word 3) 35 32 = 4 ∧ chunkCount p = 1 ∧ ctWidth 4 / 8 ≠ 0 ∧
      rangeFault s 1 3 p.root false (p.word 1) (ctWidth 4 / 8) = none ∧ gotF s (p.word 1) (ctWidth 4 / 8) = .ok (List.replicate (ctWidth 4 / 8) 0) ∧
      out.length ≤ 64 ∧ fld ((codecF false 0).word 5) 31 0 < out.length ∧ landsF s (p.word 2) out = true) ∧
    (let p := codecF true 0
     let ws := encodeChunk State.reset.codec 4 [0]
     let h := ws.headD 0
     let s := haulF (busyF p) 0x80 ws
     let n := 8 * chunkLen h
     (p.word 3).getLsbD 36 = true ∧ p.idx = none ∧ passesF s (p.word 1) 8 (p.word 2) (ctWidth 4 / 8) = true ∧ gotF s (p.word 1) 8 = .ok (valueBytes h.toNat 8) ∧
      headerOk 4 1 h = true ∧ gotF (haulF (busyF p)) (p.word 1) 8 = .ok (List.replicate 8 0) ∧ headerOk 4 1 0 = false ∧ n ≠ 0 ∧
      passesF s (p.word 1) n (p.word 2) (ctWidth 4 / 8) = true ∧
      ((gotF s (p.word 1) n).toOption.bind fun b => decodeChunk 4 1 (natWords (b.length / 8) (pack 8 (b.map (·.toNat))))) = some [0] ∧
      decodeChunk 4 1 (h :: (ws.drop 1).map fun _ => BitVec.allOnes 64) = none ∧
      landsF s (p.word 2) (valueBytes (pack (ctWidth 4) [0]) (ctWidth 4 / 8)) = true) ∧
    (let p := { codecF false 64 with progress := 1 }
     totalUnits p ≤ p.progress ∧ owesLength p = true ∧ landsF (haulF (busyF p)) (p.word 4) (valueBytes p.outDone 8) = true) ∧
    (let p := packetF [0, 0, 0, 0, 0, 0, 0, 0x000102000000FFFF] true
     let s := { haulF (busyF p) with ranks := [(1, entryFor State.reset 2)] }
     (s.chan 1 3).pkt = some p ∧ totalUnits p ≤ p.progress ∧ owesLength p = false ∧ p.wr = [] ∧ p.err = none ∧ (p.word 7).getLsbD 41 = true ∧
      resolve s (coreAt 1 0) ((p.word 7).extractLsb' 48 16) = .core 2 ∧ resolve { s with ranks := [] } (coreAt 1 0) ((p.word 7).extractLsb' 48 16) = .absent) := by
  refine ⟨?_, ?_, ?_, ?_, ?_⟩ <;> decide +kernel

/-- A record of rank 1 with its image at 0x10000: the end section alone, for core 1. -/
def recordF : List Word := [0x0001000000000180, 9, 0x10000, 0x0000FFFF00010001, 0x0000000100000005, 0] ++ List.replicate 26 0
def imageF : Memory := setDouble (setDouble (setDoubles [] 0x20000 recordF) 0x10000 0x0000000001010001#64) 0x10008 0x100
def placedF : Placed := ⟨1, 53, []⟩
def launchF (id prio : Nat) (st : LaunchState) (switching : Bool := false) : Launch :=
  { id := id, pa := 0x20000, words := recordF, prio := prio, basecamp := 0, cport := 63, counter := 1, state := st, status := 0, cores := [(1, 53)],
    switching := switching }
def launchS (ls : List Launch) : State :=
  { State.reset with hbm := imageF, chiplets := [(0, { bust := 5 })], modStat := 3, launches := ls, ranks := [(1, entryFor State.reset 53)],
                     queues := (Vector.replicate 8 {}).set 0 { cfg := 0x8001000000020000 } }
/-- A running launch that is switched out, of core 53. -/
def leavingF (k : Core) (net : List Packet := []) : State :=
  { launchS [launchF 6 1 .taken, launchF 5 0 .running true] with cores := [(53, k)], net := net }
theorem witness_LaunchEvents :
    (∀ b : Bool,
     let s := if b then launchS [] else { launchS [] with hbm := setBytes imageF 0x20001 1 2 }
     takesRecords s = true ∧ (waitingLaunches s).length < 4 ∧ chooseQueue s = some 0 ∧ readyRecord s 0 = some 0x20000 ∧
      (let ws := readDoubles s.hbm 0x20000 32
       let chosen := setRix { s with lastQueue := tset s.lastQueue (qPrio (s.queue 0).cfg) 0 } 0 ((s.queue 0).rix + 1)
       if b then checkRecord chosen 0 ws = .inr [placedF] else checkRecord chosen 0 ws = .inl 1)) ∧
    (let l := launchF 6 1 .taken
     let s := launchS [l]
     findLaunch s 6 = some l ∧ coresFree s l = true ∧ overtaken s l = false ∧ freePort s 0 = some 0 ∧
      readImages s (recRoot l.words) (recImage l.words) (recFirst l.words) (recRanks l.words) = some [placedF] ∧
      readImages { s with hbm := [] } (recRoot l.words) (recImage l.words) (recFirst l.words) (recRanks l.words) = none ∧
      rankRoom s (recordRanks l.words) = true) ∧
    (let l := launchF 6 1 .taken
     let v := launchF 5 0 .running
     let s := launchS [l, v]
     findLaunch s 6 = some l ∧ findLaunch s 5 = some v ∧ v.switching = false ∧ mayOust s l v = true ∧
      ∀ c ∈ v.cores, eValid (rankEntry s c.1) = true) ∧
    (let l := launchF 6 1 .switchedOut
     let s := launchS [l]
     findLaunch s 6 = some l ∧ coresFree s l = true ∧ overtaken s l = false ∧ (∀ c ∈ l.cores, areaBad s c.2 = false) ∧
      (let u := { s with hbmPoison := [(switchArea s 53 + 0x120000) / 32] }
       coresFree u l = true ∧ overtaken u l = false ∧ ∃ c ∈ l.cores, areaBad u c.2 = true)) ∧
    (∀ st ∈ [LaunchState.taken, .running, .switchedOut],
     let l := launchF 6 1 st
     launchById (launchS [l]) 9 = some l ∧ launchById (launchS [l]) 8 = none) := by
  refine ⟨?_, ?_, ?_, ?_, ?_⟩ <;> decide +kernel
/-- 4,096 entries of other ranks leave a new rank no room. -/
theorem witness_LaunchEvents_room :
    let s : State := { launchS [launchF 6 1 .taken] with ranks := (List.range 4096).map fun r => (r + 2, 0) }
    rankRoom s (recordRanks (launchF 6 1 .taken).words) = false := by decide +kernel
theorem witness_LaunchEvents_switching :
    let v := launchF 5 0 .running true
    let s := leavingF {}
    findLaunch s 6 = some (launchF 6 1 .taken) ∧ findLaunch s 5 = some v ∧ v.switching = true ∧ v.state = .running ∧
    (∀ c ∈ v.cores, firingsAside s v c.1 c.2 = true) ∧ (∃ c ∈ v.cores, (s.getCore c.2).shell.closed = false) ∧
    (let u := leavingF { shell := { closed := true } }
     ∀ c ∈ v.cores, firingsAside u v c.1 c.2 = true ∧ (u.getCore c.2).shell.closed = true ∧ shellQuiet u c.2 = true) ∧
    (let u := leavingF { shell := { closed := true, cmds := [cmdG [0] .occupying] } }
     (∀ c ∈ v.cores, firingsAside u v c.1 c.2 = true ∧ (u.getCore c.2).shell.closed = true) ∧ ∃ c ∈ v.cores, shellQuiet u c.2 = false) ∧
    (∃ c ∈ v.cores, firingsAside (leavingF {} [packetE 1 53 (.msg 0 [])]) v c.1 c.2 = false) ∧
    ∃ c ∈ v.cores, firingsAside (leavingF { seats := (Vector.replicate 8 {}).set 3 { firing := some ⟨9, 0x20, 7, 0, some 5⟩ } }) v c.1 c.2 = false := by
  decide +kernel

/-- Packet 8 from core 1 to another, at a router. -/
def netF (dst : CoreId) (route : Option Route) : Packet := { packetE 1 dst (.count 0 1) with route := route, orig := 8 }
def fabricF (p : Packet) : State :=
  { State.reset with net := [p], chiplets := [(0, { bust := 5 }), (12, { bust := 5 }), (0x110, { bust := 5 }), (0x120, { bust := 5 }), (0x121, { bust := 5 })],
                     farTt := 0x1001, hbm := treeF, ranks := [(1, entryFor State.reset 2)], sent := [{ pkt := { p with route := none } }] }
theorem witness_FabricEvents_departs :
    ∀ gone : Bool,
     let p := netF 2 none
     let e : Sent := { pkt := p, gone := gone }
     let s := { fabricF p with sent := [e] }
     s.net.find? (·.id = 8) = some p ∧ unfilled p.body = false ∧ pieceRoom s p = true ∧ inject s p = some ⟨1, 0, 2, .a, .a, false⟩ ∧
      inject s { p with orig := 0 } = some ⟨1, 0, 2, .a, .a, false⟩ ∧
      isAnswer p.body = false ∧ findSent s p.orig = some e ∧ mayDepart s e = true ∧ findSent { s with sent := [] } p.orig = none ∧
      mayDepart { s with sent := [{ pkt := { p with orig := 7 } }, e] } e = false := by decide +kernel
/-- Hops inside a chiplet, and onto a bond; whether that bond damages the packet is a free value. -/
theorem witness_FabricEvents_hops :
    (∀ m : Fin 2,
     let mesh : Mesh := if m = 0 then .a else .b
     let r : Route := ⟨50, 0, 51, .a, mesh, false⟩
     let p := netF 51 (some r)
     let s := fabricF p
     s.net.find? (·.id = 8) = some p ∧ p.came = false ∧ routerDead s 50 = false ∧ doorOf r.dest (coordOf (indexOf p.src)) = (51, 0) ∧
      hopBroken s 50 1 = false ∧ hopBroken { s with linksBad := [201] } 50 1 = true ∧
      nextHop s p r = .go (outputOf 50 1 mesh) (p.lane mesh) { r with x := 51 } ∧ granted s 8 (outputOf 50 1 mesh) (p.lane mesh) = true ∧
      crosses r { r with x := 51 } = false ∧
      granted { s with net := [{ p with id := 7 }, p] } 8 (outputOf 50 1 mesh) (p.lane mesh) = false) ∧
    (let r : Route := ⟨47, 0, 51, .a, .a, false⟩
     let p := netF 51 (some r)
     let s := { fabricF p with chiplets := [(11, { bust := 5 }), (12, { bust := 5 })] }
     p.came = false ∧ nextHop s p r = .go (outputOf 47 1 .a) (p.lane .a) { r with x := 48 } ∧ granted s 8 (outputOf 47 1 .a) (p.lane .a) = true ∧
      crosses r { r with x := 48 } = true) ∧
    (∀ m : Fin 2,
     let mesh : Mesh := if m = 0 then .a else .b
     let r : Route := ⟨1, 0, 53, .a, mesh, false⟩
     let p := netF 53 (some r)
     let s := fabricF p
     p.came = false ∧ doorOf r.dest (coordOf (indexOf p.src)) = (1, 1) ∧ hopBroken s 1 2 = false ∧
      nextHop s p r = .go (outputOf 1 2 mesh) (p.lane mesh) { r with y := 1 }) := by
  refine ⟨?_, ?_, ?_⟩ <;> decide +kernel
/-- The tree of packets without a mesh goes on, waits at a broken bond, and gives up one on its way down with no way on. -/
theorem witness_FabricEvents_tree :
    (let r : Route := ⟨50, 0, 51, .a, .a, false⟩
     let p := netF 51 (some r)
     let s := { fabricF p with linksBad := [201] }
     nextHop s p r = .turn { r with mesh := .fixed }) ∧
    (let r : Route := ⟨1, 0, 53, .a, .fixed, false⟩
     let p := netF 53 (some r)
     let s := { fabricF p with linksBad := List.range 400 }
     let e := escapeOf s 1 53
     routerDead s 1 = false ∧ e.toNat % 8 < 4 ∧ hopBroken s 1 (e.toNat % 8) = true ∧ nextHop s p r = .wait) ∧
    (let r : Route := ⟨50, 50, 53, .a, .fixed, true⟩
     let p := netF 53 (some r)
     let s := { fabricF p with chiplets := [(168, { bust := 5 })] }
     let e := escapeOf s (52 * 50 + 50) 53
     routerDead s (52 * 50 + 50) = false ∧ e.getLsbD 3 = false ∧ e.toNat % 8 < 5 ∧ nextHop s p r = .discard) ∧
    (let r : Route := ⟨1, 0, 53, .a, .a, false⟩
     let p := netF 53 (some r)
     let s := { fabricF p with chiplets := [] }
     routerDead s 1 = true ∧ nextHop s p r = .discard) := by
  refine ⟨?_, ?_, ?_, ?_⟩ <;> decide +kernel
/-- A packet at its end. -/
def cameF (b : Body) (num : BitVec 16) (reply : Option Body := none) (next : BitVec 16 := 0) : State :=
  let p := { netF 2 (hereE 2) with body := b, num := num }
  { fabricF p with sent := [{ pkt := { p with route := none }, gone := true, reply := reply }], expects := [((1, msgHome 2), next)] }
theorem witness_FabricEvents_comes :
    (∀ b ∈ [Body.memAns 5 0 .performed 7, .ack],
     (cameF b 0).net.find? (·.id = 8) = some { netF 2 (hereE 2) with body := b } ∧ ({ netF 2 (hereE 2) with body := b } : Packet).came = true) ∧
    (let p := { netF 2 (hereE 2) with body := .msg 0 [], num := 3 }
     (cameF (.msg 0 []) 3 (some .ack) 5).net.find? (·.id = 8) = some p ∧ p.came = true ∧ p.orig ≠ 0 ∧ p.dst < 8192 ∧
      ((cameF (.msg 0 []) 3).getCore 2).shell.passed.any (·.1 = 8) = false ∧
      pget 0 (cameF (.msg 0 []) 3 (some .ack) 5).expects (p.who, p.home) = 5 ∧ ahead p.num 5 = false ∧ inWindow p.num 5 = true ∧
      (findSent (cameF (.msg 0 []) 3 (some .ack) 5) 8).bind (·.reply) = some .ack ∧
      pget 0 (cameF (.msg 0 []) 3 none 100).expects (p.who, p.home) = 100 ∧ ahead p.num 100 = false ∧ inWindow p.num 100 = false ∧
      pget 0 (cameF (.msg 0 []) 3).expects (p.who, p.home) = 0 ∧ ahead p.num 0 = true) := by
  refine ⟨?_, ?_⟩ <;> decide +kernel
/-- A message for module 1 at optical chiplet 0, which has left on a fibre or not. -/
def leavingP (num : BitVec 16) : Packet := { netF 8192 (hereE 8192) with body := .msg 0x0001000000000000 [7], far := some 1, num := num }
def farF (num next : BitVec 16) (lit : Nat) (away : Bool := false) : State :=
  { fabricF (leavingP num) with fib := [(0, BitVec.ofNat 32 lit)], expects := [((1, (leavingP num).home), next)], sent := [{ pkt := leavingP num, gone := true, away := away }] }
theorem witness_FabricEvents_leaves :
    let p := leavingP 3
    p.came = true ∧ p.orig ≠ 0 ∧ 8192 ≤ p.dst ∧ p.dst < 12288 ∧ (farF 3 3 0x10100).net.find? (·.id = 8) = some p ∧
    (fibreOf (farF 3 3 0x10100) p).map (·.1) = some 1 ∧ (findSent (farF 3 3 0x10100) 8).isSome = true ∧
    fibresTo (farF 3 3 0x10100) 0 1 = [0] ∧ fibreLive (farF 3 3 0x10100) 0 0 = true ∧ fibresTo (farF 3 3 0) 0 1 = [] ∧
    pget 0 (farF 3 3 0x10100).expects (p.who, p.home) = 3 ∧
    pget 0 (farF 3 4 0x10100).expects (p.who, p.home) = 4 ∧ inWindow p.num 4 = true ∧
    (∀ b, ((findSent (farF 3 4 0x10100 b) 8).map (·.away)) = some b) ∧
    fibreLive { farF 3 3 0x10100 with deadWaves := (List.range 8).map fun l => (0, 0, l) } 0 0 = false ∧
    (let s := { farF 3 4 0x10100 true with net := [] }
     s.net.find? (·.id = 8) = none ∧ (findSent s 8).map (·.away) = some true ∧ forRank p.body = true) := by decide +kernel
/-- Optical chiplet 0 with its tables known, a taken access of requester 0 and the chiplet's request for it. -/
def servingF (seen : List FarSeen) (rq : List Req := []) (due : BitVec 16 := 0) : State :=
  { fabricF (netF 2 none) with farTlb := [(0, [leafF])], farSeen := seen, reqs := rq, expects := [((farKey 0, 8192), due)] }
def seenF (sub : Option Nat := none) (reply : Option Reply := none) : FarSeen := { chip := 0, who := 0, num := 0, sub := sub, reply := reply }
theorem witness_FabricEvents_serves :
    chipSilent (servingF []) 0x110 = false ∧ inGroup (servingF []) 0x110 = false ∧
    (servingF []).farSeen.find? (fun d => d.chip = 0 && d.who = 0 && d.num = 0) = none ∧ pget 0 (servingF []).expects (farKey 0, 8192 + 0) = 0 ∧
    pget 0 (servingF [] [] 5).expects (farKey 0, 8192 + 0) = 5 ∧ inWindow 0 5 = true ∧ inWindow 0 70 = false ∧
    (servingF [seenF]).farSeen.find? (fun d => d.chip = 0 && d.who = 0 && d.num = 0) = some seenF ∧
    (∀ st ∈ [PieceState.waiting, .performed, .poisoned, .failed],
     let r := { reqF .store [pieceF (.hbm 0x100000 true) 8 0 st] with core := 8192, agent := .far 0 }
     let s := servingF [seenF (some 5)] [r]
     findReq s 5 = some r ∧ settled r = (st != .waiting) ∧ awaitsRevs s 5 = false ∧
      (reqError r).map (·.1) = (if st = .poisoned then some 0x60 else if st = .failed then some 0x24 else none)) ∧
    awaitsRevs { servingF [] with revs := [⟨1, 25, 2, 5, 0, false⟩] } 5 = true ∧
    farFault (servingF []) 0 0 0x100 8 true = none ∧ farFault (servingF []) 0 0 0xFFF8 16 false = some (walkFault, 0x10000) ∧
    (farFault { servingF [] with farTt := 0 } 0 0 0x100 8 false).map (·.1) = some 3 := by decide +kernel
theorem witness_FabricEvents_far :
    (let s := { servingF [] with severed := true, group := [0x110], queues := (Vector.replicate 8 {}).set 0 { cfg := 0x8001000000020000 } }
     inGroup s 0x110 = true ∧ (∀ i < 8, summaryPoison (groupView (measured s)) ((fld (0x2C10 : Word) 15 0 + i) / 8 * 8) = false) ∧
      ∃ i < 8, summaryPoison (groupView (measured { s with hbmPoison := [(0x20000 - 128) / 32] })) ((fld (0x2C10 : Word) 15 0 + i) / 8 * 8) = true) ∧
    (let s := servingF []
     farPayload 0x0001FC0000000000 [7] = some [7] ∧ farPayload 0x0001FC0000000000 [] = none ∧ resolve s 8192 (hDest 0x0001FC0000000000) = .core 2 ∧
      resolve s 8192 (hDest 0x0002FC0000000000) = .absent ∧
      (seenF none (some .acked)).reply = some .acked ∧ s.deadWaves = [] ∧ clockRuns (s.getChiplet 0x121) = true ∧ bustState s 0x121 ≠ 6 ∧
      chipSilent s 0x120 = false ∧ chipSilent s 0x121 = false ∧ isChiplet 12 = true ∧ chipSilent s 12 = false) := by
  refine ⟨?_, ?_⟩ <;> decide +kernel

/-- Bring-up with one chiplet in a state, and a second that is READY. -/
def risingF (cn state : Nat) : State := { State.reset with modStat := 1, chiplets := tset [(0x120, { bust := 0xF0005 })] cn { bust := BitVec.ofNat 64 state } }
theorem witness_BringupAndPowerEvents :
    (ascending State.reset = false ∧ ascending (risingF 0 0) = true ∧ isChiplet 168 = true ∧ isChiplet 0x120 = true ∧ bustState State.reset 0x120 = 0 ∧
      imageOk 0 [] = false) ∧
    (heardFrom (risingF 78 0) 78 (fun _ => true) = true ∧ bustState (risingF 78 0) 78 = 0 ∧ heardFrom (risingF 168 0) 168 (fun _ => true) = false) ∧
    (∀ n ∈ [1, 2, 3, 4], climbing (risingF 78 n) 78 = true ∧ bustState (risingF 78 n) 78 = n) ∧
    (frameReaches (risingF 78 2) 78 0 = true ∧ frameReaches (risingF 168 2) 168 0 = false) ∧
    (let s := { risingF 84 2 with chiplets := [(83, { bust := 0xF0005 }), (84, { bust := 2 }), (85, { bust := 0xF0015 })] }
     bustState s 84 = 2 ∧ frameReaches s 84 0 = true ∧ frameReaches s 84 1 = true ∧ 5 ≤ bustState s 85) ∧
    (timesAscent (risingF 78 0) = true ∧ modState { risingF 78 0 with modStat := 2 } = 2) ∧
    (let h : Chiplet := { busy := true, target := 6, queue := [(3, none)] }
     h.busy = true ∧ h.target ≠ 7 ∧ h.queue = [(3, none)]) ∧
    (let h : Chiplet := { busy := true, target := 6, queue := [(2, some (1, 9, 15)), (3, none)] }
     h.busy = true ∧ h.target ≠ 7 ∧ h.queue = [(2, some (1, 9, 15)), (3, none)] ∧ (3 : BitVec 3) ≠ h.target ∧ (3 : BitVec 3) ≠ 7) ∧
    (let h : Chiplet := { bust := 5, cur := 3, req := 3 }
     isCluster 1 = true ∧ fld h.bust 2 0 = 5 ∧ h.busy = false ∧ h.cur ≠ 7 ∧ h.req.toNat ≤ (6 : BitVec 3).toNat ∧ (2 : BitVec 3).toNat < h.req.toNat ∧
      h.queue = []) ∧
    modState { State.reset with modStat := 3 } = 3 ∧
    (let p := packetE 4096 (coreAt 1 0) (.pstate 1 3)
     p.came = true ∧ p.dst < 8192 ∧ p.num = pget 0 State.reset.expects (p.src, msgHome p.dst) ∧ ({ p with orig := 8 } : Packet).orig ≠ 0) := by
  refine ⟨?_, ?_, ?_, ?_, ?_, ?_, ?_, ?_, ?_, ?_, ?_⟩ <;> decide +kernel

theorem witness_HostEvents :
    (let s := { launchS [launchF 6 1 .running] with chiplets := [(0, { bust := 5 }), (0x100, { bust := 5 })] }
     modState s = 3 ∧ modState State.reset ≠ 3 ∧ mbBusy s = false ∧ mbBusy { s with mbStat := 0x8000000000000000 } = true ∧ s.summary = none ∧
      16 * populated - 8 + 8 ≤ 16 * populated ∧
      (∀ j < 8, (poisoned s (windowPlace s (16 * populated - 8 + j)) 1 || outOfReach s (windowPlace s (16 * populated - 8 + j))) = false) ∧
      poisoned { s with stacksBad := [0] } (windowPlace s 0) 1 = true ∧ outOfReach { s with lost := [slotSite 0] } (windowPlace s 0) = true ∧
      outOfReach s (windowPlace s (16 * populated - 8)) = false ∧ (∀ j < 8, readsPoison s (0x100000 + 0xF8 + j) = false) ∧
      isLost s 0x100 = false ∧ summaryPoison (westView (measured s)) 0x2C10 = false ∧
      summaryPoison (westView (measured { s with stacksBad := [0] })) 0x2C10 = true ∧
      8 ≤ 32 - (16 * populated - 8) % 32 ∧ partOf s 8 (windowPlace s (16 * populated - 8)) = false ∧
      partOf { s with hbmPoison := [0] } 8 (windowPlace s 0) = true ∧
      (0x2FF0000 : Nat) % 2 ^ 16 = 0 ∧ stackLive s 0 = true ∧ stackLive s 1 = false ∧ 0x2FF0000 % 2 ^ 36 + 2 ^ 16 ≤ populated ∧ s.token = 0 ∧
      (launchById s 9).isSome = true ∧ launchById s 8 = none ∧ qBase 0x20000 % (256 * qRecords 0x20000) = 0 ∧
      qBase 0x20000 = qBase (s.queue 0).cfg ∧ fld (0x20000 : Word) 47 44 = fld (s.queue 0).cfg 47 44 ∧ qBase 0x40000 ≠ qBase (s.queue 0).cfg ∧
      (s.queue 0).cfg.getLsbD 63 = true ∧ (s.queue 1).cfg.getLsbD 63 = false) ∧
    ((0xBFFF : BitVec 16).toNat < 0xC000 ∧ 0xC003 < (0xC004 : BitVec 16).toNat) := by
  refine ⟨?_, ?_⟩ <;> decide +kernel

/-! ### Hypotheses of the statements on traps, waits, frames and steps -/

theorem witness_SupervisorInstructionsTrap : issueOf (.tret ctlD) = some (ctlD, true) ∧ (stateD).seat ≠ 7 := by decide
/-- A seat with an outstanding result. -/
def waitI (tg : Target) (acq : Bool := false) : Seat := { seatD with outs := [⟨5, 15, tg, acq, .plain, .waiting, [0], 0⟩] }
theorem witness_GuardRules :
    issueOf (.add ⟨false, true, 0⟩ 1 2 3) = some (⟨false, true, 0⟩, false) ∧ (stateD (waitI (.pred 0))).thisSeat.pendP 0 = true ∧
      stateD.thisSeat.pendP 7 = false ∧ guardTrue ⟨false, true, 7⟩ stateD.thisSeat = false ∧ repeating stateD = false ∧
      stateD.thisSeat.pc.toNat + 2 ≤ 0xFFFF ∧ stateD.thisSeat.pendP 0 = false ∧ stateD.thisSeat.getP 0 = false ∧
      (∀ sup, issueOf (.tret ⟨false, true, 7⟩) = some (⟨false, true, 7⟩, sup) → (stateD seatD {} 7).seat = 7) ∧
      seat7Reads 0x10 = true ∧ seat7Reads 1 = false ∧ stateD.seat ≠ 7 ∧ writesReg 1 0x38 = false ∧ writesReg 1 0x39 = true := by decide
/-- Seat 0 of core 1 with a store of 4 bytes at `sp` 0 not yet performed. -/
def stateI (t : Seat) (early : Bool := false) : State := stateD t { dbgCtl := if early then 1 else 0 }
theorem witness_WaitsAndEarlyReads :
    (∀ t ∈ [waitI (.x 1), waitI (.v 1), waitI .none true], ∀ e,
      (stateI t e).thisSeat.pendP 7 = false ∧ guardTrue ctlD (stateI t e).thisSeat = true ∧
      (stateI t e).thisCore.dbgCtl.getLsbD 0 = e) ∧
    (waitI (.x 1)).pendX 1 = true ∧ (waitI (.v 1)).pendV 1 = true ∧ acquiring (waitI .none true) = true ∧
    unreleased { stateD with reqs := [reqF .store [pieceF (.hbm 0x100000 true) 4 0 .waiting]] } 1 0 = true ∧
    (let s := stateD { seatD with outs := List.replicate 32 ⟨5, 15, .none, false, .plain, .waiting, [0], 0⟩, x := seatD.x.set 2 0x0100000000000000 }
     Ready ctlD { rx := [2], wx := [1], mem := true } s ∧ s.thisSeat.out = 32 ∧ checkScalar s s.me .read (effAddr s 2 0 4) 4 = none) ∧
    (waitI (.x 1)).pendX 2 = false ∧ (waitI (.x 1)).pendX 3 = false ∧ (waitI (.v 1)).pendV 2 = false := by decide +kernel
theorem witness_TrapEntry :
    (stateD.seatAt 1 6).status ≠ .trapped ∧ ((stateD { status := .trapped } {} 7).seatAt 1 7).status = .trapped ∧
      (stateD.seatAt 1 7).fenced = false ∧ ((stateD { fenced := true } {} 7).seatAt 1 7).fenced = true ∧ isBc 1 = false := by decide
theorem witness_SeatSevenTrap :
    (stateD.seatAt 1 7).status ≠ .trapped ∧ isGridCore 1 = true ∧ 1 ≠ coxOf 1 ∧ isGridCore 0 = true ∧ 0 = coxOf 0 ∧ isBc 4099 = true ∧
      (State.reset.seatAt 4099 7).status ≠ .trapped := by decide
theorem witness_SoftwareTrap :
    Ready ctlD { rx := [1] } stateD ∧ stateD.thisSeat.status = .running ∧ stateD.seat ≠ 7 ∧ guardTrue ⟨false, true, 7⟩ stateD.thisSeat = false ∧
      Ready ctlD { rx := [1] } (stateD seatD {} 7) ∧ (stateD seatD {} 7).seat = 7 :=
  ⟨ready_plain _, by decide, by decide, by decide, ready_idle (by decide) (by decide) rfl _, rfl⟩
theorem witness_TrapFiringRegisters :
    (let k := { coreB with traps := [⟨0xF0, 0x05, some 3, [3, 16, 5, 2]⟩] }
     k.traps = ⟨0xF0 + ((0x05 : BitVec 8) >>> 4), 0x05, some 3, [BitVec.ofNat 64 3, 16, (0x05 : BitVec 8).setWidth 64, 2]⟩ :: [] ∧
      (k.getSeat 3).status = .trapped ∧ (k.getSeat 3).outs = [] ∧ seat7Free (stateE k) 1 = true ∧ handlerOf k 0xF0 = some 16 ∧
      k.starts 16 = true) := by decide +kernel
/-- Core 1 with page 0 mapped, and sealed or not. -/
def stateK (l : List (Nat × Nat)) : State := { stateD seatD pagedD with sealed := l }
/-- x2 and x11 hold an address; indices of words or halves. -/
def stateA (a : Word) (tag : BitVec 4 := 3) : State := stateD (setXs (seatV tag) [(2, a), (11, a)]) { ttRoot := 0x1001 }
theorem witness_MemoryChecks_ready (u : Uses) :
    Ready ctlD u (stateA 0x0100000000100000) ∧ Ready ctlD u (stateA 0) ∧ Ready ctlD u (stateA 0x0100000000000001) ∧
    Ready ctlD u (stateA 0x0100000000100000 2) ∧ Ready (halfCtl false) u (stateA 0x0100000000100000) ∧ Ready (halfCtl false) u (stateA 0) :=
  ⟨ready_of (by decide +kernel) rfl u, ready_of (by decide +kernel) rfl u, ready_of (by decide +kernel) rfl u, ready_of (by decide +kernel) rfl u,
    ready_of (by decide +kernel) rfl u, ready_of (by decide +kernel) rfl u⟩
theorem witness_MemoryChecks_stops :
    (∀ z ∈ [1, 2, 4, 8], ∀ w : Bool,
      let n : Need := if w then .write else .read
      checkScalar (stateA 0x0100000000100000) (stateA 0).me n (effAddr (stateA 0x0100000000100000) 2 0 z) z = some (0x11, 0x0100000000100000) ∧
      checkScalar (stateA 0) (stateA 0).me n (effAddr (stateA 0) 2 0 z) z = some (walkCause, 0)) ∧
    (∀ z ∈ [4, 8],
      checkScalar (stateA 0x0100000000100000) (stateA 0).me .read (effAddr (stateA 0x0100000000100000) (hx 3) (halfOff 0) z) z = some (0x11, 0x0100000000100000) ∧
      checkScalar (stateA 0) (stateA 0).me .write (effAddr (stateA 0) (hx 3) (halfOff 0) z) z = some (walkCause, 0) ∧
      checkAtomic (stateA 0) (stateA 0).me 0 z z = some (walkCause, 0) ∧ checkAtomic (stateA 0) (stateA 0).me 1 z z = some (0x10, 1) ∧
      checkAtomic (stateA 0) (stateA 0).me 0x0100000000000000 z z = some (0x11, 0x0100000000000000)) ∧
    (checkSync (stateA 0) 1 1 = some (0x10, 1) ∧ checkSync (stateA 0) 1 0 = some (0x11, 0) ∧ checkSync (stateA 0) 1 0x0100000000100000 = some (0x11, 0x0100000000100000) ∧
      checkSync (stateA 0) 1 0x0100000000000000 = none ∧ checkSync (stateA 0) 1 0x0200000000000000 = none) := by
  refine ⟨?_, ?_, ?_⟩ <;> decide +kernel
theorem witness_MemoryChecks_vectors :
    (activeBits 32 ((stateA 0).thisSeat.getK 0)).toNat ≠ 0 ∧
    checkVec (stateA 0) .read (vecBase (stateA 0) 2 512) 4 512 (activeBits 32 ((stateA 0).thisSeat.getK 0)).toNat = some (walkCause, 0) ∧
    checkVec (stateA 0x01000000000FFE04) .write (vecBase (stateA 0x01000000000FFE04) 2 512) 4 512 (activeBits 32 ((stateA 0).thisSeat.getK 0)).toNat =
      some (0x11, 0x0100000000100000) ∧
    checkVec (stateA 0x0100000000000001) .read 0x0100000000000001 32 32 (2 ^ 256 - 1) = some (0x10, 0x0100000000000001) ∧
    (∀ z ∈ [2, 4],
      let s := stateA 0x0100000000100000 (if z = 4 then 3 else 2)
      indexFault s.thisSeat 1 z = none ∧
      ((laneAddrs s.thisSeat 2 1 0 z).findSome? fun l => checkScalar s s.me .write l.2 z) = some (0x11, 0x0100000000100000)) := by decide +kernel
theorem witness_MemoryChecks :
    layoutOk (stateA 0) 1 0x01000000000FFFFF = true ∧ layoutOk (stateA 0) 1 0x0100000000100000 = false ∧
    layoutOk (stateA 0) 1 0x0000FFFFFFFFFFFF = true ∧ translate { stateA 0 with cores := [] } (.seat 1 0) .read 0 = .error 0x12 ∧
    (∀ z ∈ [1, 2, 4, 8], ((byteAddrs (BitVec.ofNat 64 (65536 - z)) z).all fun y => layoutOk (stateK []) 1 y && tagOf y == 0 &&
      (translate (stateK []) (stateK []).me .write (fld y 47 0)).isOk && (match leafOf (stateK []) (stateK []).me (fld y 47 0) with
        | .hit e => isSealed (stateK [(0x100000, 65536)]) (e.phys (fld y 47 0)) && !isSealed (stateK []) (e.phys (fld y 47 0))
        | _ => false)) = true) ∧
    ((byteAddrs 0x0300000002FFFFF8 8).all fun y => layoutOk (stateA 0) 1 y && tagOf y == 3) = true ∧
    ((byteAddrs 0x01000000000FFFF8 8).all fun y => layoutOk (stateA 0) 1 y && tagOf y == 1) = true := by decide +kernel
theorem witness_HardwiredRegisters :
    (31 : BitVec 5) ≠ 0 ∧ (6 : BitVec 3) ≠ 7 ∧ (3 : BitVec 2) ≠ 0 ∧ (0 : BitVec 5) ≠ 31 ∧ Ready ctlD { rx := [1, 2], wx := [0] } stateD :=
  ⟨by decide, by decide, by decide, by decide, ready_plain _⟩
theorem witness_RegisterInstructionFrame : (writesOf (.add ctlD 1 2 3)).isSome = true ∧ ∃ t, exec (.add ctlD 1 2 3) stateD = .next t :=
  ⟨rfl, _, rfl⟩
theorem witness_MemoryInstructionIssueFrame :
    (∃ t, exec (.ldB ctlD 1 2 3) stateD = .next t) ∧ ∃ t, exec (.vld ctlD 1 2 3 0) stateD = .next t := ⟨⟨_, rfl⟩, _, rfl⟩
theorem witness_PointOfOrderFrame :
    (∀ op ∈ [ReqOp.store, .amo .add 8 1 0],
     let p := pieceF (.hbm 0x100000 true) 8 7 .waiting
     findPiece (stateV (reqF op [p])) 5 0 = some (reqF op [p], p) ∧ 8 ≤ p.len) ∧ findPiece State.reset 5 0 = none ∧
    (∃ t, exec (.syncAccessArrival 5 0) State.reset = .next t) ∧
    (∃ t, exec (.storeAtHome 5 0) State.reset = .next t) ∧ (∃ t, exec (.loadAtHome 5 0) State.reset = .next t) ∧
    (∃ t, exec (.peerAccessArrival 5 0) State.reset = .next t) ∧ (∃ t, exec (.atomicAtHome 5) State.reset = .next t) ∧
    (∃ t, exec (.revocation 5) State.reset = .next t) ∧ ∃ t, exec (.revocationAck 5) State.reset = .next t :=
  ⟨by decide +kernel, by decide, ⟨_, rfl⟩, ⟨_, rfl⟩, ⟨_, rfl⟩, ⟨_, rfl⟩, ⟨_, rfl⟩, ⟨_, rfl⟩, _, rfl⟩
/-- The last word of the code space, a 16-bit word at the last parcel, and a repeated word. -/
def stateC (pc : Parcel) (code : List (Nat × Parcel)) (start : List Nat) (rpt : BitVec 11 := 0) : State :=
  stateD { seatD with pc := pc, rpt := rpt } { code := code, start := start }
theorem witness_StepRunsTheSchedule :
    (let s := stateC 0xFFFE [(0xFFFE, 0x9C02), (0xFFFF, 0x98E0)] [0xFFFE]
     repeating s = false ∧ s.thisCore.starts 0xFFFE = true ∧ s.thisCore.starts 0xFFFF = false ∧ (s.thisCore.parcel 0xFFFE).getLsbD 15 = true ∧
      badParcel s.thisCore 0xFFFE 2 = none ∧ isCore 1 = true ∧ idle s 1 = false ∧ seatOrder s 1 0 = [0] ∧
      seatOrder s 1 0xFF = [] ∧ isCore 4100 = false ∧ idle { s with chiplets := [(0, { cur := 7 })] } 1 = true) ∧
    fetch (onSeat (stateC 0xFFFE [(0xFFFE, 0x9C02), (0xFFFF, 0x98E0)] [0xFFFE]) 1 0) = .run (.add ctlD 5 6 7) ∧
    fetch (onSeat (stateC 0 [(0, 0x9D70), (1, 0x0011)] [0]) 1 0) = .illegal 0x9D700011 ∧
    fetch (onSeat (stateC 0xFFFE [(0xFFFE, 0x447D)] [0xFFFE]) 1 0) = .run (.hAddi true 1 0b111101) ∧
    (let s := stateC 8 [(8, 0x9FC0), (9, 0x0F80), (10, 0x9C02), (11, 0x98E0)] [8, 12] 2
     repeating s = true ∧ badParcel s.thisCore 8 4 = none) ∧
    isEvent (.storeAck 3) = true ∧ isEvent (.add ctlD 1 2 3) = false := by
  refine ⟨?_, ?_, ?_, ?_, ?_, ?_, ?_⟩ <;> decide +kernel
theorem witness_MemoriesAndLimits :
    State.reset.memoriesWf = true ∧ State.reset.powerWf = true ∧ State.reset.reservedWf = true ∧
      ∃ t, step (State.reset.withFetchWord 32 0x9C0298E0) = .next t := ⟨rfl, rfl, rfl, _, rfl⟩
theorem witness_RoundTripAll :
    (Instr.add ctlD 5 6 7).wellFormed = true ∧ encode (.add ctlD 5 6 7) ≠ [] := by decide

end Sys2Proof.Tests
end

section
/-! The registers keep their limits: the invariant of `State.powerWf` and `State.reservedWf` over every step. -/

namespace Sys2Proof.Machine

/-! ### The limits of the registers

`State.inLimits` says at once what `State.powerWf` and `State.reservedWf` say. A function of the model that writes none of these
registers leaves its value as it is, whatever the state: this is an equation, which `simp` carries through the functions that call it.
Only the few writers of the registers (`srWrite`, `writeShLink`, `prepareRank`, `takeCore`, `writeFarTt`, …) need the state to be
within its limits before. -/

/-- The reserved fields of DBG_CTL, TT_ROOT, TRET_CTL and SH_LINK are 0 (R178, R295, R324, R327). -/
def coreRegsInLimits (dbgCtl ttRoot tretCtl link : Word) : Bool :=
  dbgCtl &&& ~~~1 == 0 && ttRoot &&& ~~~0xFFFF00FFFFFFF001 == 0 && tretCtl &&& ~~~0xFFFF0307 == 0 &&
    link &&& ~~~0x8000FFFF0000FFFF == 0

/-- `Core.reservedWf`, defined by the fields of the core, so that its equation applies to an updated core. -/
def Core.inLimits : Core → Bool
  | { dbgCtl, ttRoot, tretCtl, shell, .. } => coreRegsInLimits dbgCtl ttRoot tretCtl shell.link

/-- POWCAP, PSTATE and the reserved fields of FAR_CFG, FAR_TT, SWITCH_BASE and of every core's registers (R7, R393). -/
def regsInLimits (cores : List (CoreId × Core)) (powcap pstate farCfg farTt switchBase : Word) : Bool :=
  (decide (1500 ≤ powcap.toNat) && decide (powcap.toNat ≤ 5800) && decide (pstate.toNat < 8)) &&
    (farCfg &&& ~~~0xFF1F030001 == 0 && farTt &&& ~~~0xFFFF00FFFFFFF001 == 0 && switchBase &&& ~~~0xFFFFE00000 == 0 &&
      cores.all fun e => e.2.inLimits)

/-- Every register of the module is within its limits. -/
def State.inLimits : State → Bool
  | { cores, powcap, pstate, farCfg, farTt, switchBase, .. } => regsInLimits cores powcap pstate farCfg farTt switchBase

theorem Core.inLimits_eq (k : Core) : k.inLimits = k.reservedWf := rfl

theorem State.inLimits_eq (s : State) : s.inLimits = (s.powerWf && s.reservedWf) := rfl

theorem State.inLimits_iff (s : State) : s.inLimits = true ↔ s.powerWf = true ∧ s.reservedWf = true := by
  rw [State.inLimits_eq, Bool.and_eq_true]

/-- What `inLimits` reads of an updated core. -/
@[simp] theorem Core.inLimits_mk : type_of% @Core.inLimits.eq_1 := @Core.inLimits.eq_1

/-- What `inLimits` reads of an updated state. -/
@[simp] theorem State.inLimits_mk : type_of% @State.inLimits.eq_1 := @State.inLimits.eq_1

@[simp] theorem coreRegsInLimits_fields (k : Core) :
    coreRegsInLimits k.dbgCtl k.ttRoot k.tretCtl k.shell.link = k.inLimits := by
  cases k
  rfl

@[simp] theorem regsInLimits_fields (s : State) :
    regsInLimits s.cores s.powcap s.pstate s.farCfg s.farTt s.switchBase = s.inLimits := by
  cases s
  rfl

@[simp] theorem Core.inLimits_ite (c : Prop) [Decidable c] (k l : Core) :
    (if c then k else l).inLimits = if c then k.inLimits else l.inLimits := apply_ite ..

@[simp] theorem State.inLimits_ite (c : Prop) [Decidable c] (s t : State) :
    (if c then s else t).inLimits = if c then s.inLimits else t.inLimits := apply_ite ..

@[simp] theorem Core.default_inLimits : ({} : Core).inLimits = true := by decide

@[simp] theorem State.reset_inLimits : State.reset.inLimits = true := by decide

@[simp] theorem Core.foldl_inLimits {α : Type} (f : Core → α → Core) (h : ∀ k a, (f k a).inLimits = k.inLimits) (l : List α)
    (k : Core) :
    (l.foldl f k).inLimits = k.inLimits := by
  induction l generalizing k with
  | nil => rfl
  | cons a l ih => rw [List.foldl_cons, ih, h]

@[simp] theorem State.foldl_inLimits {α : Type} (f : State → α → State) (h : ∀ s a, (f s a).inLimits = s.inLimits) (l : List α)
    (s : State) : (l.foldl f s).inLimits = s.inLimits := by
  induction l generalizing s with
  | nil => rfl
  | cons a l ih => rw [List.foldl_cons, ih, h]

theorem State.foldl_keepsLimits {α : Type} (f : State → α → State) (hf : ∀ s a, s.inLimits = true → (f s a).inLimits = true)
    (l : List α) {s : State} (h : s.inLimits = true) : (l.foldl f s).inLimits = true := by
  induction l generalizing s with
  | nil => exact h
  | cons a l ih => exact ih (hf s a h)

/-! ### The table of the cores -/

/-- A value written under a key that a property does not tell from the one before leaves the property of all values as it is. -/
theorem all_tset_same {α : Type} (d : α) (p : α → Bool) (hd : p d = true) (l : List (Nat × α)) (i : Nat) (v : α)
    (h : p v = p (tget d l i)) : ((tset l i v).all fun e => p e.2) = l.all fun e => p e.2 := by
  induction l with
  | nil => simpa [tset, tget, hd] using h
  | cons e t ih =>
    obtain ⟨k, w⟩ := e
    rw [tget] at h
    rw [tset]
    split_ifs with lt eq
    · rw [if_neg (Nat.ne_of_lt lt)] at h
      cases ht : t.all fun e => p e.2 with
      | false => simp [ht]
      | true => simp [ht, h, tget_all d p t i ht hd]
    · rw [if_pos eq] at h
      simp [h]
    · rw [if_neg eq] at h
      simp [ih h]

theorem regsInLimits_congr {l l' : List (CoreId × Core)} (h : (l.all fun e => e.2.inLimits) = l'.all fun e => e.2.inLimits)
    (powcap pstate farCfg farTt switchBase : Word) :
    regsInLimits l powcap pstate farCfg farTt switchBase = regsInLimits l' powcap pstate farCfg farTt switchBase := by
  rw [regsInLimits, regsInLimits, h]

@[simp] theorem regsInLimits_map (f : CoreId × Core → CoreId × Core) (h : ∀ c k, (f (c, k)).2.inLimits = k.inLimits)
    (l : List (CoreId × Core)) (powcap pstate farCfg farTt switchBase : Word) :
    regsInLimits (l.map f) powcap pstate farCfg farTt switchBase = regsInLimits l powcap pstate farCfg farTt switchBase := by
  apply regsInLimits_congr
  rw [List.all_map]
  exact congrArg l.all (funext fun e => h e.1 e.2)

theorem State.cores_inLimits {s : State} (h : s.inLimits = true) : (s.cores.all fun e => e.2.inLimits) = true := by
  simp only [State.inLimits, regsInLimits, Bool.and_eq_true] at h
  exact h.2.2

theorem State.getCore_inLimits {s : State} (h : s.inLimits = true) (c : CoreId) : (s.getCore c).inLimits = true :=
  tget_all ({} : Core) Core.inLimits s.cores c (State.cores_inLimits h) Core.default_inLimits

theorem State.setCore_all (s : State) (c : CoreId) (k : Core) (h : k.inLimits = (s.getCore c).inLimits) :
    ((s.setCore c k).cores.all fun e => e.2.inLimits) = s.cores.all fun e => e.2.inLimits :=
  all_tset_same ({} : Core) Core.inLimits Core.default_inLimits s.cores c k h

@[simp] theorem State.setCore_inLimits (s : State) (c : CoreId) (k : Core) (h : k.inLimits = (s.getCore c).inLimits) :
    (s.setCore c k).inLimits = s.inLimits := regsInLimits_congr (s.setCore_all c k h) ..

theorem State.setCore_keepsLimits {s : State} (h : s.inLimits = true) (c : CoreId) {k : Core} (hk : k.inLimits = true) :
    (s.setCore c k).inLimits = true := by
  rw [State.setCore_inLimits s c k (hk.trans (State.getCore_inLimits h c).symm), h]

@[simp] theorem State.updCore_inLimits (s : State) (c : CoreId) (f : Core → Core) (h : ∀ k, (f k).inLimits = k.inLimits) :
    (s.updCore c f).inLimits = s.inLimits := s.setCore_inLimits c _ (h _)

theorem State.updCore_keepsLimits {s : State} (h : s.inLimits = true) (c : CoreId) {f : Core → Core}
    (hf : ∀ k : Core, k.inLimits = true → (f k).inLimits = true) : (s.updCore c f).inLimits = true :=
  State.setCore_keepsLimits h c (hf _ (State.getCore_inLimits h c))

@[simp] theorem State.updThisCore_inLimits (s : State) (f : Core → Core) (h : ∀ k, (f k).inLimits = k.inLimits) :
    (s.updThisCore f).inLimits = s.inLimits := s.setCore_inLimits s.core _ (h _)

theorem State.updThisCore_keepsLimits {s : State} (h : s.inLimits = true) {f : Core → Core}
    (hf : ∀ k : Core, k.inLimits = true → (f k).inLimits = true) : (s.updThisCore f).inLimits = true :=
  State.updCore_keepsLimits h s.core hf

/-! The updates of a core under a further update of the state, once `simp` has read the other registers through them. -/

section
variable (s : State) (powcap pstate farCfg farTt switchBase : Word)

@[simp] theorem regsInLimits_setCore (c : CoreId) (k : Core) (h : k.inLimits = (s.getCore c).inLimits) :
    regsInLimits (s.setCore c k).cores powcap pstate farCfg farTt switchBase =
      regsInLimits s.cores powcap pstate farCfg farTt switchBase := regsInLimits_congr (s.setCore_all c k h) ..

@[simp] theorem regsInLimits_updCore (c : CoreId) (f : Core → Core) (h : ∀ k, (f k).inLimits = k.inLimits) :
    regsInLimits (s.updCore c f).cores powcap pstate farCfg farTt switchBase =
      regsInLimits s.cores powcap pstate farCfg farTt switchBase := regsInLimits_congr (s.setCore_all c _ (h _)) ..

@[simp] theorem regsInLimits_updThisCore (f : Core → Core) (h : ∀ k, (f k).inLimits = k.inLimits) :
    regsInLimits (s.updThisCore f).cores powcap pstate farCfg farTt switchBase =
      regsInLimits s.cores powcap pstate farCfg farTt switchBase := regsInLimits_updCore s powcap _ _ _ _ s.core f h

@[simp] theorem regsInLimits_updSeatAt (c : CoreId) (n : Nat) (f : Seat → Seat) :
    regsInLimits (s.updSeatAt c n f).cores powcap pstate farCfg farTt switchBase =
      regsInLimits s.cores powcap pstate farCfg farTt switchBase :=
  regsInLimits_updCore s powcap _ _ _ _ c _ fun _ => rfl

@[simp] theorem regsInLimits_updThisSeat (f : Seat → Seat) :
    regsInLimits (s.updThisSeat f).cores powcap pstate farCfg farTt switchBase =
      regsInLimits s.cores powcap pstate farCfg farTt switchBase :=
  regsInLimits_updThisCore s powcap _ _ _ _ _ fun _ => rfl

end

/-! ### How an instruction ends -/

/-- What the effect of an instruction leaves is within the limits. -/
def Act.InLimits : Act → Prop
  | .next s | .goto s _ | .trapIn s _ _ | .stop s => s.inLimits = true
  | .trap .. | .block | .walk _ => True

section
variable (s : State) (cause : BitVec 8) (val : Word)

@[simp] theorem Act.next_inLimits : (Act.next s).InLimits ↔ s.inLimits = true := Iff.rfl
@[simp] theorem Act.goto_inLimits (target : BitVec 16) : (Act.goto s target).InLimits ↔ s.inLimits = true := Iff.rfl
@[simp] theorem Act.trapIn_inLimits : (Act.trapIn s cause val).InLimits ↔ s.inLimits = true := Iff.rfl
@[simp] theorem Act.stop_inLimits : (Act.stop s).InLimits ↔ s.inLimits = true := Iff.rfl
@[simp] theorem Act.trap_inLimits : (Act.trap cause val).InLimits := trivial
@[simp] theorem Act.block_inLimits : Act.block.InLimits := trivial
@[simp] theorem Act.walk_inLimits : (Act.walk val).InLimits := trivial

@[simp] theorem Act.inLimits_ite (c : Prop) [Decidable c] (a b : Act) :
    (if c then a else b).InLimits ↔ if c then a.InLimits else b.InLimits := by
  rw [apply_ite Act.InLimits]

end

/-- The next state, where there is one, is within the limits. -/
def NextInLimits : Result → Prop
  | .next s => s.inLimits = true
  | .fault _ | .refused _ => True

@[simp] theorem nextInLimits_next (s : State) : NextInLimits (.next s) ↔ s.inLimits = true := Iff.rfl

theorem nextInLimits_iff (r : Result) : NextInLimits r ↔ ∀ t, r = .next t → t.inLimits = true := by
  cases r <;> simp [NextInLimits]

/-! ### Writing a register -/

theorem and_and_not_beq_zero {n : Nat} (v mask : BitVec n) : ((v &&& mask) &&& ~~~mask == 0) = true := by
  simp [BitVec.and_assoc]

theorem coreRegsInLimits_iff (dbgCtl ttRoot tretCtl link : Word) : coreRegsInLimits dbgCtl ttRoot tretCtl link = true ↔
    (dbgCtl &&& ~~~1 == 0) = true ∧ (ttRoot &&& ~~~0xFFFF00FFFFFFF001 == 0) = true ∧ (tretCtl &&& ~~~0xFFFF0307 == 0) = true ∧
      (link &&& ~~~0x8000FFFF0000FFFF == 0) = true := by
  simp only [coreRegsInLimits, Bool.and_eq_true, and_assoc]

theorem regsInLimits_iff (cores : List (CoreId × Core)) (powcap pstate farCfg farTt switchBase : Word) :
    regsInLimits cores powcap pstate farCfg farTt switchBase = true ↔
      1500 ≤ powcap.toNat ∧ powcap.toNat ≤ 5800 ∧ pstate.toNat < 8 ∧ (farCfg &&& ~~~0xFF1F030001 == 0) = true ∧
        (farTt &&& ~~~0xFFFF00FFFFFFF001 == 0) = true ∧ (switchBase &&& ~~~0xFFFFE00000 == 0) = true ∧
        (cores.all fun e => e.2.inLimits) = true := by
  simp only [regsInLimits, Bool.and_eq_true, decide_eq_true_eq, and_assoc]

section
variable {dbgCtl ttRoot tretCtl link : Word} (h : coreRegsInLimits dbgCtl ttRoot tretCtl link = true) (v : Word)
include h

theorem coreRegsInLimits_dbgCtl : coreRegsInLimits (v &&& 1) ttRoot tretCtl link = true := by
  rw [coreRegsInLimits_iff] at h ⊢
  exact ⟨and_and_not_beq_zero v _, h.2⟩

theorem coreRegsInLimits_ttRoot : coreRegsInLimits dbgCtl (v &&& 0xFFFF00FFFFFFF001) tretCtl link = true := by
  rw [coreRegsInLimits_iff] at h ⊢
  exact ⟨h.1, and_and_not_beq_zero v _, h.2.2⟩

theorem coreRegsInLimits_tretCtl : coreRegsInLimits dbgCtl ttRoot (v &&& 0xFFFF0307) link = true := by
  rw [coreRegsInLimits_iff] at h ⊢
  exact ⟨h.1, h.2.1, and_and_not_beq_zero v _, h.2.2.2⟩

theorem coreRegsInLimits_link : coreRegsInLimits dbgCtl ttRoot tretCtl (v &&& 0x8000FFFF0000FFFF) = true := by
  rw [coreRegsInLimits_iff] at h ⊢
  exact ⟨h.1, h.2.1, h.2.2.1, and_and_not_beq_zero v _⟩

end

/-- `LAST_SEQ` is no reserved field of SH_LINK (R295). -/
theorem link_lastSeq_reserved (link : Word) (seq : BitVec 16) :
    (link.extractLsb' 16 48 ++ seq) &&& ~~~0x8000FFFF0000FFFF = link &&& ~~~0x8000FFFF0000FFFF := by
  have low : ∀ i < 16, (~~~0x8000FFFF0000FFFF : Word).getLsbD i = false := by decide
  refine BitVec.eq_of_getLsbD_eq fun i hi => ?_
  rw [BitVec.getLsbD_and, BitVec.getLsbD_and, BitVec.getLsbD_append]
  by_cases h : i < 16
  · rw [low i h, Bool.and_false, Bool.and_false]
  · rw [if_neg h, BitVec.getLsbD_extractLsb']
    have : 16 + (i - 16) = i := by omega
    simp [this, show i - 16 < 48 by omega]

@[simp] theorem coreRegsInLimits_lastSeq (dbgCtl ttRoot tretCtl link : Word) (seq : BitVec 16) :
    coreRegsInLimits dbgCtl ttRoot tretCtl (link.extractLsb' 16 48 ++ seq) = coreRegsInLimits dbgCtl ttRoot tretCtl link := by
  rw [coreRegsInLimits, coreRegsInLimits, link_lastSeq_reserved]

@[simp] theorem State.elim_inLimits {α : Type} (o : Option α) (s : State) (f : α → State) (hf : ∀ a, (f a).inLimits = s.inLimits) :
    (o.elim s f).inLimits = s.inLimits := by
  cases o with
  | none => rfl
  | some a => exact hf a

/-! ### What the functions of the state leave

One lemma per function, in the order of the model. `simp` composes those of the functions that are called. -/

/-! #### The updates of the state, traps and firings -/

@[simp] theorem State.setCluster_inLimits (s : State) (n : Nat) (k : Cluster) : (s.setCluster n k).inLimits = s.inLimits := by
  simp [State.setCluster]

@[simp] theorem State.updCluster_inLimits (s : State) (n : Nat) (f : Cluster → Cluster) :
    (s.updCluster n f).inLimits = s.inLimits := by
  simp [State.updCluster]

@[simp] theorem State.setChiplet_inLimits (s : State) (n : Nat) (k : Chiplet) : (s.setChiplet n k).inLimits = s.inLimits := by
  simp [State.setChiplet]

@[simp] theorem State.updChiplet_inLimits (s : State) (n : Nat) (f : Chiplet → Chiplet) :
    (s.updChiplet n f).inLimits = s.inLimits := by
  simp [State.updChiplet]

@[simp] theorem Core.setSeat_inLimits (k : Core) (n : Nat) (v : Seat) : (k.setSeat n v).inLimits = k.inLimits := by
  simp [Core.setSeat]

@[simp] theorem Core.updSeat_inLimits (k : Core) (n : Nat) (f : Seat → Seat) : (k.updSeat n f).inLimits = k.inLimits := by
  simp [Core.updSeat]

@[simp] theorem State.setSeatAt_inLimits (s : State) (c : CoreId) (n : Nat) (v : Seat) :
    (s.setSeatAt c n v).inLimits = s.inLimits := by
  simp [State.setSeatAt]

@[simp] theorem State.updSeatAt_inLimits (s : State) (c : CoreId) (n : Nat) (f : Seat → Seat) :
    (s.updSeatAt c n f).inLimits = s.inLimits := by
  simp [State.updSeatAt]

@[simp] theorem State.setThisSeat_inLimits (s : State) (v : Seat) : (s.setThisSeat v).inLimits = s.inLimits := by
  simp [State.setThisSeat]

@[simp] theorem State.updThisSeat_inLimits (s : State) (f : Seat → Seat) : (s.updThisSeat f).inLimits = s.inLimits := by
  simp [State.updThisSeat]

@[simp] theorem State.forget_inLimits (s : State) (u : Asker) : (s.forget u).inLimits = s.inLimits := by
  simp [State.forget]

@[simp] theorem Core.news_inLimits (k : Core) : k.news.inLimits = k.inLimits := by
  simp [Core.news]

@[simp] theorem State.bump_inLimits (s : State) : s.bump.inLimits = s.inLimits := by
  simp [State.bump]

@[simp] theorem State.ticked_inLimits (s : State) : s.ticked.inLimits = s.inLimits := by
  simp [State.ticked]

@[simp] theorem queueTrap_inLimits (s : State) (c : CoreId) (seat : Nat) (cause : BitVec 8) (regs : List Word) :
    (queueTrap s c seat cause regs).inLimits = s.inLimits := by
  simp [queueTrap]

@[simp] theorem Core.addEvent_inLimits (k : Core) (q : Queued) : (k.addEvent q).inLimits = k.inLimits := by
  simp [Core.addEvent]

@[simp] theorem Core.dropEvent_inLimits (k : Core) : k.dropEvent.inLimits = k.inLimits := by
  simp [Core.dropEvent]

@[simp] theorem queueEvent_inLimits (s : State) (c : CoreId) (code : BitVec 8) (x17 : Word) (rest : List Word) :
    (queueEvent s c code x17 rest).inLimits = s.inLimits := by
  simp [queueEvent]

@[simp] theorem fenceNotice_inLimits (s : State) (cox : CoreId) (unit index : Nat) :
    (fenceNotice s cox unit index).inLimits = s.inLimits := by
  simp [fenceNotice]

@[simp] theorem Core.count_inLimits (k : Core) (launch : Option Nat) (n : Nat) : (k.count launch n).inLimits = k.inLimits := by
  unfold Core.count
  split <;> simp

@[simp] theorem endFiring_inLimits (s : State) (c : CoreId) (n : Nat) : (endFiring s c n).inLimits = s.inLimits := by
  simp [endFiring]

@[simp] theorem withdraw_inLimits (s : State) (c : CoreId) (n : Nat) : (withdraw s c n).inLimits = s.inLimits := by
  simp [withdraw]

@[simp] theorem killFiring_inLimits (s : State) (c : CoreId) (n : Nat) : (killFiring s c n).inLimits = s.inLimits := by
  simp [killFiring]

@[simp] theorem fenceSeatAt_inLimits (s : State) (c : CoreId) (n : Nat) : (fenceSeatAt s c n).inLimits = s.inLimits := by
  simp [fenceSeatAt]

@[simp] theorem toFirmware_inLimits (s : State) (basecamp : Nat) (header : Word) (regs : List Word) :
    (toFirmware s basecamp header regs).inLimits = s.inLimits := by
  simp [toFirmware]

@[simp] theorem doubleTrap_inLimits (s : State) (c : CoreId) : (doubleTrap s c).inLimits = s.inLimits := by
  simp [doubleTrap]

@[simp] theorem trapSeat_inLimits (s : State) (c : CoreId) (n : Nat) (cause : BitVec 8) (val : Word) (pc rpc : Parcel) :
    (trapSeat s c n cause val pc rpc).inLimits = s.inLimits := by
  simp [trapSeat]

@[simp] theorem precise_inLimits (s : State) (cause : BitVec 8) (val : Word) : (precise s cause val).inLimits = s.inLimits := by
  simp [precise]

@[simp] theorem lateError_inLimits (s : State) (c : CoreId) (n firing : Nat) (pc : Parcel) (cause : BitVec 8) (val : Word) :
    (lateError s c n firing pc cause val).inLimits = s.inLimits := by
  simp [lateError]

@[simp] theorem settle_inLimits (s : State) (c : CoreId) (n : Nat) : (settle s c n).inLimits = s.inLimits := by
  unfold settle
  dsimp only
  (repeat' split) <;> simp

@[simp] theorem lower_inLimits (s : State) (c : CoreId) (n id : Nat) : (lower s c n id).inLimits = s.inLimits := by
  simp [lower]

@[simp] theorem updOut_inLimits (s : State) (c : CoreId) (n id : Nat) (f : Out → Out) :
    (updOut s c n id f).inLimits = s.inLimits := by
  simp [updOut]

@[simp] theorem answer_inLimits (s : State) (c : CoreId) (n id : Nat) (a : Answer) :
    (answer s c n id a).inLimits = s.inLimits := by
  simp [answer]

/-! #### The translation buffers -/

@[simp] theorem fillTlb_inLimits (s : State) (c : CoreId) (e : Tlb) : (fillTlb s c e).inLimits = s.inLimits := by
  simp [fillTlb]

/-! #### Packets and requests -/

@[simp] theorem addPacket_inLimits (s : State) (p : Packet) : (addPacket s p).inLimits = s.inLimits := by
  simp [addPacket]

@[simp] theorem dropPacket_inLimits (s : State) (id : Nat) : (dropPacket s id).inLimits = s.inLimits := by
  simp [dropPacket]

@[simp] theorem newPacket_inLimits (s : State) (src dst : CoreId) (rank : BitVec 16) (tc : Nat) (body : Body) (mc : Option Nat)
    (far : Option Nat) (m : BitVec 2) :
    (newPacket s src dst rank tc body mc far m).inLimits = s.inLimits := by
  simp [newPacket]

@[simp] theorem updSent_inLimits (s : State) (orig : Nat) (f : Sent → Sent) : (updSent s orig f).inLimits = s.inLimits := by
  simp [updSent]

@[simp] theorem dropSent_inLimits (s : State) (orig : Nat) : (dropSent s orig).inLimits = s.inLimits := by
  simp [dropSent]

@[simp] theorem answerPacket_inLimits (s : State) (p : Packet) (body : Body) : (answerPacket s p body).inLimits = s.inLimits := by
  simp [answerPacket]

@[simp] theorem takePacket_inLimits (s : State) (p : Packet) (body : Body) : (takePacket s p body).inLimits = s.inLimits := by
  simp [takePacket]

@[simp] theorem sendPiece_inLimits (s : State) (r : Req) (i : Nat) (p : Piece) : (sendPiece s r i p).inLimits = s.inLimits := by
  unfold sendPiece
  split <;> simp

@[simp] theorem answerPiece_inLimits (s : State) (r : Req) (i : Nat) (p : Piece) :
    (answerPiece s r i p).inLimits = s.inLimits := by
  unfold answerPiece
  split <;> simp

theorem number_inLimits (who : Nat) (l : List Piece) (s : State) : (number s who l).1.inLimits = s.inLimits := by
  obtain ⟨q, e⟩ := number_state who l s
  simp [e]

@[simp] theorem postReq_inLimits (s : State) (r : Req) : (postReq s r).inLimits = s.inLimits := by
  obtain ⟨ps, q, n, f, e⟩ := postReq_state s r
  simp [e]

@[simp] theorem askWalk_inLimits (s : State) (u : Asker) (root : Word) (va : Nat) :
    (askWalk s u root va).inLimits = s.inLimits := by
  unfold askWalk
  dsimp only
  (repeat' split) <;> simp

/-! #### How an instruction issues and retires -/

@[simp] theorem advance_inLimits (sw : Bool) (len : Nat) (s : State) : (advance sw len s).inLimits = s.inLimits := by
  simp [advance]

@[simp] theorem retire_inLimits (sw : Bool) (len : Nat) (s : State) : (retire sw len s).inLimits = s.inLimits := by
  simp [retire]

@[simp] theorem jump_inLimits (sw : Bool) (target : BitVec 16) (s : State) : (jump sw target s).inLimits = s.inLimits := by
  simp [jump]

@[simp] theorem blocked_inLimits (s : State) : (blocked s).inLimits = s.inLimits := by
  simp [blocked]

theorem finish_keepsLimits {sw : Bool} {len : Nat} {s : State} {a : Act} (h : s.inLimits = true) (ha : a.InLimits) :
    (finish sw len s a).inLimits = true := by
  cases a <;> simp_all [finish]

theorem issue_inLimits {c : Ctl} {len : Nat} {u : Uses} {body : State → Act} {s : State} (h : s.inLimits = true)
    (hb : (body s).InLimits) : NextInLimits (issue c len u body s) := by
  have hf := finish_keepsLimits (sw := c.sw) (len := len) h hb
  unfold issue
  (repeat' split) <;> simp [h, hf]

theorem issueS_inLimits {word : BitVec 32} {c : Ctl} {u : Uses} {body : State → Act} {s : State} (h : s.inLimits = true)
    (hb : (body s).InLimits) : NextInLimits (issueS word c u body s) := by
  unfold issueS
  split
  · exact issue_inLimits h hb
  · simp [h]

@[simp] theorem putX_inLimits (s : State) (d : BitVec 5) (w : Word) : (putX s d w).InLimits ↔ s.inLimits = true := by
  simp [putX]

@[simp] theorem putV_inLimits (s : State) (d tag : BitVec 4) (data : BitVec 4096) :
    (putV s d tag data).InLimits ↔ s.inLimits = true := by
  simp [putV]

@[simp] theorem putK_inLimits (s : State) (d : BitVec 2) (w : BitVec 1024) : (putK s d w).InLimits ↔ s.inLimits = true := by
  simp [putK]

@[simp] theorem raise_inLimits (s : State) (target : Target) (acq : Bool) (what : Pending) (ans : Answer) (left : List Nat) :
    (raise s target acq what ans left).inLimits = s.inLimits := by
  simp [raise]

/-! #### Operands -/

@[simp] theorem formatTrap_inLimits (r tag : BitVec 4) : (formatTrap r tag).InLimits := trivial

/-! #### Conditions -/

@[simp] theorem putCond_inLimits (s : State) (p e : BitVec 3) (b : Bool) : (putCond s p e b).InLimits ↔ s.inLimits = true := by
  simp [putCond]

/-! #### Memory accesses at issue -/

@[simp] theorem updLine_inLimits (k : Core) (line : Nat) (f : L1Line → L1Line) : (updLine k line f).inLimits = k.inLimits := by
  simp [updLine]

@[simp] theorem l1Store_inLimits (k : Core) (p : Piece) : (l1Store k p).inLimits = k.inLimits := by
  unfold l1Store
  split <;> simp

@[simp] theorem l1Drop_inLimits (k : Core) (pa : Nat) : (l1Drop k pa).inLimits = k.inLimits := by
  simp [l1Drop]

@[simp] theorem acquireInv_inLimits (s : State) (c : CoreId) : (acquireInv s c).inLimits = s.inLimits := by
  simp [acquireInv]

@[simp] theorem dropReplicas_inLimits (s : State) (pa n : Nat) : (dropReplicas s pa n).inLimits = s.inLimits := by
  simp [dropReplicas]

@[simp] theorem noteTlb_inLimits (s : State) (u : Asker) (l : List Piece) : (noteTlb s u l).inLimits = s.inLimits := by
  refine State.foldl_inLimits _ (fun s p => ?_) l s
  (repeat' split) <;> simp

@[simp] theorem post_inLimits (s : State) (id : Nat) (op : ReqOp) (pieces : List Piece) :
    (post s id op pieces).inLimits = s.inLimits := by
  simp [post]

@[simp] theorem postLoad_inLimits (s : State) (target : Target) (acq : Bool) (op : ReqOp) (pieces : List Piece) (left : List Nat) :
    (postLoad s target acq op pieces left).inLimits = s.inLimits := by
  simp [postLoad]

@[simp] theorem postStore_inLimits (s : State) (pieces : List Piece) : (postStore s pieces).inLimits = s.inLimits := by
  simp [postStore]

@[simp] theorem postStoreOut_inLimits (s : State) (pieces : List Piece) : (postStoreOut s pieces).inLimits = s.inLimits := by
  simp [postStoreOut]

@[simp] theorem leave_inLimits {s : State} {pieces : List Piece} {f : State → State} (hf : (f s).inLimits = true) :
    (leave s pieces f).InLimits := by
  simp [leave, hf]

/-! #### Memory instructions -/

@[simp] theorem faultAct_inLimits (r : BitVec 8 × Word) : (faultAct r).InLimits := by
  simp [faultAct]

@[simp] theorem fenced_inLimits {s : State} {a : Act} (ha : a.InLimits) : (fenced s a).InLimits := by
  simp [fenced, ha]

@[simp] theorem markPage_inLimits (on : Bool) (pa n : Nat) (table : List (Nat × Nat)) (s : State) :
    (markPage on pa n table s).inLimits = s.inLimits := by
  simp [markPage]

theorem sealPages_inLimits (on : Bool) (lo hi fuel va : Nat) (s : State) (l : List (Nat × Nat)) :
    (sealPages on lo hi fuel va s l).1.inLimits = s.inLimits := by
  induction fuel generalizing va s l with
  | zero => rfl
  | succ fuel ih =>
    rw [sealPages]
    split
    · rfl
    · split
      · rfl
      · dsimp only
        generalize (if on then _ else _ : List (Nat × Nat)) = table
        split
        · rfl
        · rw [ih, markPage_inLimits]

/-! #### Vector memory -/

theorem indexFault_inLimits {t : Seat} {x : BitVec 4} {size : Nat} {a : Act} (h : indexFault t x size = some a) : a.InLimits := by
  simp only [indexFault, Option.ite_none_left_eq_some, Option.some.injEq] at h
  simp [← h.2]

/-! #### Accesses at their home -/

@[simp] theorem updReq_inLimits (s : State) (id : Nat) (f : Req → Req) : (updReq s id f).inLimits = s.inLimits := by
  simp [updReq]

@[simp] theorem updPiece_inLimits (s : State) (id i : Nat) (f : Piece → Piece) : (updPiece s id i f).inLimits = s.inLimits := by
  simp [updPiece]

@[simp] theorem arrived_inLimits (s : State) (r : Req) (p : Piece) : (arrived s r p).inLimits = s.inLimits := by
  simp [arrived]

@[simp] theorem Place.write_inLimits (s : State) (n : Nat) (mask data : BitVec 64) (p : Place) :
    (p.write s n mask data).inLimits = s.inLimits := by
  cases p <;> simp [Place.write]

@[simp] theorem Place.unpoison_inLimits (s : State) (g : Nat) (p : Place) : (p.unpoison s g).inLimits = s.inLimits := by
  cases p <;> simp [Place.unpoison]

@[simp] theorem fillL1_inLimits (s : State) (c : CoreId) (pa : Nat) : (fillL1 s c pa).inLimits = s.inLimits := by
  unfold fillL1
  dsimp only
  split
  · simp
  · refine (State.setCore_inLimits _ _ _ ?_).trans s.ticked_inLimits
    simp

@[simp] theorem invalidateWord_inLimits (k : Core) (word : Nat) : (invalidateWord k word).inLimits = k.inLimits := by
  simp [invalidateWord]

@[simp] theorem ownWord_inLimits (s : State) (c : CoreId) (word : Nat) : (ownWord s c word).inLimits = s.inLimits := by
  simp [ownWord]

@[simp] theorem markDirty_inLimits (s : State) (pa : Nat) : (markDirty s pa).inLimits = s.inLimits := by
  simp [markDirty]

@[simp] theorem sendRev_inLimits (s : State) (word : Nat) (o : CoreId) (id i : Nat) :
    (sendRev s word o id i).inLimits = s.inLimits := by
  simp [sendRev]

@[simp] theorem takeWord_inLimits (c : Option CoreId) (id i : Nat) (s : State) (word : Nat) :
    (takeWord c id i s word).inLimits = s.inLimits := by
  unfold takeWord
  split <;> simp

@[simp] theorem changeWords_inLimits (owner : Option CoreId) (id i pa n : Nat) (words : List Nat) (s : State) :
    (changeWords owner id i pa n words s).inLimits = s.inLimits := by
  unfold changeWords
  split <;> simp

@[simp] theorem performLoad_inLimits (s : State) (r : Req) (i : Nat) (p : Piece) :
    (performLoad s r i p).inLimits = s.inLimits := by
  unfold performLoad
  (repeat' split) <;> simp

@[simp] theorem drainL1_inLimits (s : State) (r : Req) (p : Piece) (pa : Nat) : (drainL1 s r p pa).inLimits = s.inLimits := by
  simp [drainL1]

@[simp] theorem performWb_inLimits (s : State) (r : Req) (i : Nat) (p : Piece) : (performWb s r i p).inLimits = s.inLimits := by
  unfold performWb
  split <;> simp

@[simp] theorem performStore_inLimits (s : State) (r : Req) (i : Nat) (p : Piece) :
    (performStore s r i p).inLimits = s.inLimits := by
  unfold performStore
  dsimp only
  split
  · simp
  · split <;> simp

@[simp] theorem performAmo_inLimits (s : State) (r : Req) (i : Nat) (p : Piece) (op : AmoOp) (size : Nat) (b d : Word) :
    (performAmo s r i p op size b d).inLimits = s.inLimits := by
  unfold performAmo
  split
  · simp
  · dsimp only
    split <;> simp

theorem trySync_inLimits {s t : State} {owner : CoreId} {word : Nat} {r : Req} {p : Piece} (h : trySync s owner word r p = some t) :
    t.inLimits = s.inLimits := by
  unfold trySync at h
  dsimp only at h
  (repeat' split at h) <;> cases h <;> simp

@[simp] theorem serveWord_inLimits (owner : CoreId) (word n : Nat) (s : State) :
    (serveWord owner word n s).inLimits = s.inLimits := by
  induction n generalizing s with
  | zero => rfl
  | succ n ih =>
    unfold serveWord
    dsimp only
    split
    case h_1 id s' e =>
      obtain ⟨w, -, hw⟩ := List.exists_of_findSome?_eq_some e
      split at hw
      · obtain ⟨t, ht, e⟩ := Option.map_eq_some_iff.1 hw
        obtain ⟨q, -, hq⟩ := Option.bind_eq_some_iff.1 ht
        cases e
        simp [ih, trySync_inLimits hq]
      · cases hw
    case h_2 => rfl

@[simp] theorem serve_inLimits (s : State) (owner : CoreId) (word : Nat) : (serve s owner word).inLimits = s.inLimits := by
  simp [serve]

@[simp] theorem arriveSync_inLimits (s : State) (r : Req) (p : Piece) (owner : CoreId) (word : Nat) :
    (arriveSync s r p owner word).inLimits = s.inLimits := by
  unfold arriveSync
  split
  case h_1 t e => simp [trySync_inLimits e]
  case h_2 => simp

@[simp] theorem setFull_inLimits (s : State) (owner : CoreId) (word : Nat) (full : Bool) :
    (setFull s owner word full).inLimits = s.inLimits := by
  simp [setFull]

theorem engineWrite_inLimits {s t : State} {c : CoreId} {off : Nat} {bytes : List Byte} (h : engineWrite s c off bytes = some t) :
    t.inLimits = s.inLimits := by
  unfold engineWrite at h
  dsimp only at h
  (repeat' split at h) <;> cases h <;> simp

@[simp] theorem revokeNow_inLimits (s : State) (word : Nat) : (revokeNow s word).inLimits = s.inLimits := by
  unfold revokeNow
  split <;> simp

@[simp] theorem hbmPut_inLimits (s : State) (pa : Nat) (bytes : List Byte) : (hbmPut s pa bytes).inLimits = s.inLimits := by
  simp [hbmPut]

@[simp] theorem agentWrite_inLimits (s : State) (pa : Nat) (bytes : List Byte) :
    (agentWrite s pa bytes).inLimits = s.inLimits := by
  simp [agentWrite]

@[simp] theorem firmwareBytes_inLimits (s : State) (b pa : Nat) (bytes : List Byte) :
    (firmwareBytes s b pa bytes).inLimits = s.inLimits := by
  simp [firmwareBytes]

/-! #### Events of the memory -/

@[simp] theorem sendAnswer_inLimits (s : State) (req i : Nat) : (sendAnswer s req i).inLimits = s.inLimits := by
  unfold sendAnswer
  split <;> simp

@[simp] theorem takeCopy_inLimits (s : State) (r : Req) (i : Nat) (p : Piece) : (takeCopy s r i p).inLimits = s.inLimits := by
  unfold takeCopy
  split <;> simp

@[simp] theorem again_inLimits (s : State) (r : Req) (i : Nat) (p : Piece) (f : State → Req → Nat → Piece → State)
    (hf : ∀ s r i p, (f s r i p).inLimits = s.inLimits) : (again s r i p f).inLimits = s.inLimits := by
  simp [again, hf]

@[simp] theorem atHome_inLimits (s : State) (req i : Nat) (ok : Req → Piece → Bool) (f : State → Req → Nat → Piece → State)
    (hf : ∀ s r i p, (f s r i p).inLimits = s.inLimits) : (atHome s req i ok f).inLimits = s.inLimits := by
  unfold atHome
  split <;> simp [hf]

@[simp] theorem peerPlain_inLimits (s : State) (r : Req) (i : Nat) (p : Piece) : (peerPlain s r i p).inLimits = s.inLimits := by
  simp [peerPlain]

@[simp] theorem syncWord_inLimits (s : State) (r : Req) (i : Nat) (p : Piece) : (syncWord s r i p).inLimits = s.inLimits := by
  unfold syncWord
  split <;> simp

@[simp] theorem dropReq_inLimits (s : State) (id : Nat) : (dropReq s id).inLimits = s.inLimits := by
  simp [dropReq]

@[simp] theorem engineAck_inLimits (s : State) (r : Req) : (engineAck s r).inLimits = s.inLimits := by
  unfold engineAck
  dsimp only
  (repeat' split) <;> simp

@[simp] theorem dropOut_inLimits (s : State) (c : CoreId) (n id : Nat) : (dropOut s c n id).inLimits = s.inLimits := by
  simp [dropOut]

@[simp] theorem dropAnswers_inLimits (s : State) (group : Nat) (p : Ask → Bool) :
    (dropAnswers s group p).inLimits = s.inLimits := by
  simp [dropAnswers]

@[simp] theorem dropTlb_inLimits (s : State) (c : CoreId) (p : Tlb → Bool) : (dropTlb s c p).inLimits = s.inLimits := by
  simp [dropTlb]

@[simp] theorem fillFor_inLimits (s : State) (u : Asker) (e : Tlb) : (fillFor s u e).inLimits = s.inLimits := by
  unfold fillFor
  split <;> simp

@[simp] theorem performWalk_inLimits (s : State) (r : Req) (i : Nat) (p : Piece) :
    (performWalk s r i p).inLimits = s.inLimits := by
  unfold performWalk
  (repeat' split) <;> simp

@[simp] theorem deliverWalk_inLimits (s : State) (r : Req) (root : Word) (p : Piece) :
    (deliverWalk s r root p).inLimits = s.inLimits := by
  unfold deliverWalk
  dsimp only
  (repeat' split) <;> simp

@[simp] theorem walkOn_inLimits (s : State) (r : Req) (root : Word) (p : Piece) : (walkOn s r root p).inLimits = s.inLimits := by
  unfold walkOn
  (repeat' split) <;> simp

@[simp] theorem dropTlbAll_inLimits (s : State) (pa n : Nat) : (dropTlbAll s pa n).inLimits = s.inLimits := by
  simp [dropTlbAll]

@[simp] theorem reissueReq_inLimits (s : State) (r : Req) : (reissueReq s r).inLimits = s.inLimits := by
  unfold reissueReq
  dsimp only
  (repeat' split) <;> simp

/-! #### Scalar instructions -/

@[simp] theorem branchTo_inLimits {s : State} (h : s.inLimits = true) (target : Int) : (branchTo s target).InLimits := by
  simp [branchTo, h]

@[simp] theorem linked_inLimits {len : Nat} {s : State} {a : Act} (ha : a.InLimits) : (linked len s a).InLimits := by
  cases a <;> simp_all [linked]

@[simp] theorem branchReg_inLimits {s : State} (h : s.inLimits = true) (a : BitVec 5) : (branchReg s a).InLimits := by
  simp [branchReg, branchTo_inLimits h]

@[simp] theorem msgTrapOpen_inLimits (s : State) (reason : Nat) : (msgTrapOpen s reason).InLimits := trivial

@[simp] theorem haulTrap_inLimits (s : State) (reason : BitVec 8) : (haulTrap s reason).InLimits := trivial

@[simp] theorem doneBody_inLimits {s : State} (h : s.inLimits = true) : (doneBody s).InLimits := by
  simp [doneBody, h]

/-! #### Messages -/

@[simp] theorem msgTrap_inLimits (reason subject : Nat) : (msgTrap reason subject).InLimits := trivial

@[simp] theorem undeliverable_inLimits (s : State) (code : BitVec 8) (src : CoreId) (rank : BitVec 16) (body : Body) :
    (undeliverable s code src rank body).inLimits = s.inLimits := by
  unfold undeliverable
  (repeat' split) <;> simp

@[simp] theorem emit_inLimits (s : State) (src : CoreId) (rank : BitVec 16) (tc : Nat) (body : Body) (mc : Option Nat) :
    (emit s src rank tc body mc).inLimits = s.inLimits := by
  unfold emit
  split <;> simp

@[simp] theorem fillUnread_inLimits (s : State) (op : Nat) (payload : Option (List Word)) :
    (fillUnread s op payload).inLimits = s.inLimits := by
  simp [fillUnread]

@[simp] theorem releaseHeld_inLimits (s : State) (rank : BitVec 16) : (releaseHeld s rank).inLimits = s.inLimits := by
  simp [releaseHeld]

@[simp] theorem postRead_inLimits (s : State) (what : Pending) (pieces : List Piece) :
    (postRead s what pieces).inLimits = s.inLimits := by
  simp [postRead]

@[simp] theorem emitAll_inLimits (gid : Nat) (h : Word) (op : Nat) (l : List (BitVec 16 × CoreId)) (s : State) :
    (emitAll gid h op l s).inLimits = s.inLimits := by
  induction l generalizing s with
  | nil => rfl
  | cons m l ih => rw [emitAll, ih, emit_inLimits]

/-! #### Ports and rings -/

@[simp] theorem Core.setPort_inLimits (k : Core) (n : Nat) (p : Port) : (k.setPort n p).inLimits = k.inLimits := by
  simp [Core.setPort]

@[simp] theorem writeRing_inLimits (s : State) (c : CoreId) (base bytes tail : Nat) (l : List Word) :
    (writeRing s c base bytes tail l).inLimits = s.inLimits := by
  induction l generalizing s tail with
  | nil => rfl
  | cons w l ih =>
    rw [writeRing, ih]
    cases e : engineWrite s c (base + tail % bytes) ((List.range 8).map fun i => w.extractLsb' (8 * i) 8) with
    | none => rfl
    | some t => exact engineWrite_inLimits e

theorem overflow_inLimits {s t : State} {c : CoreId} {reason port : Nat} {words : List Word}
    (h : overflow s c reason port words = some t) : t.inLimits = s.inLimits := by
  unfold overflow at h
  dsimp only at h
  split at h <;> cases h
  simp

@[simp] theorem spPlain_inLimits (k : Core) (off : Nat) (ws : List Word) : (spPlain k off ws).inLimits = k.inLimits := by
  simp [spPlain]

@[simp] theorem storeSlot_inLimits (k : Core) (port : Nat) (rb : Bool) (h : Word) (payload : List Word) :
    (storeSlot k port rb h payload).inLimits = k.inLimits := by
  simp [storeSlot]

theorem arrive_inLimits {s t : State} {c : CoreId} {acq : Bool} {h : Word} {payload : List Word} {n : Option (BitVec 32)}
    (e : arrive s c acq h payload n = some t) : t.inLimits = s.inLimits := by
  unfold arrive at e
  dsimp only at e
  split at e
  · exact overflow_inLimits e
  split at e
  · split at e
    · exact overflow_inLimits e
    split at e
    · exact overflow_inLimits e
    split at e
    · exact overflow_inLimits e
    · cases e
      simp
  split at e
  · split at e
    · exact overflow_inLimits e
    split at e
    · simp [overflow_inLimits e]
    · cases e
      simp
  split at e
  · exact overflow_inLimits e
  · cases e
    simp

theorem deliver_inLimits {s t : State} {p : Packet} (h : deliver s p = some t) : t.inLimits = s.inLimits := by
  unfold deliver at h
  split at h
  · cases h
    rfl
  · obtain ⟨u, hu, e⟩ := Option.map_eq_some_iff.1 h
    simp [← e, arrive_inLimits hu]

@[simp] theorem dealInput_inLimits (c : CoreId) (l : List Nat) (s : State) : (dealInput c l s).inLimits = s.inLimits := by
  induction l generalizing s with
  | nil => simp [dealInput]
  | cons id l ih =>
    unfold dealInput
    dsimp only
    split
    · exact ih s
    · split
      · simp
      · split
        · exact ih s
        · split
          case h_1 t e => rw [ih, deliver_inLimits e]
          case h_2 => simp

theorem holdArrival_inLimits {s t : State} {p : Packet} (h : holdArrival s p = some t) : t.inLimits = s.inLimits := by
  unfold holdArrival at h
  dsimp only at h
  split at h <;> cases h
  simp

@[simp] theorem inputDone_inLimits (s : State) (c : CoreId) (id : Nat) : (inputDone s c id).inLimits = s.inLimits := by
  simp [inputDone]

@[simp] theorem onArrival_inLimits (s : State) (p : Option Packet) (f : Packet → State) (hf : ∀ p, (f p).inLimits = s.inLimits) :
    (onArrival s p f).inLimits = s.inLimits := by
  unfold onArrival
  split
  · rfl
  · split
    case h_1 t e => exact holdArrival_inLimits e
    case h_2 => simp [hf]

@[simp] theorem writeOvfHd_inLimits (s : State) (c : CoreId) (v : Word) : (writeOvfHd s c v).inLimits = s.inLimits := by
  simp [writeOvfHd]

@[simp] theorem drainPort_inLimits (c : CoreId) (port : Nat) (l : List Held) (s : State) :
    (drainPort c port l s).inLimits = s.inLimits := by
  induction l generalizing s with
  | nil => rfl
  | cons m l ih =>
    unfold drainPort
    dsimp only
    split
    · rfl
    case h_2 t e => simp [ih, overflow_inLimits e]

@[simp] theorem applyPortWr_inLimits (s : State) (c : CoreId) (port : Nat) (e : Word) :
    (applyPortWr s c port e).1.inLimits = s.inLimits := by
  unfold applyPortWr
  dsimp only
  split <;> simp

@[simp] theorem readTable_inLimits {s : State} {a : Word} {n : Nat} {f : Nat → Act} (h : s.inLimits = true)
    (hf : ∀ v, (f v).InLimits) :
    (readTable s a n f).InLimits := by
  simp [readTable, leave, h, hf]

@[simp] theorem withRing_inLimits {s : State} {x : Word} {f : Nat → Port → Act} (hf : ∀ n p, (f n p).InLimits) :
    (withRing s x f).InLimits := by
  simp [withRing, hf]

@[simp] theorem withRank_inLimits {x : Word} {f : BitVec 16 → Act} (hf : ∀ r, (f r).InLimits) : (withRank x f).InLimits := by
  simp [withRank, hf]

@[simp] theorem writeRank_inLimits (s : State) (rank : Nat) (e : Word) : (writeRank s rank e).inLimits = s.inLimits := by
  simp [writeRank]

@[simp] theorem finishRankWr_inLimits (s : State) (rank : Nat) (e : Word) : (finishRankWr s rank e).inLimits = s.inLimits := by
  simp [finishRankWr]

@[simp] theorem coreArrival_inLimits (s : State) (p : Packet) : (coreArrival s p).inLimits = s.inLimits := by
  unfold coreArrival
  dsimp only
  split
  · rfl
  · split
    · simp
    · split
      · simp
      · split
        case h_1 t e => simp [deliver_inLimits e]
        case h_2 => simp

/-! #### Vector instructions -/

@[simp] theorem putReduced_inLimits (s : State) (d tag : BitVec 4) (r : Nat) :
    (putReduced s d tag r).InLimits ↔ s.inLimits = true := by
  simp [putReduced]

theorem cvtFault_inLimits {t : Seat} {d a f : BitVec 4} {r : Act} (h : cvtFault t d a f = some r) : r.InLimits := by
  unfold cvtFault at h
  dsimp only at h
  split at h
  · cases h
    simp
  split at h
  · cases h
    simp
  split at h
  · cases h
    simp
  · obtain ⟨v, -, e⟩ := Option.map_eq_some_iff.1 h
    simp [← e]

/-! #### Shell instructions -/

@[simp] theorem acceptCmd_inLimits (s : State) (c : CoreId) (ws : List Word) (deps : List Nat) :
    (acceptCmd s c ws deps).inLimits = s.inLimits := by
  simp [acceptCmd]

@[simp] theorem pushCmd_inLimits {s : State} (h : s.inLimits = true) (ws : List Word) : (pushCmd s ws).InLimits := by
  simp [pushCmd, h]

@[simp] theorem shellTrap_inLimits (reason detail subject : Nat) : (shellTrap reason detail subject).InLimits := trivial

@[simp] theorem pushWords_inLimits {s : State} (h : s.inLimits = true) (ws : List Word) : (pushWords s ws).InLimits := by
  unfold pushWords
  dsimp only
  split
  · simp
  · simp
  · split
    · simp
    · split
      · simp
      · exact pushCmd_inLimits h ws

/-! #### Events of the shells -/

@[simp] theorem updShell_inLimits (s : State) (core : CoreId) (f : Shell → Shell)
    (h : ∀ k : Core, coreRegsInLimits k.dbgCtl k.ttRoot k.tretCtl (f k.shell).link = k.inLimits) :
    (updShell s core f).inLimits = s.inLimits := by
  simp [updShell, h]

@[simp] theorem updCmd_inLimits (s : State) (core : CoreId) (id : Nat) (f : Cmd → Cmd) :
    (updCmd s core id f).inLimits = s.inLimits := by
  simp [updCmd]

@[simp] theorem finishCmd_inLimits (s : State) (core : CoreId) (id : Nat) : (finishCmd s core id).inLimits = s.inLimits := by
  simp [finishCmd]

@[simp] theorem advanceLatch_link (h : Shell) : (advanceLatch h).link = h.link := by
  unfold advanceLatch
  split <;> rfl

@[simp] theorem takeFront_inLimits (s : State) (core : CoreId) : (takeFront s core).inLimits = s.inLimits := by
  simp [takeFront]

@[simp] theorem latchFault_inLimits (s : State) (core : CoreId) (seq : BitVec 16) (fmt : BitVec 4) (kind : Nat) :
    (latchFault s core seq fmt kind).inLimits = s.inLimits := by
  simp [latchFault]

@[simp] theorem postShell_inLimits (s : State) (core : CoreId) (cmd : Nat) (op : ReqOp) (pieces : List Piece) :
    (postShell s core cmd op pieces).inLimits = s.inLimits := by
  simp [postShell]

@[simp] theorem shellReadError_inLimits (s : State) (core : CoreId) (a : Word) (tile : Nat) :
    (shellReadError s core a tile).inLimits = s.inLimits := by
  simp [shellReadError]

@[simp] theorem sampleMma_inLimits (s : State) (core : CoreId) (c : Cmd) : (sampleMma s core c).inLimits = s.inLimits := by
  refine State.updCore_inLimits s core _ fun k => ?_
  dsimp only
  split <;> simp

@[simp] theorem afterMma_inLimits (s : State) (core : CoreId) (c : Cmd) : (afterMma s core c).inLimits = s.inLimits := by
  simp [afterMma]

@[simp] theorem beginMma_inLimits (s : State) (core : CoreId) (c : Cmd) : (beginMma s core c).inLimits = s.inLimits := by
  simp [beginMma]

@[simp] theorem formMma_inLimits (s : State) (core : CoreId) (c : Cmd) (r : Req) :
    (formMma s core c r).inLimits = s.inLimits := by
  unfold formMma
  split <;> simp

@[simp] theorem zeroTile_inLimits (s : State) (core : CoreId) (tile : Nat) : (zeroTile s core tile).inLimits = s.inLimits := by
  simp [zeroTile]

@[simp] theorem pushDrain_inLimits (s : State) (core : CoreId) (c : Cmd) : (pushDrain s core c).inLimits = s.inLimits := by
  simp [pushDrain]

@[simp] theorem beginDrain_inLimits (s : State) (core : CoreId) (c : Cmd) : (beginDrain s core c).inLimits = s.inLimits := by
  simp [beginDrain]

@[simp] theorem askNext_inLimits (s : State) (core : CoreId) (c : Cmd) (seq : BitVec 16) (fmt : BitVec 4) :
    (askNext s core c seq fmt).inLimits = s.inLimits := by
  unfold askNext
  split <;> simp

@[simp] theorem sendTile_inLimits (s : State) (core : CoreId) (c : Cmd) (t : LatchTile) :
    (sendTile s core c t).inLimits = s.inLimits := by
  simp [sendTile]

@[simp] theorem sendInject_inLimits (s : State) (core : CoreId) (c : Cmd) (r : Req) :
    (sendInject s core c r).inLimits = s.inLimits := by
  unfold sendInject
  split <;> simp

theorem writeShLink_keepsLimits {s : State} (h : s.inLimits = true) (core : CoreId) (v : Word) :
    (writeShLink s core v).inLimits = true := by
  unfold writeShLink updShell
  exact State.updCore_keepsLimits h core fun _ hk => coreRegsInLimits_link hk v

@[simp] theorem enterRcmd_inLimits (s : State) (p : Packet) (seat op : Nat) (ws : List Word) (fail : Nat) :
    (enterRcmd s p seat op ws fail).inLimits = s.inLimits := by
  simp [enterRcmd]

@[simp] theorem arriveRcmd_inLimits (s : State) (p : Packet) (seat op : Nat) (ws : List Word) :
    (arriveRcmd s p seat op ws).inLimits = s.inLimits := by
  simp [arriveRcmd]

/-! #### The routers and the combines -/

@[simp] theorem sysTrap_inLimits (reason detail subject : Nat) : (sysTrap reason detail subject).InLimits := trivial

theorem groupFault_inLimits {s : State} {xa d : Word} {a : Act} (h : groupFault s xa d = some a) : a.InLimits := by
  unfold groupFault at h
  split at h
  · cases h
    simp
  split at h <;> cases h
  simp

@[simp] theorem pushRed_inLimits {s : State} (h : s.inLimits = true) (d : Word) (data : BitVec 4096) :
    (pushRed s d data).InLimits := by
  simp [pushRed, h]

@[simp] theorem setSlot_inLimits (k : Core) (t : CombineSlot) : (setSlot k t).inLimits = k.inLimits := by
  simp [setSlot]

@[simp] theorem freeSlot_inLimits (k : Core) (key : BitVec 32) : (freeSlot k key).inLimits = k.inLimits := by
  simp [freeSlot]

@[simp] theorem combineFault_inLimits (s : State) (c : CoreId) (d : Word) : (combineFault s c d).inLimits = s.inLimits := by
  simp [combineFault]

@[simp] theorem rootMessage_inLimits (s : State) (c : CoreId) (t : CombineSlot) : (rootMessage s c t).inLimits = s.inLimits := by
  simp [rootMessage]

@[simp] theorem resolveSlot_inLimits (s : State) (c : CoreId) (t : CombineSlot) : (resolveSlot s c t).inLimits = s.inLimits := by
  simp [resolveSlot]

@[simp] theorem checkSlot_inLimits (s : State) (c : CoreId) (key : BitVec 32) : (checkSlot s c key).inLimits = s.inLimits := by
  unfold checkSlot
  split <;> simp

theorem routerArrival_inLimits {s t : State} {c : CoreId} {child : Option CoreId} {d : Word} {data : BitVec 4096}
    (h : routerArrival s c child d data = some t) : t.inLimits = s.inLimits := by
  unfold routerArrival at h
  dsimp only at h
  (repeat' split at h) <;> cases h <;> simp

theorem localArrival_inLimits {s t : State} {c : CoreId} {q : Contribution} (h : localArrival s c q = some t) :
    t.inLimits = s.inLimits := by
  unfold localArrival at h
  dsimp only at h
  split at h
  · cases h
    simp
  · simp [routerArrival_inLimits h]

@[simp] theorem exitSlots_inLimits (s : State) (c : CoreId) (gid : Nat) : (exitSlots s c gid).inLimits = s.inLimits := by
  simp [exitSlots]

@[simp] theorem sendLeave_inLimits (s : State) (c : CoreId) (gid : Nat) : (sendLeave s c gid).inLimits = s.inLimits := by
  unfold sendLeave
  dsimp only
  (repeat' split) <;> simp

@[simp] theorem exitRouter_inLimits (s : State) (c : CoreId) (gid : Nat) : (exitRouter s c gid).inLimits = s.inLimits := by
  simp [exitRouter]

@[simp] theorem updGroup_inLimits (s : State) (gid : Nat) (f : Group → Group) : (updGroup s gid f).inLimits = s.inLimits := by
  simp [updGroup]

@[simp] theorem withGroup_inLimits {s : State} {x : Word} {f : Group → Act} (hf : ∀ g, (f g).InLimits) :
    (withGroup s x f).InLimits := by
  unfold withGroup
  split
  · simp
  · split <;> simp [hf]

@[simp] theorem sendArrival_inLimits (s : State) (g : Group) (c : CoreId) (ep : Nat) (member : CoreId) :
    (sendArrival s g c ep member).inLimits = s.inLimits := by
  simp [sendArrival]

@[simp] theorem completeEpisodes_inLimits (gid n : Nat) (s : State) : (completeEpisodes gid n s).inLimits = s.inLimits := by
  induction n generalizing s with
  | zero => rfl
  | succ n ih =>
    unfold completeEpisodes
    split <;> simp [ih]

/-! #### Queues -/

@[simp] theorem pushQ0_inLimits {s : State} (h : s.inLimits = true) (w : Word) : (pushQ0 s w).InLimits := by
  have hp := pushWords_inLimits h (s.thisSeat.q0 ++ [w])
  unfold pushQ0
  dsimp only
  split
  · simp [h]
  · split
    case h_1 t e =>
      rw [e] at hp
      simpa using hp
    case h_2 => exact hp

@[simp] theorem pushQ2_inLimits {s : State} (h : s.inLimits = true) (w : Word) : (pushQ2 s w).InLimits := by
  simp [pushQ2, h]

@[simp] theorem pushQ4_inLimits (word : Word) (ws : List Word) {s : State} (h : s.inLimits = true) :
    (pushQ4 word ws s).InLimits := by
  induction ws generalizing s with
  | nil => exact h
  | cons w ws ih =>
    unfold pushQ4
    split
    · split
      · simp
      · exact ih (by simp [h])
    · dsimp only
      split
      · exact ih (by simp [h])
      · split
        · simp
        · split
          · simp
          · exact ih (by simp [h])

@[simp] theorem pushQ6_inLimits (fn : Nat) (ws : List Word) {s : State} (h : s.inLimits = true) : (pushQ6 fn ws s).InLimits := by
  induction ws generalizing s with
  | nil => exact h
  | cons w ws ih =>
    unfold pushQ6
    split
    · split
      · simp
      · exact ih (by simp [h])
    case h_2 d held e =>
      have hr := pushRed_inLimits h d (wordsData (held ++ [w]))
      dsimp only
      split
      · exact ih (by simp [h])
      · split
        case h_1 a ha => exact groupFault_inLimits ha
        case h_2 =>
          split
          case h_1 t ht =>
            rw [ht] at hr
            exact ih (by simpa using hr)
          case h_2 => exact hr

@[simp] theorem push_inLimits {s : State} (h : s.inLimits = true) (q : BitVec 3) (word : Word) (ws : List Word) :
    (push s q word ws).InLimits := by
  unfold push
  split
  · exact pushQ0_inLimits h _
  · exact pushQ2_inLimits h _
  · split
    · simp
    · exact pushQ4_inLimits word ws h
  · exact pushQ6_inLimits _ ws h

@[simp] theorem finishPopped_inLimits (s : State) (core : CoreId) : (finishPopped s core).inLimits = s.inLimits := by
  simp [finishPopped]

theorem popCore_inLimits {s t : State} {q : BitVec 3} {n : Nat} {ws : List Word} {tag : BitVec 4}
    (h : popCore s q n = some (t, ws, tag)) : t.inLimits = s.inLimits := by
  unfold popCore at h
  dsimp only at h
  (repeat' split at h) <;> cases h <;> simp

theorem popQ5_inLimits {s t : State} {n : Nat} {ws : List Word} (h : popQ5 s n = some (t, ws)) : t.inLimits = s.inLimits := by
  unfold popQ5 at h
  dsimp only at h
  split at h <;> cases h
  simp

@[simp] theorem pop_inLimits {s : State} {q : BitVec 3} {n : Nat} {f : State → List Word → BitVec 4 → Act} (h : s.inLimits = true)
    (hf : ∀ t ws tag, t.inLimits = true → (f t ws tag).InLimits) : (pop s q n f).InLimits := by
  unfold pop
  split
  · split
    · simp
    case h_2 t ws e => exact hf t ws 0 ((popQ5_inLimits e).trans h)
  · split
    · simp
    case h_2 t ws tag e => exact hf t ws tag ((popCore_inLimits e).trans h)

/-! #### Haul channels -/

@[simp] theorem State.updChan_inLimits (s : State) (cl ch : Nat) (f : Channel → Channel) :
    (s.updChan cl ch f).inLimits = s.inLimits := by
  simp [State.updChan]

@[simp] theorem postHeader_inLimits (s : State) (cl ch off : Nat) (op : ReqOp) (data : Word) :
    (postHeader s cl ch off op data).inLimits = s.inLimits := by
  simp [postHeader]

@[simp] theorem putHeader_inLimits (s : State) (cl ch off : Nat) (v : Word) :
    (putHeader s cl ch off v).inLimits = s.inLimits := by
  simp [putHeader]

@[simp] theorem askHeader_inLimits (s : State) (cl ch off : Nat) : (askHeader s cl ch off).inLimits = s.inLimits := by
  simp [askHeader]

@[simp] theorem dropRead_inLimits (s : State) (cl ch : Nat) : (dropRead s cl ch).inLimits = s.inLimits := by
  simp [dropRead]

@[simp] theorem setStat_inLimits (s : State) (cl ch : Nat) (st : BitVec 2) (fault : BitVec 8) :
    (setStat s cl ch st fault).inLimits = s.inLimits := by
  simp [setStat]

@[simp] theorem writeHlq_inLimits (s : State) (cl ch : Nat) (v : Word) : (writeHlq s cl ch v).inLimits = s.inLimits := by
  simp [writeHlq]

@[simp] theorem engineWalk_inLimits (s : State) (cl ch : Nat) (root a : Word) :
    (engineWalk s cl ch root a).inLimits = s.inLimits := by
  simp [engineWalk]

@[simp] theorem postHaul_inLimits (s : State) (cl ch : Nat) (root : Word) (op : ReqOp) (a : Word) (n data : Nat) :
    (postHaul s cl ch root op a n data).inLimits = s.inLimits := by
  simp [postHaul]

@[simp] theorem postFar_inLimits (s : State) (cl ch : Nat) (a : Word) (n : Nat) (data : Option (List Byte)) :
    (postFar s cl ch a n data).inLimits = s.inLimits := by
  simp [postFar]

@[simp] theorem askRange_inLimits (s : State) (cl ch : Nat) (root : Word) (a : Word) (n : Nat) (data : Option (List Byte)) :
    (askRange s cl ch root a n data).inLimits = s.inLimits := by
  simp [askRange]

/-- A read of an engine that waits for its answer leaves the limits as they are. -/
theorem fetchRange_wait_inLimits {s t : State} {cl ch : Nat} {root : Word} {far : Option FarReply} {a : Word} {n : Nat}
    (h : fetchRange s cl ch root far a n = .wait t) : t.inLimits = s.inLimits := by
  unfold fetchRange at h
  dsimp only at h
  (repeat' split at h) <;> cases h <;> simp

/-- A read of an engine that is answered leaves the limits as they are. -/
theorem fetchRange_ok_inLimits {s t : State} {cl ch : Nat} {root : Word} {far : Option FarReply} {a : Word} {n : Nat}
    {b : List Byte}
    (h : fetchRange s cl ch root far a n = .ok t b) : t.inLimits = s.inLimits := by
  unfold fetchRange at h
  dsimp only at h
  (repeat' split at h) <;> cases h <;> simp

theorem pushQ3_inLimits {s t : State} {core : CoreId} {w : Word} (h : pushQ3 s core w = some t) : t.inLimits = s.inLimits := by
  unfold pushQ3 at h
  split at h <;> cases h
  simp

@[simp] theorem sendStatq_inLimits (s : State) (cl ch : Nat) (p : HaulPkt) (event : Nat) :
    (sendStatq s cl ch p event).inLimits = s.inLimits := by
  unfold sendStatq
  dsimp only
  split
  · rfl
  · split
    · generalize BitVec.ofNat 64 _ = w
      cases e : pushQ3 s (eCore (rankEntry s (statqRank p))) w with
      | none => simp
      | some t => simp [pushQ3_inLimits e]
    · simp

@[simp] theorem retryStatq_inLimits (s : State) (cl ch : Nat) : (retryStatq s cl ch).inLimits = s.inLimits := by
  unfold retryStatq
  split
  · rfl
  case h_2 core w t _ =>
    split
    · simp
    · cases e : pushQ3 s core w with
      | none => simp
      | some t => simp [pushQ3_inLimits e]

@[simp] theorem stopChannel_inLimits (s : State) (cl ch : Nat) (fault : Nat) (x19 : Word) (claim progress : Nat) :
    (stopChannel s cl ch fault x19 claim progress).inLimits = s.inLimits := by
  unfold stopChannel
  dsimp only
  (repeat' split) <;> simp

@[simp] theorem stopPkt_inLimits (s : State) (cl ch : Nat) (p : HaulPkt) (fault : Nat) (x19 : Word) :
    (stopPkt s cl ch p fault x19).inLimits = s.inLimits := by
  simp [stopPkt]

@[simp] theorem stopWrite_inLimits (s : State) (cl ch : Nat) (p : HaulPkt) (fault : Nat) (x19 : Word) (w : HaulWr) :
    (stopWrite s cl ch p fault x19 w).inLimits = s.inLimits := by
  simp [stopWrite]

@[simp] theorem beginPacket_inLimits (s : State) (cl ch : Nat) (p : HaulPkt) : (beginPacket s cl ch p).inLimits = s.inLimits := by
  simp [beginPacket]

@[simp] theorem lookedAt_inLimits (s : State) (cl ch : Nat) : (lookedAt s cl ch).inLimits = s.inLimits := by
  simp [lookedAt]

@[simp] theorem nextSlot_inLimits (s : State) (cl ch : Nat) : (nextSlot s cl ch).inLimits = s.inLimits := by
  simp [nextSlot]

@[simp] theorem slotFault_inLimits (s : State) (cl ch fault : Nat) : (slotFault s cl ch fault).inLimits = s.inLimits := by
  simp [slotFault]

@[simp] theorem readHeader_inLimits (s : State) (cl ch : Nat) (c : Channel) : (readHeader s cl ch c).inLimits = s.inLimits := by
  unfold readHeader
  (repeat' split) <;> simp

@[simp] theorem takeSlot_inLimits (s : State) (cl ch : Nat) (root : Word) (words : List Word) :
    (takeSlot s cl ch root words).inLimits = s.inLimits := by
  simp [takeSlot]

@[simp] theorem startBeats_inLimits (s : State) (cl ch : Nat) (p : HaulPkt) (ok : Bool) :
    (startBeats s cl ch p ok).inLimits = s.inLimits := by
  simp [startBeats]

@[simp] theorem startBox_inLimits (s : State) (cl ch : Nat) (p : HaulPkt) : (startBox s cl ch p).inLimits = s.inLimits := by
  simp [startBox]

@[simp] theorem beatDone_inLimits (s : State) (cl ch : Nat) (p' : HaulPkt) (wr : List HaulWr) :
    (beatDone s cl ch p' wr).inLimits = s.inLimits := by
  simp [beatDone]

@[simp] theorem landFar_inLimits (s : State) (cl ch : Nat) (p p' : HaulPkt) (far : Option FarReply) (dst : Word)
    (bytes : List Byte) :
    (landFar s cl ch p p' far dst bytes).inLimits = s.inLimits := by
  unfold landFar
  (repeat' split) <;> simp

@[simp] theorem land_inLimits (s : State) (cl ch : Nat) (p p' : HaulPkt) (far : Option FarReply) (dst : Word) (bytes : List Byte) :
    (land s cl ch p p' far dst bytes).inLimits = s.inLimits := by
  unfold land
  (repeat' split) <;> simp

@[simp] theorem readSource_inLimits (s : State) (cl ch : Nat) (p : HaulPkt) (far : Option FarReply) (a : Word) (n : Nat)
    (dst : Word × Nat) (k : State → List Byte → State) (hk : ∀ s b, (k s b).inLimits = s.inLimits) :
    (readSource s cl ch p far a n dst k).inLimits = s.inLimits := by
  unfold readSource
  split
  · simp
  · split
    case h_1 t e => exact fetchRange_wait_inLimits e
    case h_2 => simp
    case h_3 t b e => rw [hk, fetchRange_ok_inLimits e]

@[simp] theorem withSource_inLimits (s : State) (cl ch : Nat) (p : HaulPkt) (far : Option FarReply) (src : Option (Word × Nat))
    (dst : Word × Nat) (k : State → List Byte → Option FarReply → State) (hk : ∀ s b r, (k s b r).inLimits = s.inLimits) :
    (withSource s cl ch p far src dst k).inLimits = s.inLimits := by
  unfold withSource
  split <;> simp [hk]

@[simp] theorem copyBeat_inLimits (s : State) (cl ch : Nat) (p : HaulPkt) (far : Option FarReply) :
    (copyBeat s cl ch p far).inLimits = s.inLimits := by
  simp [copyBeat]

@[simp] theorem boxBeat_inLimits (s : State) (cl ch : Nat) (p : HaulPkt) (far : Option FarReply) :
    (boxBeat s cl ch p far).inLimits = s.inLimits := by
  simp [boxBeat]

@[simp] theorem gatherRow_inLimits (s : State) (cl ch : Nat) (p : HaulPkt) (far : Option FarReply) (x : Word) :
    (gatherRow s cl ch p far x).inLimits = s.inLimits := by
  simp [gatherRow]

@[simp] theorem gatherBeat_inLimits (s : State) (cl ch : Nat) (p : HaulPkt) (far : Option FarReply) :
    (gatherBeat s cl ch p far).inLimits = s.inLimits := by
  unfold gatherBeat
  split <;> simp

@[simp] theorem chunkIn_inLimits (s : State) (cl ch : Nat) (p : HaulPkt) (far : Option FarReply) (a : Word) (dst : Word × Nat)
    (k : State → List Byte → State) (hk : ∀ s b, (k s b).inLimits = s.inLimits) :
    (chunkIn s cl ch p far a dst k).inLimits = s.inLimits := by
  unfold chunkIn
  split <;> simp [hk]

@[simp] theorem codecBeat_inLimits (s : State) (cl ch : Nat) (p : HaulPkt) (far : Option FarReply) :
    (codecBeat s cl ch p far).inLimits = s.inLimits := by
  unfold codecBeat
  dsimp only
  split
  · simp
  · split
    · simp
    · refine chunkIn_inLimits _ _ _ _ _ _ _ _ fun s b => ?_
      split <;> simp

@[simp] theorem resumeChannel_inLimits (s : State) (cl ch : Nat) (skip : Bool) :
    (resumeChannel s cl ch skip).inLimits = s.inLimits := by
  unfold resumeChannel
  dsimp only
  (repeat' split) <;> simp

@[simp] theorem fails_inLimits (s : State) (c : CoreId) (n id : Nat) (cause : BitVec 8) (v : Word) :
    (fails s c n id cause v).inLimits = s.inLimits := by
  simp [fails]

@[simp] theorem lateHaulTrap_inLimits (s : State) (c : CoreId) (n id : Nat) (reason : BitVec 8) :
    (lateHaulTrap s c n id reason).inLimits = s.inLimits := by
  simp [lateHaulTrap]

@[simp] theorem atStage_inLimits (s : State) (c : CoreId) (n id : Nat) (x : Word) (ws : List Word) (st : PostStage)
    (sub : Option Nat) :
    (atStage s c n id x ws st sub).inLimits = s.inLimits := by
  simp [atStage]

@[simp] theorem postAccess_inLimits (s : State) (c : CoreId) (n id : Nat) (x : Word) (ws : List Word) (st : PostStage)
    (op : ReqOp) (need : Need) (a : Word) (size : Nat) (at' : Word) (data : List Word) :
    (postAccess s c n id x ws st op need a size at' data).inLimits = s.inLimits := by
  unfold postAccess
  split <;> simp

@[simp] theorem postStage_inLimits (s : State) (c : CoreId) (n id : Nat) (x : Word) (ws : List Word) (st : PostStage) :
    (postStage s c n id x ws st).inLimits = s.inLimits := by
  unfold postStage
  split <;> simp

@[simp] theorem stageDone_inLimits (s : State) (c : CoreId) (n id : Nat) (x : Word) (ws : List Word) (st : PostStage)
    (msa : Bool) (v : Word) :
    (stageDone s c n id x ws st msa v).inLimits = s.inLimits := by
  unfold stageDone
  split <;> simp

@[simp] theorem postOn_inLimits (s : State) (c : CoreId) (n id : Nat) (x : Word) (ws : List Word) (st : PostStage)
    (sub : Option Nat) :
    (postOn s c n id x ws st sub).inLimits = s.inLimits := by
  unfold postOn
  (repeat' split) <;> simp

/-! #### Tables -/

@[simp] theorem rebuild_inLimits (s : State) : (rebuild s).inLimits = s.inLimits := by
  simp [rebuild]

/-! #### System registers -/

@[simp] theorem reconfigure_inLimits (s : State) (cfg pmap : Word) : (reconfigure s cfg pmap).inLimits = s.inLimits := by
  simp [reconfigure]

@[simp] theorem setWays_inLimits (s : State) (p ways : Nat) : (setWays s p ways).inLimits = s.inLimits := by
  simp [setWays]

@[simp] theorem readCycle_inLimits (s : State) (n : Nat) : (readCycle s n).1.inLimits = s.inLimits := by
  simp [readCycle]

@[simp] theorem writeSeatCtl_inLimits (s : State) (c : CoreId) (v : Word) : (writeSeatCtl s c v).inLimits = s.inLimits := by
  simp [writeSeatCtl]

theorem srWrite_keepsLimits {s : State} (h : s.inLimits = true) (r : Nat) (v : Word) : (srWrite s r v).inLimits = true := by
  unfold srWrite
  dsimp only
  split
  · exact State.updThisCore_keepsLimits h fun _ hk => coreRegsInLimits_dbgCtl hk v
  · exact State.updThisCore_keepsLimits h fun _ hk => coreRegsInLimits_ttRoot hk v
  · simp [h]
  · exact writeShLink_keepsLimits h s.core v
  · exact State.updThisCore_keepsLimits h fun _ hk => coreRegsInLimits_tretCtl hk v
  · simp [h]
  · simp [h]
  · simp [h]
  · simp [h]

@[simp] theorem startPower_inLimits (cn fuel : Nat) (s : State) : (startPower cn fuel s).inLimits = s.inLimits := by
  induction fuel generalizing s with
  | zero => rfl
  | succ fuel ih =>
    unfold startPower
    dsimp only
    split
    case h_2 => rfl
    case h_1 st who t _ _ =>
      split
      · rw [ih]
        split <;> simp
      · split
        · split <;> simp
        · simp

@[simp] theorem askPower_inLimits (s : State) (cn : Nat) (st : BitVec 3) (who : Option (CoreId × Nat × Nat)) :
    (askPower s cn st who).inLimits = s.inLimits := by
  simp [askPower]

@[simp] theorem withRouter_inLimits {x : Word} {fn : Nat} {entryOk : Bool} {f : Nat → Nat → Nat → Act}
    (hf : ∀ a b c, (f a b c).InLimits) :
    (withRouter x fn entryOk f).InLimits := by
  simp [withRouter, hf]

/-! #### Bindings of the seats -/

@[simp] theorem startFiring_inLimits (s : State) (c : CoreId) (n : Nat) (f : Firing) (entry : Option Parcel)
    (head args : List Word) :
    (startFiring s c n f entry head args).inLimits = s.inLimits := by
  unfold startFiring
  split <;> simp

@[simp] theorem startSupervisor_inLimits (s : State) (c : CoreId) (q : Queued) :
    (startSupervisor s c q).inLimits = s.inLimits := by
  simp [startSupervisor]

theorem takeItems_inLimits (s : State) (c : CoreId) (cls : BitVec 8) (port count : Nat) :
    (takeItems s c cls port count).1.inLimits = (s.getCore c).inLimits := by
  unfold takeItems
  dsimp only
  split <;> simp

theorem takeAll_inLimits (c : CoreId) (cls : BitVec 8) (l : List (Nat × Nat)) (s : State) :
    (takeAll c cls l s).1.inLimits = s.inLimits := by
  induction l generalizing s with
  | nil => rfl
  | cons e l ih => simp [takeAll, ih, takeItems_inLimits]

@[simp] theorem engineDoubles_inLimits (s : State) (c : CoreId) (off : Nat) (ws : List Word) :
    (engineDoubles s c off ws).inLimits = s.inLimits := by
  unfold engineDoubles
  cases e : engineWrite s c off (wordsBytes ws) with
  | none => rfl
  | some t => simp [engineWrite_inLimits e]

@[simp] theorem bindPattern_inLimits (s : State) (c : CoreId) (n : Nat) : (bindPattern s c n).inLimits = s.inLimits := by
  unfold bindPattern
  dsimp only
  split
  · rfl
  · simp [takeAll_inLimits]

@[simp] theorem rawDoubles_inLimits (s : State) (pa : Nat) (ws : List Word) : (rawDoubles s pa ws).inLimits = s.inLimits := by
  simp [rawDoubles]

@[simp] theorem putRecord_inLimits (s : State) (pa : Nat) (l : List (Nat × List Word)) :
    (putRecord s pa l).inLimits = s.inLimits := by
  simp [putRecord]

@[simp] theorem saveFiring_inLimits (s : State) (c : CoreId) (n slot : Nat) (f : Firing) :
    (saveFiring s c n slot f).inLimits = s.inLimits := by
  simp [saveFiring]

@[simp] theorem putStatus_inLimits (s : State) (pa : Nat) (v : Word) : (putStatus s pa v).inLimits = s.inLimits := by
  simp [putStatus]

@[simp] theorem updLaunch_inLimits (s : State) (id : Nat) (f : Launch → Launch) : (updLaunch s id f).inLimits = s.inLimits := by
  simp [updLaunch]

@[simp] theorem endLaunch_inLimits (s : State) (l : Launch) (st : LaunchState) (state : Nat) :
    (endLaunch s l st state).inLimits = s.inLimits := by
  simp [endLaunch]

@[simp] theorem applyCount_inLimits (s : State) (l : Launch) (n : BitVec 32) : (applyCount s l n).inLimits = s.inLimits := by
  unfold applyCount
  split <;> simp

/-! #### Results and timeouts -/

@[simp] theorem finishReq_inLimits (s : State) (c : CoreId) (n : Nat) (o : Out) (r : Req) :
    (finishReq s c n o r).inLimits = s.inLimits := by
  unfold finishReq
  (repeat' split) <;> simp

@[simp] theorem returnPart_inLimits (s : State) (c : CoreId) (n q : Nat) (o : Out) (r : Req) :
    (returnPart s c n q o r).inLimits = s.inLimits := by
  simp [returnPart]

@[simp] theorem invTlb_inLimits (s : State) (c : CoreId) (x : Word) : (invTlb s c x).inLimits = s.inLimits := by
  simp [invTlb]

theorem complete_inLimits {s t : State} {c : CoreId} {n : Nat} {o : Out} (h : complete s c n o = some t) :
    t.inLimits = s.inLimits := by
  unfold complete at h
  (repeat' split at h) <;> cases h <;> simp

@[simp] theorem writeSums_inLimits (s : State) (c : CoreId) (n id : Nat) (ws : List Word) (off : Nat) :
    (writeSums s c n id ws off).inLimits = s.inLimits := by
  simp [writeSums]

@[simp] theorem completeOut_inLimits (s : State) (c : CoreId) (n : Nat) (o : Out) :
    (completeOut s c n o).inLimits = s.inLimits := by
  unfold completeOut
  split
  · simp
  · simp
  · simp
  · split
    · rfl
    case h_2 t e => simp [complete_inLimits e]

@[simp] theorem dropRcmd_inLimits (s : State) (op : Nat) : (dropRcmd s op).inLimits = s.inLimits := by
  simp [dropRcmd]

@[simp] theorem takeError_inLimits (s : State) (c : CoreId) (n op firing : Nat) (pc : Parcel) (cause : BitVec 8) (val : Word) :
    (takeError s c n op firing pc cause val).inLimits = s.inLimits := by
  simp [takeError]

@[simp] theorem preciseOut_inLimits (s : State) (r : Req) (cause : BitVec 8) (val : Word) :
    (preciseOut s r cause val).inLimits = s.inLimits := by
  simp [preciseOut]

@[simp] theorem requestError_inLimits (s : State) (r : Req) (cause : BitVec 8) (val : Word) :
    (requestError s r cause val).inLimits = s.inLimits := by
  simp [requestError]

@[simp] theorem failPiece_inLimits (s : State) (r : Req) (i : Nat) (p : Piece) : (failPiece s r i p).inLimits = s.inLimits := by
  unfold failPiece
  split <;> simp

@[simp] theorem timeoutReq_inLimits (s : State) (r : Req) (i : Nat) (p : Piece) : (timeoutReq s r i p).inLimits = s.inLimits := by
  simp [timeoutReq]

@[simp] theorem failFar_inLimits (s : State) (cl ch : Nat) (addr : Word) : (failFar s cl ch addr).inLimits = s.inLimits := by
  simp [failFar]

@[simp] theorem timeoutSent_inLimits (s : State) (e : Sent) : (timeoutSent s e).inLimits = s.inLimits := by
  unfold timeoutSent
  (repeat' split) <;> simp

/-! #### Fences -/

@[simp] theorem tellBasecamps_inLimits (s : State) (unit index : Nat) : (tellBasecamps s unit index).inLimits = s.inLimits := by
  simp [tellBasecamps]

@[simp] theorem coreDown_inLimits (s : State) (c : CoreId) : (coreDown s c).inLimits = s.inLimits := by
  simp [coreDown]

@[simp] theorem channelDown_inLimits (s : State) (cl ch : Nat) : (channelDown s cl ch).inLimits = s.inLimits := by
  simp [channelDown]

@[simp] theorem bankDown_inLimits (s : State) (cl b : Nat) : (bankDown s cl b).inLimits = s.inLimits := by
  simp [bankDown]

@[simp] theorem moveSlot_inLimits (s : State) (slot : Nat) : (moveSlot s slot).inLimits = s.inLimits := by
  unfold moveSlot
  split <;> simp

@[simp] theorem loseSlots_inLimits (s : State) (slots : List Nat) : (loseSlots s slots).inLimits = s.inLimits := by
  simp [loseSlots]

@[simp] theorem slotsDown_inLimits (s : State) (slots : List Nat) : (slotsDown s slots).inLimits = s.inLimits := by
  simp [slotsDown]

@[simp] theorem stackDown_inLimits (s : State) (n : Nat) : (stackDown s n).inLimits = s.inLimits := by
  simp [stackDown]

@[simp] theorem linksDown_inLimits (s : State) (l : List Nat) : (linksDown s l).inLimits = s.inLimits := by
  simp [linksDown]

@[simp] theorem setBustState_inLimits (s : State) (cn state : Nat) : (setBustState s cn state).inLimits = s.inLimits := by
  simp [setBustState]

@[simp] theorem chipDown_inLimits (s : State) (cn : Nat) : (chipDown s cn).inLimits = s.inLimits := by
  unfold chipDown
  dsimp only
  split
  · simp only [State.foldl_inLimits, bankDown_inLimits, channelDown_inLimits, coreDown_inLimits, State.updChiplet_inLimits,
      implies_true]
    refine (State.foldl_inLimits _ (fun s q => ?_) _ _).trans (by simp)
    split <;> simp
  · simp

@[simp] theorem fenceOne_inLimits (s : State) (unit index : Nat) : (fenceOne s unit index).inLimits = s.inLimits := by
  unfold fenceOne
  split <;> simp

@[simp] theorem fenceUnit_inLimits (s : State) (unit index : Nat) : (fenceUnit s unit index).inLimits = s.inLimits := by
  simp [fenceUnit]

@[simp] theorem writeFenceCmd_inLimits (s : State) (v : Word) : (writeFenceCmd s v).inLimits = s.inLimits := by
  simp [writeFenceCmd]

@[simp] theorem deadNotice_inLimits (s : State) (orig : Nat) : (deadNotice s orig).inLimits = s.inLimits := by
  unfold deadNotice
  split <;> simp

/-! #### Images -/

@[simp] theorem setParcel_inLimits (k : Core) (a : Nat) (p : Parcel) (bad : Bool) :
    (setParcel k a p bad).inLimits = k.inLimits := by
  simp [setParcel]

@[simp] theorem loadCode_inLimits (m : Memory) (bad : Nat → Bool) (x : Section) (k : Core) :
    (loadCode m bad x k).inLimits = k.inLimits := by
  simp [loadCode]

@[simp] theorem loadStarts_inLimits (m : Memory) (x : Section) (k : Core) : (loadStarts m x k).inLimits = k.inLimits := by
  simp [loadStarts]

@[simp] theorem loadHandlers_inLimits (m : Memory) (x : Section) (k : Core) : (loadHandlers m x k).inLimits = k.inLimits := by
  simp [loadHandlers]

@[simp] theorem loadBytes_inLimits (m : Memory) (x : Section) (k : Core) : (loadBytes m x k).inLimits = k.inLimits := by
  simp [loadBytes]

@[simp] theorem loadCore_inLimits (m : Memory) (bad : Nat → Bool) (secs : List Section) (k : Core) :
    (loadCore m bad secs k).inLimits = k.inLimits := by
  refine Core.foldl_inLimits _ (fun k x => ?_) secs k
  split <;> simp

@[simp] theorem loadWs_inLimits (s : State) (cn : Nat) (x : Section) : (loadWs s cn x).inLimits = s.inLimits := by
  simp [loadWs]

@[simp] theorem loadGlobal_inLimits (s : State) (root : Word) (x : Section) : (loadGlobal s root x).inLimits = s.inLimits := by
  refine State.foldl_inLimits _ (fun t i => ?_) _ s
  dsimp only
  split <;> simp

@[simp] theorem loadSupervisor_inLimits (s : State) (c : CoreId) : (loadSupervisor s c).inLimits = s.inLimits := by
  simp [loadSupervisor]

/-! #### Launches -/

@[simp] theorem State.setQueue_inLimits (s : State) (q : Nat) (v : LQueue) : (s.setQueue q v).inLimits = s.inLimits := by
  simp [State.setQueue]

@[simp] theorem setRix_inLimits (s : State) (q : Nat) (r : Word) : (setRix s q r).inLimits = s.inLimits := by
  simp [setRix]

@[simp] theorem loadTables_inLimits (s : State) (p : Placed) (k : Core) : (loadTables s p k).inLimits = k.inLimits := by
  simp [loadTables]

@[simp] theorem loadRank_inLimits (s : State) (root : Word) (p : Placed) : (loadRank s root p).inLimits = s.inLimits := by
  simp [loadRank]

@[simp] theorem loadSupervisors_inLimits (s : State) (ps : List Placed) : (loadSupervisors s ps).inLimits = s.inLimits := by
  simp [loadSupervisors]

@[simp] theorem addGroup_inLimits (ps : List Placed) (s : State) (g : GroupRec) : (addGroup ps s g).inLimits = s.inLimits := by
  unfold addGroup
  split <;> simp

theorem prepareRank_keepsLimits {s : State} (h : s.inLimits = true) (l : Launch) (p : Placed) :
    (prepareRank s l p).inLimits = true := by
  unfold prepareRank
  simp only [State.updCluster_inLimits]
  rw [State.foldl_inLimits _ fun s c => by simp]
  refine State.foldl_keepsLimits _ (fun s ws hs => writeShLink_keepsLimits hs _ _) _ ?_
  exact State.updCore_keepsLimits (by simp [h]) p.core fun k hk =>
    coreRegsInLimits_ttRoot (coreRegsInLimits_dbgCtl hk _) _

@[simp] theorem sendStarts_inLimits (s : State) (l : Launch) : (sendStarts s l).inLimits = s.inLimits := by
  simp [sendStarts]

theorem runLaunch_keepsLimits {s : State} (h : s.inLimits = true) (l : Launch) (ps : List Placed) (port : Nat) :
    (runLaunch s l ps port).inLimits = true := by
  unfold runLaunch
  dsimp only
  rw [State.foldl_inLimits _ fun s p => by simp]
  simp only [putStatus_inLimits, sendStarts_inLimits, updLaunch_inLimits, State.bump_inLimits, State.inLimits_mk, regsInLimits_fields]
  refine State.foldl_keepsLimits _ (fun s p hs => prepareRank_keepsLimits hs l p) ps ?_
  simp [h, apply_ite Prod.snd]

@[simp] theorem rejectTaken_inLimits (s : State) (l : Launch) (reason : Nat) :
    (rejectTaken s l reason).inLimits = s.inLimits := by
  simp [rejectTaken]

@[simp] theorem discardInput_inLimits (s : State) (c : CoreId) : (discardInput s c).inLimits = s.inLimits := by
  unfold discardInput
  rw [State.updCore_inLimits _ _ _ fun k => by simp]
  refine State.foldl_inLimits _ (fun t id => ?_) _ s
  (repeat' split) <;> simp

@[simp] theorem clearCore_inLimits (id : Nat) (s : State) (c : CoreId) : (clearCore id s c).inLimits = s.inLimits := by
  simp [clearCore]

@[simp] theorem abortLaunch_inLimits (s : State) (l : Launch) : (abortLaunch s l).inLimits = s.inLimits := by
  unfold abortLaunch
  split <;> simp

@[simp] theorem basecampArrival_inLimits (s : State) (p : Packet) : (basecampArrival s p).inLimits = s.inLimits := by
  unfold basecampArrival
  dsimp only
  (repeat' split) <;> simp

/-! #### Switching launches -/

theorem takeCore_keepsLimits {k : Core} (h : k.inLimits = true) (m : Memory) (a : Nat) : (takeCore m a k).inLimits = true :=
  coreRegsInLimits_ttRoot (coreRegsInLimits_dbgCtl h _) _

theorem takeShell_keepsLimits {k : Core} (h : k.inLimits = true) (m : Memory) (a : Nat) :
    coreRegsInLimits k.dbgCtl k.ttRoot k.tretCtl (takeShell m a k.shell).link = true :=
  coreRegsInLimits_link h _

@[simp] theorem setTransit_inLimits (on : Bool) (s : State) (r : BitVec 16) : (setTransit on s r).inLimits = s.inLimits := by
  simp [setTransit]

@[simp] theorem releaseRanks_inLimits (s : State) (l : Launch) : (releaseRanks s l).inLimits = s.inLimits := by
  simp [releaseRanks]

@[simp] theorem beginSwitch_inLimits (s : State) (v : Launch) : (beginSwitch s v).inLimits = s.inLimits := by
  simp [beginSwitch]

@[simp] theorem closeShells_inLimits (s : State) (v : Launch) (on : Bool) : (closeShells s v on).inLimits = s.inLimits := by
  simp [closeShells]

theorem leaveCores_inLimits {s : State} {v : Launch} {finish : State → State} (hf : (finish s).inLimits = s.inLimits) :
    (leaveCores s v finish).inLimits = s.inLimits := by
  simp [leaveCores, hf]

@[simp] theorem saveCore_inLimits (id : Nat) (s : State) (c : CoreId) : (saveCore id s c).inLimits = s.inLimits := by
  simp [saveCore]

@[simp] theorem dropAsks_inLimits (s : State) (c : CoreId) : (dropAsks s c).inLimits = s.inLimits := by
  simp [dropAsks]

@[simp] theorem freeCtx_inLimits (c : CoreId) (s : State) (r : Resume) : (freeCtx c s r).inLimits = s.inLimits := by
  simp [freeCtx]

@[simp] theorem leaveCore_inLimits (id : Nat) (s : State) (c : CoreId) : (leaveCore id s c).inLimits = s.inLimits := by
  simp [leaveCore]

@[simp] theorem finishSwitch_inLimits (s : State) (v : Launch) : (finishSwitch s v).inLimits = s.inLimits := by
  simp [finishSwitch]

@[simp] theorem giveUpSwitch_inLimits (s : State) (v : Launch) : (giveUpSwitch s v).inLimits = s.inLimits := by
  simp [giveUpSwitch]

theorem slotsBack_keepsLimits (c : CoreId) (l : List Resume) {s : State} (h : s.inLimits = true) :
    (slotsBack c l s).inLimits = true := by
  induction l generalizing s with
  | nil => exact h
  | cons r l ih =>
    unfold slotsBack
    dsimp only
    refine ih ?_
    simp only [State.inLimits_mk, regsInLimits_fields]
    split
    · exact State.setCore_keepsLimits (by simp [h]) c (State.getCore_inLimits h c)
    · exact h

theorem restoreCore_keepsLimits {s : State} (h : s.inLimits = true) (l : Launch) (rank : BitVec 16) (c : CoreId) :
    (restoreCore l s rank c).inLimits = true := by
  unfold restoreCore
  dsimp only
  rw [State.updCluster_inLimits]
  refine slotsBack_keepsLimits c _ ?_
  rw [State.foldl_inLimits _ fun s ws => by simp]
  exact State.updCore_keepsLimits h c fun k hk => takeShell_keepsLimits (takeCore_keepsLimits hk _ _) _ _

/-! #### The summary -/

@[simp] theorem addCorrected_inLimits (tick : Nat) (s : State) (i : Nat) : (addCorrected tick s i).inLimits = s.inLimits := by
  simp [addCorrected]

@[simp] theorem measured_inLimits (s : State) : (measured s).inLimits = s.inLimits := by
  simp [measured]

/-! #### The fabric -/

@[simp] theorem setPacket_inLimits (s : State) (p : Packet) : (setPacket s p).inLimits = s.inLimits := by
  simp [setPacket]

@[simp] theorem requeue_inLimits (s : State) (p : Packet) : (requeue s p).inLimits = s.inLimits := by
  simp [requeue]

@[simp] theorem depart_inLimits (s : State) (p : Packet) : (depart s p).inLimits = s.inLimits := by
  unfold depart
  (repeat' split) <;> simp

@[simp] theorem hopOn_inLimits (s : State) (p : Packet) (r : Route) : (hopOn s p r).inLimits = s.inLimits := by
  unfold hopOn
  split <;> simp

@[simp] theorem leaveModule_inLimits (s : State) (p : Packet) : (leaveModule s p).inLimits = s.inLimits := by
  unfold leaveModule
  dsimp only
  (repeat' split) <;> simp

@[simp] theorem takeAnswer_inLimits (s : State) (p : Packet) (req i : Nat) (st : PieceState) (data : BitVec 64) :
    (takeAnswer s p req i st data).inLimits = s.inLimits := by
  simp [takeAnswer]

@[simp] theorem staleCopy_inLimits (s : State) (p : Packet) (req i who home : Nat) :
    (staleCopy s p req i who home).inLimits = s.inLimits := by
  simp [staleCopy]

@[simp] theorem takeRequest_inLimits (s : State) (p : Packet) : (takeRequest s p).inLimits = s.inLimits := by
  unfold takeRequest
  dsimp only
  (repeat' split) <;> simp

@[simp] theorem takeArrived_inLimits (s : State) (p : Packet) : (takeArrived s p).inLimits = s.inLimits := by
  unfold takeArrived
  split <;> simp

@[simp] theorem updSeen_inLimits (s : State) (e : FarSeen) (f : FarSeen → FarSeen) : (updSeen s e f).inLimits = s.inLimits := by
  simp [updSeen]

@[simp] theorem replySeen_inLimits (s : State) (e : FarSeen) (b : Reply) : (replySeen s e b).inLimits = s.inLimits := by
  simp [replySeen]

@[simp] theorem postServe_inLimits (s : State) (e : FarSeen) (a n : Nat) (data : Option (List Byte)) :
    (postServe s e a n data).inLimits = s.inLimits := by
  simp [postServe]

@[simp] theorem serveAnswer_inLimits (s : State) (e : FarSeen) (r : Req) (n : Nat) :
    (serveAnswer s e r n).inLimits = s.inLimits := by
  unfold serveAnswer
  split <;> simp

@[simp] theorem farServe_inLimits (s : State) (e : FarSeen) (a n : Nat) (data : Option (List Byte)) :
    (farServe s e a n data).inLimits = s.inLimits := by
  unfold farServe
  (repeat' split) <;> simp

@[simp] theorem farTake_inLimits (s : State) (r : FarSource) (f : State → FarSeen → State)
    (hf : ∀ s e, (f s e).inLimits = s.inLimits) : (farTake s r f).inLimits = s.inLimits := by
  unfold farTake
  split
  dsimp only
  split <;> simp [hf]

@[simp] theorem farForward_inLimits (s : State) (e : FarSeen) (header : Word) (payload : List Word) (count : Bool) :
    (farForward s e header payload count).inLimits = s.inLimits := by
  unfold farForward
  (repeat' split) <;> simp

theorem writeFarTt_keepsLimits {s : State} (h : s.inLimits = true) (v : Word) : (writeFarTt s v).inLimits = true := by
  obtain ⟨hlo, hhi, hps, hcfg, -, hsw, hcores⟩ := (regsInLimits_iff ..).1 h
  exact (regsInLimits_iff ..).2 ⟨hlo, hhi, hps, hcfg, and_and_not_beq_zero v _, hsw, hcores⟩

@[simp] theorem loseChips_inLimits (s : State) (l : List Nat) : (loseChips s l).inLimits = s.inLimits := by
  simp [loseChips]

/-! #### Bring-up and power -/

@[simp] theorem startFirmware_inLimits (s : State) (firmware : List Byte) : (startFirmware s firmware).inLimits = s.inLimits := by
  simp [startFirmware]

theorem writePstate_keepsLimits {s : State} (h : s.inLimits = true) (v : Word) : (writePstate s v).inLimits = true := by
  obtain ⟨hlo, hhi, -, hcfg, htt, hsw, hcores⟩ := (regsInLimits_iff ..).1 h
  have hps : (v &&& 7).toNat < 8 := by
    rw [BitVec.toNat_and]
    exact Nat.lt_succ_of_le Nat.and_le_right
  unfold writePstate
  rw [State.foldl_inLimits _ fun s cn => by simp]
  exact (regsInLimits_iff ..).2 ⟨hlo, hhi, hps, hcfg, htt, hsw, hcores⟩

theorem writePowcap_keepsLimits {s : State} (h : s.inLimits = true) (v : Word) : (writePowcap s v).inLimits = true := by
  obtain ⟨-, -, hps, hcfg, htt, hsw, hcores⟩ := (regsInLimits_iff ..).1 h
  have cap : (BitVec.ofNat 64 (min 5800 (max 1500 (fld v 12 0)))).toNat = min 5800 (max 1500 (fld v 12 0)) := by
    rw [BitVec.toNat_ofNat]
    omega
  exact (regsInLimits_iff ..).2 ⟨by omega, by omega, hps, hcfg, htt, hsw, hcores⟩

@[simp] theorem initCore_inLimits (s : State) (c : CoreId) : (initCore s c).inLimits = s.inLimits := by
  simp [initCore]

@[simp] theorem initMemory_inLimits (s : State) : (initMemory s).inLimits = s.inLimits := by
  unfold initMemory
  generalize gridCores ++ bcCores = l
  simp

@[simp] theorem setupCore_inLimits (s : State) (c : CoreId) : (setupCore s c).inLimits = s.inLimits := by
  simp [setupCore]

theorem switchBase_keepsLimits {s : State} (h : s.inLimits = true) (v : Word) :
    ({ s with switchBase := v &&& 0xFFFFE00000 } : State).inLimits = true := by
  obtain ⟨hlo, hhi, hps, hcfg, htt, -, hcores⟩ := (regsInLimits_iff ..).1 h
  exact (regsInLimits_iff ..).2 ⟨hlo, hhi, hps, hcfg, htt, and_and_not_beq_zero v _, hcores⟩

theorem farCfg_keepsLimits {s : State} (h : s.inLimits = true) (v : Word) :
    ({ s with farCfg := v &&& 0xFF1F030001 } : State).inLimits = true := by
  obtain ⟨hlo, hhi, hps, -, htt, hsw, hcores⟩ := (regsInLimits_iff ..).1 h
  exact (regsInLimits_iff ..).2 ⟨hlo, hhi, hps, and_and_not_beq_zero v _, htt, hsw, hcores⟩

theorem setupFirmware_keepsLimits {s : State} (h : s.inLimits = true) : (setupFirmware s).inLimits = true := by
  unfold setupFirmware
  generalize gridCores ++ bcCores = l
  refine writePstate_keepsLimits (writePowcap_keepsLimits (writeFarTt_keepsLimits (switchBase_keepsLimits ?_ _) _) _) _
  simp [h]

@[simp] theorem settleAscent_inLimits (s : State) : (settleAscent s).inLimits = s.inLimits := by
  simp [settleAscent]

/-! #### The host port -/

@[simp] theorem mailbox_inLimits (opcode : Nat) (arg : BitVec 48) (s : State) (f : State → State × Nat × Option Word)
    (hf : ∀ s, (f s).1.inLimits = s.inLimits) : (mailbox opcode arg s f).inLimits = s.inLimits := by
  simp [mailbox, hf]

@[simp] theorem mbSummary_inLimits (arg : BitVec 48) (s : State) : (mbSummary arg s).inLimits = s.inLimits := by
  refine mailbox_inLimits _ _ _ _ fun s => ?_
  split <;> simp

@[simp] theorem writeSample_inLimits (s : State) (pa : Nat) (poison : Bool) (w : List Byte) :
    (writeSample s pa poison w).inLimits = s.inLimits := by
  simp [writeSample]

@[simp] theorem sampleSummary_inLimits (s : State) : (sampleSummary s).inLimits = s.inLimits := by
  unfold sampleSummary
  split <;> simp

@[simp] theorem mbTakeToken_inLimits (arg : BitVec 48) (s : State) : (mbTakeToken arg s).inLimits = s.inLimits := by
  refine mailbox_inLimits _ _ _ _ fun s => ?_
  split <;> simp

@[simp] theorem mbAbort_inLimits (arg : BitVec 48) (data : Word) (s : State) : (mbAbort arg data s).inLimits = s.inLimits := by
  refine mailbox_inLimits _ _ _ _ fun s => ?_
  (repeat' split) <;> simp

@[simp] theorem writeLqCfg_inLimits (s : State) (q : Nat) (v : Word) : (writeLqCfg s q v).inLimits = s.inLimits := by
  simp [writeLqCfg]

@[simp] theorem mbQueueCfg_inLimits (arg : BitVec 48) (data : Word) (s : State) :
    (mbQueueCfg arg data s).inLimits = s.inLimits := by
  refine mailbox_inLimits _ _ _ _ fun s => ?_
  dsimp only
  (repeat' split) <;> simp

@[simp] theorem mbOther_inLimits (opcode : BitVec 16) (arg : BitVec 48) (s : State) :
    (mbOther opcode arg s).inLimits = s.inLimits := by
  simp [mbOther]

@[simp] theorem writeMbCmd_inLimits (s : State) (v : Word) : (writeMbCmd s v).inLimits = s.inLimits := by
  unfold writeMbCmd
  split <;> simp

theorem hostWrite_keepsLimits {s : State} (h : s.inLimits = true) (offset : Nat) (v : Word) :
    (hostWrite s offset v).inLimits = true := by
  unfold hostWrite
  split
  · simp [h]
  · split
    · exact h
    · split
      · exact writePowcap_keepsLimits h v
      · exact writePstate_keepsLimits h v
      · simp [h]
      · exact h

theorem firmwareWrite_keepsLimits {s : State} (h : s.inLimits = true) (offset : Nat) (v : Word) :
    (firmwareWrite s offset v).inLimits = true := by
  unfold firmwareWrite
  split
  · exact h
  split
  · simp [h]
  split
  · simp [h]
  split
  · simp [h]
  split
  · simp [h]
  split
  · simp [h]
  · exact farCfg_keepsLimits h v
  · exact switchBase_keepsLimits h v
  · exact writeFarTt_keepsLimits h v
  · simp [h]
  · simp [h]
  · exact h

@[simp] theorem putWindow_inLimits (s : State) (d : Place) (l : List Byte) : (putWindow s d l).inLimits = s.inLimits := by
  unfold putWindow
  split <;> simp

@[simp] theorem cxlPut_inLimits (fuel o : Nat) (l : List Byte) (s : State) : (cxlPut fuel o l s).inLimits = s.inLimits := by
  induction fuel generalizing o l s with
  | zero => rfl
  | succ fuel ih => simp [cxlPut, ih]

/-! ### What the instructions and events leave

For a shape that many instructions share, one lemma; for an instruction or event whose branches differ, a lemma of its own. -/

/-! #### The integer instructions -/

theorem alu_inLimits {s : State} (h : s.inLimits = true) {c : Ctl} {len : Nat} {d a b : BitVec 5} {f : Word → Word → Word} :
    NextInLimits (alu c len d a b f s) := by
  unfold alu
  refine issue_inLimits h ?_
  simp [h]

theorem alu1_inLimits {s : State} (h : s.inLimits = true) {c : Ctl} {len : Nat} {d a : BitVec 5} {f : Word → Word} :
    NextInLimits (alu1 c len d a f s) := by
  unfold alu1
  refine issue_inLimits h ?_
  simp [h]

theorem alu3_inLimits {s : State} (h : s.inLimits = true) {c : Ctl} {len : Nat} {d a b : BitVec 5} {f : Word → Word → Word → Word} :
    NextInLimits (alu3 c len d a b f s) := by
  unfold alu3
  refine issue_inLimits h ?_
  simp [h]

theorem aluImm_inLimits {s : State} (h : s.inLimits = true) {c : Ctl} {len : Nat} {d : BitVec 5} {w : Word} :
    NextInLimits (aluImm c len d w s) := by
  unfold aluImm
  refine issue_inLimits h ?_
  simp [h]

/-! #### Memory instructions -/

theorem load_inLimits {s : State} (h : s.inLimits = true) {c : Ctl} {len : Nat} {d a : BitVec 5} {o : BitVec 8} {size : Nat}
    {signed acq : Bool} :
    NextInLimits (load c len d a o size signed acq s) := by
  unfold load
  refine issue_inLimits h ?_
  dsimp only
  split <;> simp [h]

theorem store_inLimits {s : State} (h : s.inLimits = true) {c : Ctl} {len : Nat} {d a : BitVec 5} {o : BitVec 8} {size : Nat}
    {rel : Bool} :
    NextInLimits (store c len d a o size rel s) := by
  unfold store
  refine issue_inLimits h ?_
  dsimp only
  split <;> simp [h]

theorem sync_inLimits {s : State} (h : s.inLimits = true) {c : Ctl} {d a : BitVec 5} {o : BitVec 8} {op : ReqOp} {isLoad : Bool} :
    NextInLimits (sync c d a o op isLoad s) := by
  unfold sync
  refine issue_inLimits h ?_
  dsimp only
  split <;> simp [h]

theorem rangeOp_inLimits {s : State} (h : s.inLimits = true) {c : Ctl} {a b : BitVec 5} {op : ReqOp} {rel : Bool} :
    NextInLimits (rangeOp c a b op rel s) := by
  unfold rangeOp
  refine issue_inLimits h ?_
  dsimp only
  split <;> simp [h]

theorem atomic_inLimits {s : State} (h : s.inLimits = true) {c : Ctl} {d a b : BitVec 5} {z : BitVec 1} {op : AmoOp} :
    NextInLimits (atomic c d a b z op s) := by
  unfold atomic
  refine issue_inLimits h ?_
  dsimp only
  (repeat' split) <;> simp [h]

theorem sealOp_inLimits {s : State} (h : s.inLimits = true) {c : Ctl} {a b : BitVec 5} {on : Bool} :
    NextInLimits (sealOp c a b on s) := by
  unfold sealOp
  refine issue_inLimits h ?_
  dsimp only
  split
  · simp
  · refine fenced_inLimits ?_
    have hs := sealPages_inLimits on (s.thisSeat.getX a).toNat ((s.thisSeat.getX a).toNat + (s.thisSeat.getX b).toNat)
      ((s.thisSeat.getX b).toNat / 65536) (s.thisSeat.getX a).toNat (acquireInv s s.core) []
    split
    case h_1 e =>
      rw [e] at hs
      split <;> simp_all
    case h_2 e =>
      rw [e] at hs
      simp_all

/-! #### Vector memory -/

theorem execVld_inLimits {s : State} (h : s.inLimits = true) {c : Ctl} {d : BitVec 4} {a : BitVec 5} {x : BitVec 4} {k : BitVec 2} :
    NextInLimits (execVld c d a x k s) := by
  unfold execVld
  refine issue_inLimits h ?_
  dsimp only
  (repeat' split) <;> simp [h]

theorem execVst_inLimits {s : State} (h : s.inLimits = true) {c : Ctl} {d : BitVec 4} {a : BitVec 5} {k : BitVec 2} :
    NextInLimits (execVst c d a k s) := by
  unfold execVst
  refine issue_inLimits h ?_
  dsimp only
  (repeat' split) <;> simp [h]

theorem execVldSc_inLimits {s : State} (h : s.inLimits = true) {c : Ctl} {d : BitVec 4} {a : BitVec 5} :
    NextInLimits (execVldSc c d a s) := by
  unfold execVldSc
  refine issue_inLimits h ?_
  dsimp only
  split <;> simp [h]

theorem execVstSc_inLimits {s : State} (h : s.inLimits = true) {c : Ctl} {d : BitVec 4} {a : BitVec 5} :
    NextInLimits (execVstSc c d a s) := by
  unfold execVstSc
  refine issue_inLimits h ?_
  dsimp only
  split <;> simp [h]

theorem gather_inLimits {s : State} (h : s.inLimits = true) {c : Ctl} {d : BitVec 4} {a : BitVec 5} {x : BitVec 4} {k : BitVec 2}
    {size : Nat} :
    NextInLimits (gather c d a x k size s) := by
  unfold gather
  refine issue_inLimits h ?_
  split
  case h_1 e => exact indexFault_inLimits e
  case h_2 =>
    dsimp only
    split <;> simp [h]

theorem scatter_inLimits {s : State} (h : s.inLimits = true) {c : Ctl} {d : BitVec 4} {a : BitVec 5} {x : BitVec 4}
    {k : BitVec 2} {size : Nat} :
    NextInLimits (scatter c d a x k size s) := by
  unfold scatter
  refine issue_inLimits h ?_
  split
  case h_1 e => exact indexFault_inLimits e
  case h_2 =>
    dsimp only
    split <;> simp [h]

/-! #### Events of the memory -/

theorem execAtomicAtHome_inLimits {s : State} (h : s.inLimits = true) {req : Nat} : NextInLimits (execAtomicAtHome req s) := by
  refine (atHome_inLimits _ _ _ _ _ fun s r i p => ?_).trans h
  split <;> simp

theorem execRevocation_inLimits {s : State} (h : s.inLimits = true) {rev : Nat} : NextInLimits (execRevocation rev s) := by
  unfold execRevocation
  rw [nextInLimits_next]
  split <;> simp [h]

theorem execRevocationAck_inLimits {s : State} (h : s.inLimits = true) {rev : Nat} : NextInLimits (execRevocationAck rev s) := by
  unfold execRevocationAck
  rw [nextInLimits_next]
  dsimp only
  (repeat' split) <;> simp [h]

theorem execStoreAck_inLimits {s : State} (h : s.inLimits = true) {req : Nat} : NextInLimits (execStoreAck req s) := by
  unfold execStoreAck
  rw [nextInLimits_next]
  (repeat' split) <;> simp [h]

theorem execTranslationWalk_inLimits {s : State} (h : s.inLimits = true) {at' : WalkAt} {va : Word} :
    NextInLimits (execTranslationWalk at' va s) := by
  unfold execTranslationWalk
  rw [nextInLimits_next]
  (repeat' split) <;> simp [h]

theorem execPageMigration_inLimits {s : State} (h : s.inLimits = true) {entry level newPa stage : Nat} :
    NextInLimits (execPageMigration entry level newPa stage s) := by
  unfold execPageMigration
  rw [nextInLimits_next]
  split <;> simp [h]

theorem execMovedReply_inLimits {s : State} (h : s.inLimits = true) {req : Nat} : NextInLimits (execMovedReply req s) := by
  unfold execMovedReply
  rw [nextInLimits_next]
  split <;> simp [h]

/-! #### Scalar instructions -/

theorem cmpReg_inLimits {s : State} (h : s.inLimits = true) {c : Ctl} {p e : BitVec 3} {a b : BitVec 5} {f : Word → Word → Bool} :
    NextInLimits (cmpReg c p e a b f s) := by
  unfold cmpReg
  refine issue_inLimits h ?_
  simp [h]

theorem cmpImm_inLimits {s : State} (h : s.inLimits = true) {c : Ctl} {p e : BitVec 3} {a : BitVec 5} {i : BitVec 6}
    {f : Word → Word → Bool} :
    NextInLimits (cmpImm c p e a i f s) := by
  unfold cmpImm
  refine issue_inLimits h ?_
  simp [h]

theorem cmpFloat_inLimits {s : State} (h : s.inLimits = true) {c : Ctl} {p e : BitVec 3} {a b : BitVec 5} {t : BitVec 2}
    {k : FCond} :
    NextInLimits (cmpFloat c p e a b t k s) := by
  unfold cmpFloat
  refine issue_inLimits h ?_
  simp [h]

theorem predOp_inLimits {s : State} (h : s.inLimits = true) {c : Ctl} {d a b : BitVec 3} {f : Bool → Bool → Bool} :
    NextInLimits (predOp c d a b f s) := by
  unfold predOp
  refine issue_inLimits h ?_
  simp [h]

theorem fp2_inLimits {s : State} (h : s.inLimits = true) {c : Ctl} {d a b : BitVec 5} {t : BitVec 2} {op : FFmt → Nat → Nat → Nat} :
    NextInLimits (fp2 c d a b t op s) := by
  unfold fp2
  refine issue_inLimits h ?_
  simp [h]

theorem fp1_inLimits {s : State} (h : s.inLimits = true) {c : Ctl} {d a : BitVec 5} {t : BitVec 2} {op : FFmt → Nat → Nat} :
    NextInLimits (fp1 c d a t op s) := by
  unfold fp1
  refine issue_inLimits h ?_
  simp [h]

theorem conv_inLimits {s : State} (h : s.inLimits = true) {c : Ctl} {d a : BitVec 5} {op : Word → Word} :
    NextInLimits (conv c d a op s) := by
  unfold conv
  refine issue_inLimits h ?_
  simp [h]

theorem execFma_inLimits {s : State} (h : s.inLimits = true) {c : Ctl} {d a b : BitVec 5} {t : BitVec 2} :
    NextInLimits (execFma c d a b t s) := by
  unfold execFma
  refine issue_inLimits h ?_
  simp [h]

/-! #### Messages -/

theorem execSend_inLimits {s : State} (h : s.inLimits = true) {c : Ctl} {a b : BitVec 5} : NextInLimits (execSend c a b s) := by
  unfold execSend
  refine issue_inLimits h ?_
  dsimp only
  (repeat' split) <;> simp [h]

theorem execSendv_inLimits {s : State} (h : s.inLimits = true) {c : Ctl} {a : BitVec 5} {b : BitVec 4} :
    NextInLimits (execSendv c a b s) := by
  unfold execSendv
  refine issue_inLimits h ?_
  dsimp only
  split <;> simp [h]

theorem execSendc_inLimits {s : State} (h : s.inLimits = true) {c : Ctl} {a b : BitVec 5} : NextInLimits (execSendc c a b s) := by
  unfold execSendc
  refine issue_inLimits h ?_
  dsimp only
  (repeat' split) <;> simp [h]

theorem execMcast_inLimits {s : State} (h : s.inLimits = true) {c : Ctl} {a b : BitVec 5} : NextInLimits (execMcast c a b s) := by
  unfold execMcast
  refine issue_inLimits h ?_
  dsimp only
  (repeat' split) <;> simp [h]

theorem execSpawn_inLimits {s : State} (h : s.inLimits = true) {c : Ctl} {p : BitVec 3} {a b : BitVec 5} :
    NextInLimits (execSpawn c p a b s) := by
  unfold execSpawn
  refine issue_inLimits h ?_
  dsimp only
  (repeat' split) <;> simp [h]

/-! #### Ports and rings -/

theorem execPatWr_inLimits {s : State} (h : s.inLimits = true) {c : Ctl} {a b : BitVec 5} : NextInLimits (execPatWr c a b s) := by
  unfold execPatWr
  refine issueS_inLimits h ?_
  dsimp only
  (repeat' split) <;> simp [h]

/-! #### Vector instructions -/

theorem lanes2_inLimits {s : State} (h : s.inLimits = true) {c : Ctl} {d a b : BitVec 4} {k : BitVec 2} {t : BitVec 3}
    {f : Nat → Nat → Nat} :
    NextInLimits (lanes2 c d a b k t f s) := by
  unfold lanes2
  refine issue_inLimits h ?_
  dsimp only
  split <;> simp [h]

theorem lanes1_inLimits {s : State} (h : s.inLimits = true) {c : Ctl} {d a : BitVec 4} {k : BitVec 2} {t : BitVec 3}
    {f : Nat → Nat} :
    NextInLimits (lanes1 c d a k t f s) := by
  unfold lanes1
  refine issue_inLimits h ?_
  dsimp only
  split <;> simp [h]

theorem lanes3_inLimits {s : State} (h : s.inLimits = true) {c : Ctl} {d a b : BitVec 4} {k : BitVec 2} {t : BitVec 3}
    {f : Nat → Nat → Nat → Nat} :
    NextInLimits (lanes3 c d a b k t f s) := by
  unfold lanes3
  refine issue_inLimits h ?_
  dsimp only
  split <;> simp [h]

theorem lanesRaw_inLimits {s : State} (h : s.inLimits = true) {c : Ctl} {d a b : BitVec 4} {k : BitVec 2} {f : Nat → Nat → Nat} :
    NextInLimits (lanesRaw c d a b k f s) := by
  unfold lanesRaw
  refine issue_inLimits h ?_
  simp [h]

theorem vcmp_inLimits {s : State} (h : s.inLimits = true) {c : Ctl} {d : BitVec 2} {a b : BitVec 4} {k : BitVec 2} {t : BitVec 3}
    {cond : VCond} :
    NextInLimits (vcmp c d a b k t cond s) := by
  unfold vcmp
  refine issue_inLimits h ?_
  dsimp only
  split <;> simp [h]

theorem execVredsum_inLimits {s : State} (h : s.inLimits = true) {c : Ctl} {d a : BitVec 4} {k : BitVec 2} {t : BitVec 3} :
    NextInLimits (execVredsum c d a k t s) := by
  unfold execVredsum
  refine issue_inLimits h ?_
  dsimp only
  split <;> simp [h]

theorem extremum_inLimits {s : State} (h : s.inLimits = true) {c : Ctl} {d a : BitVec 4} {k : BitVec 2} {t : BitVec 3}
    {f : Nat → Nat → Nat} {unit : Nat} :
    NextInLimits (extremum c d a k t f unit s) := by
  unfold extremum
  refine issue_inLimits h ?_
  dsimp only
  split <;> simp [h]

theorem execVredmax_inLimits {s : State} (h : s.inLimits = true) {c : Ctl} {d a : BitVec 4} {k : BitVec 2} {t : BitVec 3} :
    NextInLimits (execVredmax c d a k t s) := by
  unfold execVredmax
  split <;> exact extremum_inLimits h

theorem execVredmin_inLimits {s : State} (h : s.inLimits = true) {c : Ctl} {d a : BitVec 4} {k : BitVec 2} {t : BitVec 3} :
    NextInLimits (execVredmin c d a k t s) := by
  unfold execVredmin
  split <;> exact extremum_inLimits h

theorem execVdot_inLimits {s : State} (h : s.inLimits = true) {c : Ctl} {d a b : BitVec 4} {k : BitVec 2} {t : BitVec 3} :
    NextInLimits (execVdot c d a b k t s) := by
  unfold execVdot
  refine issue_inLimits h ?_
  dsimp only
  split <;> simp [h]

theorem widen_inLimits {s : State} (h : s.inLimits = true) {c : Ctl} {d a : BitVec 4} {k : BitVec 2} {t : BitVec 3} {r : Nat}
    {w : Nat} {tag : BitVec 4} {f : Nat → Nat} :
    NextInLimits (widen c d a k t r w tag f s) := by
  unfold widen
  refine issue_inLimits h ?_
  dsimp only
  split <;> simp [h]

theorem execVwiden_inLimits {s : State} (h : s.inLimits = true) {c : Ctl} {d a : BitVec 4} {k : BitVec 2} {t : BitVec 3} :
    NextInLimits (execVwiden c d a k t s) := by
  unfold execVwiden
  split
  · exact widen_inLimits h
  · split <;> exact widen_inLimits h

theorem narrow_inLimits {s : State} (h : s.inLimits = true) {c : Ctl} {d a : BitVec 4} {k : BitVec 2} {t : BitVec 3} {r : Nat}
    {w : Nat} {tag : BitVec 4} :
    NextInLimits (narrow c d a k t r w tag s) := by
  unfold narrow
  refine issue_inLimits h ?_
  dsimp only
  split <;> simp [h]

theorem execVnarrow_inLimits {s : State} (h : s.inLimits = true) {c : Ctl} {d a : BitVec 4} {k : BitVec 2} {t : BitVec 3} :
    NextInLimits (execVnarrow c d a k t s) := by
  unfold execVnarrow
  split <;> exact narrow_inLimits h

theorem execVext_inLimits {s : State} (h : s.inLimits = true) {c : Ctl} {d : BitVec 4} {a : BitVec 5} {i : BitVec 5}
    {t : BitVec 3} :
    NextInLimits (execVext c d a i t s) := by
  unfold execVext
  refine issue_inLimits h ?_
  dsimp only
  split <;> simp [h]

theorem execVins_inLimits {s : State} (h : s.inLimits = true) {c : Ctl} {d : BitVec 4} {a : BitVec 5} {i : BitVec 5}
    {t : BitVec 3} :
    NextInLimits (execVins c d a i t s) := by
  unfold execVins
  refine issue_inLimits h ?_
  dsimp only
  split <;> simp [h]

theorem maskOp_inLimits {s : State} (h : s.inLimits = true) {c : Ctl} {d a b : BitVec 2}
    {f : BitVec 1024 → BitVec 1024 → BitVec 1024} :
    NextInLimits (maskOp c d a b f s) := by
  unfold maskOp
  refine issue_inLimits h ?_
  simp [h]

theorem execVcvt_inLimits {s : State} (h : s.inLimits = true) {c : Ctl} {d a f : BitVec 4} {k m : BitVec 2} :
    NextInLimits (execVcvt c d a f k m s) := by
  unfold execVcvt
  refine issue_inLimits h ?_
  dsimp only
  split
  case h_1 e => exact cvtFault_inLimits e
  case h_2 => simp [h]

/-! #### Shell instructions -/

theorem shMma_inLimits {s : State} (h : s.inLimits = true) {c : Ctl} {d : BitVec 3} {a : BitVec 5} {b : Option (BitVec 5)}
    {bsel : Nat} {pass : Bool} {f : BitVec 4} :
    NextInLimits (shMma c d a b bsel pass f s) := by
  unfold shMma
  refine issue_inLimits h ?_
  dsimp only
  (repeat' split) <;> simp [h]

theorem shDrain_inLimits {s : State} (h : s.inLimits = true) {c : Ctl} {d : BitVec 3} {a : BitVec 5} {f : BitVec 4} {zaft : Bool} :
    NextInLimits (shDrain c d a f zaft s) := by
  unfold shDrain
  refine issue_inLimits h ?_
  dsimp only
  (repeat' split) <;> simp [h]

theorem shSums_inLimits {s : State} (h : s.inLimits = true) {c : Ctl} {a : BitVec 5} {stroke : Bool} :
    NextInLimits (shSums c a stroke s) := by
  unfold shSums
  refine issue_inLimits h ?_
  simp [h]

theorem execShRcmd_inLimits {s : State} (h : s.inLimits = true) {c : Ctl} {a b : BitVec 5} :
    NextInLimits (execShRcmd c a b s) := by
  unfold execShRcmd
  refine issue_inLimits h ?_
  dsimp only
  (repeat' split) <;> simp [h]

/-! #### Events of the shells -/

theorem execShellMma_inLimits {s : State} (h : s.inLimits = true) {core cmd : Nat} : NextInLimits (execShellMma core cmd s) := by
  unfold execShellMma
  rw [nextInLimits_next]
  (repeat' split) <;> simp [h]

theorem execMmaFinish_inLimits {s : State} (h : s.inLimits = true) {core cmd : Nat} :
    NextInLimits (execMmaFinish core cmd s) := by
  unfold execMmaFinish
  rw [nextInLimits_next]
  split <;> simp [h]

theorem execShellDrain_inLimits {s : State} (h : s.inLimits = true) {core cmd : Nat} :
    NextInLimits (execShellDrain core cmd s) := by
  unfold execShellDrain
  rw [nextInLimits_next]
  (repeat' split) <;> simp [h]

theorem execShellZero_inLimits {s : State} (h : s.inLimits = true) {core cmd : Nat} :
    NextInLimits (execShellZero core cmd s) := by
  unfold execShellZero
  rw [nextInLimits_next]
  split <;> simp [h]

theorem execShellPass_inLimits {s : State} (h : s.inLimits = true) {core cmd : Nat} :
    NextInLimits (execShellPass core cmd s) := by
  unfold execShellPass
  rw [nextInLimits_next]
  split <;> simp [h]

theorem execShellInject_inLimits {s : State} (h : s.inLimits = true) {core cmd : Nat} :
    NextInLimits (execShellInject core cmd s) := by
  unfold execShellInject
  rw [nextInLimits_next]
  (repeat' split) <;> simp [h]

theorem execLatchGrant_inLimits {s : State} (h : s.inLimits = true) {core : Nat} : NextInLimits (execLatchGrant core s) := by
  unfold execLatchGrant
  rw [nextInLimits_next]
  dsimp only
  (repeat' split) <;> simp [h]

theorem execLatchArrival_inLimits {s : State} (h : s.inLimits = true) {pkt : Nat} : NextInLimits (execLatchArrival pkt s) := by
  refine (onArrival_inLimits _ _ _ fun p => ?_).trans h
  split
  · dsimp only
    (repeat' split) <;> simp
  · rfl

theorem execShLinkWrite_inLimits {s : State} (h : s.inLimits = true) {core : Nat} {v : Word} :
    NextInLimits (execShLinkWrite core v s) := by
  unfold execShLinkWrite
  rw [nextInLimits_next]
  split
  · exact writeShLink_keepsLimits h core v
  · exact h

theorem execRemoteShellCommand_inLimits {s : State} (h : s.inLimits = true) {pkt : Nat} :
    NextInLimits (execRemoteShellCommand pkt s) := by
  unfold execRemoteShellCommand
  rw [nextInLimits_next]
  dsimp only
  (repeat' split) <;> simp [h]

theorem execRcmdAnswer_inLimits {s : State} (h : s.inLimits = true) {pkt : Nat} : NextInLimits (execRcmdAnswer pkt s) := by
  refine (onArrival_inLimits _ _ _ fun p => ?_).trans h
  split
  · dsimp only
    split
    · simp
    · split <;> simp
  · rfl

/-! #### The routers and the combines -/

theorem rtRed_inLimits {s : State} (h : s.inLimits = true) {c : Ctl} {fn : Nat} {a : BitVec 5} {b : BitVec 4} :
    NextInLimits (rtRed c fn a b s) := by
  unfold rtRed
  refine issue_inLimits h ?_
  dsimp only
  split
  · simp
  · split
    case h_1 e => exact groupFault_inLimits e
    case h_2 => simp [h]

theorem execRtRes_inLimits {s : State} (h : s.inLimits = true) {c : Ctl} {d : BitVec 4} {a : BitVec 5} :
    NextInLimits (execRtRes c d a s) := by
  unfold execRtRes
  refine issue_inLimits h ?_
  dsimp only
  (repeat' split) <;> simp [h]

theorem execRtCodec_inLimits {s : State} (h : s.inLimits = true) {c : Ctl} {a : BitVec 5} : NextInLimits (execRtCodec c a s) := by
  unfold execRtCodec
  refine issueS_inLimits h ?_
  dsimp only
  split
  · simp
  split
  · simp
  split
  · simp
  · refine readTable_inLimits h fun v => ?_
    split <;> simp [h]

theorem execCombineArrival_inLimits {s : State} (h : s.inLimits = true) {pkt : Nat} : NextInLimits (execCombineArrival pkt s) := by
  unfold execCombineArrival
  rw [nextInLimits_next]
  split
  · split
    · exact h
    · split
      case h_1 t e => simp [localArrival_inLimits e, h]
      case h_2 => exact h
  · split
    · exact h
    · split
      case h_1 p _ _ d data _ =>
        split
        · exact h
        · cases e : routerArrival (takePacket s p) p.dst (some p.src) d data with
          | none => exact h
          | some t => simp [routerArrival_inLimits e, h]
      case h_2 => exact h

theorem execCombineDelivery_inLimits {s : State} (h : s.inLimits = true) {pkt : Nat} :
    NextInLimits (execCombineDelivery pkt s) := by
  unfold execCombineDelivery
  rw [nextInLimits_next]
  split
  · exact h
  · split
    case h_1 p _ _ d data _ =>
      dsimp only
      split
      · exact h
      · rw [State.foldl_inLimits _ fun s m => by simp]
        split
        · exact State.setCore_keepsLimits (by simp [h]) _ (by simp [State.getCore_inLimits h])
        · simp [h]
    case h_2 => exact h

theorem execCombineLeave_inLimits {s : State} (h : s.inLimits = true) {pkt : Nat} : NextInLimits (execCombineLeave pkt s) := by
  unfold execCombineLeave
  rw [nextInLimits_next]
  (repeat' split) <;> simp [h]

theorem execGbarArrival_inLimits {s : State} (h : s.inLimits = true) {pkt : Nat} : NextInLimits (execGbarArrival pkt s) := by
  refine (onArrival_inLimits _ _ _ fun p => ?_).trans h
  split
  · split
    · rfl
    · dsimp only
      split
      · simp
      · split <;> simp
  · rfl

theorem execGbarCompletion_inLimits {s : State} (h : s.inLimits = true) {pkt : Nat} : NextInLimits (execGbarCompletion pkt s) := by
  refine (onArrival_inLimits _ _ _ fun p => ?_).trans h
  split
  · dsimp only
    split <;> simp
  · rfl

/-! #### Queues -/

theorem execHQw_inLimits {s : State} (h : s.inLimits = true) {sw : Bool} {q a : BitVec 3} : NextInLimits (execHQw sw q a s) := by
  unfold execHQw
  refine issue_inLimits h ?_
  simp [h]

/-! #### Haul channels -/

theorem execWLineSubscription_inLimits {s : State} (h : s.inLimits = true) {cluster ch : Nat} :
    NextInLimits (execWLineSubscription cluster ch s) := by
  unfold execWLineSubscription
  rw [nextInLimits_next]
  dsimp only
  (repeat' split) <;> simp [h]

theorem execHaulSlotTake_inLimits {s : State} (h : s.inLimits = true) {cluster ch : Nat} :
    NextInLimits (execHaulSlotTake cluster ch s) := by
  unfold execHaulSlotTake
  rw [nextInLimits_next]
  dsimp only
  split
  · simp [h]
  split
  · simp [h]
  split
  case h_1 e => simp [fetchRange_wait_inLimits e, h]
  case h_2 => simp [h]
  case h_3 e =>
    have ht := fetchRange_ok_inLimits e
    (repeat' split) <;> simp [ht, h]

theorem execHaulCopy_inLimits {s : State} (h : s.inLimits = true) {cluster ch : Nat} :
    NextInLimits (execHaulCopy cluster ch s) := by
  unfold execHaulCopy
  rw [nextInLimits_next]
  split <;> simp [h]

theorem execHaulFill_inLimits {s : State} (h : s.inLimits = true) {cluster ch : Nat} :
    NextInLimits (execHaulFill cluster ch s) := by
  unfold execHaulFill
  rw [nextInLimits_next]
  split <;> simp [h]

theorem execHaulGather_inLimits {s : State} (h : s.inLimits = true) {cluster ch : Nat} :
    NextInLimits (execHaulGather cluster ch s) := by
  unfold execHaulGather
  rw [nextInLimits_next]
  split <;> simp [h]

theorem execHaulCodec_inLimits {s : State} (h : s.inLimits = true) {cluster ch : Nat} :
    NextInLimits (execHaulCodec cluster ch s) := by
  unfold execHaulCodec
  rw [nextInLimits_next]
  split <;> simp [h]

theorem execHaulBox_inLimits {s : State} (h : s.inLimits = true) {cluster ch : Nat} : NextInLimits (execHaulBox cluster ch s) := by
  unfold execHaulBox
  rw [nextInLimits_next]
  split
  · exact h
  dsimp only
  split
  · simp [h]
  split
  · simp [h]
  split
  · simp [h]
  split
  case h_1 e =>
    split <;> simp [fetchRange_wait_inLimits e, h]
  case h_2 => simp [h]
  case h_3 e =>
    have ht := fetchRange_ok_inLimits e
    (repeat' split) <;> simp [ht, h]

theorem execHaulBeat_inLimits {s : State} (h : s.inLimits = true) {cluster ch : Nat} {far : Option FarReply} :
    NextInLimits (execHaulBeat cluster ch far s) := by
  unfold execHaulBeat
  rw [nextInLimits_next]
  (repeat' split) <;> simp [h]

theorem execHaulCompletion_inLimits {s : State} (h : s.inLimits = true) {cluster ch : Nat} :
    NextInLimits (execHaulCompletion cluster ch s) := by
  unfold execHaulCompletion
  rw [nextInLimits_next]
  split <;> simp [h]

theorem execHlPost_inLimits {s : State} (h : s.inLimits = true) {c : Ctl} {a : BitVec 5} : NextInLimits (execHlPost c a s) := by
  unfold execHlPost
  refine issue_inLimits h ?_
  dsimp only
  (repeat' split) <;> simp [h]

/-! #### System registers -/

theorem execSrRd_inLimits {s : State} (h : s.inLimits = true) {c : Ctl} {d : BitVec 5} {r : BitVec 10} :
    NextInLimits (execSrRd c d r s) := by
  unfold execSrRd
  split
  · simp [h]
  · exact issue_inLimits h (by simp [h])

theorem execSrWr_inLimits {s : State} (h : s.inLimits = true) {c : Ctl} {a : BitVec 5} {r : BitVec 10} :
    NextInLimits (execSrWr c a r s) := by
  unfold execSrWr
  split
  · simp [h]
  · exact issueS_inLimits h (srWrite_keepsLimits h _ _)

theorem execL2Wb_inLimits {s : State} (h : s.inLimits = true) {c : Ctl} {a : BitVec 5} : NextInLimits (execL2Wb c a s) := by
  unfold execL2Wb
  refine issue_inLimits h ?_
  dsimp only
  (repeat' split) <;> simp [h]

/-! #### Bindings of the seats -/

theorem execTrapFiringBinding_inLimits {s : State} (h : s.inLimits = true) {core : Nat} :
    NextInLimits (execTrapFiringBinding core s) := by
  unfold execTrapFiringBinding
  rw [nextInLimits_next]
  dsimp only
  (repeat' split) <;> simp [h]

theorem execEventFiringBinding_inLimits {s : State} (h : s.inLimits = true) {core : Nat} :
    NextInLimits (execEventFiringBinding core s) := by
  unfold execEventFiringBinding
  rw [nextInLimits_next]
  dsimp only
  (repeat' split) <;> simp [h]

theorem execPatternBinding_inLimits {s : State} (h : s.inLimits = true) {core : Nat} :
    NextInLimits (execPatternBinding core s) := by
  unfold execPatternBinding
  rw [nextInLimits_next]
  dsimp only
  (repeat' split) <;> simp [h]

theorem execSpawnRequestArrival_inLimits {s : State} (h : s.inLimits = true) {pkt : Nat} :
    NextInLimits (execSpawnRequestArrival pkt s) := by
  refine (onArrival_inLimits _ _ _ fun p => ?_).trans h
  split
  · dsimp only
    split
    · rfl
    · split
      · simp
      · split <;> simp
  · rfl

theorem execSpawnAnswer_inLimits {s : State} (h : s.inLimits = true) {pkt : Nat} : NextInLimits (execSpawnAnswer pkt s) := by
  refine (onArrival_inLimits _ _ _ fun p => ?_).trans h
  split
  · dsimp only
    split
    · simp
    · split <;> simp
  · rfl

theorem execSpawnBinding_inLimits {s : State} (h : s.inLimits = true) {core seat : Nat} :
    NextInLimits (execSpawnBinding core seat s) := by
  unfold execSpawnBinding
  rw [nextInLimits_next]
  dsimp only
  (repeat' split) <;> simp [h]

theorem execPreemption_inLimits {s : State} (h : s.inLimits = true) {core seat : Nat} :
    NextInLimits (execPreemption core seat s) := by
  unfold execPreemption
  rw [nextInLimits_next]
  dsimp only
  (repeat' split) <;> simp [h]

theorem execResumeEntryBinding_inLimits {s : State} (h : s.inLimits = true) {core seat : Nat} :
    NextInLimits (execResumeEntryBinding core seat s) := by
  unfold execResumeEntryBinding
  rw [nextInLimits_next]
  dsimp only
  (repeat' split) <;> simp [h]

theorem execCountReport_inLimits {s : State} (h : s.inLimits = true) {core : Nat} : NextInLimits (execCountReport core s) := by
  unfold execCountReport
  rw [nextInLimits_next]
  dsimp only
  (repeat' split) <;> simp [h]

theorem execCompletionCountArrival_inLimits {s : State} (h : s.inLimits = true) {pkt : Nat} :
    NextInLimits (execCompletionCountArrival pkt s) := by
  unfold execCompletionCountArrival
  rw [nextInLimits_next]
  dsimp only
  (repeat' split) <;> simp [h]

/-! #### Results and timeouts -/

theorem execResultReturn_inLimits {s : State} (h : s.inLimits = true) {op part : Nat} :
    NextInLimits (execResultReturn op part s) := by
  unfold execResultReturn
  rw [nextInLimits_next]
  cases findOut s op with
  | none => exact h
  | some found =>
    obtain ⟨c, n, o⟩ := found
    cases findReq s op with
    | some r => simp [h]
    | none => cases ha : o.ans <;> simp [h, ha]

theorem execReturnedErrorArrival_inLimits {s : State} (h : s.inLimits = true) {core seat op : Nat} :
    NextInLimits (execReturnedErrorArrival core seat op s) := by
  unfold execReturnedErrorArrival
  rw [nextInLimits_next]
  (repeat' split) <;> simp [h]

theorem execRequestTimeout_inLimits {s : State} (h : s.inLimits = true) {a : AwaitedReply} :
    NextInLimits (execRequestTimeout a s) := by
  unfold execRequestTimeout
  rw [nextInLimits_next]
  (repeat' split) <;> simp [h]

/-! #### Fences -/

theorem execDeadRankNotice_inLimits {s : State} (h : s.inLimits = true) {pkt : Nat} :
    NextInLimits (execDeadRankNotice pkt s) := by
  unfold execDeadRankNotice
  rw [nextInLimits_next]
  split <;> simp [h]

theorem execUncorrectableError_inLimits {s : State} (h : s.inLimits = true) {store : Storage} {addr : Nat} :
    NextInLimits (execUncorrectableError store addr s) := by
  unfold execUncorrectableError
  rw [nextInLimits_next]
  split <;> simp [h]

/-! #### Launches -/

theorem execLaunchChoice_inLimits {s : State} (h : s.inLimits = true) : NextInLimits (execLaunchChoice s) := by
  unfold execLaunchChoice
  rw [nextInLimits_next]
  dsimp only
  (repeat' split) <;> simp [h]

theorem execLaunchBinding_inLimits {s : State} (h : s.inLimits = true) {n : Nat} : NextInLimits (execLaunchBinding n s) := by
  unfold execLaunchBinding
  rw [nextInLimits_next]
  split
  · exact h
  split
  · exact h
  split
  · exact h
  · simp [h]
  · split
    · simp [h]
    · exact runLaunch_keepsLimits h ..

theorem execLaunchAbort_inLimits {s : State} (h : s.inLimits = true) {id : Word} : NextInLimits (execLaunchAbort id s) := by
  unfold execLaunchAbort
  rw [nextInLimits_next]
  split <;> simp [h]

theorem execMessageArrival_inLimits {s : State} (h : s.inLimits = true) {pkt : Nat} :
    NextInLimits (execMessageArrival pkt s) := by
  unfold execMessageArrival
  rw [nextInLimits_next]
  split <;> simp [h]

/-! #### Switching launches -/

theorem execLaunchSwitchOut_inLimits {s : State} (h : s.inLimits = true) {n victim : Nat} :
    NextInLimits (execLaunchSwitchOut n victim s) := by
  unfold execLaunchSwitchOut
  rw [nextInLimits_next]
  cases findLaunch s n with
  | none => exact h
  | some l =>
    cases findLaunch s victim with
    | none => exact h
    | some v => simp [h, leaveCores_inLimits]

theorem execLaunchSwitchIn_inLimits {s : State} (h : s.inLimits = true) {n : Nat} : NextInLimits (execLaunchSwitchIn n s) := by
  unfold execLaunchSwitchIn
  rw [nextInLimits_next]
  split
  · exact h
  split
  · exact h
  split
  · simp [h]
  · dsimp only
    rw [putStatus_inLimits, updLaunch_inLimits, releaseRanks_inLimits]
    exact State.foldl_keepsLimits _ (fun s c hs => restoreCore_keepsLimits hs _ _ _) _ h

/-! #### The fabric -/

theorem execRouterForward_inLimits {s : State} (h : s.inLimits = true) {id : Nat} : NextInLimits (execRouterForward id s) := by
  unfold execRouterForward
  rw [nextInLimits_next]
  (repeat' split) <;> simp [h]

theorem execFarAccess_inLimits {s : State} (h : s.inLimits = true) {f : FarSource} {va : Word} {len : Nat}
    {data : Option (List Byte)} :
    NextInLimits (execFarAccess f va len data s) := by
  unfold execFarAccess
  rw [nextInLimits_next]
  (repeat' split) <;> simp [h]

theorem execFarTtWrite_inLimits {s : State} (h : s.inLimits = true) {v : Word} : NextInLimits (execFarTtWrite v s) :=
  writeFarTt_keepsLimits h v

/-! #### Bring-up and power -/

theorem execConfigurationFrame_inLimits {s : State} (h : s.inLimits = true) {cn basecamp : Nat} :
    NextInLimits (execConfigurationFrame cn basecamp s) := by
  unfold execConfigurationFrame
  rw [nextInLimits_next]
  generalize (if basecamp = 2 then _ else _ : Bool) = arrives
  dsimp only
  split
  · exact h
  · rw [State.inLimits_mk, regsInLimits_fields, State.updChiplet_inLimits, setBustState_inLimits, h]

theorem execPstateWrite_inLimits {s : State} (h : s.inLimits = true) {v : Word} : NextInLimits (execPstateWrite v s) := by
  unfold execPstateWrite
  rw [nextInLimits_next]
  split
  · exact writePstate_keepsLimits h v
  · exact h

theorem execPowcapWrite_inLimits {s : State} (h : s.inLimits = true) {v : Word} : NextInLimits (execPowcapWrite v s) := by
  unfold execPowcapWrite
  rw [nextInLimits_next]
  split
  · exact writePowcap_keepsLimits h v
  · exact h

theorem execPstateTransitionDone_inLimits {s : State} (h : s.inLimits = true) {cn : Nat} :
    NextInLimits (execPstateTransitionDone cn s) := by
  unfold execPstateTransitionDone
  rw [nextInLimits_next]
  dsimp only
  (repeat' split) <;> simp [h]

theorem execAscentSettled_inLimits {s : State} (h : s.inLimits = true) : NextInLimits (execAscentSettled s) := by
  unfold execAscentSettled
  rw [nextInLimits_next]
  split
  · simp [h]
  split
  · rw [State.inLimits_mk, regsInLimits_fields]
    exact setupFirmware_keepsLimits (by simp [h])
  · exact h

/-! #### The host port -/

theorem execRegisterWrite_inLimits {s : State} (h : s.inLimits = true) {host : Bool} {offset : Nat} {v : Word} :
    NextInLimits (execRegisterWrite host offset v s) := by
  unfold execRegisterWrite
  rw [nextInLimits_next]
  split
  · exact hostWrite_keepsLimits h offset v
  · exact firmwareWrite_keepsLimits h offset v

/-! #### Repeated units -/

theorem execRpt_inLimits {s : State} (h : s.inLimits = true) {n : BitVec 10} {sd sa sb sm : Bool} :
    NextInLimits (execRpt n sd sa sb sm s) := by
  unfold execRpt
  rw [nextInLimits_next]
  dsimp only
  (repeat' split) <;> simp [h]

/-! ### Every instruction and every event -/

theorem exec_inLimits {s : State} (h : s.inLimits = true) (i : Instr) : NextInLimits (exec i s) := by
  cases i with
  | add | sub | and | or | xor | andn | orn | xnor | sll | srl | sra | rol | ror | min | max | minu | maxu | addw | subw | mul
    | mulhi | mulhiu | mul32 | div | divu | rem | remu | bfx | bfxs | hMov | hAdd | hSub | hAnd | hOr | hXor =>
    dsimp only [exec]
    exact alu_inLimits h
  | lzc | tzc | ones | bswap | extsB | extsH | extsW | extzW | addi | andi | ori | xori | slli | srli | srai | rori | tag |
    lis | hAddi | hSll | hSrl | hSra =>
    dsimp only [exec]
    exact alu1_inLimits h
  | bfi =>
    dsimp only [exec]
    exact alu3_inLimits h
  | li | hLi =>
    dsimp only [exec]
    exact aluImm_inLimits h
  | ldB | ldH | ldW | ldD | ldBu | ldHu | ldWu | hLdW | hLdD | ldAcqW | ldAcqD =>
    dsimp only [exec]
    exact load_inLimits h
  | stB | stH | stW | stD | hStW | hStD | stRelW | stRelD =>
    dsimp only [exec]
    exact store_inLimits h
  | ldf | ldt | ste | stf =>
    dsimp only [exec]
    exact sync_inLimits h
  | feFill | feClr =>
    dsimp only [exec]
    exact rangeOp_inLimits h
  | amoAdd | amoAnd | amoOr | amoXor | amoMin | amoMax | amoMinu | amoMaxu | amoSwap | amoCas | amoFaddF32 =>
    dsimp only [exec]
    exact atomic_inLimits h
  | vgatherW | vgatherH =>
    dsimp only [exec]
    exact gather_inLimits h
  | vscatterW | vscatterH =>
    dsimp only [exec]
    exact scatter_inLimits h
  | cmpEq | cmpNe | cmpLt | cmpGe | cmpLtu | cmpGeu | cmpLe | cmpGt | cmpLeu | cmpGtu | cmpTst =>
    dsimp only [exec]
    exact cmpReg_inLimits h
  | cmpEqImm | cmpNeImm | cmpLtImm | cmpGeImm | cmpLtuImm | cmpGeuImm | cmpLeImm | cmpGtImm =>
    dsimp only [exec]
    exact cmpImm_inLimits h
  | cmpEqFloat | cmpLtFloat | cmpLeFloat | cmpUnFloat =>
    dsimp only [exec]
    exact cmpFloat_inLimits h
  | pand | por | pxor | pandn | porn | pnot =>
    dsimp only [exec]
    exact predOp_inLimits h
  | fadd | fsub | fmul | fdiv | fmin | fmax | fsgnCp | fsgnNeg | fsgnXor =>
    dsimp only [exec]
    exact fp2_inLimits h
  | fsqrt | fclass | frint =>
    dsimp only [exec]
    exact fp1_inLimits h
  | cvtF32F16 | cvtF32Bf16 | cvtF16F32 | cvtBf16F32 | cvtF32W | cvtF32Wu | cvtWF32 | cvtWuF32 | cvtWF32Rz | cvtWuF32Rz =>
    dsimp only [exec]
    exact conv_inLimits h
  | vaddInt | vsubInt | vmulInt | vminInt | vmaxInt | vminu | vmaxu | vadds | vaddFloat | vsubFloat | vmulFloat | vminFloat |
    vmaxFloat | vdiv | vsll | vsrl | vsra =>
    dsimp only [exec]
    exact lanes2_inLimits h
  | vfma =>
    dsimp only [exec]
    exact lanes3_inLimits h
  | vsqrt =>
    dsimp only [exec]
    exact lanes1_inLimits h
  | vand | vor | vxor | vandn =>
    dsimp only [exec]
    exact lanesRaw_inLimits h
  | vcmpEq | vcmpNe | vcmpLt | vcmpLe | vcmpLtu | vcmpLeu | vcmpUn =>
    dsimp only [exec]
    exact vcmp_inLimits h
  | vwiden4 =>
    dsimp only [exec]
    exact widen_inLimits h
  | vnarrow4 =>
    dsimp only [exec]
    exact narrow_inLimits h
  | kand | kor | kxor | knot =>
    dsimp only [exec]
    exact maskOp_inLimits h
  | shMmaSp | shMmaWs | shMmaLt | shMmap =>
    dsimp only [exec]
    exact shMma_inLimits h
  | shDrain | shDrainz =>
    dsimp only [exec]
    exact shDrain_inLimits h
  | shBow | shStroke =>
    dsimp only [exec]
    exact shSums_inLimits h
  | rtRedAddF32 | rtRedAddBf16 | rtRedAddI32 | rtRedMaxF32 | rtRedMinF32 =>
    dsimp only [exec]
    exact rtRed_inLimits h
  | fence | pget | pset | br | call | jr | callr | hBr | hBp | done | hDone | nop | hNop | brk | myrank | portRd | ringHd |
    ringTl | ringWait | ringAdv | rankRd | vsel | vmov | vbcast | vtrW | vtag | shZero | shPass | shWait | gbar | gexit | qw |
    qwv | qr | qrv | hQr | hlWp | hlRfence | hlStat | trap | wfe | l1Inv =>
    dsimp only [exec]
    refine issue_inLimits h ?_
    simp [h]
  | portWr | rankWr | rankHold | rankRel | rtTree | hlResume | tret | capWr | pwr | l2Ways | tcInv | bustRd | rtabRd | rtabWr =>
    dsimp only [exec]
    refine issueS_inLimits h ?_
    simp [h]
  | loadAtHome | storeAtHome | peerAccessArrival | syncAccessArrival | wsRefreshOpen | wsRefreshClose | ovfHdWrite | hlQWrite
    | wLineNotify | haulPollTimer | l2Reconfiguration | seatCtlWrite | sliceExpiry | fenceSeat | fenceCore | fenceHaulChannel
    | fenceWeightStoreBank | fenceL2Slot | fenceHbmStack | fenceLink | fenceChiplet | farMessage | wavelengthFailure |
    heartbeat | heartbeatLossWest | severed | moduleReset | clockLock | calibrationDone | calibrationFail | frameTimeout |
    belayed | ready | powerCapThrottle | summary | takeToken | abort | queueCfg | mbUnsupportedOpcode | cxlMemRead |
    cxlMemWrite | getVersion | getCapabilities | negotiateAlgorithms | getDigests | getCertificate | challenge |
    getMeasurements | illegalInstruction =>
    dsimp only [exec]
    refine (nextInLimits_next _).2 ?_
    simp [h]
  | vld => exact execVld_inLimits h
  | vst => exact execVst_inLimits h
  | vldSc => exact execVldSc_inLimits h
  | vstSc => exact execVstSc_inLimits h
  | atomicAtHome => exact execAtomicAtHome_inLimits h
  | revocation => exact execRevocation_inLimits h
  | revocationAck => exact execRevocationAck_inLimits h
  | storeAck => exact execStoreAck_inLimits h
  | translationWalk => exact execTranslationWalk_inLimits h
  | pageMigration => exact execPageMigration_inLimits h
  | movedReply => exact execMovedReply_inLimits h
  | fma => exact execFma_inLimits h
  | send => exact execSend_inLimits h
  | sendv => exact execSendv_inLimits h
  | sendc => exact execSendc_inLimits h
  | mcast => exact execMcast_inLimits h
  | spawn => exact execSpawn_inLimits h
  | patWr => exact execPatWr_inLimits h
  | vredsum => exact execVredsum_inLimits h
  | vredmax => exact execVredmax_inLimits h
  | vredmin => exact execVredmin_inLimits h
  | vdot => exact execVdot_inLimits h
  | vwiden => exact execVwiden_inLimits h
  | vnarrow => exact execVnarrow_inLimits h
  | vext => exact execVext_inLimits h
  | vins => exact execVins_inLimits h
  | vcvt => exact execVcvt_inLimits h
  | shRcmd => exact execShRcmd_inLimits h
  | shellMma => exact execShellMma_inLimits h
  | mmaFinish => exact execMmaFinish_inLimits h
  | shellDrain => exact execShellDrain_inLimits h
  | shellZero => exact execShellZero_inLimits h
  | shellPass => exact execShellPass_inLimits h
  | shellInject => exact execShellInject_inLimits h
  | latchGrant => exact execLatchGrant_inLimits h
  | latchArrival => exact execLatchArrival_inLimits h
  | shLinkWrite => exact execShLinkWrite_inLimits h
  | remoteShellCommand => exact execRemoteShellCommand_inLimits h
  | rcmdAnswer => exact execRcmdAnswer_inLimits h
  | rtRes => exact execRtRes_inLimits h
  | rtCodec => exact execRtCodec_inLimits h
  | combineArrival => exact execCombineArrival_inLimits h
  | combineDelivery => exact execCombineDelivery_inLimits h
  | combineLeave => exact execCombineLeave_inLimits h
  | gbarArrival => exact execGbarArrival_inLimits h
  | gbarCompletion => exact execGbarCompletion_inLimits h
  | hQw => exact execHQw_inLimits h
  | wLineSubscription => exact execWLineSubscription_inLimits h
  | haulSlotTake => exact execHaulSlotTake_inLimits h
  | haulCopy => exact execHaulCopy_inLimits h
  | haulFill => exact execHaulFill_inLimits h
  | haulGather => exact execHaulGather_inLimits h
  | haulCodec => exact execHaulCodec_inLimits h
  | haulBox => exact execHaulBox_inLimits h
  | haulBeat => exact execHaulBeat_inLimits h
  | haulCompletion => exact execHaulCompletion_inLimits h
  | hlPost => exact execHlPost_inLimits h
  | srRd => exact execSrRd_inLimits h
  | srWr => exact execSrWr_inLimits h
  | l2Wb => exact execL2Wb_inLimits h
  | trapFiringBinding => exact execTrapFiringBinding_inLimits h
  | eventFiringBinding => exact execEventFiringBinding_inLimits h
  | patternBinding => exact execPatternBinding_inLimits h
  | spawnRequestArrival => exact execSpawnRequestArrival_inLimits h
  | spawnAnswer => exact execSpawnAnswer_inLimits h
  | spawnBinding => exact execSpawnBinding_inLimits h
  | preemption => exact execPreemption_inLimits h
  | resumeEntryBinding => exact execResumeEntryBinding_inLimits h
  | countReport => exact execCountReport_inLimits h
  | completionCountArrival => exact execCompletionCountArrival_inLimits h
  | resultReturn => exact execResultReturn_inLimits h
  | returnedErrorArrival => exact execReturnedErrorArrival_inLimits h
  | requestTimeout => exact execRequestTimeout_inLimits h
  | deadRankNotice => exact execDeadRankNotice_inLimits h
  | uncorrectableError => exact execUncorrectableError_inLimits h
  | launchChoice => exact execLaunchChoice_inLimits h
  | launchBinding => exact execLaunchBinding_inLimits h
  | launchAbort => exact execLaunchAbort_inLimits h
  | messageArrival => exact execMessageArrival_inLimits h
  | launchSwitchOut => exact execLaunchSwitchOut_inLimits h
  | launchSwitchIn => exact execLaunchSwitchIn_inLimits h
  | routerForward => exact execRouterForward_inLimits h
  | farAccess => exact execFarAccess_inLimits h
  | farTtWrite => exact execFarTtWrite_inLimits h
  | configurationFrame => exact execConfigurationFrame_inLimits h
  | pstateWrite => exact execPstateWrite_inLimits h
  | powcapWrite => exact execPowcapWrite_inLimits h
  | pstateTransitionDone => exact execPstateTransitionDone_inLimits h
  | ascentSettled => exact execAscentSettled_inLimits h
  | registerWrite => exact execRegisterWrite_inLimits h
  | rpt => exact execRpt_inLimits h
  -- `seal` and `unseal`, which are keywords of Lean
  | _ =>
    dsimp only [exec]
    exact sealOp_inLimits h

/-! ### The turns of the seats and a step -/

@[simp] theorem onSeat_inLimits (s : State) (c : CoreId) (n : Nat) : (onSeat s c n).inLimits = s.inLimits := by
  simp [onSeat]

@[simp] theorem issuedBy_inLimits (s : State) (c : CoreId) (n : Nat) : (issuedBy s c n).inLimits = s.inLimits := by
  simp [issuedBy]

theorem runSeat_inLimits {s : State} (h : s.inLimits = true) : NextInLimits (runSeat s) := by
  unfold runSeat
  split
  · exact exec_inLimits h _
  · exact exec_inLimits h _
  · simp [h]

/-- By induction on the seats still to be tried: the next seat runs on what a blocked one leaves. -/
theorem trySeats_inLimits (c : CoreId) (l : List Nat) {s : State} (h : s.inLimits = true) : NextInLimits (trySeats c l s) := by
  induction l generalizing s with
  | nil => exact h
  | cons n rest ih =>
    have ran : NextInLimits (runSeat (onSeat s c n)) := runSeat_inLimits (by simp [h])
    rw [trySeats]
    cases hr : runSeat (onSeat s c n) with
    | next s' =>
      have ht : s'.inLimits = true := (nextInLimits_iff _).1 ran s' hr
      dsimp only
      split
      · exact ih ht
      · simp [ht]
    | fault r => trivial
    | refused r => trivial

theorem issueCycle_inLimits (c : CoreId) (late : BitVec 8) {s : State} (h : s.inLimits = true) :
    NextInLimits (issueCycle c late s) := by
  unfold issueCycle
  split
  · trivial
  split
  · exact h
  · exact trySeats_inLimits c _ h

theorem takeTurn_inLimits (t : Turn) {s : State} (h : s.inLimits = true) : NextInLimits (takeTurn t s) := by
  cases t with
  | issue c late => exact issueCycle_inLimits c late h
  | event e =>
    rw [takeTurn]
    split
    · exact exec_inLimits h e
    · exact h

theorem step_inLimits {s : State} (h : s.inLimits = true) : NextInLimits (step s) := by
  unfold step
  split
  · exact issueCycle_inLimits _ _ h
  · exact takeTurn_inLimits _ (by simp [h])

/-! ### The obligations -/

/-- Settles O57: the reset memories hold nothing, and `State.reset_inLimits` is about the registers. -/
theorem invariantAtReset : Obligations.InvariantAtReset :=
  ⟨rfl, (State.inLimits_iff _).1 State.reset_inLimits⟩

/-- Settles O59: the two parts of the statement are `State.inLimits`, which the step keeps. -/
theorem registersKeepLimits : Obligations.RegistersKeepLimits := by
  intro s t hpower hreserved hstep
  have h : s.inLimits = true := (State.inLimits_iff s).2 ⟨hpower, hreserved⟩
  exact (State.inLimits_iff t).1 ((nextInLimits_iff _).1 (step_inLimits h) t hstep)

end Sys2Proof.Machine
end

section
/-! The encoder and the decoder agree: what the decoder reads of a word that is written as fields, and the round trip. -/

namespace Sys2Proof

/-! ### Fields of a word written as fields

The lemmas `BitVec.extractLsb'_append_eq_of_add_le`, `BitVec.extractLsb'_append_eq_of_le` and `BitVec.getLsbD_append` for a word
whose width is given as a number, as `encode` and the decoder give it, so that `simp` finds them. -/

theorem extract_append_low {m n : Nat} (x : BitVec m) (y : BitVec n) {lo len : Nat} (h : lo + len ≤ n) :
    BitVec.extractLsb' (n := no_index (m + n)) lo len (HAppend.hAppend (γ := no_index (BitVec (m + n))) x y) =
      BitVec.extractLsb' lo len y := BitVec.extractLsb'_append_eq_of_add_le h

theorem extract_append_high {m n : Nat} (x : BitVec m) (y : BitVec n) {lo len : Nat} (h : n ≤ lo) :
    BitVec.extractLsb' (n := no_index (m + n)) lo len (HAppend.hAppend (γ := no_index (BitVec (m + n))) x y) =
      BitVec.extractLsb' (lo - n) len x := BitVec.extractLsb'_append_eq_of_le h

theorem getLsbD_append_low {m n : Nat} (x : BitVec m) (y : BitVec n) {i : Nat} (h : i + 1 ≤ n) :
    BitVec.getLsbD (w := no_index (m + n)) (HAppend.hAppend (γ := no_index (BitVec (m + n))) x y) i = y.getLsbD i := by
  rw [BitVec.getLsbD_append, if_pos (Nat.lt_of_succ_le h)]

theorem getLsbD_append_high {m n : Nat} (x : BitVec m) (y : BitVec n) {i : Nat} (h : n ≤ i) :
    BitVec.getLsbD (w := no_index (m + n)) (HAppend.hAppend (γ := no_index (BitVec (m + n))) x y) i = x.getLsbD (i - n) := by
  rw [BitVec.getLsbD_append, if_neg (Nat.not_lt.2 h)]

theorem getLsbD_ofBool_zero (b : Bool) : (BitVec.ofBool b).getLsbD 0 = b := by cases b <;> rfl

theorem extract_extract {n : Nat} (w : BitVec n) {lo len lo' len' : Nat} (h : lo' + len' ≤ len) :
    (w.extractLsb' lo len).extractLsb' lo' len' = w.extractLsb' (lo + lo') len' := by
  refine BitVec.eq_of_getLsbD_eq fun i hi => ?_
  simp only [BitVec.getLsbD_extractLsb', hi, decide_true, Bool.true_and, Nat.add_assoc, show lo' + i < len by omega]

/-! ### The common fields (R19) -/

/-- The common fields as bits [31:26] give them. -/
def ctlOfHead (h : BitVec 6) : Ctl := ⟨h.getLsbD 4, h.getLsbD 3, h.extractLsb' 0 3⟩

theorem decodeCtl_eq (w : BitVec 32) : decodeCtl w = ctlOfHead (w.extractLsb' 26 6) := by
  have gp : (w.extractLsb' 26 6).extractLsb' 0 3 = w.extractLsb' 26 3 := extract_extract w (by decide)
  simp [decodeCtl, ctlOfHead, gp]

theorem ctlOfHead_encodeCtl : ∀ c : Ctl, ctlOfHead (encodeCtl c) = c := by
  rintro ⟨sw, gn, gp⟩
  revert sw gn gp
  decide

/-- Bit 31 of a word with the common fields is 1 (R12). -/
theorem encodeCtl_wide (c : Ctl) : (encodeCtl c).getLsbD 5 = true := by
  simp only [encodeCtl, getLsbD_append_high, Nat.reduceLeDiff, Nat.reduceSub, BitVec.reduceGetLsb]

/-! ### Parcels and words -/

theorem ofWord_join (w : BitVec 32) : (ofWord w).getD 0 0 ++ (ofWord w).getD 1 0 = w := by
  have h : w.extractLsb' 16 16 ++ w.extractLsb' 0 16 = w.extractLsb' 0 32 :=
    BitVec.extractLsb'_append_extractLsb'_eq_extractLsb' rfl
  simp [ofWord, h]

theorem ofWord_append (p q : Parcel) : ofWord (p ++ q) = [p, q] := by
  simp only [ofWord, extract_append_low, extract_append_high, BitVec.extractLsb'_eq_self, Nat.reduceAdd, Nat.reduceSub,
    Nat.reduceLeDiff]

theorem ofWord_injective {v w : BitVec 32} (h : ofWord v = ofWord w) : v = w := by
  rw [← ofWord_join v, h, ofWord_join]

/-! ### The rows of the table of encodings

The constructors stand in the order of the table: 0 to 20 are the 16-bit forms, 21 to 286 the 32-bit instructions by major, the rest
steps of the module's units. Each lemma takes the rows of some majors: the other rows contradict its bounds, and in each row of its
own `simp` reads the major, the operation and the operands of the word. -/

/-- A word decodes to an instruction as a word of 32 bits. -/
def DecodesTo (w : BitVec 32) (i : Instr) : Prop := w.getLsbD 31 = true ∧ rawDecode32 w = some i

theorem two_le_length_encode {i : Instr} {w : BitVec 32} (h : encode i = ofWord w) : 2 ≤ (encode i).length := by
  rw [h]
  exact Nat.le_refl 2

theorem decodes_to_major13 (i : Instr) {w : BitVec 32} (h : encode i = ofWord w) (row : i.ctorIdx < 101) : DecodesTo w i := by
  have two := two_le_length_encode h
  cases i
  all_goals try exact absurd row (Nat.not_lt_of_le (Nat.le_of_ble_eq_true rfl))
  all_goals try exact absurd two (Nat.not_le_of_lt (Nat.le_of_ble_eq_true rfl))
  all_goals
    obtain rfl := ofWord_injective h
    simp only [DecodesTo, extract_append_low, extract_append_high, getLsbD_append_high, BitVec.extractLsb'_eq_self, encodeCtl_wide,
      decodeCtl_eq, ctlOfHead_encodeCtl, rawDecode32, decodeEarly, decodeMajor00, decodeMajor01, decodeMajor02, decodeMajor03,
      decodeMajor04, decodeMajor05, decodeMajor06, decodeMajor07, decodeMajor08, decodeMajor09, decodeMajor0A, decodeMajor10,
      decodeMajor11, decodeMajor12, decodeMajor13, when, BitVec.toNat_ofNat, BitVec.ofNat_eq_ofNat, BitVec.reduceExtractLsb',
      Nat.reduceAdd, Nat.reduceSub, Nat.reduceMod, Nat.reducePow, Nat.reduceLeDiff, BEq.rfl, Bool.and_self, if_true, and_self]

theorem decodes_major14_to_major22 (i : Instr) {w : BitVec 32} (h : encode i = ofWord w) (lo : 101 ≤ i.ctorIdx)
    (hi : i.ctorIdx < 166) : DecodesTo w i := by
  cases i
  all_goals try exact absurd lo (Nat.not_le_of_lt (Nat.le_of_ble_eq_true rfl))
  all_goals try exact absurd hi (Nat.not_lt_of_le (Nat.le_of_ble_eq_true rfl))
  all_goals
    obtain rfl := ofWord_injective h
    simp only [DecodesTo, extract_append_low, extract_append_high, getLsbD_append_high, BitVec.extractLsb'_eq_self, encodeCtl_wide,
      decodeCtl_eq, ctlOfHead_encodeCtl, rawDecode32, decodeEarly, decodeMajor14, decodeMajor15, decodeMajor16, decodeMajor17,
      decodeMajor18, decodeMajor19, decodeMajor1A, decodeMajor1C, decodeMajor1D, decodeMajor1E, decodeMajor1F, decodeMajor20,
      decodeMajor21, decodeMajor22, when, BitVec.toNat_ofNat, BitVec.ofNat_eq_ofNat, BitVec.reduceExtractLsb', Nat.reduceAdd,
      Nat.reduceSub, Nat.reduceMod, Nat.reducePow, Nat.reduceLeDiff, BEq.rfl, Bool.and_self, if_true, and_self]

theorem decodes_vector_majors (i : Instr) {w : BitVec 32} (h : encode i = ofWord w) (lo : 166 ≤ i.ctorIdx)
    (hi : i.ctorIdx < 224) : DecodesTo w i := by
  cases i
  all_goals try exact absurd lo (Nat.not_le_of_lt (Nat.le_of_ble_eq_true rfl))
  all_goals try exact absurd hi (Nat.not_lt_of_le (Nat.le_of_ble_eq_true rfl))
  all_goals
    obtain rfl := ofWord_injective h
    simp only [DecodesTo, extract_append_low, extract_append_high, getLsbD_append_high, BitVec.extractLsb'_eq_self, encodeCtl_wide,
      decodeCtl_eq, ctlOfHead_encodeCtl, rawDecode32, decodeEarly, decodeMajor24, decodeMajor25, decodeMajor26, decodeMajor27,
      decodeMajor28, decodeMajor29, decodeMajor2A, decodeMajor2B, when, BitVec.toNat_ofNat, BitVec.ofNat_eq_ofNat,
      BitVec.reduceExtractLsb', Nat.reduceAdd, Nat.reduceSub, Nat.reduceMod, Nat.reducePow, Nat.reduceLeDiff, BEq.rfl,
      Bool.and_self, if_true, and_self]

theorem decodes_major2C_to_major2F (i : Instr) {w : BitVec 32} (h : encode i = ofWord w) (lo : 224 ≤ i.ctorIdx)
    (hi : i.ctorIdx < 247) : DecodesTo w i := by
  cases i
  all_goals try exact absurd lo (Nat.not_le_of_lt (Nat.le_of_ble_eq_true rfl))
  all_goals try exact absurd hi (Nat.not_lt_of_le (Nat.le_of_ble_eq_true rfl))
  all_goals
    obtain rfl := ofWord_injective h
    simp only [DecodesTo, extract_append_low, extract_append_high, getLsbD_append_high, BitVec.extractLsb'_eq_self, encodeCtl_wide,
      decodeCtl_eq, ctlOfHead_encodeCtl, wordA, rawDecode32, decodeEarly, decodeLate, decodeMajor2C, decodeMajor2D, decodeMajor2E,
      decodeMajor2F, when, BitVec.toNat_ofNat, BitVec.ofNat_eq_ofNat, BitVec.reduceExtractLsb', Nat.reduceAdd, Nat.reduceSub,
      Nat.reduceMod, Nat.reducePow, Nat.reduceLeDiff, BEq.rfl, Bool.and_self, if_true, if_false, and_self]

/-- The fields of `tret` are 0 over several fields of its layout, which its decoder reads as one. -/
theorem wordX_zero (c : Ctl) (maj : BitVec 6) : wordX c maj 0 0 0 = encodeCtl c ++ maj ++ 0#20 := by
  have e : encodeCtl c ++ maj ++ 0#5 ++ 0#5 ++ 0#10 = encodeCtl c ++ maj ++ 0#5 ++ (0#5 ++ 0#10) := BitVec.append_assoc
  exact e.trans BitVec.append_assoc

theorem decodes_from_major30 (i : Instr) {w : BitVec 32} (h : encode i = ofWord w) (lo : 247 ≤ i.ctorIdx) : DecodesTo w i := by
  have two := two_le_length_encode h
  cases i
  all_goals try exact absurd lo (Nat.not_le_of_lt (Nat.le_of_ble_eq_true rfl))
  all_goals try exact absurd two (Nat.not_le_of_lt (Nat.le_of_ble_eq_true rfl))
  all_goals
    obtain rfl := ofWord_injective h
  case' tret => rw [wordX_zero]
  all_goals
    simp only [DecodesTo, extract_append_low, extract_append_high, getLsbD_append_low, getLsbD_append_high, getLsbD_ofBool_zero,
      BitVec.reduceGetLsb, BitVec.extractLsb'_eq_self, encodeCtl_wide, decodeCtl_eq, ctlOfHead_encodeCtl, wordA, wordX, rawDecode32,
      decodeLate, decodeMajor30, decodeMajor31, decodeMajor32, decodeMajor33, decodeMajor34, decodeMajor36, decodeMajor38,
      decodeMajor39, decodeMajor3A, decodeMajor3B, decodeRepeat, when, BitVec.toNat_ofNat, BitVec.ofNat_eq_ofNat,
      BitVec.reduceExtractLsb', Nat.reduceAdd, Nat.reduceSub, Nat.reduceMod, Nat.reducePow, Nat.reduceLeDiff, BEq.rfl,
      Bool.and_self, if_true, if_false, and_self]

theorem decodes_word (i : Instr) {w : BitVec 32} (h : encode i = ofWord w) : DecodesTo w i := by
  by_cases r1 : i.ctorIdx < 101
  · exact decodes_to_major13 i h r1
  by_cases r2 : i.ctorIdx < 166
  · exact decodes_major14_to_major22 i h (Nat.not_lt.1 r1) r2
  by_cases r3 : i.ctorIdx < 224
  · exact decodes_vector_majors i h (Nat.not_lt.1 r2) r3
  by_cases r4 : i.ctorIdx < 247
  · exact decodes_major2C_to_major2F i h (Nat.not_lt.1 r3) r4
  · exact decodes_from_major30 i h (Nat.not_lt.1 r4)

theorem decodes_parcel (i : Instr) {p : Parcel} (h : encode i = [p]) : p.getLsbD 15 = false ∧ rawDecode16 p = some i := by
  have one : (encode i).length = 1 := by rw [h]; rfl
  cases i
  all_goals try exact absurd one (Nat.ne_of_gt (Nat.le_of_ble_eq_true rfl))
  all_goals try exact absurd one (Nat.ne_of_lt (Nat.le_of_ble_eq_true rfl))
  all_goals
    obtain rfl : _ = p := List.singleton_injective h
    simp only [extract_append_low, extract_append_high, getLsbD_append_low, getLsbD_append_high, getLsbD_ofBool_zero,
      BitVec.extractLsb'_eq_self, rawDecode16, BitVec.toNat_ofNat, BitVec.ofNat_eq_ofNat, BitVec.reduceGetLsb, Nat.reduceAdd,
      Nat.reduceSub, Nat.reduceMod, Nat.reducePow, Nat.reduceLeDiff, BEq.rfl, when, if_true, and_self]

/-! ### The round trip (R12) -/

theorem parcelOf_bytes (p : Parcel) : parcelOf (p.setWidth 8) ((p >>> 8).setWidth 8) = p := by
  refine BitVec.eq_of_getLsbD_eq fun i hi => ?_
  simp only [parcelOf, BitVec.getLsbD_append, BitVec.getLsbD_setWidth, BitVec.getLsbD_ushiftRight]
  split
  · simp [*]
  · have : 8 + (i - 8) = i := by omega
    simp [this, show i - 8 < 8 by omega]

theorem decode_parcel {p : Parcel} {i : Instr} (narrow : p.getLsbD 15 = false) (hd : rawDecode16 p = some i)
    (hw : i.wellFormed = true) (rest : List Byte) : decode (parcelBytes p ++ rest) = .ok (i, rest) := by
  simp only [parcelBytes, List.cons_append, List.nil_append, decode, parcelOf_bytes, narrow, hd, hw, if_true, Bool.false_eq_true,
    if_false]

theorem decode_word {w : BitVec 32} {i : Instr} (h : DecodesTo w i) (hw : i.wellFormed = true) (rest : List Byte) :
    decode ((ofWord w).flatMap parcelBytes ++ rest) = .ok (i, rest) := by
  obtain ⟨wide, hd⟩ := h
  have top : (w.extractLsb' 16 16).getLsbD 15 = true := by simpa using wide
  have join : w.extractLsb' 16 16 ++ w.extractLsb' 0 16 = w := ofWord_join w
  simp only [ofWord, List.flatMap_cons, List.flatMap_nil, parcelBytes, List.cons_append, List.nil_append, decode, parcelOf_bytes,
    top, join, hd, hw, if_true]

/-- An instruction has no parcel, one or two. -/
theorem encode_cases (i : Instr) : encode i = [] ∨ (∃ p, encode i = [p]) ∨ ∃ w, encode i = ofWord w := by
  have h : (encode i).length ≤ 2 := by cases i <;> exact Nat.le_of_ble_eq_true rfl
  match e : encode i with
  | [] => exact .inl rfl
  | [p] => exact .inr (.inl ⟨p, rfl⟩)
  | [p, q] => exact .inr (.inr ⟨p ++ q, (ofWord_append p q).symm⟩)
  | _ :: _ :: _ :: _ => simp [e] at h

/-- Settles O60: by the number of parcels of the instruction. -/
theorem roundTripAll : Obligations.RoundTripAll := by
  intro i rest hw hne
  obtain h | ⟨p, h⟩ | ⟨w, h⟩ := encode_cases i
  · exact absurd h hne
  · obtain ⟨narrow, hd⟩ := decodes_parcel i h
    rw [h, List.flatMap_singleton]
    exact decode_parcel narrow hd hw rest
  · rw [h]
    exact decode_word (decodes_word i h) hw rest

end Sys2Proof
end

section
/-! Guard and privilege (R20, R29, R30): every guarded instruction issues through `issue`, a supervisor one through `issueS`. -/

namespace Sys2Proof.Machine

/-- A result is the issue of a 32-bit instruction under its control fields. -/
def Issues (c : Ctl) (s : State) (r : Result) : Prop := ∃ u body, r = issue c 2 u body s

theorem issues_issue (c : Ctl) (s : State) (u : Uses) (body : State → Act) : Issues c s (issue c 2 u body s) := ⟨u, body, rfl⟩

theorem issues_issueS {s : State} (h : s.seat = 7) (word : BitVec 32) (c : Ctl) (u : Uses) (body : State → Act) :
    Issues c s (issueS word c u body s) := ⟨u, body, issueS_seat7 h⟩

theorem issues_ite {c : Ctl} {s : State} {p : Prop} [Decidable p] {a b : Result} (ha : Issues c s a) (hb : Issues c s b) :
    Issues c s (if p then a else b) := by
  split
  · exact ha
  · exact hb

theorem execSrRd_issues {c : Ctl} {r : BitVec 10} {s : State} (h : seat7Reads r.toNat = false ∨ s.seat = 7) (d : BitVec 5) :
    Issues c s (execSrRd c d r s) := by
  have may : ¬ (seat7Reads r.toNat && s.seat ≠ 7) = true := by
    rcases h with h | h <;> simp [h]
  rw [execSrRd, if_neg may]
  apply issues_issue

theorem execSrWr_issues {c : Ctl} {r : BitVec 10} {s : State} (h7 : s.seat = 7) (h : writesReg s.core r.toNat = true)
    (a : BitVec 5) : Issues c s (execSrWr c a r s) := by
  rw [execSrWr, if_neg (by simp [h])]
  exact issues_issueS h7 ..

/-- A guarded instruction issues, a supervisor one in seat 7; `sr.rd` and `sr.wr` where their register may be accessed, which is
checked before the guard (R324). -/
theorem exec_issues {i : Instr} {c : Ctl} {sup : Bool} (h : issueOf i = some (c, sup)) (s : State) (h7 : sup = true → s.seat = 7)
    (rd : ∀ d r, i = .srRd c d r → seat7Reads r.toNat = false ∨ s.seat = 7)
    (wr : ∀ a r, i = .srWr c a r → writesReg s.core r.toNat = true) : Issues c s (exec i s) := by
  have guarded : (issueOf i).isSome = true := by rw [h]; rfl
  cases i
  all_goals try exact absurd guarded Bool.false_ne_true
  all_goals cases h
  case srRd.refl d r => exact execSrRd_issues (rd d r rfl) d
  case srWr.refl a r => exact execSrWr_issues (h7 rfl) (wr a r rfl) a
  all_goals try apply issues_issue
  all_goals try apply issues_issueS (h7 rfl)
  case vredmax.refl | vredmin.refl | vnarrow.refl =>
    apply issues_ite <;> apply issues_issue
  case vwiden.refl =>
    apply issues_ite
    · apply issues_issue
    · apply issues_ite <;> apply issues_issue

theorem issues_pending {c : Ctl} {s : State} {r : Result} (h : Issues c s r) (p : s.thisSeat.pendP c.gp = true) :
    r = .next (blocked s) := by
  obtain ⟨u, body, rfl⟩ := h
  exact issue_pending p

theorem issues_skipped {c : Ctl} {s : State} {r : Result} (h : Issues c s r) (p : s.thisSeat.pendP c.gp = false)
    (g : guardTrue c s.thisSeat = false) : r = .next (retire c.sw 2 s) := by
  obtain ⟨u, body, rfl⟩ := h
  exact issue_skipped p g

/-! ### The words of the supervisor instructions (R375) -/

theorem encodeWord_of_word {i : Instr} {w : BitVec 32} (h : encode i = ofWord w) : encodeWord i = w.setWidth 64 := by
  simp only [encodeWord, h, ofWord]
  exact congrArg (BitVec.setWidth 64) (ofWord_join w)

theorem zero_append_capability : ∀ n : BitVec 3, 0#2 ++ n = n.setWidth 5 := by decide

theorem encodeWord_srRd (c : Ctl) (d : BitVec 5) (r : BitVec 10) :
    encodeWord (.srRd c d r) = (wordX c 0x38 d 0 r).setWidth 64 := encodeWord_of_word rfl

theorem encodeWord_srWr (c : Ctl) (a : BitVec 5) (r : BitVec 10) :
    encodeWord (.srWr c a r) = (wordX c 0x39 0 a r).setWidth 64 := encodeWord_of_word rfl

theorem execSrRd_privileged {c : Ctl} {r : BitVec 10} {s : State} (d : BitVec 5) (h : seat7Reads r.toNat = true)
    (h7 : s.seat ≠ 7) : execSrRd c d r s = .next (precise s 0x02 (encodeWord (.srRd c d r))) := by
  rw [encodeWord_srRd, execSrRd, if_pos (by simp [h, h7])]

theorem execSrWr_privileged {c : Ctl} {r : BitVec 10} {s : State} (a : BitVec 5)
    (h : s.seat ≠ 7 ∨ writesReg s.core r.toNat = false) :
    execSrWr c a r s = .next (precise s 0x02 (encodeWord (.srWr c a r))) := by
  rw [encodeWord_srWr]
  by_cases h7 : s.seat = 7
  · have hw := h.resolve_left (not_not.2 h7)
    rw [execSrWr, if_pos (by simp [h7, hw])]
  · rw [execSrWr, if_neg (by simp [h7]), issueS_other h7]

/-- A result is the privilege trap with the word of the instruction. -/
def TrapsPrivilege (i : Instr) (s : State) (r : Result) : Prop := r = .next (precise s 0x02 (encodeWord i))

theorem trapsPrivilege_issueS {i : Instr} {s : State} {w : BitVec 32} (h7 : s.seat ≠ 7) (hw : encode i = ofWord w) (c : Ctl)
    (u : Uses) (body : State → Act) : TrapsPrivilege i s (issueS w c u body s) := by
  rw [TrapsPrivilege, issueS_other h7, encodeWord_of_word hw]

/-- Settles O42: each supervisor instruction is an `issueS` of its own word, and `sr.wr` outside seat 7 is one too. -/
theorem supervisorInstructionsTrap : Obligations.SupervisorInstructionsTrap := by
  intro i c s h h7
  change TrapsPrivilege i s (exec i s)
  have supervisor : ((issueOf i).map (·.2)).getD false = true := by rw [h]; rfl
  cases i
  all_goals try exact absurd supervisor Bool.false_ne_true
  case srWr c' a r => exact execSrWr_privileged a (.inl h7)
  all_goals apply trapsPrivilege_issueS h7
  case capWr c' n a => exact congrArg (fun d => ofWord (wordX c' 0x3A d a 3)) (zero_append_capability n)
  all_goals rfl

theorem execHBp_pending {sw : Bool} {p : BitVec 3} {o : BitVec 6} {s : State} (h : s.thisSeat.pendP p = true) :
    execHBp sw p o s = .next (blocked s) := issue_pending h

theorem execHBp_not_taken {sw : Bool} {p : BitVec 3} {o : BitVec 6} {s : State} (h : s.thisSeat.pendP p = false)
    (g : s.thisSeat.getP p = false) : execHBp sw p o s = .next (retire sw 1 s) :=
  issue_skipped h (by simp [guardTrue, g])

/-- The program counter after some parcels. -/
theorem parcel_add (p : Parcel) (n : Nat) : BitVec.ofNat 16 (p.toNat + n) = p + BitVec.ofNat 16 n := by
  rw [BitVec.ofNat_add, BitVec.ofNat_toNat, BitVec.setWidth_eq]

/-- Settles O43: a guarded instruction is an `issue` under its control fields, which looks at the guard first. -/
theorem guardRules : Obligations.GuardRules := by
  intro i c sup s h h7
  refine ⟨fun d r hr hs => execSrRd_privileged d hr hs, fun a r hr _ => execSrWr_privileged a (.inr hr), fun rd wr => ?_,
    fun sw p o => ⟨fun hp => execHBp_pending hp, fun hp hg => execHBp_not_taken hp hg⟩⟩
  have issues := exec_issues h s h7 rd wr
  refine ⟨issues_pending issues, issues_skipped issues, fun hp hg hr hpc => ?_⟩
  rw [issues_skipped issues hp hg, retire_plain hr, advance_inside hpc, parcel_add]
  rfl

end Sys2Proof.Machine
end

section
/-! Repeats, the end of the code store, fetch and the schedule (R12 to R15, R25 to R27, R113). -/

namespace Sys2Proof.Machine

theorem advance_parks {sw : Bool} {len : Nat} {s : State} (h : 0xFFFF < s.thisSeat.pc.toNat + len)
    (w : (sw && !s.thisSeat.outs.isEmpty) = true) :
    advance sw len s = (s.forget s.me).setThisSeat
      { s.thisSeat with
        status := .parked, pc := 0, rpt := 0, beyond := some (BitVec.ofNat 16 (s.thisSeat.pc.toNat + (len - 2))) } := by
  simp [advance, Nat.not_le.2 h, w]

theorem advance_traps {sw : Bool} {len : Nat} {s : State} (h : 0xFFFF < s.thisSeat.pc.toNat + len)
    (w : (sw && !s.thisSeat.outs.isEmpty) = false) : advance sw len s =
      trapSeat ((s.forget s.me).setThisSeat { s.thisSeat with rpt := 0 }) s.core s.seat.val 0x01
        ((BitVec.ofNat 16 (s.thisSeat.pc.toNat + (len - 2))).setWidth 64) 0 0 := by
  simp [advance, Nat.not_le.2 h, w]

theorem setWidth_ofNat_parcel {n : Nat} (h : n ≤ 0xFFFF) : (BitVec.ofNat 16 n).setWidth 64 = BitVec.ofNat 64 n := by
  apply BitVec.eq_of_toNat_eq
  rw [BitVec.toNat_setWidth, BitVec.toNat_ofNat, BitVec.toNat_ofNat]
  omega

theorem wordAt_inside {k : Core} {a : Nat} (h : a ≠ 0xFFFF) : wordAt k a = k.word a := by rw [wordAt, if_neg h, Core.word]

theorem Core.setSeat_inside (k : Core) (n : Fin 8) (v : Seat) : k.setSeat n v = { k with seats := k.seats.set n v } := by
  unfold Core.setSeat
  congr 1
  apply Vector.ext
  intro i hi
  rw [Vector.getElem_setIfInBounds, Vector.getElem_set]

theorem State.updSeatAt_running (s : State) (f : Seat → Seat) : s.updSeatAt s.core s.seat.val f = s.updThisSeat f := by
  simp only [State.updSeatAt, State.setSeatAt, State.updThisSeat, State.setThisSeat, State.updCore, State.updThisCore,
    State.thisCore, Core.setSeat_inside, s.thisSeat_eq]

theorem settle_parked {s : State} {c : CoreId} {n : Nat} (o : (s.seatAt c n).outs = []) (p : (s.seatAt c n).status = .parked)
    (b : (s.seatAt c n).beyond = none) : settle s c n = s.updSeatAt c n fun t => { t with status := .running } := by
  simp [settle, o, p, b]

theorem settle_beyond {s : State} {c : CoreId} {n : Nat} {a : Parcel} (o : (s.seatAt c n).outs = [])
    (p : (s.seatAt c n).status = .parked) (b : (s.seatAt c n).beyond = some a) :
    settle s c n = trapSeat s c n 0x01 (a.setWidth 64) 0 0 := by
  simp [settle, o, p, b]

theorem legal_steps {pre w : BitVec 32} {count : Nat} (h : ∀ i < count, legalWord (stepWord pre w i) = true) :
    ((List.range count).any fun i => !legalWord (stepWord pre w i)) = false :=
  List.any_eq_false.2 fun i hi => by simp [h i (List.mem_range.1 hi)]

/-- Settles O27: an instruction retires by `advance`, which ends inside the code store, parks or traps. -/
theorem repeatAndAdvance : Obligations.RepeatAndAdvance := by
  intro s n sd sa sb sm sw len
  refine ⟨?_, retire_again, ?_, ?_, ?_, ?_, ?_⟩
  · intro inside clean plain wide alone legal fits all priv
    have may : (repeatPrivileged (s.thisCore.word (s.thisSeat.pc.toNat + 2)) && decide (s.seat ≠ 7)) = false := by
      simpa using priv
    change execRpt n sd sa sb sm s = _
    simp only [execRpt, if_neg (Nat.not_lt.2 inside.le), wordAt_inside inside.ne, wide, plain, alone, legal, fits, may,
      legal_steps all, clean, inside.ne, decide_false, decide_true, ne_eq, not_false_eq_true, Bool.and_self, Bool.and_false,
      Bool.not_true, Bool.or_self, Bool.false_eq_true, if_true, if_false]
  · intro hr h1 hpc
    rw [retire_last hr h1, advance_inside hpc, parcel_add]
    rfl
  · intro hr hpc
    rw [retire_plain hr, advance_inside hpc, parcel_add]
  · intro hr h1 hin hout
    rw [retire_last hr h1]
    refine ⟨fun w => ?_, fun w => ?_⟩
    · rw [advance_traps hout w, setWidth_ofNat_parcel hin]
    · rw [advance_parks hout w, parcel_add]
      rfl
  · intro hr hlen hout
    have last : BitVec.ofNat 16 (s.thisSeat.pc.toNat + (len - 2)) = s.thisSeat.pc := by simp [Nat.sub_eq_zero_of_le hlen]
    rw [retire_plain hr]
    exact ⟨fun w => by rw [advance_traps hout w, last], fun w => by rw [advance_parks hout w, last]⟩
  · intro v a hs ho hb
    rw [s.thisSeat_eq] at hs ho hb
    refine ⟨fun h => ?_, fun h => ?_⟩
    · rw [settle_parked ho hs (hb.trans h), State.updSeatAt_running]
    · exact settle_beyond ho hs (hb.trans h)

/-! ### The schedule and the fetch -/

theorem issueCycle_turn {c : CoreId} {late : BitVec 8} {s : State} {l : List Nat} (core : isCore c = true) (busy : idle s c = false)
    (order : seatOrder s c late = l) : issueCycle c late s = trySeats c l s := by
  simp [issueCycle, core, busy, order]

theorem trySeats_next {c : CoreId} {n : Nat} {more : List Nat} {s t : State} (h : runSeat (onSeat s c n) = .next t) :
    trySeats c (n :: more) s = if (t.seatAt c n).status = .blocked then trySeats c more t else .next (issuedBy t c n) := by
  rw [trySeats, h]

theorem runSeat_run {s : State} {i : Instr} (h : fetch s = .run i) : runSeat s = exec i s := by rw [runSeat, h]

theorem runSeat_illegal {s : State} {w : BitVec 32} (h : fetch s = .illegal w) :
    runSeat s = .next (precise s 0x00 (w.setWidth 64)) := by
  rw [runSeat, h]
  rfl

theorem thisSeat_onSeat (s : State) (c : CoreId) {n : Nat} (h : n < 8) :
    (onSeat s c n).thisSeat = { s.seatAt c n with status := .running } := by
  have num : (Fin.ofNat 8 n).val = n := Nat.mod_eq_of_lt h
  rw [onSeat, State.thisSeat_updThisSeat, State.thisSeat_eq]
  simp only [num]
  rfl

/-- What a decoded word leads to, itself illegal when it decodes to none (R30). -/
def fetchedOf (w : BitVec 32) : Option Instr → Fetched
  | some i => .run i
  | none => .illegal w

theorem fetch_word {s : State} (r : repeating s = false) (st : s.thisCore.starts s.thisSeat.pc.toNat = true)
    (inside : s.thisSeat.pc.toNat < 0xFFFF) (wide : (s.thisCore.parcel s.thisSeat.pc.toNat).getLsbD 15 = true)
    (alone : s.thisCore.starts (s.thisSeat.pc.toNat + 1) = false) (clean : badParcel s.thisCore s.thisSeat.pc.toNat 2 = none) :
    fetch s = fetchedOf (s.thisCore.word s.thisSeat.pc.toNat) (decode32 (s.thisCore.word s.thisSeat.pc.toNat)) := by
  simp only [fetch, r, st, wide, alone, clean, inside.ne, trapWord, wordAt_inside inside.ne, decide_false, decide_true, ne_eq,
    not_false_eq_true, Bool.and_self, Bool.and_false, Bool.not_true, Bool.or_self, Bool.false_eq_true, if_true, if_false]
  rfl

theorem fetch_parcel {s : State} (r : repeating s = false) (st : s.thisCore.starts s.thisSeat.pc.toNat = true)
    (narrow : (s.thisCore.parcel s.thisSeat.pc.toNat).getLsbD 15 = false)
    (clean : badParcel s.thisCore s.thisSeat.pc.toNat 1 = none) :
    fetch s = fetchedOf ((s.thisCore.parcel s.thisSeat.pc.toNat).setWidth 32)
      (decode16 (s.thisCore.parcel s.thisSeat.pc.toNat)) := by
  simp only [fetch, r, st, narrow, clean, trapWord, Bool.false_and, Bool.not_true, Bool.or_self, Bool.false_eq_true, if_false]
  rfl

/-- The word of the running iteration. -/
def repeatedWord (s : State) : BitVec 32 :=
  stepWord (s.thisCore.word s.thisSeat.pc.toNat) (s.thisCore.word (s.thisSeat.pc.toNat + 2)) (iteration s)

theorem fetch_repeated {s : State} (r : repeating s = true) (clean : badParcel s.thisCore s.thisSeat.pc.toNat 4 = none) :
    fetch s = fetchedOf (repeatedWord s) (decode32 (repeatedWord s)) := by
  simp only [fetch, r, clean, if_true, repeatedWord]
  cases decode32 (stepWord (s.thisCore.word s.thisSeat.pc.toNat) (s.thisCore.word (s.thisSeat.pc.toNat + 2)) (iteration s)) <;> rfl

/-- Settles O54: by what the schedule and the seat's fetch hold. -/
theorem stepRunsTheSchedule : Obligations.StepRunsTheSchedule := by
  intro s t c n more late rest e i w
  refine ⟨fun h => ?_, fun h => ?_, fun h he => ?_, fun h he => ?_, fun h => ?_, fun h busy => ?_, fun h order => ?_, ?_, ?_, ?_,
    ?_, fetch_repeated⟩
  · simp [step, h]
  · simp [step, h, takeTurn]
  · simp [step, h, takeTurn, he]
  · simp [step, h, takeTurn, he]
  · simp [issueCycle, h]
  · simp [issueCycle, h, busy]
  · cases busy : idle s c
    · rw [issueCycle_turn h busy order, trySeats]
    · simp [issueCycle, h, busy]
  · rintro ⟨core, busy, order⟩ run ht
    rw [issueCycle_turn core busy order, trySeats_next ((runSeat_run run).trans ht)]
    exact ⟨fun st => by rw [if_neg st, issuedBy, apply_ite Host.Outcome.next], fun st => if_pos st⟩
  · rintro ⟨core, busy, order⟩ run ht st
    rw [issueCycle_turn core busy order, trySeats_next ((runSeat_illegal run).trans (congrArg _ ht)), if_neg st, issuedBy]
  · exact fun h => ⟨thisSeat_onSeat s c h, rfl, Nat.mod_eq_of_lt h⟩
  · intro r st inside
    exact ⟨fun wide alone clean => fetch_word r st inside wide alone clean, fun narrow clean => fetch_parcel r st narrow clean⟩

end Sys2Proof.Machine
end

section
/-! The words written out from the tables (R17 to R48). -/

namespace Sys2Proof.Machine

/-- Settles O55: the decoder evaluates on each word. -/
theorem decodedWords : Obligations.DecodedWords :=
  ⟨rfl, rfl, rfl, rfl, rfl, rfl, rfl, rfl, rfl, rfl, rfl, rfl,
    rfl, rfl, rfl, rfl, rfl, rfl, rfl, rfl, rfl, rfl⟩

end Sys2Proof.Machine
end

section
/-! The register forms of 16 bits (R18) and the compares (R34, R84, R85). -/

namespace Sys2Proof.Machine

/-! ### Instructions of one register result -/

theorem alu_ready (f : Word → Word → Word) {c : Ctl} {len : Nat} {d a b : BitVec 5} {s : State}
    (h : Ready c { rx := [a, b], wx := [d] } s) :
    alu c len d a b f s = .next (retire c.sw len (wroteX s d (f (s.thisSeat.getX a) (s.thisSeat.getX b)))) := by
  rw [alu, issue_ready h, putX_eq, finish_wroteX]

theorem alu1_ready (f : Word → Word) {c : Ctl} {len : Nat} {d a : BitVec 5} {s : State}
    (h : Ready c { rx := [a], wx := [d] } s) :
    alu1 c len d a f s = .next (retire c.sw len (wroteX s d (f (s.thisSeat.getX a)))) := by
  rw [alu1, issue_ready h, putX_eq, finish_wroteX]

theorem aluImm_ready {c : Ctl} {len : Nat} {d : BitVec 5} {w : Word} {s : State} (h : Ready c { wx := [d] } s) :
    aluImm c len d w s = .next (retire c.sw len (wroteX s d w)) := by
  rw [aluImm, issue_ready h, putX_eq, finish_wroteX]

/-- `x0` is never outstanding, so reading it too changes no condition of issue. -/
theorem earlyRead_x0 (s : State) (a : BitVec 5) (wx : List (BitVec 5)) :
    earlyRead s { rx := [a, 0], wx := wx } = earlyRead s { rx := [a], wx := wx } := by
  have zero : s.thisSeat.pendX 0#5 = false := rfl
  cases h : s.thisSeat.pendX a <;> simp [earlyRead, List.find?, h, zero]

theorem Ready.with_x0 {c : Ctl} {s : State} {a : BitVec 5} {wx : List (BitVec 5)} (h : Ready c { rx := [a], wx := wx } s) :
    Ready c { rx := [a, 0], wx := wx } s := by
  obtain ⟨pend, guard, locked, mem, rel, early⟩ := h
  exact ⟨pend, guard, locked, mem, rel, (earlyRead_x0 s a wx).trans early⟩

/-- A shift count of six bits is taken whole (R79). -/
theorem shiftCount_uimm (i : BitVec 6) : fld (uimm i) 5 0 = i.toNat := by
  simp [fld, uimm]
  omega

/-- Settles O4: each form is the 32-bit form's function on the registers x8 to x15. -/
theorem halfWordForms : Obligations.HalfWordForms := by
  intro s sw d a b i
  refine ⟨fun h => aluImm_ready h, fun h => ⟨alu1_ready (· + simm i) h, ?_, ?_, ?_⟩, fun h => ?_, fun h => ?_, fun h => ?_⟩
  · rw [← shiftCount_uimm]
    exact alu1_ready (sllW · (uimm i)) h
  · rw [← shiftCount_uimm]
    exact alu1_ready (srlW · (uimm i)) h
  · rw [← shiftCount_uimm]
    exact alu1_ready (sraW · (uimm i)) h
  · rw [← BitVec.add_zero (s.thisSeat.getX (hx a))]
    exact alu_ready (· + ·) h.with_x0
  · exact ⟨alu_ready (· + ·) h, alu_ready (· - ·) h, alu_ready (· &&& ·) h, alu_ready (· ||| ·) h,
      alu_ready (· ^^^ ·) h⟩
  · exact (issue_ready h).trans (congrArg _ (finish_same s))

/-! ### Compares -/

theorem tset_tset {α : Type} (l : List (Nat × α)) (i : Nat) (v w : α) : tset (tset l i v) i w = tset l i w := by
  induction l with
  | nil => simp [tset]
  | cons e t ih =>
    obtain ⟨k, u⟩ := e
    simp only [tset]
    split
    · simp [tset]
    · split
      · simp [tset]
      · simp [tset, *]

theorem State.setCore_setCore (s : State) (c : CoreId) (k l : Core) : (s.setCore c k).setCore c l = s.setCore c l :=
  congrArg (fun cores => { s with cores := cores }) (tset_tset s.cores c k l)

theorem State.updThisCore_updThisCore (s : State) (f g : Core → Core) :
    (s.updThisCore f).updThisCore g = s.updThisCore fun k => g (f k) := by
  change (s.setCore s.core (f s.thisCore)).setCore s.core (g ((s.setCore s.core (f s.thisCore)).getCore s.core)) = _
  rw [State.setCore_setCore, State.getCore_setCore, State.updThisCore]

theorem State.setThisSeat_setThisSeat (s : State) (u v : Seat) : (s.setThisSeat u).setThisSeat v = s.setThisSeat v := by
  simp only [State.setThisSeat]
  exact (State.updThisCore_updThisCore ..).trans (by simp only [State.updThisCore_seat, Vector.set_set])

theorem State.updThisSeat_updThisSeat (s : State) (f g : Seat → Seat) :
    (s.updThisSeat f).updThisSeat g = s.updThisSeat fun t => g (f t) := by
  rw [State.updThisSeat, State.thisSeat_updThisSeat, State.updThisSeat, State.setThisSeat_setThisSeat, State.updThisSeat]

theorem putCond_eq (s : State) (p e : BitVec 3) (b : Bool) : putCond s p e b = .next (wroteP (wroteP s p b) e (!b)) := by
  rw [putCond, wroteP, wroteP, State.updThisSeat_updThisSeat]

theorem finish_putCond (sw : Bool) (len : Nat) (s : State) (p e : BitVec 3) (b : Bool) :
    finish sw len s (putCond s p e b) = retire sw len (wroteP (wroteP s p b) e (!b)) := by
  rw [putCond_eq]
  exact finish_next (by simp)

theorem cmpReg_ready (f : Word → Word → Bool) {c : Ctl} {p e : BitVec 3} {a b : BitVec 5} {s : State}
    (h : Ready c { rx := [a, b], wp := [p, e] } s) :
    let v := f (s.thisSeat.getX a) (s.thisSeat.getX b)
    cmpReg c p e a b f s = .next (retire c.sw 2 (wroteP (wroteP s p v) e (!v))) := by
  rw [cmpReg, issue_ready h, finish_putCond]

theorem cmpImm_ready (f : Word → Word → Bool) {c : Ctl} {p e : BitVec 3} {a : BitVec 5} {i : BitVec 6} {s : State}
    (h : Ready c { rx := [a], wp := [p, e] } s) :
    let v := f (s.thisSeat.getX a) (simm i)
    cmpImm c p e a i f s = .next (retire c.sw 2 (wroteP (wroteP s p v) e (!v))) := by
  rw [cmpImm, issue_ready h, finish_putCond]

theorem cmpFloat_ready (k : FCond) {c : Ctl} {p e : BitVec 3} {a b : BitVec 5} {t : BitVec 2} {s : State}
    (h : Ready c { rx := [a, b], wp := [p, e] } s) :
    let v := k.holds (scalarFmt t) (low (s.thisSeat.getX a) (scalarFmt t).width) (low (s.thisSeat.getX b) (scalarFmt t).width)
    cmpFloat c p e a b t k s = .next (retire c.sw 2 (wroteP (wroteP s p v) e (!v))) :=
  cmpReg_ready (fun x y => k.holds (scalarFmt t) (low x (scalarFmt t).width) (low y (scalarFmt t).width)) h

/-! The two conditions that `Cond.holds` reads as a complement. -/

theorem slt_eq_not_sle {n : Nat} (x y : BitVec n) : y.slt x = !x.sle y := by
  rw [BitVec.sle_eq_not_slt, Bool.not_not]

theorem ult_eq_not_ule {n : Nat} (x y : BitVec n) : y.ult x = !x.ule y := by
  rw [BitVec.ule_eq_not_ult, Bool.not_not]

/-- Settles O5: each compare writes its condition by `cmpReg`, `cmpImm` or `cmpFloat`. -/
theorem compareResults : Obligations.CompareResults := by
  intro s c p e a b i t
  refine ⟨fun h => ⟨cmpReg_ready Cond.eq.holds h, cmpReg_ready Cond.ne.holds h, cmpReg_ready Cond.lt.holds h,
    cmpReg_ready Cond.ge.holds h, cmpReg_ready Cond.ltu.holds h, cmpReg_ready Cond.geu.holds h, cmpReg_ready Cond.le.holds h, ?_,
    cmpReg_ready Cond.leu.holds h, ?_, cmpReg_ready Cond.tst.holds h, cmpFloat_ready .eq h, cmpFloat_ready .lt h,
    cmpFloat_ready .le h, cmpFloat_ready .un h⟩, fun h => ⟨cmpImm_ready Cond.eq.holds h, cmpImm_ready Cond.ne.holds h,
    cmpImm_ready Cond.lt.holds h, cmpImm_ready Cond.ge.holds h, cmpImm_ready Cond.ltu.holds h, cmpImm_ready Cond.geu.holds h,
    cmpImm_ready Cond.le.holds h, ?_⟩⟩
  · rw [slt_eq_not_sle]
    exact cmpReg_ready Cond.gt.holds h
  · rw [ult_eq_not_ule]
    exact cmpReg_ready Cond.gtu.holds h
  · rw [slt_eq_not_sle]
    exact cmpImm_ready Cond.gt.holds h

end Sys2Proof.Machine
end

section
/-! Scalar loads and stores leave (R18, R92, R93, R114, R148). -/

namespace Sys2Proof.Machine

/-- The bytes of a scalar access, with the data of a store. -/
abbrev scalarPiece (s : State) (a : BitVec 5) (o : BitVec 8) (size : Nat) (w : Word) : Piece :=
  mkPiece (effAddr s a o size) (placeOf s s.me (effAddr s a o size)) size (lowMask (8 * size)) w 0

theorem leave_free {s : State} {p : List Piece} {f : State → State} (h : sameWord s p = false) : leave s p f = .next (f s) := by
  simp [leave, h]

theorem out_postLoad (s : State) (target : Target) (acq : Bool) (op : ReqOp) (p : List Piece) (left : List Nat) :
    (postLoad s target acq op p left).thisSeat.out = s.thisSeat.out + 1 := by
  simp [thisSeat_postLoad, Seat.out]

theorem out_postStoreOut (s : State) (p : List Piece) : (postStoreOut s p).thisSeat.out = s.thisSeat.out + 1 := by
  rw [postStoreOut, thisSeat_post, out_raise]
  exact congrArg (Seat.out · + 1) (thisSeat_updThisCore_seats s (fun k => p.foldl l1Store k) (foldl_l1Store_seats _ _))

theorem load_ready (size : Nat) (signed acq : Bool) {c : Ctl} {len : Nat} {d a : BitVec 5} {o : BitVec 8} {s : State}
    (h : Ready c { rx := [a], wx := [d], mem := true } s) (room : Room s)
    (check : checkScalar s s.me .read (effAddr s a o size) size = none) (free : sameWord s [scalarPiece s a o size 0] = false) :
    load c len d a o size signed acq s =
      .next (retire c.sw len (postLoad s (.x d) acq (.load size signed) [scalarPiece s a o size 0] [0])) := by
  rw [load, issue_ready h]
  simp only [check]
  rw [leave_free free, finish_room (by rw [out_postLoad]; exact room)]

theorem store_ready (size : Nat) {c : Ctl} {len : Nat} {d a : BitVec 5} {o : BitVec 8} {s : State}
    (h : Ready c { rx := [a, d], mem := true } s) (check : checkScalar s s.me .write (effAddr s a o size) size = none)
    (free : sameWord s [scalarPiece s a o size (s.thisSeat.getX d)] = false) :
    store c len d a o size false s =
      .next (retire c.sw len (postStore s [scalarPiece s a o size (s.thisSeat.getX d)])) := by
  rw [store, issue_ready h]
  simp only [check, Bool.false_eq_true, if_false]
  rw [leave_free free, finish_next (by rw [thisSeat_postStore])]

theorem store_release_ready (size : Nat) {c : Ctl} {len : Nat} {d a : BitVec 5} {o : BitVec 8} {s : State}
    (h : Ready c { rx := [a, d], mem := true, rel := true } s) (room : Room s)
    (check : checkScalar s s.me .write (effAddr s a o size) size = none)
    (free : sameWord s [scalarPiece s a o size (s.thisSeat.getX d)] = false) :
    store c len d a o size true s =
      .next (retire c.sw len (postStoreOut s [scalarPiece s a o size (s.thisSeat.getX d)])) := by
  rw [store, issue_ready h]
  simp only [check, if_true]
  rw [leave_free free, finish_room (by rw [out_postStoreOut]; exact room)]

/-- Settles O14: each form is a `load` of its size, extension and order. -/
theorem loadsIssue : Obligations.LoadsIssue := by
  intro s c sw d a o hd ha ho
  refine ⟨fun h room => ⟨?_, ?_, ?_, ?_, ?_, ?_, ?_, ?_, ?_⟩, fun h room => ⟨?_, ?_⟩⟩
  · exact load_ready 1 true false h room
  · exact load_ready 2 true false h room
  · exact load_ready 4 true false h room
  · exact load_ready 8 true false h room
  · exact load_ready 1 false false h room
  · exact load_ready 2 false false h room
  · exact load_ready 4 false false h room
  · exact load_ready 4 true true h room
  · exact load_ready 8 true true h room
  · exact load_ready 4 true false h room
  · exact load_ready 8 true false h room

/-- Settles O15: each form is a `store` of its size. -/
theorem storesIssue : Obligations.StoresIssue := by
  intro s c sw d a o hd ha ho
  refine ⟨fun h => ⟨?_, ?_, ?_, ?_⟩, fun h room => ⟨?_, ?_⟩, fun h => ⟨?_, ?_⟩⟩
  · exact store_ready 1 h
  · exact store_ready 2 h
  · exact store_ready 4 h
  · exact store_ready 8 h
  · exact store_release_ready 4 h room
  · exact store_release_ready 8 h room
  · exact store_ready 4 h
  · exact store_ready 8 h

end Sys2Proof.Machine
end

section
/-! What stays outstanding (R114): the parts of the machine that hold no seat leave every seat's outstanding operations, and so do
the writes of scratchpad words, the input of a core and its overflow ring (R144, R146, R229 to R234). -/

namespace Sys2Proof.Machine

/-- The operations outstanding at each seat, and the seat that runs. -/
def State.raised (s : State) : CoreId × Fin 8 × (CoreId → Nat → List Out) := (s.core, s.seat, fun c n => (s.seatAt c n).outs)

/-- The operations outstanding at each seat of a core. -/
def Core.raised (k : Core) (n : Nat) : List Out := (k.getSeat n).outs

theorem out_of_raised {s t : State} (h : t.raised = s.raised) : t.thisSeat.out = s.thisSeat.out := by
  obtain ⟨hc, h⟩ := Prod.mk.inj h
  obtain ⟨hn, ho⟩ := Prod.mk.inj h
  have same : (t.seatAt t.core t.seat.val).outs = (s.seatAt t.core t.seat.val).outs := congrFun (congrFun ho t.core) t.seat.val
  rw [Seat.out, Seat.out, State.thisSeat_eq, State.thisSeat_eq, same, hc, hn]

theorem raised_of_cores {s t : State} (hc : t.core = s.core) (hn : t.seat = s.seat)
    (h : ∀ c, (t.getCore c).raised = (s.getCore c).raised) : t.raised = s.raised := by
  unfold State.raised
  rw [hc, hn]
  exact congrArg (fun f => (s.core, s.seat, f)) (funext h)

theorem Core.raised_of_seats {k l : Core} (h : l.seats = k.seats) : l.raised = k.raised := by
  unfold Core.raised Core.getSeat
  rw [h]

theorem raised_setCore (s : State) (c : CoreId) (k : Core) (h : k.raised = (s.getCore c).raised) :
    (s.setCore c k).raised = s.raised := by
  refine raised_of_cores rfl rfl fun d => ?_
  by_cases e : d = c
  · rw [e, State.getCore_setCore, h]
  · rw [State.getCore_setCore_other s k e]

theorem raised_updCore (s : State) (c : CoreId) (f : Core → Core) (h : (f (s.getCore c)).seats = (s.getCore c).seats) :
    (s.updCore c f).raised = s.raised := raised_setCore s c _ (Core.raised_of_seats h)

theorem raised_updThisCore (s : State) (f : Core → Core) (h : (f s.thisCore).seats = s.thisCore.seats) :
    (s.updThisCore f).raised = s.raised := raised_setCore s s.core _ (Core.raised_of_seats h)

@[simp] theorem raised_updShell (s : State) (c : CoreId) (f : Shell → Shell) : (updShell s c f).raised = s.raised :=
  raised_updCore s c _ rfl

@[simp] theorem raised_updPiece (s : State) (id i : Nat) (f : Piece → Piece) : (updPiece s id i f).raised = s.raised := rfl

@[simp] theorem raised_takePacket (s : State) (p : Packet) (body : Body) : (takePacket s p body).raised = s.raised := rfl

@[simp] theorem raised_queueEvent (s : State) (c : CoreId) (code : BitVec 8) (x17 : Word) (rest : List Word) :
    (queueEvent s c code x17 rest).raised = s.raised :=
  raised_setCore s (supCore s c) _ (Core.raised_of_seats (Core.addEvent_seats _ _))

theorem Core.raised_news (k : Core) : k.news.raised = k.raised := by
  funext n
  by_cases h : n < 8 <;> simp [Core.raised, Core.news, Core.getSeat, Vector.getD, h]

/-! ### Scratchpad words -/

theorem raised_trySync {s t : State} {owner : CoreId} {word : Nat} {r : Req} {p : Piece} (h : trySync s owner word r p = some t) :
    t.raised = s.raised := by
  unfold trySync at h
  dsimp only at h
  (repeat' split at h) <;> cases h <;> simp [raised_updCore]

@[simp] theorem raised_serveWord (owner : CoreId) (word n : Nat) (s : State) : (serveWord owner word n s).raised = s.raised := by
  induction n generalizing s with
  | zero => rfl
  | succ n ih =>
    unfold serveWord
    dsimp only
    split
    case h_1 id s' e =>
      obtain ⟨w, -, hw⟩ := List.exists_of_findSome?_eq_some e
      split at hw
      · obtain ⟨t, ht, e⟩ := Option.map_eq_some_iff.1 hw
        obtain ⟨q, -, hq⟩ := Option.bind_eq_some_iff.1 ht
        cases e
        rw [ih, raised_updCore s' owner _ rfl, raised_trySync hq]
      · cases hw
    case h_2 => rfl

@[simp] theorem raised_setFull (s : State) (owner : CoreId) (word : Nat) (full : Bool) :
    (setFull s owner word full).raised = s.raised := by
  rw [setFull, serve, raised_serveWord, raised_updCore s owner _ rfl]

theorem raised_foldl_setFull (c : CoreId) (full : Bool) (words : List Nat) (s : State) :
    (words.foldl (fun s w => setFull s c w full) s).raised = s.raised := by
  induction words generalizing s with
  | nil => rfl
  | cons w words ih => rw [List.foldl_cons, ih, raised_setFull]

theorem raised_engineWrite {s t : State} {c : CoreId} {off : Nat} {bytes : List Byte} (h : engineWrite s c off bytes = some t) :
    t.raised = s.raised := by
  unfold engineWrite at h
  dsimp only at h
  split at h
  · cases h
    rfl
  · split at h <;> cases h
    rw [raised_foldl_setFull, raised_updCore s c _ rfl]

@[simp] theorem raised_writeRing (c : CoreId) (base bytes : Nat) (l : List Word) (tail : Nat) (s : State) :
    (writeRing s c base bytes tail l).raised = s.raised := by
  induction l generalizing s tail with
  | nil => rfl
  | cons w l ih =>
    rw [writeRing, ih]
    cases e : engineWrite s c (base + tail % bytes) ((List.range 8).map fun i => w.extractLsb' (8 * i) 8) with
    | none => rfl
    | some t => exact raised_engineWrite e

/-! ### Arrivals at a core -/

theorem raised_overflow {s t : State} {c : CoreId} {reason port : Nat} {words : List Word}
    (h : overflow s c reason port words = some t) : t.raised = s.raised := by
  unfold overflow at h
  dsimp only at h
  split at h <;> cases h
  rw [raised_queueEvent, raised_updCore _ c _ (by split <;> rfl), raised_writeRing]

theorem raised_arrive {s t : State} {c : CoreId} {acq : Bool} {h : Word} {payload : List Word} {n : Option (BitVec 32)}
    (e : arrive s c acq h payload n = some t) : t.raised = s.raised := by
  unfold arrive at e
  dsimp only at e
  split at e
  · exact raised_overflow e
  split at e
  · split at e
    · exact raised_overflow e
    split at e
    · exact raised_overflow e
    split at e
    · exact raised_overflow e
    · cases e
      exact raised_setCore s c _ rfl
  split at e
  · split at e
    · exact raised_overflow e
    split at e
    · exact (raised_overflow e).trans (raised_setCore s c _ rfl)
    · cases e
      exact raised_setCore s c _ rfl
  split at e
  · exact raised_overflow e
  · cases e
    rw [raised_updCore _ c _ rfl, raised_writeRing]

theorem raised_deliver {s t : State} {p : Packet} (h : deliver s p = some t) : t.raised = s.raised := by
  unfold deliver at h
  split at h
  · cases h
    rfl
  · obtain ⟨u, hu, e⟩ := Option.map_eq_some_iff.1 h
    rw [← e, raised_takePacket, raised_arrive hu]
    exact raised_setCore s p.dst _ (Core.raised_news _)

@[simp] theorem raised_dealInput (c : CoreId) (l : List Nat) (s : State) : (dealInput c l s).raised = s.raised := by
  induction l generalizing s with
  | nil => exact raised_updCore s c _ rfl
  | cons id l ih =>
    unfold dealInput
    dsimp only
    split
    · exact ih s
    · split
      · exact raised_updCore s c _ rfl
      · split
        · exact ih s
        · split
          case h_1 t e => rw [ih, raised_deliver e]
          case h_2 => exact raised_updCore s c _ rfl

end Sys2Proof.Machine
end

section
/-! System registers: what `sr.rd` reads, what `sr.wr` writes, and which registers are out of reach (R169, R324, R325). -/

namespace Sys2Proof.Machine

/-! ### Reading -/

theorem seat7Reads_eq_false {n : Nat} (h : n < 0x10 ∨ 0x40 ≤ n) : seat7Reads n = false := by
  simp only [seat7Reads, Bool.and_eq_false_iff, decide_eq_false_iff_not]
  omega

theorem seat7Reads_eq_true {n : Nat} (lo : 0x10 ≤ n) (hi : n < 0x40) : seat7Reads n = true := by simp [seat7Reads, lo, hi]

theorem thisSeat_readCycle (s : State) (n : Nat) : (readCycle s n).1.thisSeat = s.thisSeat := rfl

section Read

variable {c : Ctl} {d : BitVec 5} {r : BitVec 10} {s : State} (may : seat7Reads r.toNat = false ∨ s.seat = 7)
  (h : Ready c { wx := [d] } s)

include may h

theorem execSrRd_cycle (zero : r = 0) : execSrRd c d r s =
    .next (retire c.sw 2 (wroteX (readCycle s (chipOf s.core)).1 d (readCycle s (chipOf s.core)).2)) := by
  have free : ¬ (seat7Reads r.toNat && s.seat ≠ 7) = true := by rcases may with m | m <;> simp [m]
  rw [execSrRd, if_neg free, issue_ready h]
  simp only [zero, if_true]
  rw [putX_eq, finish_next (by simp [thisSeat_readCycle])]

theorem execSrRd_value (nonzero : r ≠ 0) : execSrRd c d r s =
    .next (retire c.sw 2 (wroteX (if r = 9 then s.ticked else s) d (srValue s r.toNat))) := by
  have free : ¬ (seat7Reads r.toNat && s.seat ≠ 7) = true := by rcases may with m | m <;> simp [m]
  rw [execSrRd, if_neg free, issue_ready h]
  simp only [if_neg nonzero]
  rw [putX_eq, finish_next]
  split <;> simp

end Read

theorem srValue_trapPc {s : State} {n : Nat} (lo : 0x10 ≤ n) (hi : n < 0x18) :
    srValue s n = (s.thisCore.getSeat (n % 8)).trapPc.setWidth 64 := by
  simp only [srValue, show ¬ n < 3 by omega, show ¬ n = 8 by omega, show ¬ n < 0x10 by omega, hi, if_false, if_true]

theorem srValue_trapCause {s : State} {n : Nat} (lo : 0x18 ≤ n) (hi : n < 0x20) :
    srValue s n = (s.thisCore.getSeat (n % 8)).trapCause.setWidth 64 := by
  simp only [srValue, show ¬ n < 3 by omega, show ¬ n = 8 by omega, show ¬ n < 0x10 by omega, show ¬ n < 0x18 by omega, hi,
    if_false, if_true]

theorem srValue_trapVal {s : State} {n : Nat} (lo : 0x20 ≤ n) (hi : n < 0x28) :
    srValue s n = (s.thisCore.getSeat (n % 8)).trapVal := by
  simp only [srValue, show ¬ n < 3 by omega, show ¬ n = 8 by omega, show ¬ n < 0x10 by omega, show ¬ n < 0x18 by omega,
    show ¬ n < 0x20 by omega, hi, if_false, if_true]

theorem srValue_rpc {s : State} {n : Nat} (lo : 0x28 ≤ n) (hi : n < 0x30) :
    srValue s n = (s.thisCore.getSeat (n % 8)).rpc.setWidth 64 := by
  simp only [srValue, show ¬ n < 3 by omega, show ¬ n = 8 by omega, show ¬ n < 0x10 by omega, show ¬ n < 0x18 by omega,
    show ¬ n < 0x20 by omega, show ¬ n < 0x28 by omega, hi, if_false, if_true]

/-- The numbers of the four queue-window registers. -/
theorem hlq_number {n : Nat} (lo : 0x34 ≤ n) (hi : n < 0x38) : n = 0x34 ∨ n = 0x35 ∨ n = 0x36 ∨ n = 0x37 := by omega

theorem srValue_hlq {s : State} {n : Nat} (lo : 0x34 ≤ n) (hi : n < 0x38) :
    srValue s n = if isBc s.core then 0 else (s.chan (clusterOf s.core) (n - 0x34)).hlq := by
  obtain rfl | rfl | rfl | rfl := hlq_number lo hi <;> rfl

/-! ### Writing -/

@[simp] theorem raised_writeShLink (s : State) (c : CoreId) (v : Word) : (writeShLink s c v).raised = s.raised :=
  raised_updShell s c _

theorem raised_writeSeatCtl (s : State) (c : CoreId) (v : Word) : (writeSeatCtl s c v).raised = s.raised := by
  unfold writeSeatCtl
  dsimp only
  split
  · rfl
  · exact raised_setCore s c _ rfl

theorem raised_writeOvfHd (s : State) (c : CoreId) (v : Word) : (writeOvfHd s c v).raised = s.raised := by
  unfold writeOvfHd
  dsimp only
  split
  · rfl
  · split
    · rw [raised_dealInput]
      exact raised_setCore s c _ rfl
    · exact raised_setCore s c _ rfl

theorem raised_dropRead (s : State) (cl ch : Nat) : (dropRead s cl ch).raised = s.raised := by
  unfold dropRead
  dsimp only
  cases (s.chan cl ch).hd <;> cases (s.chan cl ch).rd <;> rfl

theorem raised_writeHlq (s : State) (cl ch : Nat) (v : Word) : (writeHlq s cl ch v).raised = s.raised := by
  unfold writeHlq
  dsimp only
  split
  · rfl
  · exact raised_dropRead s cl ch

theorem Core.raised_tget_map (l : List (CoreId × Core)) (f : Core → Core) (h : ∀ k, (f k).seats = k.seats) (c : CoreId) :
    (tget {} (l.map fun e => (e.1, f e.2)) c).raised = (tget {} l c : Core).raised := by
  induction l with
  | nil => rfl
  | cons e l ih =>
    rw [List.map_cons, tget, tget]
    split
    · exact Core.raised_of_seats (h e.2)
    · exact ih

theorem raised_reconfigure (s : State) (cfg pmap : Word) : (reconfigure s cfg pmap).raised = s.raised := by
  unfold reconfigure
  split
  · rfl
  · exact raised_of_cores rfl rfl (Core.raised_tget_map s.cores (fun k => { k with l1 := [] }) fun _ => rfl)

/-- A write of a system register leaves what is outstanding (R114, R324). -/
theorem raised_srWrite (s : State) (r : Nat) (v : Word) : (srWrite s r v).raised = s.raised := by
  unfold srWrite
  dsimp only
  split
  case h_1 => exact raised_updThisCore s _ rfl
  case h_2 => exact raised_updThisCore s _ rfl
  case h_3 => exact raised_writeSeatCtl ..
  case h_4 => exact raised_writeShLink ..
  case h_5 => exact raised_updThisCore s _ rfl
  case h_6 => exact raised_writeOvfHd ..
  case h_7 => exact raised_reconfigure ..
  case h_8 => exact raised_reconfigure ..
  case h_9 =>
    split
    · rfl
    · exact raised_writeHlq ..

theorem execSrWr_ready {c : Ctl} {a : BitVec 5} {r : BitVec 10} {s : State} (h7 : s.seat = 7) (h : Ready c { rx := [a] } s)
    (may : writesReg s.core r.toNat = true) :
    execSrWr c a r s = .next (retire c.sw 2 (srWrite s r.toNat (s.thisSeat.getX a))) := by
  rw [execSrWr, if_neg (by simp [may]), issueS_seat7 h7, issue_ready h, finish_next (out_of_raised (raised_srWrite ..)).le]

theorem srWrite_hlq {s : State} {n : Nat} (v : Word) (lo : 0x34 ≤ n) (hi : n < 0x38) :
    srWrite s n v = if isBc s.core then s else writeHlq s (clusterOf s.core) (n - 0x34) v := by
  obtain rfl | rfl | rfl | rfl := hlq_number lo hi <;> rfl

/-- The registers that no `sr.wr` writes. -/
theorem writesReg_eq_false {c : CoreId} {n : Nat} (plain : n ≠ 8 ∧ (n < 0x30 ∨ 0x37 < n) ∧ n ≠ 0x39)
    (l2 : isBc c = false ∨ n ≠ 0x41 ∧ n ≠ 0x42) : writesReg c n = false := by
  obtain ⟨h8, hr, h39⟩ := plain
  have fixed : srWritable n = false := by
    simp only [srWritable, Bool.or_eq_false_iff, beq_eq_false_iff_ne, Bool.and_eq_false_iff, decide_eq_false_iff_not]
    omega
  rcases l2 with l2 | ⟨h41, h42⟩ <;> simp [writesReg, *]

/-- Settles O25: a register of its own number is read and written by evaluation, the ranges by their lemmas. -/
theorem systemRegisterResults : Obligations.SystemRegisterResults := by
  intro s c d a r
  refine ⟨fun h may _ => ?read, ?_, ?_, ?_, ?_, srValue_trapPc, srValue_trapCause, srValue_trapVal, srValue_rpc, ?_, ?_, ?_, ?_,
    srValue_hlq, ?_, ?_, ?_, ?_, ?_, ?_, ?_, ?_, ?_, fun may _ => ?far, fun h7 h open' => ?write, ?_, ?_, ?_, ?_, ?_,
    srWrite_hlq _, ?_, ?_, ?_, fun _ out => ?frozen⟩
  case read =>
    have may : seat7Reads r.toNat = false ∨ s.seat = 7 := by
      obtain m | m | m := may
      · exact .inl (seat7Reads_eq_false (.inl m))
      · exact .inl (seat7Reads_eq_false (.inr m))
      · exact .inr m
    refine ⟨execSrRd_cycle may h, fun h9 => ?_, fun h0 h9 => ?_⟩
    · exact (execSrRd_value may h (by rw [h9]; decide)).trans (by rw [if_pos h9])
    · exact (execSrRd_value may h h0).trans (by rw [if_neg h9])
  case far =>
    obtain ⟨lo, hi, h7⟩ : 0x10 ≤ r.toNat ∧ r.toNat < 0x40 ∧ s.seat ≠ 7 := by
      simpa only [not_or, not_lt, not_le] using may
    exact (execSrRd_privileged d (seat7Reads_eq_true lo hi) h7).trans (by rw [encodeWord_srRd])
  case write =>
    refine execSrWr_ready h7 h ?_
    obtain rfl | ⟨lo, hi⟩ | rfl | ⟨bc, rfl | rfl⟩ := open'
    · rfl
    · simp [writesReg, srWritable, lo, Nat.le_of_lt_succ hi]
    · rfl
    · simp [writesReg, bc]
    · simp [writesReg, bc]
  case frozen =>
    have privileged : s.seat ≠ 7 ∨ writesReg s.core r.toNat = false := by
      refine out.imp_right fun frozen => ?_
      simp only [← BitVec.toNat_inj, BitVec.ofNat_eq_ofNat, BitVec.toNat_ofNat, Nat.reducePow, Nat.reduceMod] at frozen
      refine writesReg_eq_false (by omega) ?_
      cases bc : isBc s.core
      · exact .inl rfl
      · simp only [bc, Bool.true_eq_false, false_and, or_false] at frozen
        exact .inr (by omega)
    exact (execSrWr_privileged a privileged).trans (by rw [encodeWord_srWr])
  all_goals
    rintro rfl
    rfl

end Sys2Proof.Machine
end

section
/-! The queue instructions: what a push keeps, moves or refuses, and what a pop takes (R18, R196 to R200, R251, R406). -/

namespace Sys2Proof.Machine

/-! ### What the parts of a push leave outstanding -/

theorem out_updThisSeat {s : State} {f : Seat → Seat} (h : ∀ t, (f t).outs = t.outs) :
    (s.updThisSeat f).thisSeat.out = s.thisSeat.out := by
  rw [State.thisSeat_updThisSeat, Seat.out, h, Seat.out]

@[simp] theorem raised_undeliverable (s : State) (code : BitVec 8) (src : CoreId) (rank : BitVec 16) (body : Body) :
    (undeliverable s code src rank body).raised = s.raised := by
  unfold undeliverable
  split
  · split <;> rfl
  · cases body with
    | msg | unread | count => exact raised_queueEvent ..
    | _ => rfl

@[simp] theorem raised_emit (s : State) (src : CoreId) (rank : BitVec 16) (tc : Nat) (body : Body) (mc : Option Nat) :
    (emit s src rank tc body mc).raised = s.raised := by
  unfold emit
  cases resolve s src rank with
  | hold | core => rfl
  | far m =>
    dsimp only
    split
    · rfl
    · exact raised_undeliverable ..
  | absent | dead => exact raised_undeliverable ..

@[simp] theorem raised_acceptCmd (s : State) (c : CoreId) (ws : List Word) (deps : List Nat) :
    (acceptCmd s c ws deps).raised = s.raised := raised_setCore s c _ rfl

theorem thisCore_updThisSeat (s : State) (f : Seat → Seat) :
    (s.updThisSeat f).thisCore = { s.thisCore with seats := s.thisCore.seats.set s.seat.val (f s.thisSeat) } :=
  s.thisCore_updThisCore _

/-! ### q0 (R251) -/

theorem drainOk_of_good {s : State} {u : Asker} {ws : List Word} (op : cOp (ws.getD 0 0) = 1) (good : badField s u ws = none) :
    drainOk s u (ws.getD 1 0) (tileBytes (cFmt (ws.getD 0 0))) = true := by
  by_contra bad
  rw [Bool.not_eq_true] at bad
  simp only [badField, op, bad, Bool.not_false, if_true] at good
  (repeat' split at good) <;> cases good

/-- A command with no bad field awaits no translation: its destination has been checked. -/
theorem drainWalk_of_good {s : State} {u : Asker} {ws : List Word} (good : badField s u ws = none) : drainWalk s u ws = none := by
  unfold drainWalk
  dsimp only
  split
  case isTrue h =>
    obtain ⟨op, dest, -, -⟩ := h
    have checked := drainOk_of_good op good
    simp only [drainOk, beq_eq_false_iff_ne.2 dest, Bool.false_or, Bool.and_eq_true, Option.isNone_iff_eq_none] at checked
    rw [checked.2]
  case isFalse => rfl

theorem pushQ0_keeps {s : State} (x : Word) (h : s.thisSeat.q0.length < 3) :
    pushQ0 s x = .next (s.updThisSeat fun t => { t with q0 := t.q0 ++ [x] }) := by
  simp only [pushQ0, List.length_append, List.length_singleton]
  rw [if_pos (by omega)]
  rfl

section Fourth

variable {s : State} {x : Word} (h : s.thisSeat.q0.length = 3)

include h

theorem pushQ0_moves {s' : State} (moved : pushWords s (s.thisSeat.q0 ++ [x]) = .next s') :
    pushQ0 s x = .next (s'.updThisSeat fun t => { t with q0 := [] }) := by
  simp only [pushQ0, List.length_append, List.length_singleton, h, lt_irrefl, if_false, moved]

theorem pushQ0_waits (wait : pushWords s (s.thisSeat.q0 ++ [x]) = .block) : pushQ0 s x = .block := by
  simp only [pushQ0, List.length_append, List.length_singleton, h, lt_irrefl, if_false, wait]

theorem pushQ0_traps {cause : BitVec 8} {v : Word} (bad : pushWords s (s.thisSeat.q0 ++ [x]) = .trap cause v) :
    pushQ0 s x = .trap cause v := by
  simp only [pushQ0, List.length_append, List.length_singleton, h, lt_irrefl, if_false, bad]

theorem first_of_four : (s.thisSeat.q0 ++ [x]).getD 0 0 = s.thisSeat.q0.headD 0 := by
  cases q0 : s.thisSeat.q0 with
  | nil => rw [q0] at h; cases h
  | cons => rfl

end Fourth

section Command

variable {s : State} {ws : List Word}

theorem pushWords_bad {f : Nat} (walk : drainWalk s s.me ws = none) (bad : badField s s.me ws = some f) :
    pushWords s ws = .trap 0x40 (reasonVal 3 (f * 2 ^ 32) (cTile (ws.getD 0 0))) := by
  simp only [pushWords, walk, bad, shellTrap]

theorem pushWords_unlinked (good : badField s s.me ws = none) (far : 3 ≤ cOp (ws.getD 0 0))
    (link : linkOn s.thisCore.shell = false) : pushWords s ws = .trap 0x40 (reasonVal 4 0 (cOp (ws.getD 0 0))) := by
  simp only [pushWords, drainWalk_of_good good, good, decide_eq_true far, link, Bool.not_false, Bool.and_self, if_true,
    shellTrap]

theorem pushWords_kind {v : Word} (good : badField s s.me ws = none) (near : cOp (ws.getD 0 0) < 3)
    (kind : kindFault s.thisCore.shell (ws.getD 0 0) = some v) : pushWords s ws = .trap 0x03 v := by
  simp only [pushWords, drainWalk_of_good good, good, decide_eq_false (Nat.not_le.2 near), Bool.false_and, Bool.false_eq_true,
    if_false, kind]

theorem pushWords_legal (good : badField s s.me ws = none) (link : 3 ≤ cOp (ws.getD 0 0) → linkOn s.thisCore.shell = true)
    (kind : kindFault s.thisCore.shell (ws.getD 0 0) = none) : pushWords s ws = pushCmd s ws := by
  have linked : (decide (3 ≤ cOp (ws.getD 0 0)) && !linkOn s.thisCore.shell) = false := by simpa using link
  simp only [pushWords, drainWalk_of_good good, good, linked, Bool.false_eq_true, if_false, kind]

end Command

theorem pushCmd_open {s : State} (ws : List Word) (h : q0Open s.thisCore.shell = true) :
    pushCmd s ws = .next (acceptCmd s s.core ws (operandDeps s ws)) := if_pos h

theorem pushCmd_shut {s : State} (ws : List Word) (h : q0Open s.thisCore.shell = false) : pushCmd s ws = .block :=
  if_neg (by simp [h])

/-! ### q2 (R264, R265) -/

theorem pushQ2_keeps {s : State} (x : Word) (h : s.thisSeat.q2.length < 8) :
    pushQ2 s x = .next (s.updThisSeat fun t => { t with q2 := t.q2 ++ [x] }) := by rw [pushQ2, if_neg (Nat.not_le.2 h)]

theorem pushQ2_full {s : State} (x : Word) (h : 8 ≤ s.thisSeat.q2.length) : pushQ2 s x = haulTrap s 1 := by
  rw [pushQ2, if_pos h]

/-! ### q4 (R199) -/

theorem hWords_le (h : Word) : hWords h ≤ 64 := Nat.succ_le_of_lt (BitVec.isLt _)

theorem headerFault_code {s : State} {word h : Word} {e : BitVec 8 × Word} (he : headerFault s word h = some e) :
    e.1 = 0x20 ∨ e.1 = 0x02 := by
  unfold headerFault at he
  (repeat' split at he) <;> cases he
  · exact .inl rfl
  · exact .inr rfl

theorem destFault_code {s : State} {r : BitVec 16} {e : BitVec 8 × Word} (he : destFault s r = some e) :
    e.1 = 0x20 ∨ e.1 = 0x21 := by
  unfold destFault at he
  split at he <;> cases he
  · exact .inl rfl
  · exact .inr rfl

/-- No check of a header awaits a walk. -/
theorem sendFault_raises {s : State} {word h : Word} {e : BitVec 8 × Word} (he : sendFault s word h = some e) :
    faultAct e = .trap e.1 e.2 := by
  refine if_neg fun walk => ?_
  rw [sendFault] at he
  cases hf : headerFault s word h with
  | some r =>
    obtain rfl : r = e := by simpa [hf] using he
    obtain code | code := headerFault_code hf <;> exact absurd (code.symm.trans walk) (by decide)
  | none =>
    obtain code | code := destFault_code (by simpa only [hf] using he) <;> exact absurd (code.symm.trans walk) (by decide)

theorem stamp_updThisSeat (s : State) (f : Seat → Seat) (h : Word) : stamp (s.updThisSeat f) s.core h = stamp s s.core h := by
  have rank : ((s.updThisSeat f).getCore s.core).rank = (s.getCore s.core).rank :=
    (congrArg Core.rank (thisCore_updThisSeat s f)).trans rfl
  simp only [stamp, rankOf, rank]

/-- The assembled message of the running seat leaves. -/
def sendHeld (s : State) (h : Word) (payload : List Word) : State :=
  emit (s.updThisSeat fun t => { t with q4 := [] }) s.core (hDest h) (hTc h) (.msg (stamp s s.core h) payload)

theorem sendHeld_updThisSeat (s : State) (q : List Word) (h : Word) (payload : List Word) :
    sendHeld (s.updThisSeat fun t => { t with q4 := q }) h payload = sendHeld s h payload := by
  rw [sendHeld, State.updThisSeat_updThisSeat, State.updThisSeat_core, stamp_updThisSeat, sendHeld]

/-- The words that are left of a message are pushed: the last one sends it. -/
theorem pushQ4_last {word h : Word} {ws : List Word} (ne : ws ≠ []) {s : State} {held : List Word}
    (q4 : s.thisSeat.q4 = h :: held) (len : held.length + ws.length = hWords h) (ok : sendFault s word h = none) :
    pushQ4 word ws s = if sendWaits s h then .block else .next (sendHeld s h (held ++ ws)) := by
  induction ws generalizing s held with
  | nil => exact absurd rfl ne
  | cons w ws ih =>
    rw [pushQ4, q4]
    cases ws with
    | nil =>
      simp only [List.length_append, List.length_singleton] at len ⊢
      rw [if_neg (by omega)]
      simp only [ok, pushQ4, sendHeld]
    | cons v ws =>
      simp only [List.length_append, List.length_cons, List.length_nil] at len ⊢
      rw [if_pos (by omega)]
      have rest := ih (s := s.updThisSeat fun t => { t with q4 := h :: (held ++ [w]) }) (held := held ++ [w]) (by simp)
        (by rw [State.thisSeat_updThisSeat]) (by simp; omega) ok
      rw [sendHeld_updThisSeat, List.append_assoc] at rest
      exact rest

theorem pushQ4_keeps_header {s : State} {word x : Word} (q4 : s.thisSeat.q4 = []) (ok : sendFault s word x = none) :
    pushQ4 word [x] s = .next (s.updThisSeat fun t => { t with q4 := [x] }) := by
  simp only [pushQ4, q4, ok]

theorem pushQ4_bad_header {s : State} {word x : Word} {e : BitVec 8 × Word} (q4 : s.thisSeat.q4 = [])
    (bad : sendFault s word x = some e) : pushQ4 word [x] s = .trap e.1 e.2 := by
  simp only [pushQ4, q4, bad, sendFault_raises bad]

theorem pushQ4_keeps {s : State} {word x h : Word} {held : List Word} (q4 : s.thisSeat.q4 = h :: held)
    (len : held.length + 1 < hWords h) : pushQ4 word [x] s = .next (s.updThisSeat fun t => { t with q4 := t.q4 ++ [x] }) := by
  simp only [pushQ4, q4, List.length_append, List.length_singleton, if_pos len, State.updThisSeat, List.cons_append]

theorem pushQ4_bad {s : State} {word x h : Word} {held : List Word} {e : BitVec 8 × Word} (q4 : s.thisSeat.q4 = h :: held)
    (len : held.length + 1 = hWords h) (bad : sendFault s word h = some e) : pushQ4 word [x] s = .trap e.1 e.2 := by
  simp only [pushQ4, q4, List.length_append, List.length_singleton, len, lt_irrefl, if_false, bad, sendFault_raises bad]

/-! ### q6 (R313, R406) -/

/-- A descriptor of R406. -/
abbrev Described (x : Word) : Prop := fld x 63 39 = 0 ∧ fld x 35 34 = 0 ∧ dDeliver x ≠ 3 ∧ dFn x < 5

theorem pushQ6_describes {s : State} {fn : Nat} {x : Word} (q6 : s.thisSeat.q6 = []) (h : Described x) :
    pushQ6 fn [x] s = .next (s.updThisSeat fun t => { t with q6 := [x] }) := by
  obtain ⟨high, gap, deliver, number⟩ := h
  simp [pushQ6, q6, high, gap, deliver, Nat.not_le.2 number]

theorem pushQ6_bad_descriptor {s : State} {fn : Nat} {x : Word} (ws : List Word) (q6 : s.thisSeat.q6 = []) (h : ¬ Described x) :
    pushQ6 fn (x :: ws) s = .trap 0x42 (reasonVal 1 0 fn) := by
  have bad : (fld x 63 39 ≠ 0 || fld x 35 34 ≠ 0 || dDeliver x = 3 || decide (5 ≤ dFn x)) = true := by
    by_contra ok
    simp only [Bool.or_eq_true, decide_eq_true_eq, not_or, not_not, not_le] at ok
    obtain ⟨⟨⟨high, gap⟩, deliver⟩, number⟩ := ok
    exact h ⟨high, gap, deliver, number⟩
  simp only [pushQ6, q6, if_pos bad, sysTrap]

theorem pushQ6_keeps {s : State} {fn : Nat} {x d : Word} {held : List Word} (q6 : s.thisSeat.q6 = d :: held)
    (len : held.length + 1 < 64) : pushQ6 fn [x] s = .next (s.updThisSeat fun t => { t with q6 := t.q6 ++ [x] }) := by
  simp only [pushQ6, q6, List.length_append, List.length_singleton, if_pos len, State.updThisSeat, List.cons_append]

theorem groupFault_updThisSeat (s : State) (f : Seat → Seat) (x d : Word) :
    groupFault (s.updThisSeat f) x d = groupFault s x d := by
  have tree : treeOf (s.updThisSeat f).thisCore (dGroup d) = treeOf s.thisCore (dGroup d) :=
    (congrArg (treeOf · (dGroup d)) (thisCore_updThisSeat s f)).trans rfl
  simp only [groupFault, tree]
  rfl

/-- A contribution of the running seat has entered q6 whole. -/
def Contributed (s : State) (d : Word) (data : BitVec 4096) (u : State) : Prop :=
  u.thisSeat = { s.thisSeat with q6 := [] } ∧
    u.thisCore.q6 = s.thisCore.q6 ++ [⟨s.fresh, d, data, s.seat.val, s.thisSeat.firingId, s.thisSeat.pc⟩]

theorem q6_updThisSeat (s : State) (f : Seat → Seat) : (s.updThisSeat f).thisCore.q6 = s.thisCore.q6 :=
  (congrArg Core.q6 (thisCore_updThisSeat s f)).trans rfl

theorem contributed_updThisSeat {s u : State} {q : List Word} {d : Word} {data : BitVec 4096}
    (h : Contributed (s.updThisSeat fun t => { t with q6 := q }) d data u) : Contributed s d data u := by
  obtain ⟨seat, core⟩ := h
  rw [State.thisSeat_updThisSeat] at seat
  rw [q6_updThisSeat, State.thisSeat_updThisSeat] at core
  exact ⟨seat, core⟩

/-- A whole contribution stands at the end of q6. -/
def contribute (s : State) (d : Word) (data : BitVec 4096) : State :=
  (s.updThisCore fun k => { k with q6 := k.q6 ++ [⟨s.fresh, d, data, s.seat.val, s.thisSeat.firingId, s.thisSeat.pc⟩] }).bump

theorem pushRed_eq (s : State) (d : Word) (data : BitVec 4096) :
    pushRed s d data = if q6Room s.thisCore then .next (contribute s d data) else .block := by
  cases room : q6Room s.thisCore <;> simp [pushRed, room, contribute]

theorem contributed_contribute (s : State) (d : Word) (data : BitVec 4096) :
    Contributed s d data ((contribute s d data).updThisSeat fun t => { t with q6 := [] }) := by
  refine ⟨?_, ?_⟩
  · rw [State.thisSeat_updThisSeat, contribute, State.thisSeat_bump, thisSeat_updThisCore_seats s _ rfl]
  · rw [q6_updThisSeat, contribute, State.thisCore_bump, State.thisCore_updThisCore]

/-- The doubles that are left of a contribution are pushed, and it enters q6 whole or its seat waits. -/
theorem pushQ6_last {fn : Nat} {d : Word} {ws : List Word} (ne : ws ≠ []) {s : State} {held : List Word}
    (q6 : s.thisSeat.q6 = d :: held) (len : held.length + ws.length = 64) (ok : groupFault s d d = none) :
    ∃ u, Contributed s d (wordsData (held ++ ws)) u ∧ pushQ6 fn ws s = if q6Room s.thisCore then .next u else .block := by
  induction ws generalizing s held with
  | nil => exact absurd rfl ne
  | cons w ws ih =>
    rw [pushQ6, q6]
    cases ws with
    | nil =>
      refine ⟨_, contributed_contribute s d _, ?_⟩
      simp only [List.length_append, List.length_singleton] at len ⊢
      rw [if_neg (by omega)]
      cases room : q6Room s.thisCore <;> simp only [ok, pushRed_eq, room, Bool.false_eq_true, if_false, if_true, pushQ6]
    | cons v ws =>
      simp only [List.length_append, List.length_cons, List.length_nil] at len ⊢
      rw [if_pos (by omega)]
      have rest := ih (s := s.updThisSeat fun t => { t with q6 := d :: (held ++ [w]) }) (held := held ++ [w]) (by simp)
        (by rw [State.thisSeat_updThisSeat]) (by simp; omega) ((groupFault_updThisSeat ..).trans ok)
      obtain ⟨u, done, run⟩ := rest
      rw [List.append_assoc] at done
      refine ⟨u, contributed_updThisSeat done, run.trans ?_⟩
      rw [q6Room, q6_updThisSeat, ← q6Room]

theorem pushQ6_refused {s : State} {fn : Nat} {x d : Word} {held : List Word} {r : Act} (q6 : s.thisSeat.q6 = d :: held)
    (len : held.length + 1 = 64) (bad : groupFault s d d = some r) : pushQ6 fn [x] s = r := by
  simp only [pushQ6, q6, List.length_append, List.length_singleton, len, lt_irrefl, if_false, bad]

theorem groupFault_absent {s : State} {x d : Word} (h : activeGroup s s.core (dGroup d) = none) :
    groupFault s x d = some (.trap 0x22 x) := by simp [groupFault, h]

theorem groupFault_treeless {s : State} {x d : Word} (h : (activeGroup s s.core (dGroup d)).isSome = true)
    (tree : treeOf s.thisCore (dGroup d) = none) : groupFault s x d = some (.trap 0x42 (reasonVal 2 0 (dGroup d))) := by
  rw [groupFault, if_neg (by simp [Option.isSome_iff_ne_none.1 h]), if_pos (by simp [tree]), sysTrap]

/-! ### Pops (R197, R200) -/

theorem raised_popCore {s s' : State} {q : BitVec 3} {n : Nat} {ws : List Word} {tag : BitVec 4}
    (h : popCore s q n = some (s', ws, tag)) : s'.raised = s.raised := by
  unfold popCore at h
  dsimp only at h
  (repeat' split at h) <;> cases h
  · exact (raised_updShell ..).trans (raised_updThisCore s _ rfl)
  · exact raised_updThisCore s _ rfl
  · exact raised_updThisCore s _ rfl

theorem pop_some {s s' : State} {q : BitVec 3} {n : Nat} {f : State → List Word → BitVec 4 → Act} {ws : List Word}
    {tag : BitVec 4} (hq : q ≠ 5) (h : popCore s q n = some (s', ws, tag)) : pop s q n f = f s' ws tag := by
  simp only [pop, if_neg hq, h]

theorem pop_none {s : State} {q : BitVec 3} {n : Nat} {f : State → List Word → BitVec 4 → Act} (hq : q ≠ 5)
    (h : popCore s q n = none) : pop s q n f = .block := by
  simp only [pop, if_neg hq, h]

/-- Word `i` of the payload that q5 has still to give. -/
def q5Word (s : State) (i : Nat) : Word :=
  getDouble s.thisCore.sp (s.thisCore.seatArea.toNat + 8192 * s.seat.val + 512 + 8 * (8 + s.thisSeat.q5read + i))

theorem pop_q5 {s : State} {n : Nat} {f : State → List Word → BitVec 4 → Act}
    (h : 8 + s.thisSeat.q5read + n ≤ s.thisSeat.payWords) :
    pop s 5 n f = f (s.updThisSeat fun t => { t with q5read := t.q5read + n }) ((List.range n).map (q5Word s)) 0 := by
  rw [pop, if_pos rfl, popQ5, if_neg (Nat.not_lt.2 h)]
  rfl

theorem pop_q5_past {s : State} {n : Nat} {f : State → List Word → BitVec 4 → Act}
    (h : s.thisSeat.payWords < 8 + s.thisSeat.q5read + n) : pop s 5 n f = msgTrapOpen s 8 := by
  rw [pop, if_pos rfl, popQ5, if_pos h]

/-! ### How a push or pop ends the instruction -/

section Ends

variable {sw : Bool} {len : Nat} {s s' : State} {a : Act}

theorem ends_next (h : a = .next s') (out : s'.thisSeat.out = s.thisSeat.out) :
    (.next (finish sw len s a) : Result) = .next (retire sw len s') := by rw [h, finish_next out.le]

theorem ends_blocked (h : a = .block) : (.next (finish sw len s a) : Result) = .next (blocked s) := by rw [h, finish_block]

theorem ends_trapped {cause : BitVec 8} {v : Word} (h : a = .trap cause v) : Traps s (.next (finish sw len s a)) cause v := by
  rw [h, finish_trap]

end Ends

theorem out_accepted (s : State) (ws : List Word) (deps : List Nat) :
    ((acceptCmd s s.core ws deps).updThisSeat fun t => { t with q0 := [] }).thisSeat.out = s.thisSeat.out := by
  refine (out_updThisSeat ?_).trans ?_
  · exact fun _ => rfl
  · exact out_of_raised (raised_acceptCmd ..)

theorem out_popped (s : State) (n : Nat) :
    (s.updThisSeat fun t => { t with q5read := t.q5read + n }).thisSeat.out = s.thisSeat.out := out_updThisSeat fun _ => rfl

theorem out_sendHeld (s : State) (h : Word) (payload : List Word) : (sendHeld s h payload).thisSeat.out = s.thisSeat.out :=
  (out_of_raised (raised_emit ..)).trans (out_updThisSeat fun _ => rfl)

theorem out_contributed {s u : State} {d : Word} {data : BitVec 4096} (h : Contributed s d data u) :
    u.thisSeat.out = s.thisSeat.out := (congrArg Seat.out h.1).trans rfl

theorem msgTrapOpen_value (s : State) : ∃ v : BitVec 16, msgTrapOpen s 8 = .trap 0x20 (reasonVal 8 0 v.toNat) := by
  refine ⟨BitVec.ofNat 16 (low ((Config.subject s.tick).setWidth 64) 16), ?_⟩
  rw [BitVec.toNat_ofNat, low, Nat.mod_mod, msgTrapOpen, low]

section Pop

/-- `qr` of either width: one word of a queue goes to a register. -/
def popX (c : Ctl) (len : Nat) (d : BitVec 5) (q : BitVec 3) (s : State) : Result :=
  issue c len { wx := [d] } (fun s => pop s q 1 fun s ws _ => putX s d (ws.getD 0 0)) s

variable {c : Ctl} {len : Nat} {d : BitVec 5} {vd : BitVec 4} {q : BitVec 3} {s s' : State} {ws : List Word} {tag : BitVec 4}

theorem popped_ne_q5 (hq : q = 1 ∨ q = 3 ∨ q = 7) : q ≠ 5 := by
  obtain rfl | rfl | rfl := hq <;> decide

theorem popX_taken (h : Ready c { wx := [d] } s) (hq : q = 1 ∨ q = 3 ∨ q = 7) (taken : popCore s q 1 = some (s', ws, tag)) :
    popX c len d q s = .next (retire c.sw len (wroteX s' d (ws.getD 0 0))) := by
  rw [popX, issue_ready h, pop_some (popped_ne_q5 hq) taken, putX_eq]
  exact ends_next rfl (by rw [thisSeat_wroteX, Seat.out_setX, out_of_raised (raised_popCore taken)])

theorem popX_empty (h : Ready c { wx := [d] } s) (hq : q = 1 ∨ q = 3 ∨ q = 7) (empty : popCore s q 1 = none) :
    popX c len d q s = .next (blocked s) := by
  rw [popX, issue_ready h, pop_none (popped_ne_q5 hq) empty, finish_block]

theorem popX_q5 (h : Ready c { wx := [d] } s) (held : 8 + s.thisSeat.q5read + 1 ≤ s.thisSeat.payWords) :
    popX c len d 5 s =
      .next (retire c.sw len (wroteX (s.updThisSeat fun t => { t with q5read := t.q5read + 1 }) d (q5Word s 0))) := by
  rw [popX, issue_ready h, pop_q5 held, putX_eq]
  refine ends_next rfl ?_
  rw [thisSeat_wroteX, Seat.out_setX, out_popped]

theorem popX_q5_past (h : Ready c { wx := [d] } s) (past : s.thisSeat.payWords < 8 + s.thisSeat.q5read + 1) :
    ∃ v : BitVec 16, Traps s (popX c len d 5 s) 0x20 (reasonVal 8 0 v.toNat) := by
  obtain ⟨v, trap⟩ := msgTrapOpen_value s
  rw [popX, issue_ready h, pop_q5_past past]
  exact ⟨v, ends_trapped trap⟩

theorem execQrv_taken (h : Ready c { wv := [vd] } s) (hq : q = 1 ∨ q = 3 ∨ q = 7)
    (taken : popCore s q 64 = some (s', ws, tag)) :
    execQrv c vd q s = .next (retire c.sw 2 (wroteV s' vd tag (wordsData ws))) := by
  rw [execQrv, issue_ready h, pop_some (popped_ne_q5 hq) taken, putV_eq]
  exact ends_next rfl (by rw [thisSeat_wroteV, Seat.out_setV, out_of_raised (raised_popCore taken)])

theorem execQrv_empty (h : Ready c { wv := [vd] } s) (hq : q = 1 ∨ q = 3 ∨ q = 7) (empty : popCore s q 64 = none) :
    execQrv c vd q s = .next (blocked s) := by
  rw [execQrv, issue_ready h, pop_none (popped_ne_q5 hq) empty, finish_block]

theorem execQrv_q5 (h : Ready c { wv := [vd] } s) (held : 8 + s.thisSeat.q5read + 64 ≤ s.thisSeat.payWords) :
    execQrv c vd 5 s = .next (retire c.sw 2 (wroteV (s.updThisSeat fun t => { t with q5read := t.q5read + 64 }) vd 0
      (wordsData ((List.range 64).map (q5Word s))))) := by
  rw [execQrv, issue_ready h, pop_q5 held, putV_eq]
  refine ends_next rfl ?_
  rw [thisSeat_wroteV, Seat.out_setV, out_popped]

theorem execQrv_q5_past (h : Ready c { wv := [vd] } s) (past : s.thisSeat.payWords < 8 + s.thisSeat.q5read + 64) :
    ∃ v : BitVec 16, Traps s (execQrv c vd 5 s) 0x20 (reasonVal 8 0 v.toNat) := by
  obtain ⟨v, trap⟩ := msgTrapOpen_value s
  rw [execQrv, issue_ready h, pop_q5_past past]
  exact ⟨v, ends_trapped trap⟩

end Pop

/-! ### One word pushed -/

theorem push_q4 {s : State} {w x : Word} (h : s.thisSeat.q4.length ≤ 64) : push s 4 w [x] = pushQ4 w [x] s :=
  if_neg (Nat.not_lt.2 (Nat.succ_le_succ h))

theorem haulTrap_value (s : State) : ∃ v : BitVec 56, haulTrap s 1 = .trap 0x41 (1#8 ++ v) := ⟨Config.subject s.tick, rfl⟩

theorem execQw_ready {c : Ctl} {q : BitVec 3} {a : BitVec 5} {s : State} (h : Ready c { rx := [a] } s) :
    execQw c q a s = .next (finish c.sw 2 s (push s q ((wordA c 0x2C (q.setWidth 5) a 0 0).setWidth 64) [s.thisSeat.getX a])) :=
  issue_ready h

theorem execHQw_ready {sw : Bool} {q a : BitVec 3} {s : State} (h : Ready (halfCtl sw) { rx := [hx a] } s) :
    execHQw sw q a s =
      .next (finish sw 1 s (push s q (((encode (.hQw sw q a)).headD 0).setWidth 64) [s.thisSeat.getX (hx a)])) := by
  rw [execHQw, issue_ready h]
  rfl

/-! ### 64 words pushed -/

section Vector

variable {c : Ctl} {q : BitVec 3} {vb : BitVec 4} {s : State}

/-- The words of a register that `qwv` pushes. -/
abbrev pushedWords (s : State) (vb : BitVec 4) : List Word := vecWords (s.thisSeat.getV vb).data 64

/-- The word of `qwv` in its trap value. -/
abbrev qwvWord (c : Ctl) (q : BitVec 3) (vb : BitVec 4) : Word := (wordA c 0x2C (q.setWidth 5) 0 (vb.setWidth 5) 2).setWidth 64

theorem length_vecWords (v : BitVec 4096) (n : Nat) : (vecWords v n).length = n := by simp [vecWords]

theorem vecWords_ne_nil (v : BitVec 4096) : vecWords v 64 ≠ [] := List.ne_nil_of_length_pos (by simp [length_vecWords])

theorem pack_digits (w n x : Nat) : pack w ((List.range n).map fun i => x / 2 ^ (w * i) % 2 ^ w) = x % 2 ^ (w * n) := by
  induction n generalizing x with
  | zero => simp [pack, Nat.mod_one]
  | succ n ih =>
    have shift (i : Nat) : x / 2 ^ (w * (i + 1)) = x / 2 ^ w / 2 ^ (w * i) := by
      rw [Nat.div_div_eq_div_mul, ← Nat.pow_add, Nat.mul_succ, Nat.add_comm]
    simp only [List.range_succ_eq_map, List.map_cons, List.map_map, pack, Nat.mul_zero, Nat.pow_zero, Nat.div_one, Nat.mod_mod,
      Function.comp_def, Nat.succ_eq_add_one, shift, ih]
    rw [Nat.mul_succ, Nat.add_comm (w * n), Nat.pow_add, Nat.mod_mul]

/-- The doubles of a register make it again. -/
theorem wordsData_vecWords (v : BitVec 4096) : wordsData (vecWords v 64) = v := by
  have digits : (vecWords v 64).map (·.toNat) = (List.range 64).map fun i => v.toNat / 2 ^ (64 * i) % 2 ^ 64 := by
    simp [vecWords, BitVec.extractLsb'_toNat, Nat.shiftRight_eq_div_pow]
  rw [wordsData, digits, pack_digits, Nat.mod_eq_of_lt v.isLt, BitVec.ofNat_toNat, BitVec.setWidth_eq]

theorem execQwv_ready (h : Ready c { rv := [vb] } s) :
    execQwv c q vb s = .next (finish c.sw 2 s (push s q (qwvWord c q vb) (pushedWords s vb))) := issue_ready h

theorem push_q4_vector {w : Word} (q4 : s.thisSeat.q4.length ≤ 1) :
    push s 4 w (pushedWords s vb) = pushQ4 w (pushedWords s vb) s :=
  if_neg (by rw [length_vecWords]; omega)

theorem push_q6_vector {w : Word} : push s 6 w (pushedWords s vb) = pushQ6 2 (pushedWords s vb) s := by
  change pushQ6 (if (pushedWords s vb).length = 64 then 2 else 0) (pushedWords s vb) s = _
  rw [length_vecWords, if_pos rfl]

theorem execQwv_message {h : Word} (ready : Ready c { rv := [vb] } s) (q4 : s.thisSeat.q4 = [h]) (len : hWords h = 64)
    (ok : sendFault s (qwvWord c 4 vb) h = none) :
    execQwv c 4 vb s = .next (if sendWaits s h then blocked s else retire c.sw 2 (sendHeld s h (pushedWords s vb))) := by
  have run := pushQ4_last (vecWords_ne_nil (s.thisSeat.getV vb).data) q4 (by rw [length_vecWords, len]; rfl) ok
  rw [execQwv_ready ready, push_q4_vector (by rw [q4]; exact Nat.le_refl 1), run]
  split
  · exact ends_blocked rfl
  · exact ends_next rfl (out_sendHeld ..)

theorem execQwv_assembling (ready : Ready c { rv := [vb] } s) (q4 : 1 < s.thisSeat.q4.length) :
    execQwv c 4 vb s = .next (blocked s) := by
  rw [execQwv_ready ready]
  exact ends_blocked (if_pos (by rw [length_vecWords]; omega))

theorem execQwv_contribution {d : Word} (ready : Ready c { rv := [vb] } s) (q6 : s.thisSeat.q6 = [d])
    (ok : groupFault s d d = none) : ∃ u, Contributed s d (s.thisSeat.getV vb).data u ∧
      execQwv c 6 vb s = .next (if q6Room s.thisCore then retire c.sw 2 u else blocked s) := by
  obtain ⟨u, done, run⟩ :=
    pushQ6_last (fn := 2) (vecWords_ne_nil (s.thisSeat.getV vb).data) q6 (by rw [length_vecWords]; rfl) ok
  rw [List.nil_append, wordsData_vecWords] at done
  refine ⟨u, done, (execQwv_ready ready).trans ?_⟩
  rw [push_q6_vector, run]
  split
  · exact ends_next rfl (out_contributed done)
  · exact ends_blocked rfl

theorem execQwv_bad_descriptor (ready : Ready c { rv := [vb] } s) (q6 : s.thisSeat.q6 = [])
    (bad : ¬ Described ((s.thisSeat.getV vb).data.extractLsb' 0 64)) :
    Traps s (execQwv c 6 vb s) 0x42 (reasonVal 1 0 2) := by
  rw [execQwv_ready ready, push_q6_vector]
  exact ends_trapped (pushQ6_bad_descriptor _ q6 bad)

end Vector

/-- Settles O20: one word pushed is one case of its queue, 64 words are the last of a message or contribution. -/
theorem queueResults : Obligations.QueueResults := by
  intro s s' c sw q hq hd ha d a vd vb ws tag t x wd wv y wh described pushed q5at popped past
  have pushes (q : BitVec 3) (w x : Word) (sw : Bool) (len : Nat) :
      pushed q w x (.next (finish sw len s (push s q w [x]))) (retire sw len) := by
    refine ⟨?_, ?_, ?_, ?_, ?_, ?_, ?_, ?_, ?_, ?_, ?_⟩
    · rintro rfl few
      exact ends_next (pushQ0_keeps x few) (out_updThisSeat fun _ => rfl)
    · rintro rfl three good link kind
      rw [← first_of_four (x := x) three] at link kind
      have legal := pushWords_legal good link kind
      refine ⟨fun shut => ?_, fun free => ?_⟩
      · exact ends_blocked (pushQ0_waits three (legal.trans (pushCmd_shut _ shut)))
      · exact ends_next (pushQ0_moves three (legal.trans (pushCmd_open _ free)))
          (out_accepted ..)
    · rintro rfl three walk
      rw [← first_of_four (x := x) three]
      refine ⟨fun f bad => ?_, fun good => ⟨fun far link => ?_, fun v near kind => ?_⟩⟩
      · exact ends_trapped (pushQ0_traps three (pushWords_bad walk bad))
      · exact ends_trapped (pushQ0_traps three (pushWords_unlinked good far link))
      · exact ends_trapped (pushQ0_traps three (pushWords_kind good near kind))
    · rintro rfl room
      exact ends_next (pushQ2_keeps x room) (out_updThisSeat fun _ => rfl)
    · rintro rfl full
      obtain ⟨v, trap⟩ := haulTrap_value s
      exact ⟨v, ends_trapped ((pushQ2_full x full).trans trap)⟩
    · rintro rfl q4 ok
      exact ends_next ((push_q4 (by rw [q4]; decide)).trans (pushQ4_keeps_header q4 ok)) (out_updThisSeat fun _ => rfl)
    · rintro e rfl q4 bad
      exact ends_trapped ((push_q4 (by rw [q4]; decide)).trans (pushQ4_bad_header q4 bad))
    · rintro h held rfl q4
      have words := hWords_le h
      have room (len : held.length + 1 ≤ hWords h) : push s 4 w [x] = pushQ4 w [x] s :=
        push_q4 (by rw [q4, List.length_cons]; omega)
      refine ⟨fun len => ?_, fun len ok free => ?_, fun len _ ok waits => ?_, fun e len bad => ?_⟩
      · exact ends_next ((room len.le).trans (pushQ4_keeps q4 len)) (out_updThisSeat fun _ => rfl)
      · exact ends_next ((room len.le).trans ((pushQ4_last (List.cons_ne_nil x []) q4 len ok).trans (if_neg (by simp [free]))))
          (out_sendHeld ..)
      · exact ends_blocked ((room len.le).trans ((pushQ4_last (List.cons_ne_nil x []) q4 len ok).trans (if_pos waits)))
      · exact ends_trapped ((room len.le).trans (pushQ4_bad q4 len bad))
    · rintro rfl q6 desc
      exact ends_next (pushQ6_describes q6 desc) (out_updThisSeat fun _ => rfl)
    · rintro rfl q6 bad
      exact ends_trapped (pushQ6_bad_descriptor [] q6 bad)
    · rintro d held rfl q6
      refine ⟨fun few => ?_, fun len ok room => ?_, fun len ok full => ?_, fun len absent => ?_, fun len live treeless => ?_⟩
      · exact ends_next (pushQ6_keeps q6 few) (out_updThisSeat fun _ => rfl)
      · obtain ⟨u, done, run⟩ := pushQ6_last (fn := 0) (List.cons_ne_nil x []) q6 len ok
        exact ⟨u, ends_next (run.trans (if_pos room)) (out_contributed done), done⟩
      · obtain ⟨u, done, run⟩ := pushQ6_last (fn := 0) (List.cons_ne_nil x []) q6 len ok
        exact ends_blocked (run.trans (if_neg (by simp [full])))
      · exact ends_trapped (pushQ6_refused q6 len (groupFault_absent absent))
      · exact ends_trapped (pushQ6_refused q6 len (groupFault_treeless live treeless))
  refine ⟨fun h => ?qw, fun h => ?qwv, fun h hq taken => ?_, fun h hq empty => ?_, ?_, fun h hq taken => ?_,
    fun h hq empty => ?_, ?_, fun h => ?hqw, fun h hq taken => ?_, fun h hq empty => ?_, ?_⟩
  case qw =>
    have run : exec (.qw c q a) s = .next (finish c.sw 2 s (push s q wd [x])) := execQw_ready h
    rw [run]
    exact pushes q wd x c.sw 2
  case hqw =>
    have run : exec (.hQw sw hq ha) s = .next (finish sw 1 s (push s hq wh [y])) := execHQw_ready h
    rw [run]
    exact pushes hq wh y sw 1
  case qwv =>
    refine ⟨?_, ?_, ?_, ?_, ?_, ?_⟩
    · rintro g rfl q4 len ok free
      exact (execQwv_message h q4 len ok).trans (congrArg _ (if_neg (by simp [free])))
    · rintro g rfl q6 ok room
      obtain ⟨u, done, run⟩ := execQwv_contribution h q6 ok
      exact ⟨u, run.trans (congrArg _ (if_pos room)), done⟩
    · rintro g rfl q4 len ok waits
      exact (execQwv_message h q4 len ok).trans (congrArg _ (if_pos waits))
    · rintro rfl q4
      exact execQwv_assembling h q4
    · rintro g rfl q6 ok full
      obtain ⟨u, -, run⟩ := execQwv_contribution h q6 ok
      exact run.trans (congrArg _ (if_neg (by simp [full])))
    · rintro rfl q6 bad
      exact execQwv_bad_descriptor h q6 bad
  · exact popX_taken h hq taken
  · exact popX_empty h hq empty
  · rintro h rfl
    exact ⟨popX_q5 h, popX_q5_past h⟩
  · exact execQrv_taken h hq taken
  · exact execQrv_empty h hq empty
  · rintro h rfl
    exact ⟨execQrv_q5 h, execQrv_q5_past h⟩
  · exact popX_taken h hq taken
  · exact popX_empty h hq empty
  · rintro h rfl
    exact ⟨popX_q5 h, popX_q5_past h⟩

end Sys2Proof.Machine
end

section
/-! Scalar floating point and its conversions (R63, R71, R90, R91). -/

namespace Sys2Proof.Machine

theorem fp2_ready (op : FFmt → Nat → Nat → Nat) {c : Ctl} {d a b : BitVec 5} {t : BitVec 2} {s : State}
    (h : Ready c { rx := [a, b], wx := [d] } s) :
    fp2 c d a b t op s = .next (retire c.sw 2 (wroteX s d (BitVec.ofNat 64
      (op (scalarFmt t) (low (s.thisSeat.getX a) (scalarFmt t).width) (low (s.thisSeat.getX b) (scalarFmt t).width))))) := by
  rw [fp2, issue_ready h, putX_eq, finish_wroteX]

theorem fp1_ready (op : FFmt → Nat → Nat) {c : Ctl} {d a : BitVec 5} {t : BitVec 2} {s : State}
    (h : Ready c { rx := [a], wx := [d] } s) :
    fp1 c d a t op s = .next (retire c.sw 2 (wroteX s d (BitVec.ofNat 64
      (op (scalarFmt t) (low (s.thisSeat.getX a) (scalarFmt t).width))))) := by
  rw [fp1, issue_ready h, putX_eq, finish_wroteX]

theorem execFma_ready {c : Ctl} {d a b : BitVec 5} {t : BitVec 2} {s : State} (h : Ready c { rx := [a, b, d], wx := [d] } s) :
    execFma c d a b t s = .next (retire c.sw 2 (wroteX s d (BitVec.ofNat 64
      (fmaF (scalarFmt t) (low (s.thisSeat.getX a) (scalarFmt t).width) (low (s.thisSeat.getX b) (scalarFmt t).width)
        (low (s.thisSeat.getX d) (scalarFmt t).width))))) := by
  rw [execFma, issue_ready h, putX_eq, finish_wroteX]

theorem withSign_not (f : FFmt) (a : Nat) (neg : Bool) :
    withSign f a (!neg) = a % 2 ^ (f.eb + f.fb) + if neg then 0 else 2 ^ (f.eb + f.fb) := by
  cases neg <;> rfl

theorem withSign_bne (f : FFmt) (a : Nat) (m n : Bool) :
    withSign f a (m != n) = a % 2 ^ (f.eb + f.fb) + if m = n then 0 else 2 ^ (f.eb + f.fb) := by
  cases m <;> cases n <;> rfl

/-- Settles O9: each instruction is a function of the low bits of its operands, by `fp2` or `fp1`; `fma` reads a third. -/
theorem floatResults : Obligations.FloatResults := by
  intro s c d a b t
  refine ⟨fun h => ⟨fp2_ready addF h, fp2_ready subF h, fp2_ready mulF h, fp2_ready divF h, fp2_ready minF h,
    fp2_ready maxF h, fp2_ready (fun f x y => withSign f x (signField f y)) h, ?_, ?_⟩, fun h => execFma_ready h,
    fun h => ⟨fp1_ready sqrtF h, fp1_ready classF h, fp1_ready rintF h⟩⟩
  · rw [← withSign_not]
    exact fp2_ready (fun f x y => withSign f x (!signField f y)) h
  · rw [← withSign_bne]
    exact fp2_ready (fun f x y => withSign f x (signField f x != signField f y)) h

theorem conv_ready (op : Word → Word) {c : Ctl} {d a : BitVec 5} {s : State} (h : Ready c { rx := [a], wx := [d] } s) :
    conv c d a op s = .next (retire c.sw 2 (wroteX s d (op (s.thisSeat.getX a)))) := by
  rw [conv, issue_ready h, putX_eq, finish_wroteX]

/-- The low word read as signed: its value from 2^31 on lies below 0. -/
theorem sxt_word (w : Word) : sxt 32 w.toNat = (w.setWidth 32).toInt := by
  rw [BitVec.toInt_eq_toNat_cond, BitVec.toNat_setWidth, sxt]
  split <;> split <;> omega

/-- Settles O10: each conversion is a function of xa by `conv`; `cvt.f32.w` reads the low word as signed. -/
theorem scalarConversionResults : Obligations.ScalarConversionResults := by
  intro s c d a h
  have float (f g : FFmt) (n : Nat) := conv_ready (fun w => BitVec.ofNat 64 (roundF f (decodeF g (low w n)))) h
  have int (r : Rnd) (lo hi : Int) := conv_ready (fun w => BitVec.ofInt 64 (toIntV r lo hi (decodeF fmtF32 (low w 32)))) h
  refine ⟨float fmtF32 fmtF16 16, float fmtF32 fmtBf16 16, float fmtF16 fmtF32 32, float fmtBf16 fmtF32 32, ?_,
    conv_ready (fun w => BitVec.ofNat 64 (roundF fmtF32 (ofIntV (low w 32)))) h, int .ne (-2 ^ 31) (2 ^ 31 - 1),
    int .ne 0 (2 ^ 32 - 1), int .tz (-2 ^ 31) (2 ^ 31 - 1), int .tz 0 (2 ^ 32 - 1)⟩
  rw [← sxt_word]
  exact conv_ready (fun w => BitVec.ofNat 64 (roundF fmtF32 (ofIntV (sxt 32 w.toNat)))) h

end Sys2Proof.Machine
end

section
/-! Lane-wise vector instructions and the format trap (R62, R66, R123 to R126, R375). -/

namespace Sys2Proof.Machine

/-! ### The format trap -/

/-- TRAP_VAL of the format trap: the register number from bit 8 on, the tag below (R375). -/
theorem formatVal_fields (q tag : BitVec 4) :
    (32 + q.setWidth 64) <<< 8 ||| tag.setWidth 64 = BitVec.ofNat 64 ((32 + q.toNat) * 256 + tag.toNat) := by
  have reg : (32 + q.setWidth 64 : Word) = BitVec.ofNat 64 (32 + q.toNat) := by bv_omega
  rw [reg, ← Nat.shiftLeft_eq _ 8, Nat.shiftLeft_add_eq_or_of_lt (by omega)]
  apply BitVec.eq_of_toNat_eq
  simp [Nat.shiftLeft_eq]

theorem formatTrap_eq (q tag : BitVec 4) :
    formatTrap q tag = .trap 0x03 (BitVec.ofNat 64 ((32 + q.toNat) * 256 + tag.toNat)) := by
  rw [formatTrap, formatVal_fields]

theorem tagFault_eq (u : Seat) (t : BitVec 3) (q : BitVec 4) :
    tagFault u t q = if (u.getV q).tag != 0 && (u.getV q).tag != tyTag t then some (formatVal u q) else none := by
  rw [tagFault, formatVal_fields, ← ite_not]
  simp

/-- The first register of another tag, if any, is the one that the format trap names (R62). -/
theorem tagFaults_eq (u : Seat) (t : BitVec 3) (rs : List (BitVec 4)) :
    tagFaults u t rs = (misread u t rs).map (formatVal u) := by
  induction rs with
  | nil => rfl
  | cons q rs ih =>
    rw [tagFaults] at ih
    rw [tagFaults, List.findSome?_cons, misread, List.find?_cons, tagFault_eq, ih]
    cases (u.getV q).tag != 0 && (u.getV q).tag != tyTag t <;> rfl

theorem tagFaults_of_misread {u : Seat} {t : BitVec 3} {rs : List (BitVec 4)} {q : BitVec 4} (h : misread u t rs = some q) :
    tagFaults u t rs = some (formatVal u q) := by
  rw [tagFaults_eq, h, Option.map_some]

/-! ### Lanes -/

section Lanes

variable {c : Ctl} {d a b q : BitVec 4} {k : BitVec 2} {t : BitVec 3} {s : State}

theorem lanes2_ready (f : Nat → Nat → Nat) (h : Ready c { rv := [a, b], wv := [d] } s)
    (tags : tagFaults s.thisSeat t [a, b] = none) :
    lanes2 c d a b k t f s = .next (retire c.sw 2 (wroteV s d (tyTag t)
      (merge (tyWidth t) (s.thisSeat.getK k) (s.thisSeat.getV d).data fun i =>
        f (elem (tyWidth t) (s.thisSeat.getV a).data i) (elem (tyWidth t) (s.thisSeat.getV b).data i)))) := by
  simp only [lanes2, issue_ready h, tags, putV_eq, finish_wroteV]

theorem lanes3_ready (f : Nat → Nat → Nat → Nat) (h : Ready c { rv := [a, b, d], wv := [d] } s)
    (tags : tagFaults s.thisSeat t [a, b, d] = none) :
    lanes3 c d a b k t f s = .next (retire c.sw 2 (wroteV s d (tyTag t)
      (merge (tyWidth t) (s.thisSeat.getK k) (s.thisSeat.getV d).data fun i => f (elem (tyWidth t) (s.thisSeat.getV a).data i)
        (elem (tyWidth t) (s.thisSeat.getV b).data i) (elem (tyWidth t) (s.thisSeat.getV d).data i)))) := by
  simp only [lanes3, issue_ready h, tags, putV_eq, finish_wroteV]

theorem lanes1_ready (f : Nat → Nat) (h : Ready c { rv := [a], wv := [d] } s) (tags : tagFaults s.thisSeat t [a] = none) :
    lanes1 c d a k t f s = .next (retire c.sw 2 (wroteV s d (tyTag t)
      (merge (tyWidth t) (s.thisSeat.getK k) (s.thisSeat.getV d).data fun i =>
        f (elem (tyWidth t) (s.thisSeat.getV a).data i)))) := by
  simp only [lanes1, issue_ready h, tags, putV_eq, finish_wroteV]

theorem lanes2_misread {f : Nat → Nat → Nat} (h : Ready c { rv := [a, b], wv := [d] } s)
    (bad : misread s.thisSeat t [a, b] = some q) : Traps s (lanes2 c d a b k t f s) 0x03 (formatVal s.thisSeat q) := by
  simp only [lanes2, issue_ready h, tagFaults_of_misread bad, finish_trap]

theorem lanes3_misread {f : Nat → Nat → Nat → Nat} (h : Ready c { rv := [a, b, d], wv := [d] } s)
    (bad : misread s.thisSeat t [a, b, d] = some q) : Traps s (lanes3 c d a b k t f s) 0x03 (formatVal s.thisSeat q) := by
  simp only [lanes3, issue_ready h, tagFaults_of_misread bad, finish_trap]

theorem lanes1_misread {f : Nat → Nat} (h : Ready c { rv := [a], wv := [d] } s)
    (bad : misread s.thisSeat t [a] = some q) : Traps s (lanes1 c d a k t f s) 0x03 (formatVal s.thisSeat q) := by
  simp only [lanes1, issue_ready h, tagFaults_of_misread bad, finish_trap]

end Lanes

/-- Settles O11: each instruction is a function of the elements of its sources, by `lanes2`, `lanes3` or `lanes1`. -/
theorem vectorLaneResults : Obligations.VectorLaneResults := by
  intro s c d a b k t
  refine ⟨fun h tags => ?results, fun h tags => lanes3_ready (fmaF (tyFmt t)) h tags,
    fun h tags => lanes1_ready (sqrtF (tyFmt t)) h tags, fun q bad h => ?traps, fun q bad h => lanes3_misread h bad,
    fun q bad h => lanes1_misread h bad⟩
  case results =>
    have lanes (f : Nat → Nat → Nat) := lanes2_ready (k := k) f h tags
    exact ⟨lanes (· + ·), lanes fun x y => x + (2 ^ tyWidth t - y), lanes (· * ·), lanes (minS (tyWidth t)),
      lanes (maxS (tyWidth t)), lanes min, lanes max,
      lanes fun x y => clampS (tyWidth t) (sxt (tyWidth t) x + sxt (tyWidth t) y), lanes (addF (tyFmt t)),
      lanes (subF (tyFmt t)), lanes (mulF (tyFmt t)), lanes (minF (tyFmt t)), lanes (maxF (tyFmt t)), lanes (divF (tyFmt t)),
      lanes fun x y => x * 2 ^ (y % tyWidth t), lanes fun x y => x / 2 ^ (y % tyWidth t),
      lanes fun x y => wrap (tyWidth t) (sxt (tyWidth t) x / (2 ^ (y % tyWidth t) : Nat))⟩
  case traps =>
    have trap (f : Nat → Nat → Nat) := lanes2_misread (k := k) (f := f) h bad
    dsimp only [exec]
    exact List.forall_iff_forall_mem.1 ⟨trap _, trap _, trap _, trap _, trap _, trap _, trap _, trap _, trap _, trap _, trap _,
      trap _, trap _, trap _, trap _, trap _, trap _⟩

end Sys2Proof.Machine
end

section
/-! Reductions, register groups, conversion and transpose (R62, R72 to R74, R128 to R130, R133 to R135). -/

namespace Sys2Proof.Machine

/-! ### A run of vector registers written one after another -/

section Registers

variable {α : Type} (r : α → BitVec 4) (w : α → VReg)

theorem foldl_setV_eq (l : List α) (t : Seat) :
    l.foldl (fun t j => t.setV (r j) (w j)) t = { t with v := (l.foldl (fun t j => t.setV (r j) (w j)) t).v } := by
  induction l generalizing t with
  | nil => rfl
  | cons j l ih => exact ih (t.setV (r j) (w j))

theorem getV_foldl_setV_other (l : List α) (t : Seat) {q : BitVec 4} (h : ∀ j ∈ l, q ≠ r j) :
    (l.foldl (fun t j => t.setV (r j) (w j)) t).getV q = t.getV q := by
  induction l generalizing t with
  | nil => rfl
  | cons j l ih =>
    rw [List.forall_mem_cons] at h
    rw [List.foldl_cons, ih _ h.2, Seat.getV_setV_other _ _ h.1]

theorem getV_foldl_setV {l : List α} (t : Seat) (h : (l.map r).Nodup) {j : α} (hj : j ∈ l) :
    (l.foldl (fun t j => t.setV (r j) (w j)) t).getV (r j) = w j := by
  induction l generalizing t with
  | nil => cases hj
  | cons i l ih =>
    obtain ⟨fresh, nodup⟩ := List.nodup_cons.1 h
    obtain rfl | hj := List.mem_cons.1 hj
    · rw [List.foldl_cons, getV_foldl_setV_other r w l _ fun i hi e => fresh (List.mem_map.2 ⟨i, hi, e.symm⟩), Seat.getV_setV]
    · exact ih (t.setV (r i) (w i)) nodup hj

end Registers

/-- The registers of a group of at most 16 differ. -/
theorem group_nodup (d : BitVec 4) {n : Nat} (h : n ≤ 16) : (group d n).Nodup := by
  refine List.Nodup.map_on (fun i hi j hj e => ?_) List.nodup_range
  rw [List.mem_range] at hi hj
  bv_omega

theorem putGroup_eq (old : Seat) (w : Nat) (d : BitVec 4) (n : Nat) (tag : BitVec 4) (k : BitVec 1024) (f : Nat → Nat)
    (t : Seat) : putGroup old w d n tag k f t = { t with v := (putGroup old w d n tag k f t).v } := foldl_setV_eq ..

theorem cvtResult_eq (old : Seat) (d a f : BitVec 4) (k : BitVec 1024) (mode : CvtMode) :
    cvtResult old d a f k mode = { old with v := (cvtResult old d a f k mode).v } := by
  unfold cvtResult
  split
  · exact foldl_setV_eq ..
  · exact putGroup_eq ..

theorem finish_vectors {sw : Bool} {len : Nat} {s : State} {u : Seat} (h : u = { s.thisSeat with v := u.v }) :
    finish sw len s (.next (s.setThisSeat u)) = retire sw len (s.setThisSeat u) := by
  have outs : u.outs = s.thisSeat.outs := by rw [h]
  refine finish_next ?_
  rw [State.thisSeat_setThisSeat, Seat.out, Seat.out, outs]

/-- Register vd + j after a transpose (R135). -/
def transposedReg (old : Seat) (d a f : BitVec 4) (j : Nat) : VReg :=
  { old.getV (d + BitVec.ofNat 4 j) with tag := (old.getV a).tag, data := transposed old (tagWidth f) a j }

section Ready

variable {c : Ctl} {d a b f q : BitVec 4} {k m : BitVec 2} {t : BitVec 3} {s : State}

/-! ### Reductions -/

theorem execVredsum_ready (h : Ready c { rv := [a], wv := [d] } s) (tags : tagFaults s.thisSeat t [a] = none) :
    execVredsum c d a k t s = .next (retire c.sw 2 (wroteV s d (sumTag t) (BitVec.ofNat 4096
      (sumOf t (s.thisSeat.getK k) fun i => summand t (elem (tyWidth t) (s.thisSeat.getV a).data i))))) := by
  simp only [execVredsum, issue_ready h, tags, putReduced, putV_eq, finish_wroteV]

theorem execVredsum_misread (h : Ready c { rv := [a], wv := [d] } s) (bad : misread s.thisSeat t [a] = some q) :
    Traps s (execVredsum c d a k t s) 0x03 (formatVal s.thisSeat q) := by
  simp only [execVredsum, issue_ready h, tagFaults_of_misread bad, finish_trap]

theorem extremum_ready (op : Nat → Nat → Nat) (unit : Nat) (h : Ready c { rv := [a], wv := [d] } s)
    (tags : tagFaults s.thisSeat t [a] = none) :
    extremum c d a k t op unit s = .next (retire c.sw 2 (wroteV s d (tyTag t) (BitVec.ofNat 4096 (reduce (tyWidth t) op fun i =>
      if (s.thisSeat.getK k).getLsbD i then elem (tyWidth t) (s.thisSeat.getV a).data i else unit)))) := by
  simp only [extremum, issue_ready h, tags, putReduced, putV_eq, finish_wroteV]

theorem extremum_misread {op : Nat → Nat → Nat} {unit : Nat} (h : Ready c { rv := [a], wv := [d] } s)
    (bad : misread s.thisSeat t [a] = some q) : Traps s (extremum c d a k t op unit s) 0x03 (formatVal s.thisSeat q) := by
  simp only [extremum, issue_ready h, tagFaults_of_misread bad, finish_trap]

/-- A reduction whose operation and identity the kind of the type decides (R73). -/
theorem extremum_typed_ready (f g : Nat → Nat → Nat) (e z : Nat) (h : Ready c { rv := [a], wv := [d] } s)
    (tags : tagFaults s.thisSeat t [a] = none) :
    (if t.toNat ≤ 2 then extremum c d a k t f e s else extremum c d a k t g z s) =
      .next (retire c.sw 2 (wroteV s d (tyTag t) (BitVec.ofNat 4096
        (if t.toNat ≤ 2 then reduce (tyWidth t) f fun i =>
            if (s.thisSeat.getK k).getLsbD i then elem (tyWidth t) (s.thisSeat.getV a).data i else e
          else reduce (tyWidth t) g fun i =>
            if (s.thisSeat.getK k).getLsbD i then elem (tyWidth t) (s.thisSeat.getV a).data i else z)))) := by
  split
  · exact extremum_ready f e h tags
  · exact extremum_ready g z h tags

theorem extremum_typed_misread {f g : Nat → Nat → Nat} {e z : Nat} (h : Ready c { rv := [a], wv := [d] } s)
    (bad : misread s.thisSeat t [a] = some q) :
    Traps s (if t.toNat ≤ 2 then extremum c d a k t f e s else extremum c d a k t g z s) 0x03 (formatVal s.thisSeat q) := by
  split
  · exact extremum_misread h bad
  · exact extremum_misread h bad

theorem execVdot_ready (h : Ready c { rv := [a, b], wv := [d] } s) (tags : tagFaults s.thisSeat t [a, b] = none) :
    execVdot c d a b k t s = .next (retire c.sw 2 (wroteV s d (sumTag t) (BitVec.ofNat 4096 (sumOf t (s.thisSeat.getK k)
      fun i => product t (elem (tyWidth t) (s.thisSeat.getV a).data i) (elem (tyWidth t) (s.thisSeat.getV b).data i))))) := by
  simp only [execVdot, issue_ready h, tags, putReduced, putV_eq, finish_wroteV]

theorem execVdot_misread (h : Ready c { rv := [a, b], wv := [d] } s) (bad : misread s.thisSeat t [a, b] = some q) :
    Traps s (execVdot c d a b k t s) 0x03 (formatVal s.thisSeat q) := by
  simp only [execVdot, issue_ready h, tagFaults_of_misread bad, finish_trap]

/-! ### Register groups -/

theorem widen_ready (n w : Nat) (tag : BitVec 4) (g : Nat → Nat) (h : Ready c { rv := [a], wv := group d n } s)
    (tags : tagFaults s.thisSeat t [a] = none) :
    widen c d a k t n w tag g s = .next (retire c.sw 2 (s.setThisSeat (putGroup s.thisSeat w d n tag (s.thisSeat.getK k)
      (fun i => g (elem (tyWidth t) (s.thisSeat.getV a).data i)) s.thisSeat))) := by
  simp only [widen, issue_ready h, tags, finish_vectors (putGroup_eq ..)]

theorem widen_misread {n w : Nat} {tag : BitVec 4} {g : Nat → Nat} (h : Ready c { rv := [a], wv := group d n } s)
    (bad : misread s.thisSeat t [a] = some q) : Traps s (widen c d a k t n w tag g s) 0x03 (formatVal s.thisSeat q) := by
  simp only [widen, issue_ready h, tagFaults_of_misread bad, finish_trap]

theorem execVwiden_ready (h : Ready c { rv := [a], wv := group d 2 } s) (tags : tagFaults s.thisSeat t [a] = none) :
    execVwiden c d a k t s = .next (retire c.sw 2
      (if t = 0 then s.setThisSeat (putGroup s.thisSeat 16 d 2 2 (s.thisSeat.getK k)
          (fun i => wrap 16 (sxt 8 (elem (tyWidth t) (s.thisSeat.getV a).data i))) s.thisSeat)
        else if t = 1 then s.setThisSeat (putGroup s.thisSeat 32 d 2 3 (s.thisSeat.getK k)
          (fun i => wrap 32 (sxt 16 (elem (tyWidth t) (s.thisSeat.getV a).data i))) s.thisSeat)
        else s.setThisSeat (putGroup s.thisSeat 32 d 2 6 (s.thisSeat.getK k)
          (fun i => roundF fmtF32 (decodeF (tyFmt t) (elem (tyWidth t) (s.thisSeat.getV a).data i))) s.thisSeat))) := by
  unfold execVwiden
  split
  · exact widen_ready 2 16 2 (fun e => wrap 16 (sxt 8 e)) h tags
  · split
    · exact widen_ready 2 32 3 (fun e => wrap 32 (sxt 16 e)) h tags
    · exact widen_ready 2 32 6 (fun e => roundF fmtF32 (decodeF (tyFmt t) e)) h tags

theorem execVwiden_misread (h : Ready c { rv := [a], wv := group d 2 } s) (bad : misread s.thisSeat t [a] = some q) :
    Traps s (execVwiden c d a k t s) 0x03 (formatVal s.thisSeat q) := by
  unfold execVwiden
  split
  · exact widen_misread h bad
  · split
    · exact widen_misread h bad
    · exact widen_misread h bad

theorem narrow_ready (n w : Nat) (tag : BitVec 4) (h : Ready c { rv := group a n, wv := [d] } s)
    (tags : tagFaults s.thisSeat t (group a n) = none) :
    narrow c d a k t n w tag s = .next (retire c.sw 2 (wroteV s d tag (merge w (s.thisSeat.getK k) (s.thisSeat.getV d).data
      fun i => clampS w (sxt (tyWidth t) (groupElem s.thisSeat (tyWidth t) a n i))))) := by
  simp only [narrow, issue_ready h, tags, putV_eq, finish_wroteV]

theorem narrow_misread {n w : Nat} {tag : BitVec 4} (h : Ready c { rv := group a n, wv := [d] } s)
    (bad : misread s.thisSeat t (group a n) = some q) :
    Traps s (narrow c d a k t n w tag s) 0x03 (formatVal s.thisSeat q) := by
  simp only [narrow, issue_ready h, tagFaults_of_misread bad, finish_trap]

theorem execVnarrow_ready (h : Ready c { rv := group a 2, wv := [d] } s) (tags : tagFaults s.thisSeat t (group a 2) = none) :
    execVnarrow c d a k t s = .next (retire c.sw 2
      (if t = 1 then wroteV s d 1 (merge 8 (s.thisSeat.getK k) (s.thisSeat.getV d).data fun i =>
          clampS 8 (sxt (tyWidth t) (groupElem s.thisSeat (tyWidth t) a 2 i)))
        else wroteV s d 2 (merge 16 (s.thisSeat.getK k) (s.thisSeat.getV d).data fun i =>
          clampS 16 (sxt (tyWidth t) (groupElem s.thisSeat (tyWidth t) a 2 i))))) := by
  unfold execVnarrow
  split
  · exact narrow_ready 2 8 1 h tags
  · exact narrow_ready 2 16 2 h tags

theorem execVnarrow_misread (h : Ready c { rv := group a 2, wv := [d] } s)
    (bad : misread s.thisSeat t (group a 2) = some q) : Traps s (execVnarrow c d a k t s) 0x03 (formatVal s.thisSeat q) := by
  unfold execVnarrow
  split
  · exact narrow_misread h bad
  · exact narrow_misread h bad

/-! ### Conversion and transpose -/

theorem execVcvt_ready
    (h : Ready c { rv := group a (cvtReads (s.thisSeat.getV a).tag f), wv := group d (cvtWrites (s.thisSeat.getV a).tag f) } s)
    (legal : cvtFault s.thisSeat d a f = none) :
    execVcvt c d a f k m s =
      .next (retire c.sw 2 (s.setThisSeat (cvtResult s.thisSeat d a f (s.thisSeat.getK k) (cvtMode m)))) := by
  simp only [execVcvt, issue_ready h, legal, finish_vectors (cvtResult_eq ..)]

theorem execVcvt_trap {cause : BitVec 8} {v : Word}
    (h : Ready c { rv := group a (cvtReads (s.thisSeat.getV a).tag f), wv := group d (cvtWrites (s.thisSeat.getV a).tag f) } s)
    (bad : cvtFault s.thisSeat d a f = some (.trap cause v)) : Traps s (execVcvt c d a f k m s) cause v := by
  simp only [execVcvt, issue_ready h, bad, finish_trap]

theorem execVtrW_ready (h : Ready c { rv := group a 8, wv := group d 8 } s) : ∃ u : Seat,
    execVtrW c d a f s = .next (retire c.sw 2 (s.setThisSeat u)) ∧ u = { s.thisSeat with v := u.v } ∧
    (∀ q ∉ group d 8, u.getV q = s.thisSeat.getV q) ∧
    ∀ j < 8, u.getV (d + BitVec.ofNat 4 j) = transposedReg s.thisSeat d a f j := by
  have vectors := foldl_setV_eq (fun j => d + BitVec.ofNat 4 j) (transposedReg s.thisSeat d a f) (List.range 8) s.thisSeat
  refine ⟨_, ?_, vectors, fun q hq => ?_, fun j hj => ?_⟩
  · rw [execVtrW, issue_ready h]
    exact congrArg _ (finish_vectors vectors)
  · exact getV_foldl_setV_other _ _ _ _ fun j hj e => hq (List.mem_map.2 ⟨j, hj, e.symm⟩)
  · exact getV_foldl_setV _ _ _ (group_nodup d (by decide)) (List.mem_range.2 hj)

end Ready

section Legal

variable {u : Seat} {d a f : BitVec 4}

theorem cvtFault_tag (h : (u.getV a).tag = 0 ∨ 13 ≤ (u.getV a).tag.toNat) :
    cvtFault u d a f = some (formatTrap a (u.getV a).tag) := if_pos (by simpa using h)

theorem cvtFault_named (h0 : (u.getV a).tag ≠ 0) (h13 : (u.getV a).tag.toNat < 13) :
    cvtFault u d a f =
      if a.toNat % cvtReads (u.getV a).tag f ≠ 0 then some (formatTrap a (u.getV a).tag)
      else if d.toNat % cvtWrites (u.getV a).tag f ≠ 0 then some (formatTrap d (u.getV a).tag)
      else ((group a (cvtReads (u.getV a).tag f)).find? fun v => (u.getV v).tag != (u.getV a).tag).map fun v =>
        formatTrap v (u.getV v).tag := by
  refine if_neg ?_
  rw [Bool.or_eq_true, decide_eq_true_eq, decide_eq_true_eq, not_or]
  exact ⟨h0, by omega⟩

end Legal

/-- Settles O13: a reduction, a group or a conversion is the issue of its own shape, and ends with its write or the trap. -/
theorem vectorReduceConvertResults : Obligations.VectorReduceConvertResults := by
  intro s c d a b f k m t
  refine ⟨fun h tags => ⟨execVredsum_ready h tags, ?maximum, ?minimum⟩,
    fun h tags => execVdot_ready h tags, fun h tags => execVwiden_ready h tags,
    fun h tags => widen_ready 4 32 3 (fun e => wrap 32 (sxt 8 e)) h tags, fun h tags => execVnarrow_ready h tags,
    fun h tags => narrow_ready 4 8 1 h tags, fun h legal => execVcvt_ready h legal, fun h => ?transpose,
    fun bad => ⟨fun h => ?reductions, fun h => execVwiden_misread h bad, ?quadruple⟩,
    fun q => ⟨fun bad h => execVdot_misread h bad, fun bad h => execVnarrow_misread h bad, fun bad h => narrow_misread h bad⟩,
    fun h => ⟨fun tag => ?noFormat, fun h0 h13 => ⟨fun src => ?source, fun src dst => ?destination,
      fun q src dst mixed => ?mixed⟩⟩⟩
  case quadruple =>
    dsimp only [exec, execVwiden4]
    exact fun h => widen_misread h bad
  case maximum => exact extremum_typed_ready (maxS (tyWidth t)) (maxF (tyFmt t)) (2 ^ (tyWidth t - 1)) (tyFmt t).nan h tags
  case minimum => exact extremum_typed_ready (minS (tyWidth t)) (minF (tyFmt t)) (2 ^ (tyWidth t - 1) - 1) (tyFmt t).nan h tags
  case transpose =>
    obtain ⟨u, run, vectors, others, written⟩ := execVtrW_ready (f := f) h
    refine ⟨u, run, vectors, fun q hq => others q fun hg => ?_, written⟩
    obtain ⟨j, hj, e⟩ := List.mem_map.1 hg
    exact hq j (List.mem_range.1 hj) e.symm
  case reductions =>
    dsimp only [exec, execVredmax, execVredmin]
    exact List.forall_iff_forall_mem.1 ⟨execVredsum_misread h bad, extremum_typed_misread h bad, extremum_typed_misread h bad⟩
  case noFormat =>
    exact execVcvt_trap h ((cvtFault_tag tag).trans (congrArg some (formatTrap_eq ..)))
  case source =>
    refine execVcvt_trap h ?_
    rw [cvtFault_named h0 h13, if_pos src, formatTrap_eq]
  case destination =>
    refine execVcvt_trap h ?_
    rw [cvtFault_named h0 h13, if_neg (not_not.2 src), if_pos dst, formatTrap_eq]
  case mixed =>
    refine execVcvt_trap h ?_
    rw [cvtFault_named h0 h13, if_neg (not_not.2 src), if_neg (not_not.2 dst), mixed, Option.map_some, formatTrap_eq]

end Sys2Proof.Machine
end

section
/-! What the end of an instruction leaves (R25 to R27, R109, R118, R121): a trap, an advance, a wait. -/

namespace Sys2Proof.Machine

/-! ### The machine beside its seats

A trap queues a firing, counts a firing that ends, withdraws what a killed firing waits for and tells the firmware; of the rest of
the machine the end of an instruction changes nothing. -/

/-- A core without its seats and without what a trap of one of them may change. -/
def Core.stable (k : Core) : Core :=
  { k with seats := Vector.replicate 8 {}, waiters := [], traps := [], events := [], notices := [], ended := [], seatCtl := 0 }

/-- The module without its cores and without what a trap may change: the requests, the translations that units await, the messages
to the firmware and the number of the next free value. -/
def State.stable (s : State) : State := { s with tick := 0, cores := [], asks := [], reqs := [], inbox := [] }

/-- Everything beside the seats that the end of an instruction leaves. -/
def State.machine (s : State) : State × (CoreId → Core) := (s.stable, fun c => (s.getCore c).stable)

theorem machine_of_cores {s t : State} (hs : t.stable = s.stable) (hc : ∀ c, (t.getCore c).stable = (s.getCore c).stable) :
    t.machine = s.machine := Prod.ext hs (funext hc)

section Machine

variable {α : Type} {s t : State}

/-- A field of the module that a trap may not change. -/
theorem eq_of_machine (h : t.machine = s.machine) (f : State → α) (kept : ∀ u : State, f u.stable = f u) : f t = f s := by
  have stable : t.stable = s.stable := congrArg Prod.fst h
  rw [← kept t, stable, kept s]

/-- A field of a core that a trap may not change. -/
theorem core_eq_of_machine (h : t.machine = s.machine) (f : Core → α) (kept : ∀ k : Core, f k.stable = f k) (c : CoreId) :
    f (t.getCore c) = f (s.getCore c) := by
  have stable : (t.getCore c).stable = (s.getCore c).stable := congrFun (congrArg Prod.snd h) c
  rw [← kept (t.getCore c), stable, kept (s.getCore c)]

end Machine

theorem machine_setCore (s : State) (c : CoreId) (k : Core) (h : k.stable = (s.getCore c).stable) :
    (s.setCore c k).machine = s.machine := by
  refine machine_of_cores rfl fun d => ?_
  by_cases e : d = c
  · rw [e, State.getCore_setCore, h]
  · rw [State.getCore_setCore_other s k e]

theorem Core.addEvent_stable (k : Core) (q : Queued) : (k.addEvent q).stable = k.stable := by
  unfold Core.addEvent
  split <;> rfl

theorem Core.count_stable (k : Core) (launch : Option Nat) (n : Nat) : (k.count launch n).stable = k.stable := by
  unfold Core.count
  split
  · split <;> rfl
  · rfl

theorem tget_map {α β : Type} (g : α → β) (d : α) (l : List (Nat × α)) (i : Nat) :
    tget (g d) (l.map fun e => (e.1, g e.2)) i = g (tget d l i) := by
  induction l with
  | nil => rfl
  | cons e l ih =>
    simp only [List.map_cons, tget]
    split
    · rfl
    · exact ih

/-! ### Endings -/

/-- The registers of a seat. -/
def Seat.registers (u : Seat) : Vector Word 32 × BitVec 8 × Vector VReg 16 × Vector (BitVec 1024) 4 := (u.x, u.p, u.v, u.k)

/-- What a seat has outstanding, and its assembly queues. -/
def Seat.work (u : Seat) : List Out × List Word × List Word × List Word × List Word := (u.outs, u.q0, u.q2, u.q4, u.q6)

/-- Seat `n` of core `c` goes on, waits or stops without writing a register; a trap of seat 7 ends its firing (R121). -/
structure Quiet (c : CoreId) (n : Fin 8) (s t : State) : Prop where
  machine : t.machine = s.machine
  others : ∀ d m, d ≠ c ∨ m ≠ n.val → t.seatAt d m = s.seatAt d m
  registers : (t.seatAt c n).registers = (s.seatAt c n).registers
  work : n ≠ 7 → (t.seatAt c n).work = (s.seatAt c n).work

section Quiet

variable {c : CoreId} {n : Fin 8} {s t u : State}

theorem Quiet.refl (c : CoreId) (n : Fin 8) (s : State) : Quiet c n s s := ⟨rfl, fun _ _ _ => rfl, rfl, fun _ => rfl⟩

theorem Quiet.trans (h : Quiet c n s t) (g : Quiet c n t u) : Quiet c n s u where
  machine := g.machine.trans h.machine
  others d m e := (g.others d m e).trans (h.others d m e)
  registers := g.registers.trans h.registers
  work e := (g.work e).trans (h.work e)

theorem Quiet.symm (h : Quiet c n s t) : Quiet c n t s where
  machine := h.machine.symm
  others d m e := (h.others d m e).symm
  registers := h.registers.symm
  work e := (h.work e).symm

/-- An ending that changes no seat at all. -/
theorem quiet_of_seats (hs : t.stable = s.stable) (seats : ∀ d, (t.getCore d).seats = (s.getCore d).seats)
    (stable : ∀ d, (t.getCore d).stable = (s.getCore d).stable) : Quiet c n s t := by
  have seat (d : CoreId) (m : Nat) : t.seatAt d m = s.seatAt d m := by
    rw [State.seatAt, State.seatAt, Core.getSeat, seats, Core.getSeat]
  refine ⟨machine_of_cores hs stable, fun d m _ => seat d m, by rw [seat], fun _ => by rw [seat]⟩

theorem quiet_of_cores (hs : t.stable = s.stable) (hc : t.cores = s.cores) : Quiet c n s t := by
  have core (d : CoreId) : t.getCore d = s.getCore d := by rw [State.getCore, hc, State.getCore]
  exact quiet_of_seats hs (fun d => by rw [core]) fun d => by rw [core]

theorem quiet_forget (s : State) (u : Asker) : Quiet c n s (s.forget u) := quiet_of_cores rfl rfl

theorem quiet_ticked (s : State) : Quiet c n s s.ticked := quiet_of_cores rfl rfl

theorem quiet_updCore (s : State) (d : CoreId) (f : Core → Core) (seats : (f (s.getCore d)).seats = (s.getCore d).seats)
    (stable : (f (s.getCore d)).stable = (s.getCore d).stable) : Quiet c n s (s.updCore d f) := by
  have core (e : CoreId) : (s.updCore d f).getCore e = if e = d then f (s.getCore d) else s.getCore e := by
    split
    case isTrue h => rw [h, State.getCore_updCore]
    case isFalse h => exact s.getCore_updCore_other f h
  refine quiet_of_seats rfl (fun e => ?_) fun e => ?_
  · rw [core, apply_ite Core.seats, seats]
    exact ite_eq_right_iff.2 fun h => by rw [h]
  · rw [core, apply_ite Core.stable, stable]
    exact ite_eq_right_iff.2 fun h => by rw [h]

theorem machine_updSeatAt (s : State) (c : CoreId) (n : Nat) (f : Seat → Seat) : (s.updSeatAt c n f).machine = s.machine :=
  machine_setCore s c _ rfl

theorem seatAt_updSeatAt_other (s : State) {c d : CoreId} {n m : Nat} (f : Seat → Seat) (h : d ≠ c ∨ m ≠ n) :
    (s.updSeatAt c n f).seatAt d m = s.seatAt d m := by
  by_cases e : d = c
  · subst e
    exact s.seatAt_updSeatAt_seat d f (h.resolve_left (not_not.2 rfl))
  · exact s.seatAt_updSeatAt_core n m f e

theorem quiet_updSeatAt (s : State) (c : CoreId) (n : Fin 8) (f : Seat → Seat)
    (registers : (f (s.seatAt c n)).registers = (s.seatAt c n).registers)
    (work : n ≠ 7 → (f (s.seatAt c n)).work = (s.seatAt c n).work) : Quiet c n s (s.updSeatAt c n f) where
  machine := machine_updSeatAt s c n f
  others _ _ h := seatAt_updSeatAt_other s f h
  registers := by rw [State.seatAt_updSeatAt_same s c f n.isLt, registers]
  work h := by rw [State.seatAt_updSeatAt_same s c f n.isLt, work h]

theorem quiet_updThisSeat (s : State) (f : Seat → Seat) (registers : (f s.thisSeat).registers = s.thisSeat.registers)
    (work : (f s.thisSeat).work = s.thisSeat.work) : Quiet s.core s.seat s (s.updThisSeat f) := by
  rw [← State.updSeatAt_running]
  rw [State.thisSeat_eq] at registers work
  exact quiet_updSeatAt s s.core s.seat f registers fun _ => work

theorem quiet_setThisSeat (s : State) (v : Seat) (registers : v.registers = s.thisSeat.registers)
    (work : v.work = s.thisSeat.work) : Quiet s.core s.seat s (s.setThisSeat v) :=
  quiet_updThisSeat s (fun _ => v) registers work

/-! ### Traps (R118, R121, R377) -/

theorem quiet_queueTrap (s : State) (d : CoreId) (m : Nat) (cause : BitVec 8) (regs : List Word) :
    Quiet c n s (queueTrap s d m cause regs) := by
  unfold queueTrap
  exact quiet_updCore s _ _ rfl rfl

theorem quiet_addEvent (s : State) (d : CoreId) (q : Queued) : Quiet c n s (s.updCore d fun k => k.addEvent q) :=
  quiet_updCore s d _ (Core.addEvent_seats ..) (Core.addEvent_stable ..)

theorem quiet_queueEvent (s : State) (d : CoreId) (code : BitVec 8) (x17 : Word) (rest : List Word) :
    Quiet c n s (queueEvent s d code x17 rest) := quiet_addEvent ..

theorem quiet_fenceNotice (s : State) (cox : CoreId) (kind index : Nat) : Quiet c n s (fenceNotice s cox kind index) :=
  quiet_queueEvent ..

theorem quiet_toFirmware (s : State) (basecamp : Nat) (header : Word) (regs : List Word) :
    Quiet c n s (toFirmware s basecamp header regs) := quiet_of_cores rfl rfl

/-- A core after requests of it have been withdrawn (R145). -/
def Core.unwaited (gone : List Nat) (k : Core) : Core := { k with waiters := k.waiters.filter fun w => !gone.contains w.2 }

theorem quiet_unwaited (s : State) (gone : List Nat) (rs : List Req) :
    Quiet c n s { s with reqs := rs, cores := s.cores.map fun e => (e.1, e.2.unwaited gone) } := by
  have core (d : CoreId) : tget {} (s.cores.map fun e => (e.1, e.2.unwaited gone)) d = (s.getCore d).unwaited gone :=
    tget_map (Core.unwaited gone) {} s.cores d
  refine quiet_of_seats rfl (fun d => ?_) fun d => ?_
  · exact (congrArg Core.seats (core d)).trans rfl
  · exact (congrArg Core.stable (core d)).trans rfl

theorem quiet_withdraw (s : State) (d : CoreId) (m : Nat) : Quiet c n s (withdraw s d m) := by
  unfold withdraw
  dsimp only
  split
  · exact Quiet.refl c n s
  · exact quiet_unwaited s _ _

theorem quiet_endFiring (s : State) (c : CoreId) : Quiet c 7 s (endFiring s c 7) where
  machine := by
    unfold endFiring
    exact machine_setCore _ c _ (Core.count_stable ..)
  others d m h := by
    by_cases e : d = c
    · subst e
      exact endFiring_other s d (h.resolve_left (not_not.2 rfl))
    · exact endFiring_core s 7 m e
  registers := by
    rw [show (7 : Fin 8).val = 7 from rfl, endFiring_seatAt s c (by decide)]
    rfl
  work h := absurd rfl h

theorem quiet_fenceSeatAt (s : State) (c : CoreId) : Quiet c 7 s (fenceSeatAt s c 7) := by
  unfold fenceSeatAt
  refine Quiet.trans (t := if (s.seatAt c 7).firing.isSome then killFiring s c 7 else s) ?_
    (quiet_updSeatAt _ c 7 _ rfl fun h => absurd rfl h)
  split
  · exact (quiet_withdraw s c 7).trans (quiet_endFiring _ c)
  · exact Quiet.refl c 7 s

theorem quiet_doubleTrap (s : State) (c : CoreId) : Quiet c 7 s (doubleTrap s c) := by
  have fenced := quiet_fenceSeatAt s c
  unfold doubleTrap
  dsimp only
  split
  · exact (fenced.trans (quiet_toFirmware ..)).trans (quiet_addEvent ..)
  · have noticed := fenced.trans (quiet_fenceNotice (fenceSeatAt s c 7) (coxOf c) 0 (8 * c + 7))
    split
    · exact (noticed.trans (quiet_toFirmware ..)).trans (quiet_addEvent ..)
    · exact noticed.trans (quiet_queueEvent ..)

theorem quiet_trapSeat (s : State) (c : CoreId) (n : Fin 8) (cause : BitVec 8) (val : Word) (pc rpc : Parcel) :
    Quiet c n s (trapSeat s c n cause val pc rpc) := by
  unfold trapSeat
  dsimp only
  split
  · exact quiet_updSeatAt s c n _ rfl fun _ => rfl
  · have stopped := (quiet_forget s (.seat c n)).trans (quiet_updSeatAt _ c n (fun t =>
      { t with status := .trapped, trapPc := pc, trapCause := cause.setWidth 9, trapVal := val, rpc := rpc,
               preempt := false, beyond := none }) rfl fun _ => rfl)
    split
    case isTrue h =>
      obtain rfl : n = 7 := Fin.ext h
      exact stopped.trans (quiet_doubleTrap ..)
    case isFalse h => exact stopped.trans (quiet_queueTrap ..)

theorem quiet_precise (s : State) (cause : BitVec 8) (val : Word) : Quiet s.core s.seat s (precise s cause val) :=
  quiet_trapSeat ..

end Quiet

end Sys2Proof.Machine
end

section
/-! The frame of the instructions that work on the registers of their seat (R61, R76, R108, R118, R123). -/

namespace Sys2Proof.Machine

/-! ### How an instruction retires -/

theorem switched_registers (sw : Bool) (u : Seat) : (switched sw u).registers = u.registers := by
  unfold switched
  split <;> rfl

theorem switched_work (sw : Bool) (u : Seat) : (switched sw u).work = u.work := by
  unfold switched
  split <;> rfl

theorem quiet_advance (sw : Bool) (len : Nat) (s : State) : Quiet s.core s.seat s (advance sw len s) := by
  have forgot : Quiet s.core s.seat s (s.forget s.me) := quiet_forget s s.me
  by_cases inside : s.thisSeat.pc.toNat + len ≤ 0xFFFF
  · rw [advance_inside inside]
    exact forgot.trans (quiet_setThisSeat (s.forget s.me) _ (switched_registers ..) (switched_work ..))
  · have past := Nat.not_le.1 inside
    cases parks : sw && !s.thisSeat.outs.isEmpty with
    | true =>
      rw [advance_parks past parks]
      exact forgot.trans (quiet_setThisSeat (s.forget s.me) _ rfl rfl)
    | false =>
      rw [advance_traps past parks]
      exact (forgot.trans (quiet_setThisSeat (s.forget s.me) { s.thisSeat with rpt := 0 } rfl rfl)).trans (quiet_trapSeat ..)

theorem quiet_retire (sw : Bool) (len : Nat) (s : State) : Quiet s.core s.seat s (retire sw len s) := by
  unfold retire
  split
  · split
    · exact quiet_advance ..
    · exact (quiet_forget s s.me).trans (quiet_updThisSeat (s.forget s.me) _ rfl rfl)
  · exact quiet_advance ..

theorem quiet_jump (sw : Bool) (target : BitVec 16) (s : State) : Quiet s.core s.seat s (jump sw target s) :=
  (quiet_forget s s.me).trans
    (quiet_updThisSeat (s.forget s.me) _ (switched_registers ..) (switched_work ..))

theorem quiet_blocked (s : State) : Quiet s.core s.seat s (blocked s) := quiet_updThisSeat s _ rfl rfl

/-! ### What is written -/

/-- Of a seat, only the listed registers are written, and only a move of a whole vector register writes a sidecar. -/
structure Wrote (w : Writes) (moves : Bool) (u e : Seat) : Prop where
  x : ∀ r, r ∉ w.x → e.getX r = u.getX r
  p : ∀ r, r ∉ w.p → e.getP r = u.getP r
  v : ∀ r, r ∉ w.v → e.getV r = u.getV r
  k : ∀ r, r ∉ w.k → e.getK r = u.getK r
  sidecar : moves = false → ∀ r, (e.getV r).sc = (u.getV r).sc
  work : e.work = u.work

theorem getLsbD_predicate_other : ∀ r q : BitVec 3, q ≠ r → (1#8 <<< r.toNat).getLsbD q.toNat = false := by decide

theorem Seat.getP_setP_other (u : Seat) {r q : BitVec 3} (b : Bool) (h : q ≠ r) : (u.setP r b).getP q = u.getP q := by
  have other := getLsbD_predicate_other r q h
  have bound : q.toNat < 8 := q.isLt
  unfold Seat.setP Seat.getP
  split
  · rfl
  · split
    · rfl
    · cases b
      · rw [if_neg Bool.false_ne_true, BitVec.getLsbD_and, BitVec.getLsbD_not, other]
        simp [bound]
      · rw [if_pos rfl, BitVec.getLsbD_or, other, Bool.or_false]

theorem Seat.getK_setK_other (u : Seat) {r q : BitVec 2} (m : BitVec 1024) (h : q ≠ r) : (u.setK r m).getK q = u.getK q := by
  unfold Seat.setK Seat.getK
  split
  · rfl
  · split
    · rfl
    · rw [Vector.getElem_set_ne]
      exact fun e => h (BitVec.eq_of_toNat_eq e.symm)

section Wrote

variable {w : Writes} {moves : Bool} {u e : Seat}

theorem Wrote.refl (w : Writes) (moves : Bool) (u : Seat) : Wrote w moves u u :=
  ⟨fun _ _ => rfl, fun _ _ => rfl, fun _ _ => rfl, fun _ _ => rfl, fun _ _ => rfl, rfl⟩

theorem wrote_setX (d : BitVec 5) (y : Word) : Wrote { x := [d] } moves u (u.setX d y) where
  x r h := Seat.getX_setX_other u y (List.ne_of_not_mem_cons h)
  p r _ := Seat.getP_setX ..
  v r _ := Seat.getV_setX ..
  k r _ := Seat.getK_setX ..
  sidecar _ r := by rw [Seat.getV_setX]
  work := by simp [Seat.work]

theorem wrote_setK (d : BitVec 2) (y : BitVec 1024) : Wrote { k := [d] } moves u (u.setK d y) where
  x r _ := by simp [Seat.getX]
  p r _ := by simp [Seat.getP]
  v r _ := by simp [Seat.getV]
  k r h := Seat.getK_setK_other u y (List.ne_of_not_mem_cons h)
  sidecar _ r := by simp [Seat.getV]
  work := by simp [Seat.work]

theorem wrote_setV (d : BitVec 4) (y : VReg) (h : moves = false → y.sc = (u.getV d).sc) :
    Wrote { v := [d] } moves u (u.setV d y) where
  x r _ := by simp [Seat.getX]
  p r _ := by simp [Seat.getP]
  v r h := Seat.getV_setV_other u y (List.ne_of_not_mem_cons h)
  k r _ := by simp [Seat.getK]
  sidecar m r := by
    by_cases e : r = d
    · rw [e, Seat.getV_setV, h m]
    · rw [Seat.getV_setV_other u y e]
  work := by simp [Seat.work]

theorem wrote_setP_setP (p e : BitVec 3) (b g : Bool) : Wrote { p := [p, e] } moves u ((u.setP p b).setP e g) where
  x r _ := by simp [Seat.getX]
  p r h := by
    obtain ⟨hp, he⟩ := List.ne_and_not_mem_of_not_mem_cons h
    rw [Seat.getP_setP_other _ _ (List.ne_of_not_mem_cons he), Seat.getP_setP_other _ _ hp]
  v r _ := by simp [Seat.getV]
  k r _ := by simp [Seat.getK]
  sidecar _ r := by simp [Seat.getV]
  work := by simp [Seat.work]

theorem wrote_setP (d : BitVec 3) (b : Bool) : Wrote { p := [d] } moves u (u.setP d b) where
  x r _ := by simp [Seat.getX]
  p r h := Seat.getP_setP_other u b (List.ne_of_not_mem_cons h)
  v r _ := by simp [Seat.getV]
  k r _ := by simp [Seat.getK]
  sidecar _ r := by simp [Seat.getV]
  work := by simp [Seat.work]

/-- `p7` is no bit of the predicates (R76). -/
theorem wrote_predicates (y : BitVec 8) : Wrote { p := [0, 1, 2, 3, 4, 5, 6] } moves u { u with p := y } where
  x _ _ := rfl
  p r h := by
    have seven : r = 7 := by
      revert r
      decide
    rw [seven]
    rfl
  v _ _ := rfl
  k _ _ := rfl
  sidecar _ _ := rfl
  work := rfl

/-- A group keeps the sidecars of its registers (R123, R129). -/
theorem wrote_putGroup (width : Nat) (d : BitVec 4) {n : Nat} (h : n ≤ 16) (tag : BitVec 4) (m : BitVec 1024)
    (f : Nat → Nat) : Wrote { v := group d n } moves u (putGroup u width d n tag m f u) := by
  have vectors := putGroup_eq u width d n tag m f u
  have others (r : BitVec 4) (hr : r ∉ group d n) : (putGroup u width d n tag m f u).getV r = u.getV r :=
    getV_foldl_setV_other _ _ _ _ fun j hj e => hr (List.mem_map.2 ⟨j, hj, e.symm⟩)
  refine ⟨fun r _ => ?_, fun r _ => ?_, others, fun r _ => ?_, fun _ r => ?_, ?_⟩
  · rw [vectors]
    rfl
  · rw [vectors]
    rfl
  · rw [vectors]
    rfl
  · by_cases hr : r ∈ group d n
    · obtain ⟨j, hj, rfl⟩ := List.mem_map.1 hr
      refine (congrArg VReg.sc (getV_foldl_setV _ _ u (group_nodup d h) hj)).trans ?_
      rfl
    · rw [others r hr]
  · rw [vectors]
    rfl

end Wrote

/-! ### Frames -/

/-- After an instruction the state is what it wrote to its seat, and what its ending made of that. -/
def Framed (w : Writes) (moves : Bool) (s t : State) : Prop :=
  ∃ e, Wrote w moves s.thisSeat e ∧ Quiet s.core s.seat (s.setThisSeat e) t

section Framed

variable {w : Writes} {moves : Bool} {s t u : State}

theorem framed_updThisSeat {f : Seat → Seat} (h : Wrote w moves s.thisSeat (f s.thisSeat)) :
    Framed w moves s (s.updThisSeat f) := ⟨_, h, Quiet.refl ..⟩

theorem framed_quiet (h : Quiet s.core s.seat s t) : Framed w moves s t :=
  ⟨s.thisSeat, Wrote.refl .., (quiet_setThisSeat s s.thisSeat rfl rfl).symm.trans h⟩

theorem Framed.trans (h : Framed w moves s t) (g : Quiet t.core t.seat t u) : Framed w moves s u := by
  obtain ⟨e, wrote, quiet⟩ := h
  have core : t.core = s.core := eq_of_machine quiet.machine State.core fun _ => rfl
  have seat : t.seat = s.seat := eq_of_machine quiet.machine State.seat fun _ => rfl
  rw [core, seat] at g
  exact ⟨e, wrote, quiet.trans g⟩

theorem Framed.machine (h : Framed w moves s t) : t.machine = s.machine := by
  obtain ⟨e, -, quiet⟩ := h
  exact quiet.machine.trans (machine_setCore s s.core _ rfl)

theorem Framed.others (h : Framed w moves s t) {c : CoreId} {n : Nat} (other : c ≠ s.core ∨ n ≠ s.seat.val) :
    t.seatAt c n = s.seatAt c n := by
  obtain ⟨e, -, quiet⟩ := h
  have before : (s.updThisSeat fun _ => e).seatAt c n = s.seatAt c n := by
    rw [← State.updSeatAt_running, seatAt_updSeatAt_other s _ other]
  exact (quiet.others c n other).trans before

theorem Framed.seat (h : Framed w moves s t) : ∃ e, Wrote w moves s.thisSeat e ∧
    (t.seatAt s.core s.seat.val).registers = e.registers ∧ (s.seat ≠ 7 → (t.seatAt s.core s.seat.val).work = e.work) := by
  obtain ⟨e, wrote, quiet⟩ := h
  have written : (s.setThisSeat e).seatAt s.core s.seat.val = e :=
    (s.setThisSeat e).thisSeat_eq.symm.trans (s.thisSeat_setThisSeat e)
  refine ⟨e, wrote, ?_, fun h => ?_⟩
  · rw [quiet.registers, written]
  · rw [quiet.work h, written]

end Framed

end Sys2Proof.Machine
end

section
/-! The frame of each instruction that works on the registers of its seat alone. -/

namespace Sys2Proof.Machine

/-! ### Effects and results -/

/-- What the effect of an instruction has written, where it does not end by a state of its own. -/
def Act.Frames (w : Writes) (moves : Bool) (s : State) : Act → Prop
  | .next t | .goto t _ => Framed w moves s t
  | .trap .. | .block => True
  | .trapIn .. | .walk _ | .stop _ => False

/-- The next state, where there is one, differs from the state by what the instruction writes. -/
def Frames (w : Writes) (moves : Bool) (s : State) (r : Result) : Prop := ∀ t, r = .next t → Framed w moves s t

section Shapes

variable {w : Writes} {moves : Bool} {s : State}

theorem frames_next {t : State} (h : Framed w moves s t) : Frames w moves s (.next t) := by
  rintro u run
  cases run
  exact h

theorem finish_framed {sw : Bool} {len : Nat} {a : Act} (h : a.Frames w moves s) : Framed w moves s (finish sw len s a) := by
  cases a with
  | next t =>
    rw [finish]
    split
    · exact framed_quiet (quiet_blocked s)
    · exact h.trans (quiet_retire ..)
  | goto t target => exact h.trans (quiet_jump ..)
  | trap cause val => exact framed_quiet ((quiet_ticked s).trans (quiet_precise s.ticked cause val))
  | block => exact framed_quiet (quiet_blocked s)
  | trapIn | walk | stop => exact h.elim

theorem issue_frames {c : Ctl} {len : Nat} {u : Uses} {body : State → Act} (h : (body s).Frames w moves s) :
    Frames w moves s (issue c len u body s) := by
  intro t run
  obtain rfl | rfl | ⟨r, rfl⟩ | rfl := issue_cases run
  · exact framed_quiet (quiet_blocked s)
  · exact framed_quiet (quiet_retire ..)
  · exact framed_quiet (quiet_precise ..)
  · exact finish_framed h

theorem putX_frames (d : BitVec 5) (y : Word) : (putX s d y).Frames { x := [d] } moves s :=
  framed_updThisSeat (wrote_setX d y)

theorem putV_frames (d tag : BitVec 4) (y : BitVec 4096) : (putV s d tag y).Frames { v := [d] } moves s :=
  framed_updThisSeat (wrote_setV d _ fun _ => rfl)

theorem putK_frames (d : BitVec 2) (y : BitVec 1024) : (putK s d y).Frames { k := [d] } moves s :=
  framed_updThisSeat (wrote_setK d y)

theorem putCond_frames (p e : BitVec 3) (b : Bool) : (putCond s p e b).Frames { p := [p, e] } moves s :=
  framed_updThisSeat (wrote_setP_setP p e b (!b))

/-! ### Integer and floating-point instructions -/

theorem alu_frames {c : Ctl} {len : Nat} {d a b : BitVec 5} {f : Word → Word → Word} :
    Frames { x := [d] } moves s (alu c len d a b f s) := issue_frames (putX_frames ..)

theorem alu1_frames {c : Ctl} {len : Nat} {d a : BitVec 5} {f : Word → Word} :
    Frames { x := [d] } moves s (alu1 c len d a f s) := issue_frames (putX_frames ..)

theorem alu3_frames {c : Ctl} {len : Nat} {d a b : BitVec 5} {f : Word → Word → Word → Word} :
    Frames { x := [d] } moves s (alu3 c len d a b f s) := issue_frames (putX_frames ..)

theorem aluImm_frames {c : Ctl} {len : Nat} {d : BitVec 5} {y : Word} :
    Frames { x := [d] } moves s (aluImm c len d y s) := issue_frames (putX_frames ..)

theorem fp2_frames {c : Ctl} {d a b : BitVec 5} {t : BitVec 2} {op : FFmt → Nat → Nat → Nat} :
    Frames { x := [d] } moves s (fp2 c d a b t op s) := by
  dsimp only [fp2]
  exact issue_frames (putX_frames ..)

theorem fp1_frames {c : Ctl} {d a : BitVec 5} {t : BitVec 2} {op : FFmt → Nat → Nat} :
    Frames { x := [d] } moves s (fp1 c d a t op s) := by
  dsimp only [fp1]
  exact issue_frames (putX_frames ..)

theorem conv_frames {c : Ctl} {d a : BitVec 5} {op : Word → Word} :
    Frames { x := [d] } moves s (conv c d a op s) := issue_frames (putX_frames ..)

/-! ### Compares, predicates and branches -/

theorem cmpReg_frames {c : Ctl} {p e : BitVec 3} {a b : BitVec 5} {f : Word → Word → Bool} :
    Frames { p := [p, e] } moves s (cmpReg c p e a b f s) := issue_frames (putCond_frames ..)

theorem cmpFloat_frames {c : Ctl} {p e : BitVec 3} {a b : BitVec 5} {t : BitVec 2} {k : FCond} :
    Frames { p := [p, e] } moves s (cmpFloat c p e a b t k s) := by
  unfold cmpFloat
  exact cmpReg_frames

theorem cmpImm_frames {c : Ctl} {p e : BitVec 3} {a : BitVec 5} {i : BitVec 6} {f : Word → Word → Bool} :
    Frames { p := [p, e] } moves s (cmpImm c p e a i f s) := issue_frames (putCond_frames ..)

theorem predOp_frames {c : Ctl} {d a b : BitVec 3} {f : Bool → Bool → Bool} :
    Frames { p := [d] } moves s (predOp c d a b f s) := issue_frames (framed_updThisSeat (wrote_setP d _))

theorem branchTo_cases (s : State) (target : Int) :
    (∃ a, branchTo s target = .goto s a) ∨ ∃ v, branchTo s target = .trap 0x01 v := by
  unfold branchTo
  split
  · exact .inl ⟨_, rfl⟩
  · exact .inr ⟨_, rfl⟩

theorem branchReg_cases (s : State) (a : BitVec 5) :
    (∃ b, branchReg s a = .goto s b) ∨ ∃ v, branchReg s a = .trap 0x01 v := by
  unfold branchReg
  dsimp only
  split
  · exact branchTo_cases ..
  · exact .inr ⟨_, rfl⟩

theorem branch_frames {act : Act} (h : (∃ a, act = .goto s a) ∨ ∃ v, act = .trap 0x01 v) : act.Frames {} moves s := by
  obtain ⟨a, rfl⟩ | ⟨v, rfl⟩ := h
  · exact framed_quiet (Quiet.refl ..)
  · trivial

theorem linked_frames {act : Act} (h : (∃ a, act = .goto s a) ∨ ∃ v, act = .trap 0x01 v) (len : Nat) :
    (linked len s act).Frames { x := [31] } moves s := by
  obtain ⟨a, rfl⟩ | ⟨v, rfl⟩ := h
  · exact framed_updThisSeat (wrote_setX 31 _)
  · trivial

/-! ### Tables -/

theorem withRing_frames {x : Word} {f : Nat → Port → Act} (h : ∀ n p, (f n p).Frames w moves s) :
    (withRing s x f).Frames w moves s := by
  unfold withRing
  dsimp only
  split
  · trivial
  · split
    · exact h ..
    · trivial

theorem withRank_frames {x : Word} {f : BitVec 16 → Act} (h : ∀ r, (f r).Frames w moves s) :
    (withRank x f).Frames w moves s := by
  unfold withRank
  split
  · trivial
  · exact h _

theorem execPortRd_frames {c : Ctl} {d a : BitVec 5} : Frames { x := [d] } moves s (execPortRd c d a s) := by
  unfold execPortRd
  refine issue_frames ?_
  dsimp only
  split
  · trivial
  · exact putX_frames ..

theorem execRingWait_frames {c : Ctl} {d a : BitVec 5} : Frames { x := [d] } moves s (execRingWait c d a s) := by
  unfold execRingWait
  refine issue_frames (withRing_frames fun n p => ?_)
  split
  · trivial
  · exact putX_frames ..

/-! ### Vector instructions -/

theorem lanes2_frames {c : Ctl} {d a b : BitVec 4} {k : BitVec 2} {t : BitVec 3} {f : Nat → Nat → Nat} :
    Frames { v := [d] } moves s (lanes2 c d a b k t f s) := by
  unfold lanes2
  refine issue_frames ?_
  dsimp only
  split
  · trivial
  · exact putV_frames ..

theorem lanes1_frames {c : Ctl} {d a : BitVec 4} {k : BitVec 2} {t : BitVec 3} {f : Nat → Nat} :
    Frames { v := [d] } moves s (lanes1 c d a k t f s) := by
  unfold lanes1
  refine issue_frames ?_
  dsimp only
  split
  · trivial
  · exact putV_frames ..

theorem lanes3_frames {c : Ctl} {d a b : BitVec 4} {k : BitVec 2} {t : BitVec 3} {f : Nat → Nat → Nat → Nat} :
    Frames { v := [d] } moves s (lanes3 c d a b k t f s) := by
  unfold lanes3
  refine issue_frames ?_
  dsimp only
  split
  · trivial
  · exact putV_frames ..

theorem lanesRaw_frames {c : Ctl} {d a b : BitVec 4} {k : BitVec 2} {f : Nat → Nat → Nat} :
    Frames { v := [d] } moves s (lanesRaw c d a b k f s) := issue_frames (putV_frames ..)

theorem vcmp_frames {c : Ctl} {d : BitVec 2} {a b : BitVec 4} {k : BitVec 2} {t : BitVec 3} {f : VCond} :
    Frames { k := [d] } moves s (vcmp c d a b k t f s) := by
  unfold vcmp
  refine issue_frames ?_
  dsimp only
  split
  · trivial
  · exact putK_frames ..

theorem execVredsum_frames {c : Ctl} {d a : BitVec 4} {k : BitVec 2} {t : BitVec 3} :
    Frames { v := [d] } moves s (execVredsum c d a k t s) := by
  unfold execVredsum
  refine issue_frames ?_
  dsimp only
  split
  · trivial
  · exact putV_frames ..

theorem extremum_frames {c : Ctl} {d a : BitVec 4} {k : BitVec 2} {t : BitVec 3} {f : Nat → Nat → Nat} {unit : Nat} :
    Frames { v := [d] } moves s (extremum c d a k t f unit s) := by
  unfold extremum
  refine issue_frames ?_
  dsimp only
  split
  · trivial
  · exact putV_frames ..

theorem execVdot_frames {c : Ctl} {d a b : BitVec 4} {k : BitVec 2} {t : BitVec 3} :
    Frames { v := [d] } moves s (execVdot c d a b k t s) := by
  unfold execVdot
  refine issue_frames ?_
  dsimp only
  split
  · trivial
  · exact putV_frames ..

theorem widen_frames {c : Ctl} {d a : BitVec 4} {k : BitVec 2} {t : BitVec 3} {n width : Nat} (h : n ≤ 16) {tag : BitVec 4}
    {f : Nat → Nat} :
    Frames { v := group d n } moves s (widen c d a k t n width tag f s) := by
  unfold widen
  refine issue_frames ?_
  dsimp only
  split
  · trivial
  · exact framed_updThisSeat (wrote_putGroup _ d h ..)

theorem narrow_frames {c : Ctl} {d a : BitVec 4} {k : BitVec 2} {t : BitVec 3} {n width : Nat} {tag : BitVec 4} :
    Frames { v := [d] } moves s (narrow c d a k t n width tag s) := by
  unfold narrow
  refine issue_frames ?_
  dsimp only
  split
  · trivial
  · exact putV_frames ..

theorem execVext_frames {c : Ctl} {d : BitVec 4} {a i : BitVec 5} {t : BitVec 3} :
    Frames { x := [a] } moves s (execVext c d a i t s) := by
  unfold execVext
  refine issue_frames ?_
  dsimp only
  split
  · trivial
  · exact putX_frames ..

theorem execVins_frames {c : Ctl} {d : BitVec 4} {a i : BitVec 5} {t : BitVec 3} :
    Frames { v := [d] } moves s (execVins c d a i t s) := by
  unfold execVins
  refine issue_frames ?_
  dsimp only
  split
  · trivial
  · exact putV_frames ..

theorem execVredmax_frames {c : Ctl} {d a : BitVec 4} {k : BitVec 2} {t : BitVec 3} :
    Frames { v := [d] } moves s (execVredmax c d a k t s) := by
  unfold execVredmax
  split <;> exact extremum_frames

theorem execVredmin_frames {c : Ctl} {d a : BitVec 4} {k : BitVec 2} {t : BitVec 3} :
    Frames { v := [d] } moves s (execVredmin c d a k t s) := by
  unfold execVredmin
  split <;> exact extremum_frames

theorem execVwiden_frames {c : Ctl} {d a : BitVec 4} {k : BitVec 2} {t : BitVec 3} :
    Frames { v := group d 2 } moves s (execVwiden c d a k t s) := by
  unfold execVwiden
  split
  · exact widen_frames (by decide)
  · split <;> exact widen_frames (by decide)

theorem execVnarrow_frames {c : Ctl} {d a : BitVec 4} {k : BitVec 2} {t : BitVec 3} :
    Frames { v := [d] } moves s (execVnarrow c d a k t s) := by
  unfold execVnarrow
  split <;> exact narrow_frames

theorem maskOp_frames {c : Ctl} {d a b : BitVec 2} {f : BitVec 1024 → BitVec 1024 → BitVec 1024} :
    Frames { k := [d] } moves s (maskOp c d a b f s) := issue_frames (putK_frames ..)

/-! ### Repeats (R25, R26) -/

theorem execRpt_frames {n : BitVec 10} {sd sa sb sm : Bool} : Frames w moves s (execRpt n sd sa sb sm s) := by
  have traps (cause : BitVec 8) (val : Word) (pc rpc : Parcel) :
      Framed w moves s (trapSeat s s.core s.seat.val cause val pc rpc) := framed_quiet (quiet_trapSeat ..)
  have begins (count : BitVec 11) : Framed w moves s (s.updThisSeat fun t => { t with rpt := count }) :=
    framed_quiet (quiet_updThisSeat s _ rfl rfl)
  unfold execRpt
  refine frames_next ?_
  dsimp only
  (repeat' split)
  on_goal 9 => exact begins _
  all_goals exact traps ..

end Shapes

/-! ### Every instruction -/

/-- A move of a whole vector register, with its sidecar (R131, R136). -/
def movesSidecar : Instr → Bool
  | .vmov .. | .vtag .. => true
  | _ => false

theorem movesSidecar_false {i : Instr} (vmov : ∀ c d a, i ≠ .vmov c d a) (vtag : ∀ c d a f, i ≠ .vtag c d a f) :
    movesSidecar i = false := by
  unfold movesSidecar
  split
  · exact (vmov _ _ _ rfl).elim
  · exact (vtag _ _ _ _ rfl).elim
  · rfl

theorem exec_frames {i : Instr} {w : Writes} (h : writesOf i = some w) (s : State) :
    Frames w (movesSidecar i) s (exec i s) := by
  cases i with
  | add | sub | and | or | xor | andn | orn | xnor | sll | srl | sra | rol | ror | min | max | minu | maxu | addw | subw | mul
    | mulhi | mulhiu | mul32 | div | divu | rem | remu | bfx | bfxs | hMov | hAdd | hSub | hAnd | hOr | hXor =>
    cases h
    dsimp only [exec]
    exact alu_frames
  | lzc | tzc | ones | bswap | extsB | extsH | extsW | extzW | addi | andi | ori | xori | slli | srli | srai | rori | tag |
    lis | hAddi | hSll | hSrl | hSra =>
    cases h
    dsimp only [exec]
    exact alu1_frames
  | bfi =>
    cases h
    dsimp only [exec]
    exact alu3_frames
  | li | hLi =>
    cases h
    dsimp only [exec]
    exact aluImm_frames
  | fadd | fsub | fmul | fdiv | fmin | fmax | fsgnCp | fsgnNeg | fsgnXor =>
    cases h
    dsimp only [exec]
    exact fp2_frames
  | fsqrt | fclass | frint =>
    cases h
    dsimp only [exec]
    exact fp1_frames
  | fma =>
    cases h
    dsimp only [exec, execFma]
    exact issue_frames (putX_frames ..)
  | cvtF32F16 | cvtF32Bf16 | cvtF16F32 | cvtBf16F32 | cvtF32W | cvtF32Wu | cvtWF32 | cvtWuF32 | cvtWF32Rz
    | cvtWuF32Rz =>
    cases h
    dsimp only [exec]
    exact conv_frames
  | cmpEq | cmpNe | cmpLt | cmpGe | cmpLtu | cmpGeu | cmpLe | cmpGt | cmpLeu | cmpGtu | cmpTst =>
    cases h
    dsimp only [exec]
    exact cmpReg_frames
  | cmpEqFloat | cmpLtFloat | cmpLeFloat | cmpUnFloat =>
    cases h
    dsimp only [exec]
    exact cmpFloat_frames
  | cmpEqImm | cmpNeImm | cmpLtImm | cmpGeImm | cmpLtuImm | cmpGeuImm | cmpLeImm | cmpGtImm =>
    cases h
    dsimp only [exec]
    exact cmpImm_frames
  | pand | por | pxor | pandn | porn | pnot =>
    cases h
    dsimp only [exec]
    exact predOp_frames
  | pget | myrank =>
    cases h
    dsimp only [exec]
    exact issue_frames (putX_frames ..)
  | pset =>
    cases h
    dsimp only [exec]
    exact issue_frames (framed_updThisSeat (wrote_predicates _))
  | br | hBr | hBp =>
    cases h
    dsimp only [exec]
    exact issue_frames (branch_frames (branchTo_cases ..))
  | jr =>
    cases h
    dsimp only [exec]
    exact issue_frames (branch_frames (branchReg_cases ..))
  | call =>
    cases h
    dsimp only [exec]
    exact issue_frames (linked_frames (branchTo_cases ..) 2)
  | callr =>
    cases h
    dsimp only [exec]
    exact issue_frames (linked_frames (branchReg_cases ..) 2)
  | nop | hNop =>
    cases h
    dsimp only [exec]
    exact issue_frames (framed_quiet (Quiet.refl ..))
  | brk | trap =>
    cases h
    dsimp only [exec]
    exact issue_frames trivial
  | rpt =>
    cases h
    dsimp only [exec]
    exact execRpt_frames
  | portRd =>
    cases h
    dsimp only [exec]
    exact execPortRd_frames
  | ringHd | ringTl =>
    cases h
    dsimp only [exec]
    exact issue_frames (withRing_frames fun _ _ => putX_frames ..)
  | ringWait =>
    cases h
    dsimp only [exec]
    exact execRingWait_frames
  | rankRd =>
    cases h
    dsimp only [exec]
    exact issue_frames (withRank_frames fun _ => putX_frames ..)
  | vaddInt | vsubInt | vmulInt | vminInt | vmaxInt | vminu | vmaxu | vadds | vaddFloat | vsubFloat | vmulFloat
    | vminFloat | vmaxFloat | vdiv | vsll | vsrl | vsra =>
    cases h
    dsimp only [exec]
    exact lanes2_frames
  | vfma =>
    cases h
    dsimp only [exec]
    exact lanes3_frames
  | vsqrt =>
    cases h
    dsimp only [exec]
    exact lanes1_frames
  | vand | vor | vxor | vandn =>
    cases h
    dsimp only [exec]
    exact lanesRaw_frames
  | vsel | vbcast =>
    cases h
    dsimp only [exec]
    exact issue_frames (putV_frames ..)
  | vcmpEq | vcmpNe | vcmpLt | vcmpLe | vcmpLtu | vcmpLeu | vcmpUn =>
    cases h
    dsimp only [exec]
    exact vcmp_frames
  | vredsum =>
    cases h
    dsimp only [exec]
    exact execVredsum_frames
  | vredmax =>
    cases h
    dsimp only [exec]
    exact execVredmax_frames
  | vredmin =>
    cases h
    dsimp only [exec]
    exact execVredmin_frames
  | vdot =>
    cases h
    dsimp only [exec]
    exact execVdot_frames
  | vwiden =>
    cases h
    dsimp only [exec]
    exact execVwiden_frames
  | vwiden4 =>
    cases h
    dsimp only [exec]
    exact widen_frames (by decide)
  | vnarrow =>
    cases h
    dsimp only [exec]
    exact execVnarrow_frames
  | vnarrow4 =>
    cases h
    dsimp only [exec]
    exact narrow_frames
  | vext =>
    cases h
    dsimp only [exec]
    exact execVext_frames
  | vins =>
    cases h
    dsimp only [exec]
    exact execVins_frames
  | vmov | vtag =>
    cases h
    dsimp only [exec]
    exact issue_frames (framed_updThisSeat (wrote_setV _ _ fun fixed => nomatch fixed))
  | kand | kor | kxor | knot =>
    cases h
    dsimp only [exec]
    exact maskOp_frames
  | _ => cases h

/-! ### What a frame says -/

theorem Place.read_of_machine {s t : State} (h : t.machine = s.machine) (n : Nat) (p : Place) : p.read t n = p.read s n := by
  cases p with
  | sp c a => rw [Place.read, Place.read, core_eq_of_machine h Core.sp fun _ => rfl]
  | ws g a =>
    rw [Place.read, Place.read, State.getCluster, State.getCluster, eq_of_machine h State.clusters fun _ => rfl]
  | co p a => rw [Place.read, Place.read, eq_of_machine h State.co fun _ => rfl]
  | hbm a msa => rw [Place.read, Place.read, eq_of_machine h State.hbm fun _ => rfl]
  | walker page => rfl

section Registers

variable {u e : Seat} (h : e.registers = u.registers)
include h

theorem getX_of_registers (r : BitVec 5) : e.getX r = u.getX r := by
  have x : e.x = u.x := congrArg (·.1) h
  rw [Seat.getX, Seat.getX, x]

theorem getP_of_registers (r : BitVec 3) : e.getP r = u.getP r := by
  have p : e.p = u.p := congrArg (·.2.1) h
  rw [Seat.getP, Seat.getP, p]

theorem getV_of_registers (r : BitVec 4) : e.getV r = u.getV r := by
  have v : e.v = u.v := congrArg (·.2.2.1) h
  rw [Seat.getV, Seat.getV, v]

theorem getK_of_registers (r : BitVec 2) : e.getK r = u.getK r := by
  have k : e.k = u.k := congrArg (·.2.2.2) h
  rw [Seat.getK, Seat.getK, k]

end Registers

theorem work_iff (u e : Seat) : e.work = u.work ↔ e.outs = u.outs ∧ e.q0 = u.q0 ∧ e.q2 = u.q2 ∧ e.q4 = u.q4 ∧ e.q6 = u.q6 := by
  simp only [Seat.work, Prod.mk.injEq]

/-- Settles O51: a listed instruction writes its registers to its seat and ends by what `Quiet` allows. -/
theorem registerInstructionFrame : Obligations.RegisterInstructionFrame := by
  intro i w s t listed run
  have framed := exec_frames listed s t run
  obtain ⟨e, wrote, registers, work⟩ := framed.seat
  have system {α : Type} (f : State → α) (kept : ∀ u : State, f u.stable = f u) : f t = f s :=
    eq_of_machine framed.machine f kept
  refine ⟨fun r hr => ?_, fun r hr => ?_, fun r hr => ?_, fun r hr => ?_, fun vmov vtag r => ?_, fun c n other => ?_,
    fun h => ?_, Place.read_of_machine framed.machine 1, fun c => ?cores, system State.ranks fun _ => rfl, system State.groups fun _ => rfl,
    system State.codec fun _ => rfl, system State.netSel fun _ => rfl, system State.escape fun _ => rfl,
    system State.sealed fun _ => rfl, system State.l2cfg fun _ => rfl, system State.l2pmap fun _ => rfl,
    system State.l2co fun _ => rfl, system State.powcap fun _ => rfl, system State.pstate fun _ => rfl,
    system State.clusters fun _ => rfl, system State.chiplets fun _ => rfl, system State.net fun _ => rfl⟩
  · rw [getX_of_registers registers, wrote.x r hr]
  · rw [getP_of_registers registers, wrote.p r hr]
  · rw [getK_of_registers registers, wrote.k r hr]
  · rw [getV_of_registers registers, wrote.v r hr]
  · rw [getV_of_registers registers, wrote.sidecar (movesSidecar_false vmov vtag)]
  · rw [framed.others other]
    exact ⟨rfl, rfl, rfl, rfl, rfl⟩
  · exact (work_iff _ _).1 ((work h).trans wrote.work)
  case cores =>
    have core {α : Type} (f : Core → α) (kept : ∀ k : Core, f k.stable = f k) : f (t.getCore c) = f (s.getCore c) :=
      core_eq_of_machine framed.machine f kept c
    exact ⟨core Core.dbgCtl fun _ => rfl, core Core.ttRoot fun _ => rfl, core Core.tretCtl fun _ => rfl,
      core Core.bivBase fun _ => rfl, core Core.ctxBase fun _ => rfl, core Core.ovfCfg fun _ => rfl,
      core Core.ovfHead fun _ => rfl, core Core.ovfTail fun _ => rfl, core Core.sliceLen fun _ => rfl, core Core.shell fun _ => rfl, core Core.q1 fun _ => rfl,
      core Core.q3 fun _ => rfl, core Core.q6 fun _ => rfl, core Core.q7 fun _ => rfl, core Core.ports fun _ => rfl,
      core Core.patterns fun _ => rfl, core Core.trees fun _ => rfl, core Core.combine fun _ => rfl, core Core.code fun _ => rfl,
      core Core.start fun _ => rfl, core Core.handlers fun _ => rfl, core Core.full fun _ => rfl⟩

end Sys2Proof.Machine
end

section
/-! The results of the integer, immediate and predicate instructions (R79 to R83, R86). -/

namespace Sys2Proof.Machine

section Ready

variable {c : Ctl} {len : Nat} {u : Uses} {s s' : State} (body : State → Act) (h : Ready c u s)

include h

/-- An effect that raises no `OUT` ends by `retire`. -/
theorem next_ready (effect : body s = .next s') (out : s'.thisSeat.outs = s.thisSeat.outs) :
    issue c len u body s = .next (retire c.sw len s') :=
  (issue_ready h).trans (ends_next effect (congrArg List.length out))

theorem trap_ready {cause : BitVec 8} {v : Word} (trap : body s = .trap cause v) : Traps s (issue c len u body s) cause v :=
  (issue_ready h).trans (ends_trapped trap)

end Ready

theorem alu3_ready (f : Word → Word → Word → Word) {c : Ctl} {len : Nat} {d a b : BitVec 5} {s : State}
    (h : Ready c { rx := [a, b, d], wx := [d] } s) : alu3 c len d a b f s =
      .next (retire c.sw len (wroteX s d (f (s.thisSeat.getX d) (s.thisSeat.getX a) (s.thisSeat.getX b)))) := by
  rw [alu3, issue_ready h, putX_eq, finish_wroteX]

theorem predOp_ready (f : Bool → Bool → Bool) {c : Ctl} {d a b : BitVec 3} {s : State}
    (h : Ready c { rp := [a, b], wp := [d] } s) :
    predOp c d a b f s = .next (retire c.sw 2 (wroteP s d (f (s.thisSeat.getP a) (s.thisSeat.getP b)))) := by
  rw [predOp, issue_ready h]
  simp only [State.updThisSeat]
  exact congrArg _ (finish_wroteP s d (f (s.thisSeat.getP a) (s.thisSeat.getP b)))

/-- Settles O1: each instruction is an `alu` of its own function. -/
theorem integerRegisterResults : Obligations.IntegerRegisterResults := by
  intro s c d a b h
  exact ⟨alu_ready (· + ·) h, alu_ready (· - ·) h, alu_ready (· &&& ·) h, alu_ready (· ||| ·) h, alu_ready (· ^^^ ·) h,
    alu_ready andnW h, alu_ready ornW h, alu_ready xnorW h, alu_ready sllW h, alu_ready srlW h, alu_ready sraW h,
    alu_ready rolW h, alu_ready rorW h, alu_ready minW h, alu_ready maxW h, alu_ready minuW h, alu_ready maxuW h,
    alu_ready addwW h, alu_ready subwW h⟩

/-- Settles O2: each instruction is an `alu` or an `alu1` of its own function, in the words of R80. -/
theorem multiplyDivideCountResults : Obligations.MultiplyDivideCountResults := by
  intro s c d a b
  refine ⟨fun h => ⟨alu_ready (· * ·) h, alu_ready mulhiW h, alu_ready mulhiuW h, ?mul32, ?div, ?divu, ?rem, ?remu⟩,
    fun h => ⟨alu1_ready lzcW h, alu1_ready tzcW h, ?ones, alu1_ready bswapW h, alu1_ready (sext 8) h, alu1_ready (sext 16) h,
      alu1_ready (sext 32) h, ?extz⟩⟩
  case mul32 => rw [← mul32W_eq]; exact alu_ready mul32W h
  case div => rw [← divW_eq]; exact alu_ready divW h
  case divu => rw [← divuW_eq]; exact alu_ready divuW h
  case rem => rw [← remW_eq]; exact alu_ready remW h
  case remu => rw [← remuW_eq]; exact alu_ready remuW h
  case ones => rw [← onesW_eq]; exact alu1_ready onesW h
  case extz => rw [← extzW_eq]; exact alu1_ready (fun x => BitVec.ofNat 64 (fld x 31 0)) h

/-- Settles O3: each instruction is an `alu1`, an `alu`, an `alu3` or an `aluImm` of its own function. -/
theorem immediateAndFieldResults : Obligations.ImmediateAndFieldResults := by
  intro s c d a b i h sp n
  refine ⟨fun r => ⟨alu1_ready (· + simm i) r, alu1_ready (· &&& simm i) r, alu1_ready (· ||| simm i) r,
    alu1_ready (· ^^^ simm i) r, ?slli, ?srli, ?srai, ?rori, ?tag⟩, fun r => aluImm_ready r, fun r => alu1_ready (lisW n) r,
    fun r => ⟨alu_ready extractField r, ?bfxs⟩, fun r => ?bfi⟩
  case slli => rw [← shiftCount_uimm]; exact alu1_ready (sllW · (uimm h)) r
  case srli => rw [← shiftCount_uimm]; exact alu1_ready (srlW · (uimm h)) r
  case srai => rw [← shiftCount_uimm]; exact alu1_ready (sraW · (uimm h)) r
  case rori => rw [← shiftCount_uimm]; exact alu1_ready (rorW · (uimm h)) r
  case tag => exact alu1_ready (tagW sp) r
  case bfxs => exact (alu_ready extractFieldS r).trans (by rw [extractFieldS_eq]; rfl)
  case bfi => 
    exact (alu3_ready insertField r).trans (by rw [insertField_eq]; rfl)

/-- The byte of the predicates, with p7 as 1 (R35). -/
def predByte (t : Seat) : BitVec 8 := t.p ||| 0x80

theorem getLsbD_predByte (t : Seat) (n : BitVec 3) : (predByte t).getLsbD n.toNat = t.getP n := by
  have p7 : ∀ n : BitVec 3, (0x80 : BitVec 8).getLsbD n.toNat = decide (n = 7) := by decide
  rw [predByte, BitVec.getLsbD_or, p7, Seat.getP]
  by_cases h : n = 7
  · simp [h]
  · rw [if_neg h, decide_eq_false h, Bool.or_false]

theorem predBits_eq (t : Seat) : predBits t = (predByte t).setWidth 64 := by
  have digit (i : Nat) (h : i < 8) : (t.getP (BitVec.ofNat 3 i)).toNat = (predByte t).toNat / 2 ^ (1 * i) % 2 ^ 1 := by
    rw [← getLsbD_predByte, BitVec.toNat_ofNat, Nat.mod_eq_of_lt (b := 2 ^ 3) h, BitVec.getLsbD, Nat.toNat_testBit, Nat.one_mul, Nat.pow_one]
  have digits : (List.range 8).map (fun i => (t.getP (BitVec.ofNat 3 i)).toNat) =
      (List.range 8).map fun i => (predByte t).toNat / 2 ^ (1 * i) % 2 ^ 1 :=
    List.map_congr_left fun i hi => digit i (List.mem_range.1 hi)
  rw [predBits, digits, pack_digits, Nat.mod_eq_of_lt (predByte t).isLt, BitVec.ofNat_toNat]

/-- Settles O6: the logic is `predOp` of each function; `pget` and `pset` move the byte of the predicates. -/
theorem predicateResults : Obligations.PredicateResults := by
  intro s c d a b x
  refine ⟨fun h => ⟨predOp_ready (· && ·) h, predOp_ready (· || ·) h, predOp_ready (· != ·) h,
    predOp_ready (fun p q => p && !q) h, predOp_ready (fun p q => p || !q) h⟩, fun h => predOp_ready (fun p _ => !p) h,
    fun h => ⟨predBits s.thisSeat, ?get, ?_⟩, fun h => ⟨(s.thisSeat.getX x).setWidth 8 &&& 0x7F, ?set, fun n hn => ?_⟩⟩
  case get => exact next_ready (fun s => putX s x (predBits s.thisSeat)) h rfl (by simp)
  case set =>
    exact next_ready (fun s => .next (s.updThisSeat fun t => { t with p := (t.getX x).setWidth 8 &&& 0x7F })) h rfl (by simp)
  · rw [predBits_eq]
    refine ⟨?_, fun n => ?_⟩
    · rw [BitVec.toNat_setWidth_of_le (by decide)]
      exact (predByte s.thisSeat).isLt
    · rw [BitVec.getLsbD_setWidth, getLsbD_predByte, decide_eq_true (by omega), Bool.true_and]
  · have mask : ∀ n < 7, (0x7F : BitVec 8).getLsbD n = true := by decide
    rw [BitVec.getLsbD_and, BitVec.getLsbD_setWidth, mask n hn, decide_eq_true (by omega), Bool.true_and, Bool.and_true]

end Sys2Proof.Machine
end

section
/-! Branches, the end of a firing and the hardwired registers (R76, R87 to R89, R108, R127, R326). -/

namespace Sys2Proof.Machine

/-! ### Branches -/

/-- A branch may go to a parcel of the code store at which an instruction starts (R87). -/
def GoodTarget (s : State) (n : Int) : Prop := 0 ≤ n ∧ n ≤ 0xFFFF ∧ s.thisCore.starts n.toNat = true

theorem branchTo_good {s : State} {n : Int} (h : GoodTarget s n) : branchTo s n = .goto s (BitVec.ofInt 16 n) := if_pos h

theorem branchTo_bad {s : State} {n : Int} (h : ¬ GoodTarget s n) : branchTo s n = .trap 0x01 (BitVec.ofInt 64 n) := if_neg h

/-- The high bits of a register are zero exactly when it is an address of the code store. -/
theorem fld_high_eq_zero_iff (w : Word) : fld w 63 16 = 0 ↔ (w.toNat : Int) ≤ 0xFFFF := by
  simp only [fld, BitVec.extractLsb'_toNat, Nat.shiftRight_eq_div_pow]
  omega

theorem ofInt_toNat (n : Nat) (w : Word) : BitVec.ofInt n w.toNat = w.setWidth n := by
  rw [BitVec.ofInt_natCast, BitVec.ofNat_toNat]

theorem branchReg_eq (s : State) (a : BitVec 5) : branchReg s a = branchTo s (s.thisSeat.getX a).toNat := by
  unfold branchReg
  dsimp only
  split
  · rfl
  · rename_i high
    rw [branchTo_bad fun good => high ((fld_high_eq_zero_iff _).2 good.2.1), ofInt_toNat, BitVec.setWidth_eq]

section Branch

variable {c : Ctl} {len : Nat} {u : Uses} {s : State} {n : Int} (body : State → Act) (h : Ready c u s)

include h

/-- A branch to a target: the target is taken, or the bad-target trap. -/
theorem branch_ready (target : body s = branchTo s n) :
    (GoodTarget s n → issue c len u body s = .next (jump c.sw (BitVec.ofInt 16 n) s)) ∧
    (¬ GoodTarget s n → issue c len u body s = .next (precise s.ticked 0x01 (BitVec.ofInt 64 n))) := by
  rw [issue_ready h, target]
  refine ⟨fun good => ?_, fun bad => ?_⟩
  · rw [branchTo_good good, finish_goto]
  · rw [branchTo_bad bad, finish_trap]

/-- A call to a target: the link is written where the target is taken, and not with the trap. -/
theorem call_ready {k : Nat} (target : body s = linked k s (branchTo s n)) :
    (GoodTarget s n → issue c len u body s = .next
      (jump c.sw (BitVec.ofInt 16 n) (wroteX s 31 (s.thisSeat.pc.setWidth 64 + BitVec.ofNat 64 k)))) ∧
    (¬ GoodTarget s n → issue c len u body s = .next (precise s.ticked 0x01 (BitVec.ofInt 64 n))) := by
  rw [issue_ready h, target]
  refine ⟨fun good => ?_, fun bad => ?_⟩
  · rw [branchTo_good good]
    rfl
  · rw [branchTo_bad bad]
    rfl

end Branch

/-- Settles O7: each branch is one by `branchTo`, and each call one with its link. -/
theorem branchResults : Obligations.BranchResults := by
  intro s sw g a o o9 p o6
  have taken := ofInt_toNat 16 (s.thisSeat.getX a)
  have named := (ofInt_toNat 64 (s.thisSeat.getX a)).trans (BitVec.setWidth_eq _)
  refine ⟨fun h => branch_ready (fun s => branchTo s (branchTarget s.thisSeat.pc o)) h rfl,
    fun h => call_ready (fun s => linked 2 s (branchTo s (branchTarget s.thisSeat.pc o))) h rfl, fun h => ?jr, fun h => ?callr,
    fun h => branch_ready (fun s => branchTo s (branchTarget s.thisSeat.pc o9)) h rfl,
    fun h => branch_ready (fun s => branchTo s (branchTarget s.thisSeat.pc o6)) h rfl⟩
  case jr =>
    have both := branch_ready (len := 2) (fun s => branchReg s a) h (branchReg_eq s a)
    rw [taken, named] at both
    exact both
  case callr =>
    have both := call_ready (len := 2) (fun s => linked 2 s (branchReg s a)) h (congrArg (linked 2 s) (branchReg_eq s a))
    rw [taken, named] at both
    exact both

/-! ### The end of a firing -/

theorem settle_outstanding {s : State} {c : CoreId} {n : Nat} (h : (s.seatAt c n).outs ≠ []) : settle s c n = s := by
  simp [settle, h]

theorem settle_draining {s : State} {c : CoreId} {n : Nat} (o : (s.seatAt c n).outs = [])
    (d : (s.seatAt c n).status = .draining) : settle s c n = endFiring s c n := by
  simp [settle, o, d]

/-- The running seat as `done` leaves it while operations are outstanding (R88). -/
def drains (s : State) : State := s.updThisSeat fun t => { t with status := .draining }

theorem seatAt_drains (s : State) : (drains s).seatAt s.core s.seat.val = { s.thisSeat with status := .draining } :=
  ((drains s).thisSeat_eq).symm.trans (s.thisSeat_updThisSeat _)

theorem settle_drains_outstanding {s : State} (h : s.thisSeat.outs ≠ []) : settle (drains s) s.core s.seat.val = drains s :=
  settle_outstanding (by rw [seatAt_drains]; exact h)

theorem settle_drains_done {s : State} (h : s.thisSeat.outs = []) :
    settle (drains s) s.core s.seat.val = endFiring (drains s) s.core s.seat.val :=
  settle_draining (by rw [seatAt_drains]; exact h) (by rw [seatAt_drains])

theorem doneBody_empty {s : State} (q0 : s.thisSeat.q0 = []) (q2 : s.thisSeat.q2 = []) (q4 : s.thisSeat.q4 = [])
    (q6 : s.thisSeat.q6 = []) : doneBody s = .stop (settle (drains s) s.core s.seat.val) := by
  simp [doneBody, q0, q2, q4, q6, drains]

section Held

variable (s : State)

/-- The trap of `done` for words in an assembly queue, which a run takes (R195, R264, R313). -/
def HeldTraps (run : Result) : Prop :=
  (s.thisSeat.q4 ≠ [] → ∃ v : BitVec 16, Traps s run 0x20 (reasonVal 9 0 v.toNat)) ∧
  (s.thisSeat.q4 = [] → s.thisSeat.q0 ≠ [] → Traps s run 0x40 (reasonVal 1 0 s.thisSeat.q0.length)) ∧
  (s.thisSeat.q4 = [] → s.thisSeat.q0 = [] → s.thisSeat.q2 ≠ [] → ∃ v : BitVec 56, Traps s run 0x41 (5#8 ++ v)) ∧
  (s.thisSeat.q4 = [] → s.thisSeat.q0 = [] → s.thisSeat.q2 = [] → s.thisSeat.q6 ≠ [] → Traps s run 0x42 (reasonVal 1 0 1))

variable {s} {c : Ctl} {len : Nat} (h : Ready c {} s)

include h

theorem done_held : HeldTraps s (issue c len {} doneBody s) := by
  refine ⟨fun q4 => ⟨BitVec.ofNat 16 (low ((Config.subject s.tick).setWidth 64) 16), ?_⟩, fun q4 q0 => ?_,
    fun q4 q0 q2 => ⟨Config.subject s.tick, ?_⟩, fun q4 q0 q2 q6 => ?_⟩
  · have fits : low ((Config.subject s.tick).setWidth 64) 16 < 2 ^ 16 := Nat.mod_lt _ (by decide)
    rw [BitVec.toNat_ofNat, Nat.mod_eq_of_lt fits]
    exact trap_ready doneBody h (if_pos q4)
  · exact trap_ready doneBody h (by simp [doneBody, q4, q0])
  · exact trap_ready doneBody h (by simp [doneBody, haulTrap, q4, q0, q2])
  · exact trap_ready doneBody h (by simp [doneBody, q4, q0, q2, q6])

/-- `done` with empty assembly queues. -/
theorem done_empty (empty : s.thisSeat.q0 = [] ∧ s.thisSeat.q2 = [] ∧ s.thisSeat.q4 = [] ∧ s.thisSeat.q6 = []) :
    issue c len {} doneBody s = .next (settle (drains s) s.core s.seat.val) := by
  obtain ⟨q0, q2, q4, q6⟩ := empty
  rw [issue_ready h, doneBody_empty q0 q2 q4 q6, finish_stop]

end Held

/-- Settles O8: `done` looks at its queues in their order, and then settles the draining seat. -/
theorem firingEndAndPlainResults : Obligations.FiringEndAndPlainResults := by
  intro s sw c code a
  refine ⟨fun h => ⟨?nop, ?brk, fun empty some => ?_, fun empty none => ?_, done_held h⟩,
    fun h => ⟨fun empty some => ?_, fun empty none => ?_, done_held h⟩, fun h => ?trap⟩
  case nop => exact (issue_ready h).trans (congrArg _ (finish_same s))
  case brk => exact trap_ready (fun _ => .trap 0x05 (uimm code)) h rfl
  case trap => exact trap_ready (fun s => .trap 0x06 (s.thisSeat.getX a)) h rfl
  · exact (done_empty h empty).trans (congrArg _ (settle_drains_outstanding some))
  · exact (done_empty h empty).trans (congrArg _ (settle_drains_done none))
  · exact (done_empty h empty).trans (congrArg _ (settle_drains_outstanding some))
  · exact (done_empty h empty).trans (congrArg _ (settle_drains_done none))

/-! ### Hardwired registers -/

theorem Seat.getP_setP (t : Seat) {r : BitVec 3} (b : Bool) (h : r ≠ 7) : (t.setP r b).getP r = b := by
  have own : ∀ r : BitVec 3, (1#8 <<< r.toNat).getLsbD r.toNat = true := by decide
  have inside : r.toNat < 8 := r.isLt
  rw [Seat.setP, if_neg h, Seat.getP, if_neg h]
  cases b
  · simp [own]
  · simp [inside]

theorem Seat.getK_setK (t : Seat) {r : BitVec 2} (m : BitVec 1024) (h : r ≠ 0) : (t.setK r m).getK r = m := by
  rw [Seat.setK, if_neg h, Seat.getK, if_neg h, Vector.getElem_set_self]

theorem seatAt_updThisSeat_same (s : State) (f : Seat → Seat) (h : f s.thisSeat = s.thisSeat) (c : CoreId) (n : Nat) :
    (s.updThisSeat f).seatAt c n = s.seatAt c n := by
  rw [← State.updSeatAt_running]
  by_cases other : c ≠ s.core ∨ n ≠ s.seat.val
  · exact seatAt_updSeatAt_other s f other
  · obtain ⟨rfl, rfl⟩ : c = s.core ∧ n = s.seat.val := by simpa only [not_or, not_not] using other
    rw [State.seatAt_updSeatAt_same s s.core f s.seat.isLt, ← s.thisSeat_eq, h]

/-- Settles O50: by the accessors, and `add` with destination x0 writes nothing. -/
theorem hardwiredRegisters : Obligations.HardwiredRegisters := by
  intro t w b m r q e f g h
  refine ⟨rfl, rfl, rfl, rfl, rfl, rfl, fun nonzero => ?_, fun other => t.getX_setX_other w other, fun e7 => t.getP_setP b e7,
    fun other => t.getP_setP_other b other, fun g0 => t.getK_setK m g0, fun other => t.getK_setK_other m other, ?_⟩
  · rw [t.getX_setX, if_neg nonzero]
  · intro s c a b ready
    exact ⟨_, alu_ready (· + ·) ready, thisSeat_wroteX .., seatAt_updThisSeat_same s _ rfl⟩

end Sys2Proof.Machine
end

section
/-! Waits and early reads (R77, R78, R114 to R116, R143). -/

namespace Sys2Proof.Machine

/-- A result is the issue of a 32-bit instruction that uses these registers and orders. -/
def IssuesWith (c : Ctl) (u : Uses) (s : State) (r : Result) : Prop := ∃ body, r = issue c 2 u body s

section Waits

variable {c : Ctl} {u : Uses} {s : State} {r : Result} (pend : s.thisSeat.pendP c.gp = false) (guard : guardTrue c s.thisSeat = true)
  (h : IssuesWith c u s r)

include pend guard h

theorem blocked_of_pendX {d : BitVec 5} (p : s.thisSeat.pendX d = true) (w : d ∈ u.wx) : r = .next (blocked s) := by
  obtain ⟨body, rfl⟩ := h
  have locked : u.wx.any s.thisSeat.pendX = true := List.any_eq_true.2 ⟨d, w, p⟩
  exact issue_waits pend guard (.inl (by simp [interlocked, locked]))

theorem blocked_of_pendV {v : BitVec 4} (p : s.thisSeat.pendV v = true) (w : v ∈ u.wv) : r = .next (blocked s) := by
  obtain ⟨body, rfl⟩ := h
  have locked : u.wv.any s.thisSeat.pendV = true := List.any_eq_true.2 ⟨v, w, p⟩
  exact issue_waits pend guard (.inl (by simp [interlocked, locked]))

theorem blocked_of_acquiring (a : acquiring s.thisSeat = true) (m : u.mem = true) : r = .next (blocked s) := by
  obtain ⟨body, rfl⟩ := h
  exact issue_waits pend guard (.inr (.inl (by rw [m, a]; rfl)))

theorem blocked_of_unreleased (a : unreleased s s.core s.seat.val = true) (m : u.rel = true) : r = .next (blocked s) := by
  obtain ⟨body, rfl⟩ := h
  exact issue_waits pend guard (.inr (.inr (by rw [m, a]; rfl)))

theorem trapped_of_early {w : Word} (i : interlocked s.thisSeat u = false) (m : u.mem = false) (l : u.rel = false)
    (e : earlyRead s u = some w) : r = .next (precise s 0x04 w) := by
  obtain ⟨body, rfl⟩ := h
  exact issue_early pend guard i (by rw [m]; rfl) (by rw [l]; rfl) e

end Waits

section Early

variable {s : State} {u : Uses}

theorem earlyRead_off (off : s.thisCore.dbgCtl.getLsbD 0 = false) : earlyRead s u = none := by
  rw [earlyRead, off]
  rfl

theorem earlyRead_x {a : BitVec 5} (on : s.thisCore.dbgCtl.getLsbD 0 = true) (first : u.rx.find? s.thisSeat.pendX = some a) :
    earlyRead s u = some (a.setWidth 64) := by
  rw [earlyRead, if_pos on, first]

theorem earlyRead_v {v : BitVec 4} (on : s.thisCore.dbgCtl.getLsbD 0 = true) (none : u.rx.find? s.thisSeat.pendX = none)
    (first : u.rv.find? s.thisSeat.pendV = some v) : earlyRead s u = some (32 + v.setWidth 64) := by
  rw [earlyRead, if_pos on, none, first]
  rfl

end Early

/-- A load that would be the 33rd outstanding operation waits (R114). -/
theorem load_full (size : Nat) (signed acq : Bool) {c : Ctl} {len : Nat} {d a : BitVec 5} {o : BitVec 8} {s : State}
    (h : Ready c { rx := [a], wx := [d], mem := true } s) (full : s.thisSeat.out = 32)
    (check : checkScalar s s.me .read (effAddr s a o size) size = none) :
    load c len d a o size signed acq s = .next (blocked s) := by
  rw [load, issue_ready h]
  simp only [check, leave]
  split
  · rfl
  · rw [finish, out_postLoad, full]
    rfl

theorem find_first {α : Type} {p : α → Bool} {a : α} (l : List α) (h : p a = true) : (a :: l).find? p = some a := by
  rw [List.find?_cons, h]

section Shapes

variable {c : Ctl} {s : State} {d a b : BitVec 5} {v x y : BitVec 4} {k : BitVec 2} {o : BitVec 8}

theorem alu_issues {f : Word → Word → Word} : IssuesWith c { rx := [a, b], wx := [d] } s (alu c 2 d a b f s) := ⟨_, rfl⟩

theorem load_issues {size : Nat} {signed acq : Bool} :
    IssuesWith c { rx := [a], wx := [d], mem := true } s (load c 2 d a o size signed acq s) := ⟨_, rfl⟩

theorem store_issues {size : Nat} {rel : Bool} :
    IssuesWith c { rx := [a, d], mem := true, rel := rel } s (store c 2 d a o size rel s) := ⟨_, rfl⟩

theorem sync_load_issues {op : ReqOp} : IssuesWith c { rx := [a], wx := [d], mem := true } s (sync c d a o op true s) := ⟨_, rfl⟩

theorem sync_store_issues {op : ReqOp} :
    IssuesWith c { rx := [a, d], mem := true, rel := true } s (sync c d a o op false s) := ⟨_, rfl⟩

theorem atomic_issues {z : BitVec 1} {op : AmoOp} :
    IssuesWith c { rx := if op = .cas then [a, b, d] else [a, b], wx := [d], mem := true } s (atomic c d a b z op s) := by
  rw [atomic]
  exact ⟨_, rfl⟩

theorem execSrRd_coreId_issues : IssuesWith c { wx := [d] } s (execSrRd c d 1 s) := by
  rw [execSrRd, if_neg (by simp [seat7Reads])]
  exact ⟨_, rfl⟩

theorem lanes2_issues {t : BitVec 3} {f : Nat → Nat → Nat} :
    IssuesWith c { rv := [x, y], wv := [v] } s (lanes2 c v x y k t f s) := by
  rw [lanes2]
  exact ⟨_, rfl⟩

theorem execVld_issues : IssuesWith c { rx := [a], wv := [v], mem := true } s (execVld c v a x k s) := ⟨_, rfl⟩

theorem execVst_issues : IssuesWith c { rx := [a], rv := [v], mem := true } s (execVst c v a k s) := ⟨_, rfl⟩

theorem gather_issues {size : Nat} :
    IssuesWith c { rx := [a], rv := [x], wv := [v], mem := true } s (gather c v a x k size s) := ⟨_, rfl⟩

theorem scatter_issues {size : Nat} :
    IssuesWith c { rx := [a], rv := [x, v], mem := true } s (scatter c v a x k size s) := ⟨_, rfl⟩

theorem rangeOp_issues {op : ReqOp} {rel : Bool} : IssuesWith c { rx := [a, b], rel := rel } s (rangeOp c a b op rel s) := ⟨_, rfl⟩

theorem execHlPost_issues : IssuesWith c { rx := [a], mem := true, rel := true } s (execHlPost c a s) := ⟨_, rfl⟩

end Shapes

/-- Settles O44: by what `issue` waits for, in its order. -/
theorem waitsAndEarlyReads : Obligations.WaitsAndEarlyReads := by
  intro s c d a b vd va vb k t3 f4 o z t early pend guard
  have free (p : s.thisSeat.pendX d = false) : interlocked s.thisSeat { rx := [a, b], wx := [d] } = false := by simp [interlocked, p]
  refine ⟨fun p => ?x, fun p => ?v, fun p => ?acquire, fun p => ?release, fun h full check => load_full 4 true false h full check,
    fun off p => alu_ready (· + ·) ⟨pend, guard, free p, rfl, rfl, earlyRead_off off⟩, fun on p pa => ?first,
    fun on p pa pb => ?second, fun on (p : s.thisSeat.pendV vd = false) pa => ?vector⟩
  case x =>
    have waits {u : Uses} {r : Result} (h : IssuesWith c u s r) (w : d ∈ u.wx) := blocked_of_pendX pend guard h p w
    exact ⟨waits alu_issues (.head _), waits load_issues (.head _), waits sync_load_issues (.head _),
      waits atomic_issues (.head _), waits execSrRd_coreId_issues (.head _)⟩
  case v =>
    have waits {u : Uses} {r : Result} (h : IssuesWith c u s r) (w : vd ∈ u.wv) := blocked_of_pendV pend guard h p w
    exact ⟨waits lanes2_issues (.head _), waits execVld_issues (.head _), waits gather_issues (.head _)⟩
  case acquire =>
    have waits {u : Uses} {r : Result} (h : IssuesWith c u s r) (m : u.mem = true) := blocked_of_acquiring pend guard h p m
    exact ⟨waits load_issues rfl, waits store_issues rfl, waits load_issues rfl, waits store_issues rfl,
      waits sync_load_issues rfl, waits sync_store_issues rfl, waits atomic_issues rfl, waits execVld_issues rfl,
      waits execVst_issues rfl, waits scatter_issues rfl, waits execHlPost_issues rfl⟩
  case release =>
    have waits {u : Uses} {r : Result} (h : IssuesWith c u s r) (m : u.rel = true) := blocked_of_unreleased pend guard h p m
    exact ⟨waits store_issues rfl, waits sync_store_issues rfl, waits sync_store_issues rfl, waits rangeOp_issues rfl,
      waits execHlPost_issues rfl⟩
  case first => exact trapped_of_early pend guard alu_issues (free p) rfl rfl (earlyRead_x on (find_first _ pa))
  case second =>
    have second : [a, b].find? s.thisSeat.pendX = some b := by rw [List.find?_cons, pa, find_first _ pb]
    exact trapped_of_early pend guard alu_issues (free p) rfl rfl (earlyRead_x on second)
  case vector =>
    exact trapped_of_early pend guard lanes2_issues (by simp [interlocked, p]) rfl rfl (earlyRead_v on rfl (find_first _ pa))

end Sys2Proof.Machine
end

section
/-! The checks of memory accesses, each step over every byte before the next (R93, R142, R151, R159). -/

namespace Sys2Proof.Machine

/-! ### The first byte that a check stops -/

section Fault

variable {f : Word → Option (BitVec 8)} {cause : BitVec 8}

theorem firstFault_eq_none {l : List Word} (h : ∀ a ∈ l, f a = none) : firstFault f l = none :=
  List.findSome?_eq_none_iff.2 fun a ha => by rw [h a ha, Option.map_none]

/-- The first of some bytes that fails stops the access. -/
theorem firstFault_at {p : Nat → Bool} {g : Nat → Word} {n i : Nat} (inside : i < n) (active : p i = true)
    (fails : f (g i) = some cause) (before : ∀ j < i, p j = true → f (g j) = none) :
    firstFault f (((List.range n).filter p).map g) = some (cause, g i) := by
  have split : List.range n = List.range i ++ i :: List.range' (i + 1) (n - i - 1) := by
    rw [← List.range'_succ, List.range_eq_range', List.range_eq_range', show n - i - 1 + 1 = n - i by omega]
    simpa [inside.le] using (List.range'_append_1 (s := 0) (m := i) (n := n - i)).symm
  have early (a : Word) (ha : a ∈ ((List.range i).filter p).map g) : f a = none := by
    obtain ⟨j, hj, rfl⟩ := List.mem_map.1 ha
    obtain ⟨lt, pj⟩ := List.mem_filter.1 hj
    exact before j (List.mem_range.1 lt) pj
  rw [split, List.filter_append, List.filter_cons_of_pos active, List.map_append, List.map_cons, firstFault,
    List.findSome?_append, ← firstFault, firstFault_eq_none early, Option.none_or, List.findSome?_cons, fails]
  rfl

/-- A check with one cause stops an access with that cause as soon as one byte fails it. -/
theorem firstFault_some {l : List Word} (one : ∀ a ∈ l, f a = none ∨ f a = some cause) (fails : ∃ a ∈ l, f a ≠ none) :
    ∃ a, firstFault f l = some (cause, a) := by
  induction l with
  | nil => simp at fails
  | cons b l ih =>
    obtain h | h := one b (.head _)
    · obtain ⟨a, ha, bad⟩ := fails
      obtain rfl | ha := List.mem_cons.1 ha
      · exact absurd h bad
      · obtain ⟨y, hy⟩ := ih (fun a ha => one a (.tail _ ha)) ⟨a, ha, bad⟩
        exact ⟨y, by rw [firstFault, List.findSome?_cons, h, Option.map_none]; exact hy⟩
    · exact ⟨b, by rw [firstFault, List.findSome?_cons, h]; rfl⟩

end Fault

/-! ### The steps of R93 for one byte -/

section Byte

variable {s : State} {c : CoreId} {u : Asker} {n : Need} {y : Word}

theorem layoutFault_of_ok (h : layoutOk s c y = true) : layoutFault s c y = none := if_pos h

theorem layoutFault_of_bad (h : layoutOk s c y = false) : layoutFault s c y = some 0x11 := if_neg (by simp [h])

theorem pageFault_of_direct (h : tagOf y ≠ 0) : pageFault s u n y = none := if_neg h

theorem pageFault_of_ok (h : ∃ e, translate s u n (fld y 47 0) = .ok e) : pageFault s u n y = none := by
  obtain ⟨e, h⟩ := h
  rw [pageFault, h]
  exact ite_self _

theorem pageFault_of_error {f : BitVec 8} (h : tagOf y = 0) (e : translate s u n (fld y 47 0) = .error f) :
    pageFault s u n y = some f := by
  rw [pageFault, if_pos h, e]

/-- The line of a byte is sealed (R174). -/
def SealedAt (s : State) (u : Asker) (y : Word) : Prop :=
  ∃ e, leafOf s u (fld y 47 0) = .hit e ∧ isSealed s (e.phys (fld y 47 0)) = true

theorem writeFault_read : writeFault s u .read y = none := rfl

theorem writeFault_weights (h : n ≠ .read) (w : tagOf y = 3) : writeFault s u n y = some 0x15 := by
  simp [writeFault, h, w]

theorem writeFault_other (h0 : tagOf y ≠ 0) (h3 : tagOf y ≠ 3) : writeFault s u n y = none := by
  simp [writeFault, h0, h3]

theorem writeFault_sealed (h : n ≠ .read) (g : tagOf y = 0) (b : SealedAt s u y) : writeFault s u n y = some 0x16 := by
  obtain ⟨e, hit, b⟩ := b
  rw [writeFault, if_neg h, if_neg (by omega), if_pos g, hit]
  exact if_pos b

theorem writeFault_unsealed (g : tagOf y = 0) (b : ¬ SealedAt s u y) : writeFault s u n y = none := by
  by_cases h : n = .read
  · rw [h, writeFault_read]
  · rw [writeFault, if_neg h, if_neg (by omega), if_pos g]
    split
    · rename_i e hit
      exact if_neg fun q => b ⟨e, hit, q⟩
    · rfl

end Byte

/-! ### The checks of an access -/

section Bytes

variable {s : State} {u : Asker} {n : Need} {l : List Word} {r : BitVec 8 × Word}

theorem checkBytes_layout (h : firstFault (layoutFault s u.core) l = some r) : checkBytes s u n l = some r := by
  rw [checkBytes, h]

theorem checkBytes_page (layout : firstFault (layoutFault s u.core) l = none) (h : firstFault (pageFault s u n) l = some r) :
    checkBytes s u n l = some r := by
  rw [checkBytes, layout, h]

theorem checkBytes_write (layout : firstFault (layoutFault s u.core) l = none) (page : firstFault (pageFault s u n) l = none) :
    checkBytes s u n l = firstFault (writeFault s u n) l := by
  rw [checkBytes, layout, page]

end Bytes

section Scalar

variable {s : State} {u : Asker} {n : Need} {x : Word} {size : Nat}

theorem checkScalar_misaligned (h : x.toNat % size ≠ 0) : checkScalar s u n x size = some (0x10, x) := if_pos h

theorem checkScalar_aligned (h : x.toNat % size = 0) :
    checkScalar s u n x size = (checkBytes s u n (byteAddrs x size)).map fun r => (r.1, x) := if_neg (not_not.2 h)

theorem checkScalar_address {cause : BitVec 8} {v : Word} (h : checkScalar s u n x size = some (cause, v)) : v = x := by
  by_cases a : x.toNat % size = 0
  · rw [checkScalar_aligned a] at h
    obtain ⟨r, -, e⟩ := Option.map_eq_some_iff.1 h
    exact (congrArg Prod.snd e).symm
  · rw [checkScalar_misaligned a] at h
    exact (congrArg Prod.snd (Option.some.inj h)).symm

theorem checkScalar_fault {r : BitVec 8 × Word} (a : x.toNat % size = 0) (h : checkBytes s u n (byteAddrs x size) = some r) :
    checkScalar s u n x size = some (r.1, x) := by
  rw [checkScalar_aligned a, h, Option.map_some]

theorem checkScalar_none (a : x.toNat % size = 0) (h : checkBytes s u n (byteAddrs x size) = none) :
    checkScalar s u n x size = none := by
  rw [checkScalar_aligned a, h, Option.map_none]

theorem byteAddrs_eq (x : Word) (size : Nat) :
    byteAddrs x size = ((List.range size).filter fun _ => true).map fun i => x + BitVec.ofNat 64 i := by
  rw [List.filter_true, byteAddrs]

theorem checkScalar_layout (a : x.toNat % size = 0) (h : ∃ y ∈ byteAddrs x size, layoutOk s u.core y = false) :
    checkScalar s u n x size = some (0x11, x) := by
  have one (y : Word) : layoutFault s u.core y = none ∨ layoutFault s u.core y = some 0x11 := by
    unfold layoutFault
    split
    · exact .inl rfl
    · exact .inr rfl
  obtain ⟨y, hy, bad⟩ := h
  obtain ⟨z, hz⟩ := firstFault_some (fun y _ => one y) ⟨y, hy, by rw [layoutFault_of_bad bad]; simp⟩
  exact checkScalar_fault a (checkBytes_layout hz)

/-- Every byte of an access lies within the layout of its space. -/
def InLayout (s : State) (u : Asker) (x : Word) (size : Nat) : Prop := ∀ y ∈ byteAddrs x size, layoutOk s u.core y = true

theorem firstFault_layout (h : InLayout s u x size) : firstFault (layoutFault s u.core) (byteAddrs x size) = none :=
  firstFault_eq_none fun y hy => layoutFault_of_ok (h y hy)

theorem checkScalar_translation (a : x.toNat % size = 0) (layout : InLayout s u x size) {i : Nat} (inside : i < size) {f : BitVec 8}
    (g : tagOf (x + BitVec.ofNat 64 i) = 0) (e : translate s u n (fld (x + BitVec.ofNat 64 i) 47 0) = .error f)
    (before : ∀ j < i, tagOf (x + BitVec.ofNat 64 j) = 0 → ∃ e, translate s u n (fld (x + BitVec.ofNat 64 j) 47 0) = .ok e) :
    checkScalar s u n x size = some (f, x) := by
  have clean (j : Nat) (h : j < i) : pageFault s u n (x + BitVec.ofNat 64 j) = none := by
    by_cases t : tagOf (x + BitVec.ofNat 64 j) = 0
    · exact pageFault_of_ok (before j h t)
    · exact pageFault_of_direct t
  have first : firstFault (pageFault s u n) (byteAddrs x size) = some (f, x + BitVec.ofNat 64 i) := by
    rw [byteAddrs_eq]
    exact firstFault_at inside rfl (pageFault_of_error g e) fun j h _ => clean j h
  exact checkScalar_fault a (checkBytes_page (firstFault_layout layout) first)

section Clear

variable (a : x.toNat % size = 0) (layout : InLayout s u x size) (page : ∀ y ∈ byteAddrs x size, pageFault s u n y = none)

include a layout page

/-! With layouts and translations clear, the writes decide. -/

theorem checkScalar_write {cause : BitVec 8}
    (one : ∀ y ∈ byteAddrs x size, writeFault s u n y = none ∨ writeFault s u n y = some cause)
    (fails : ∃ y ∈ byteAddrs x size, writeFault s u n y ≠ none) : checkScalar s u n x size = some (cause, x) := by
  obtain ⟨y, hy⟩ := firstFault_some one fails
  refine checkScalar_fault (r := (cause, y)) a ?_
  rw [checkBytes_write (firstFault_layout layout) (firstFault_eq_none page), hy]

theorem checkScalar_clear (write : ∀ y ∈ byteAddrs x size, writeFault s u n y = none) : checkScalar s u n x size = none := by
  refine checkScalar_none a ?_
  rw [checkBytes_write (firstFault_layout layout) (firstFault_eq_none page), firstFault_eq_none write]

end Clear

theorem mem_byteAddrs_zero (h : 0 < size) : x + BitVec.ofNat 64 0 ∈ byteAddrs x size :=
  List.mem_map.2 ⟨0, List.mem_range.2 h, rfl⟩

end Scalar

/-! ### The checks of the other accesses -/

section Others

variable {s : State} {u : Asker} {n : Need} {x : Word} {c : CoreId} {size m act : Nat}

theorem checkSync_misaligned (h : x.toNat % 4 ≠ 0) : checkSync s c x = some (0x10, x) := if_pos h

theorem checkSync_ok (a : x.toNat % 4 = 0) (t : tagOf x = 1 ∨ tagOf x = 2) (l : layoutOk s c x = true) : checkSync s c x = none := by
  rw [checkSync, if_neg (not_not.2 a), if_pos (by simp [t, l])]

theorem checkSync_bad (a : x.toNat % 4 = 0) (h : ¬ ((tagOf x = 1 ∨ tagOf x = 2) ∧ layoutOk s c x = true)) :
    checkSync s c x = some (0x11, x) := by
  rw [checkSync, if_neg (not_not.2 a), if_neg (by simpa using h)]

theorem checkAtomic_misaligned (h : x.toNat % size ≠ 0) : checkAtomic s u x size size = some (0x10, x) := if_pos h

theorem checkAtomic_bad (a : x.toNat % size = 0) (h : tagOf x ≠ 0 ∨ layoutOk s u.core x = false) :
    checkAtomic s u x size size = some (0x11, x) := by
  rw [checkAtomic, if_neg (not_not.2 a), if_pos (by simpa using h)]

theorem checkAtomic_global (a : x.toNat % size = 0) (t : tagOf x = 0) (l : layoutOk s u.core x = true) :
    checkAtomic s u x size size = checkScalar s u .both x size := by
  rw [checkAtomic, if_neg (not_not.2 a), if_neg (by simp [t, l]), checkScalar_aligned a]

theorem checkVec_misaligned (h : x.toNat % m ≠ 0) : checkVec s n x m size act = some (0x10, x) := if_pos h

/-- The first active byte outside its space stops a vector access (R137, R159). -/
theorem checkVec_layout (a : x.toNat % m = 0) {i : Nat} (inside : i < size) (active : act / 2 ^ (8 * i) % 256 ≠ 0)
    (bad : layoutOk s s.core (x + BitVec.ofNat 64 i) = false)
    (before : ∀ j < i, act / 2 ^ (8 * j) % 256 ≠ 0 → layoutOk s s.core (x + BitVec.ofNat 64 j) = true) :
    checkVec s n x m size act = some (0x11, x + BitVec.ofNat 64 i) := by
  rw [checkVec, if_neg (not_not.2 a)]
  refine checkBytes_layout (firstFault_at inside (by simpa using active) (layoutFault_of_bad bad) fun j lt aj => ?_)
  exact layoutFault_of_ok (before j lt (by simpa using aj))

end Others

/-! ### A check that fails stops the instruction -/

/-- A run takes the trap of a check that fails, or awaits the walk that it asks for (R93, log 93). -/
def Stops (s : State) (run : Result) (check : Option (BitVec 8 × Word)) : Prop := ∀ f y, check = some (f, y) →
  (f = walkCause → run = .next (askWalk (blocked s) s.me s.thisCore.ttRoot (fld y 47 0))) ∧
  (f ≠ walkCause → run = .next (precise s.ticked f y))

section Stops

variable {c : Ctl} {len : Nat} {d a b : BitVec 5} {v x tag : BitVec 4} {k : BitVec 2} {o : BitVec 8} {s : State} {size : Nat}

theorem issue_stops {u : Uses} {body : State → Act} {check : Option (BitVec 8 × Word)} (h : Ready c u s)
    (fault : ∀ r, check = some r → body s = faultAct r) : Stops s (issue c len u body s) check := by
  intro f y e
  rw [issue_ready h, fault _ e, faultAct]
  refine ⟨fun w => ?_, fun w => ?_⟩
  · rw [if_pos w, finish_walk]
  · rw [if_neg w, finish_trap]

theorem load_stops {signed acq : Bool} (h : Ready c { rx := [a], wx := [d], mem := true } s) :
    Stops s (load c len d a o size signed acq s) (checkScalar s s.me .read (effAddr s a o size) size) :=
  issue_stops h fun r e => by simp only [e]

theorem store_stops {rel : Bool} (h : Ready c { rx := [a, d], mem := true, rel := rel } s) :
    Stops s (store c len d a o size rel s) (checkScalar s s.me .write (effAddr s a o size) size) :=
  issue_stops h fun r e => by simp only [e]

theorem sync_load_stops {op : ReqOp} (h : Ready c { rx := [a], wx := [d], mem := true } s) :
    Stops s (sync c d a o op true s) (checkSync s s.core (effAddr s a o 4)) :=
  issue_stops h fun r e => by simp only [e]

theorem sync_store_stops {op : ReqOp} (h : Ready c { rx := [a, d], mem := true, rel := true } s) :
    Stops s (sync c d a o op false s) (checkSync s s.core (effAddr s a o 4)) :=
  issue_stops h fun r e => by simp only [e]

theorem atomic_stops {z : BitVec 1} {op : AmoOp}
    (h : Ready c { rx := if op = .cas then [a, b, d] else [a, b], wx := [d], mem := true } s) :
    Stops s (atomic c d a b z op s)
      (checkAtomic s s.me (s.thisSeat.getX a) (if z = 0 then 4 else 8) (if z = 0 then 4 else 8)) := by
  rw [atomic]
  exact issue_stops h fun r e => by simp only [e]

theorem execVld_stops (h : Ready c { rx := [a], wv := [v], mem := true } s)
    (some : (activeBits (tagWidth tag) (s.thisSeat.getK k)).toNat ≠ 0) : Stops s (execVld c v a tag k s)
      (checkVec s .read (vecBase s a 512) (alignOf tag) 512 (activeBits (tagWidth tag) (s.thisSeat.getK k)).toNat) :=
  issue_stops h fun r e => by simp only [if_neg some, e]

theorem execVst_stops (h : Ready c { rx := [a], rv := [v], mem := true } s)
    (some : (activeBits (tagWidth (s.thisSeat.getV v).tag) (s.thisSeat.getK k)).toNat ≠ 0) : Stops s (execVst c v a k s)
      (checkVec s .write (vecBase s a 512) (alignOf (s.thisSeat.getV v).tag) 512
        (activeBits (tagWidth (s.thisSeat.getV v).tag) (s.thisSeat.getK k)).toNat) :=
  issue_stops h fun r e => by simp only [if_neg some, e]

theorem execVldSc_stops (h : Ready c { rx := [a], wv := [v], mem := true } s) :
    Stops s (execVldSc c v a s) (checkVec s .read (vecBase s a 32) 32 32 (2 ^ 256 - 1)) :=
  issue_stops h fun r e => by simp only [e]

theorem execVstSc_stops (h : Ready c { rx := [a], rv := [v], mem := true } s) :
    Stops s (execVstSc c v a s) (checkVec s .write (vecBase s a 32) 32 32 (2 ^ 256 - 1)) :=
  issue_stops h fun r e => by simp only [e]

/-- The check of the lanes of a gather or scatter, in lane order (R140). -/
def laneCheck (s : State) (a : BitVec 5) (x : BitVec 4) (k : BitVec 2) (need : Need) (size : Nat) : Option (BitVec 8 × Word) :=
  (laneAddrs s.thisSeat a x k size).findSome? fun l => checkScalar s s.me need l.2 size

theorem gather_stops (h : Ready c { rx := [a], rv := [x], wv := [v], mem := true } s) (index : indexFault s.thisSeat x size = none) :
    Stops s (gather c v a x k size s) (laneCheck s a x k .read size) :=
  issue_stops h fun r e => by
    rw [laneCheck] at e
    simp only [index, e]

theorem scatter_stops (h : Ready c { rx := [a], rv := [x, v], mem := true } s) (index : indexFault s.thisSeat x size = none) :
    Stops s (scatter c v a x k size s) (laneCheck s a x k .write size) :=
  issue_stops h fun r e => by
    rw [laneCheck] at e
    simp only [index, e]

end Stops

/-- Settles O49: each instruction stops by `faultAct`, and each check by the first byte of its first failing step. -/
theorem memoryChecks : Obligations.MemoryChecks := by
  intro s c d a b o z sw d3 a3 o3 vd vx tag km cause v x size m act n
  refine ⟨fun h => ⟨load_stops h, load_stops h, load_stops h, load_stops h, load_stops h, load_stops h, load_stops h, load_stops h,
    load_stops h⟩, fun h => ⟨store_stops h, store_stops h, store_stops h, store_stops h⟩, fun h => ⟨store_stops h, store_stops h⟩,
    fun h => ⟨load_stops h, load_stops h⟩, fun h => ⟨store_stops h, store_stops h⟩,
    fun h => ⟨sync_load_stops h, sync_load_stops h⟩, fun h => ⟨sync_store_stops h, sync_store_stops h⟩,
    fun h => ⟨atomic_stops h, atomic_stops h, atomic_stops h, atomic_stops h, atomic_stops h, atomic_stops h, atomic_stops h,
      atomic_stops h, atomic_stops h, atomic_stops (z := 0) (op := .fadd) h⟩, fun h => atomic_stops h,
    fun h => ⟨execVld_stops h, execVldSc_stops h⟩, fun h => ⟨execVst_stops h, execVstSc_stops h⟩,
    fun h => ⟨gather_stops h, gather_stops h⟩, fun h => ⟨scatter_stops h, scatter_stops h⟩,
    checkSync_misaligned, fun al => ⟨checkSync_ok al, checkSync_bad al⟩,
    checkAtomic_misaligned, fun al => ⟨checkAtomic_bad (u := s.me) al, checkAtomic_global (u := s.me) al⟩,
    checkVec_misaligned, fun al => ?vec, checkScalar_address, checkScalar_misaligned, fun al => checkScalar_layout (u := s.me) al,
    fun al layout i inside f g e before => checkScalar_translation (u := s.me) al layout inside g e before, fun al clear => ?global,
    fun al weights pos write => ?weights, fun al direct => ?direct⟩
  case vec =>
    by_cases bad : ∃ i, i < size ∧ act / 2 ^ (8 * i) % 256 ≠ 0 ∧ layoutOk s s.core (x + BitVec.ofNat 64 i) = false
    · obtain ⟨inside, active, fails⟩ := Nat.find_spec bad
      have before (j : Nat) (lt : j < Nat.find bad) (aj : act / 2 ^ (8 * j) % 256 ≠ 0) :
          layoutOk s s.core (x + BitVec.ofNat 64 j) = true := by
        simpa using fun e => Nat.find_min bad lt ⟨lt.trans inside, aj, e⟩
      exact .inr ⟨_, inside, active, fails, before, checkVec_layout al inside active fails before⟩
    · exact .inl fun i inside active => by simpa using fun e => bad ⟨i, inside, active, e⟩
  case global =>
    have layout : InLayout s s.me x size := fun y hy => (clear y hy).1
    have page (y : Word) (hy : y ∈ byteAddrs x size) : pageFault s s.me n y = none := pageFault_of_ok (clear y hy).2.2
    have free (y : Word) (hy : y ∈ byteAddrs x size) (b : ¬ SealedAt s s.me y) : writeFault s s.me n y = none :=
      writeFault_unsealed (clear y hy).2.1 b
    refine ⟨fun write ⟨y, hy, b⟩ => checkScalar_write al layout page (fun y hy => ?_) ⟨y, hy, ?_⟩, fun ok => ?_⟩
    · by_cases b : SealedAt s s.me y
      · exact .inr (writeFault_sealed write (clear y hy).2.1 b)
      · exact .inl (free y hy b)
    · rw [writeFault_sealed write (clear y hy).2.1 b]
      exact Option.some_ne_none _
    · refine checkScalar_clear al layout page fun y hy => ?_
      obtain rfl | unsealed := ok
      · exact writeFault_read
      · exact free y hy (unsealed y hy)
  case weights =>
    have store (y : Word) (hy : y ∈ byteAddrs x size) : writeFault s s.me n y = some 0x15 :=
      writeFault_weights write (weights y hy).2
    refine checkScalar_write al (fun y hy => (weights y hy).1) (fun y hy => pageFault_of_direct ?_) (fun y hy => .inr (store y hy))
      ⟨_, mem_byteAddrs_zero pos, ?_⟩
    · rw [(weights y hy).2]
      decide
    · rw [store _ (mem_byteAddrs_zero pos)]
      exact Option.some_ne_none _
  case direct =>
    refine checkScalar_clear al (fun y hy => (direct y hy).1) (fun y hy => pageFault_of_direct ?_) fun y hy =>
      writeFault_other ?_ ?_
    all_goals
      have space := (direct y hy).2
      omega

end Sys2Proof.Machine
end

section
/-! What a memory instruction leaves at its issue (R78, R93, R115, R137, R180): every byte of every memory, and every register but
the tag of a vector load. -/

namespace Sys2Proof.Machine

/-! ### The bytes of the memories and the seats -/

/-- The bytes of every memory of the module (R159). -/
def State.bytes (s : State) : Memory × List (Nat × Memory) × (Nat → Memory) × (CoreId → Memory) :=
  (s.hbm, s.co, fun g => (s.getCluster g).ws, fun c => (s.getCore c).sp)

theorem bytes_ext {s t : State} (hbm : t.hbm = s.hbm) (co : t.co = s.co) (ws : ∀ g, (t.getCluster g).ws = (s.getCluster g).ws)
    (sp : ∀ c, (t.getCore c).sp = (s.getCore c).sp) : t.bytes = s.bytes := by
  simp only [State.bytes, hbm, co, funext ws, funext sp]

theorem bytes_of_machine {s t : State} (h : t.machine = s.machine) : t.bytes = s.bytes := by
  have clusters : t.clusters = s.clusters := eq_of_machine h State.clusters fun _ => rfl
  exact bytes_ext (eq_of_machine h State.hbm fun _ => rfl) (eq_of_machine h State.co fun _ => rfl)
    (fun g => by rw [State.getCluster, clusters, State.getCluster]) (core_eq_of_machine h Core.sp fun _ => rfl)

theorem Place.read_of_bytes {s t : State} (h : t.bytes = s.bytes) (n : Nat) (p : Place) : p.read t n = p.read s n := by
  obtain ⟨hbm, h⟩ := Prod.mk.inj h
  obtain ⟨co, h⟩ := Prod.mk.inj h
  obtain ⟨ws, sp⟩ := Prod.mk.inj h
  cases p with
  | sp c a => exact congrArg (getBytes · a n) (congrFun sp c)
  | ws g a => exact congrArg (getBytes · a n) (congrFun ws g)
  | co q a => exact congrArg (fun m => getBytes (tget [] m q) a n) co
  | hbm a msa => exact congrArg (getBytes · a n) hbm
  | walker page => rfl

/-- The bytes of the memories, every seat, and which of them runs. -/
def State.contents (s : State) : (CoreId × Fin 8) × (Memory × List (Nat × Memory) × (Nat → Memory) × (CoreId → Memory)) ×
    (CoreId → Nat → Seat) :=
  ((s.core, s.seat), s.bytes, s.seatAt)

theorem contents_ext {s t : State} (core : t.core = s.core) (seat : t.seat = s.seat) (bytes : t.bytes = s.bytes)
    (seats : ∀ c n, t.seatAt c n = s.seatAt c n) : t.contents = s.contents := by
  rw [State.contents, core, seat, bytes, funext fun c => funext (seats c), State.contents]

theorem contents_setCore (s : State) (c : CoreId) (k : Core) (sp : k.sp = (s.getCore c).sp) (seats : k.seats = (s.getCore c).seats) :
    (s.setCore c k).contents = s.contents := by
  refine contents_ext rfl rfl (bytes_ext rfl rfl (fun _ => rfl) fun d => ?_) (s.seatAt_updCore_seats c (fun _ => k) seats)
  by_cases e : d = c
  · rw [e, State.getCore_setCore, sp]
  · rw [State.getCore_setCore_other s k e]

theorem contents_updCore (s : State) (c : CoreId) (f : Core → Core) (sp : (f (s.getCore c)).sp = (s.getCore c).sp)
    (seats : (f (s.getCore c)).seats = (s.getCore c).seats) : (s.updCore c f).contents = s.contents :=
  contents_setCore s c _ sp seats

theorem contents_updThisCore (s : State) (f : Core → Core) (sp : (f s.thisCore).sp = s.thisCore.sp)
    (seats : (f s.thisCore).seats = s.thisCore.seats) : (s.updThisCore f).contents = s.contents :=
  contents_setCore s s.core _ sp seats

theorem contents_updCluster (s : State) (n : Nat) (f : Cluster → Cluster) (ws : (f (s.getCluster n)).ws = (s.getCluster n).ws) :
    (s.updCluster n f).contents = s.contents := by
  refine contents_ext rfl rfl (bytes_ext rfl rfl (fun g => ?_) fun _ => rfl) fun _ _ => rfl
  by_cases e : g = n
  · rw [e, State.updCluster, State.getCluster_setCluster, ws]
  · rw [State.updCluster, State.getCluster_setCluster_other s _ e]

theorem contents_foldl {α : Type} (f : State → α → State) (h : ∀ s a, (f s a).contents = s.contents) (l : List α) (s : State) :
    (l.foldl f s).contents = s.contents := by
  induction l generalizing s with
  | nil => rfl
  | cons a l ih => rw [List.foldl_cons, ih, h]

/-! ### Requests leave -/

theorem contents_fillTlb (s : State) (c : CoreId) (e : Tlb) : (fillTlb s c e).contents = s.contents := by
  have filled (f : Core → Core) (sp : (f (s.getCore c)).sp = (s.getCore c).sp) (seats : (f (s.getCore c)).seats = (s.getCore c).seats) :
      (s.ticked.updCore c f).contents = s.contents := contents_updCore s.ticked c f sp seats
  unfold fillTlb
  dsimp only
  split
  · exact filled _ rfl rfl
  · exact (contents_updCluster _ _ _ rfl).trans (filled _ rfl rfl)

theorem contents_noteTlb (s : State) (u : Asker) (l : List Piece) : (noteTlb s u l).contents = s.contents := by
  refine contents_foldl _ (fun s p => ?_) l s
  split
  · split
    · split
      · rfl
      · exact contents_fillTlb ..
    · rfl
  · rfl

theorem contents_postReq (s : State) (r : Req) : (postReq s r).contents = s.contents := by
  obtain ⟨ps, q, n, f, e⟩ := postReq_state s r
  rw [e]
  rfl

theorem contents_post (s : State) (id : Nat) (op : ReqOp) (pieces : List Piece) : (post s id op pieces).contents = s.contents :=
  (contents_postReq ..).trans (contents_noteTlb ..)

theorem contents_askWalk (s : State) (u : Asker) (root : Word) (va : Nat) : (askWalk s u root va).contents = s.contents := by
  unfold askWalk
  dsimp only
  split
  · rfl
  · split
    · rfl
    · exact contents_postReq ..

theorem l1Store_sp (k : Core) (p : Piece) : (l1Store k p).sp = k.sp := by
  unfold l1Store
  split <;> rfl

theorem foldl_l1Store_sp (l : List Piece) (k : Core) : (l.foldl l1Store k).sp = k.sp := by
  induction l generalizing k with
  | nil => rfl
  | cons p l ih => rw [List.foldl_cons, ih, l1Store_sp]

/-- A store updates the L1 of its core at its issue (R166). -/
theorem contents_storeL1 (s : State) (pieces : List Piece) :
    (s.updThisCore fun k => pieces.foldl l1Store k).contents = s.contents :=
  contents_updThisCore s (fun k => pieces.foldl l1Store k) (foldl_l1Store_sp ..) (foldl_l1Store_seats ..)

/-! ### The registers -/

/-- The bytes of the memories, the registers of every seat, and which of them runs. -/
def State.kept (s : State) : (CoreId × Fin 8) × (Memory × List (Nat × Memory) × (Nat → Memory) × (CoreId → Memory)) ×
    (CoreId → Nat → Vector Word 32 × BitVec 8 × Vector VReg 16 × Vector (BitVec 1024) 4) :=
  ((s.core, s.seat), s.bytes, fun c n => (s.seatAt c n).registers)

section Kept

variable {s t : State}

theorem kept_ext (core : t.core = s.core) (seat : t.seat = s.seat) (bytes : t.bytes = s.bytes)
    (registers : ∀ c n, (t.seatAt c n).registers = (s.seatAt c n).registers) : t.kept = s.kept := by
  simp only [State.kept, core, seat, bytes, funext fun c => funext (registers c)]

theorem kept_of_contents (h : t.contents = s.contents) : t.kept = s.kept :=
  congrArg (fun q : _ × _ × (CoreId → Nat → Seat) => (q.1, q.2.1, fun c n => (q.2.2 c n).registers)) h

theorem kept_of_quiet {c : CoreId} {n : Fin 8} (h : Quiet c n s t) : t.kept = s.kept := by
  refine kept_ext (eq_of_machine h.machine State.core fun _ => rfl) (eq_of_machine h.machine State.seat fun _ => rfl)
    (bytes_of_machine h.machine) fun d m => ?_
  by_cases other : d ≠ c ∨ m ≠ n.val
  · rw [h.others d m other]
  · obtain ⟨rfl, rfl⟩ : d = c ∧ m = n.val := by simpa only [not_or, not_not] using other
    exact h.registers

theorem bytes_updThisSeat (s : State) (f : Seat → Seat) : (s.updThisSeat f).bytes = s.bytes := by
  rw [← State.updSeatAt_running]
  exact bytes_of_machine (machine_updSeatAt ..)

theorem kept_raise (s : State) (target : Target) (acq : Bool) (what : Pending) (ans : Answer) (left : List Nat) :
    (raise s target acq what ans left).kept = s.kept := by
  let f (t : Seat) : Seat := { t with outs := t.outs ++ [⟨s.fresh, t.pc, target, acq, what, ans, left, t.rpt⟩] }
  have numbered : (raise s target acq what ans left).kept = (s.updThisSeat f).kept := rfl
  rw [numbered, ← State.updSeatAt_running]
  refine kept_ext rfl rfl (bytes_of_machine (machine_updSeatAt ..)) fun c n => ?_
  by_cases other : c ≠ s.core ∨ n ≠ s.seat.val
  · rw [seatAt_updSeatAt_other s f other]
  · obtain ⟨rfl, rfl⟩ : c = s.core ∧ n = s.seat.val := by simpa only [not_or, not_not] using other
    rw [State.seatAt_updSeatAt_same s s.core f s.seat.isLt]
    rfl

theorem kept_postLoad (s : State) (target : Target) (acq : Bool) (op : ReqOp) (pieces : List Piece) (left : List Nat) :
    (postLoad s target acq op pieces left).kept = s.kept :=
  (kept_of_contents (contents_post ..)).trans (kept_raise ..)

theorem kept_postStore (s : State) (pieces : List Piece) : (postStore s pieces).kept = s.kept :=
  kept_of_contents ((contents_post ..).trans (contents_storeL1 s pieces))

theorem kept_postStoreOut (s : State) (pieces : List Piece) : (postStoreOut s pieces).kept = s.kept :=
  ((kept_of_contents (contents_post ..)).trans (kept_raise ..)).trans (kept_of_contents (contents_storeL1 s pieces))

end Kept

/-! ### Effects and results -/

/-- An effect ends in a state that keeps what `u` holds, or in a trap, a wait or a walk. -/
def Act.Keeps (u : State) : Act → Prop
  | .next t => t.kept = u.kept
  | .trap .. | .block | .walk _ => True
  | .goto .. | .trapIn .. | .stop _ => False

/-- The next state, where there is one, keeps what the state holds, or what `u` does. -/
def Keeps (u s : State) (r : Result) : Prop := ∀ t, r = .next t → t.kept = s.kept ∨ t.kept = u.kept

section Shapes

variable {u s : State}

theorem finish_keeps {sw : Bool} {len : Nat} {a : Act} (h : a.Keeps u) :
    (finish sw len s a).kept = s.kept ∨ (finish sw len s a).kept = u.kept := by
  cases a with
  | next t =>
    rw [finish]
    split
    · exact .inl (kept_of_quiet (quiet_blocked s))
    · exact .inr ((kept_of_quiet (quiet_retire sw len t)).trans h)
  | trap cause val => exact .inl (kept_of_quiet ((quiet_ticked s).trans (quiet_precise s.ticked cause val)))
  | block => exact .inl (kept_of_quiet (quiet_blocked s))
  | walk va => exact .inl ((kept_of_contents (contents_askWalk ..)).trans (kept_of_quiet (quiet_blocked s)))
  | goto | trapIn | stop => exact h.elim

theorem issue_keeps {c : Ctl} {len : Nat} {w : Uses} {body : State → Act} (h : (body s).Keeps u) :
    Keeps u s (issue c len w body s) := by
  intro t run
  obtain rfl | rfl | ⟨r, rfl⟩ | rfl := issue_cases run
  · exact .inl (kept_of_quiet (quiet_blocked s))
  · exact .inl (kept_of_quiet (quiet_retire ..))
  · exact .inl (kept_of_quiet (quiet_precise ..))
  · exact finish_keeps h

theorem faultAct_keeps (r : BitVec 8 × Word) : (faultAct r).Keeps u := by
  unfold faultAct
  split <;> trivial

theorem leave_keeps {pieces : List Piece} {f : State → State} (h : (f s).kept = u.kept) : (leave s pieces f).Keeps u := by
  unfold leave
  split
  · trivial
  · exact h

/-- A check, then an effect. -/
theorem checked_keeps {check : Option (BitVec 8 × Word)} {act : Act} (h : act.Keeps u) :
    (match check with
      | some r => faultAct r
      | none => act : Act).Keeps u := by
  cases check with
  | some r => exact faultAct_keeps r
  | none => exact h

variable {c : Ctl} {len : Nat} {d a b : BitVec 5} {v x tag : BitVec 4} {k : BitVec 2} {o : BitVec 8} {size : Nat}

theorem load_keeps {signed acq : Bool} : Keeps s s (load c len d a o size signed acq s) :=
  issue_keeps (checked_keeps (leave_keeps (kept_postLoad ..)))

theorem store_keeps {rel : Bool} : Keeps s s (store c len d a o size rel s) := by
  refine issue_keeps (checked_keeps (leave_keeps ?_))
  cases rel with
  | false => exact kept_postStore ..
  | true => exact kept_postStoreOut ..

theorem sync_keeps {op : ReqOp} {isLoad : Bool} : Keeps s s (sync c d a o op isLoad s) :=
  issue_keeps (checked_keeps (leave_keeps ((kept_of_contents (contents_post ..)).trans (kept_raise ..))))

theorem atomic_keeps {z : BitVec 1} {op : AmoOp} : Keeps s s (atomic c d a b z op s) := by
  rw [atomic]
  refine issue_keeps (checked_keeps ?_)
  refine ((kept_of_contents (contents_post ..)).trans (kept_raise ..)).trans ?_
  split
  · exact kept_of_contents (contents_updThisCore s (fun k => l1Drop k _) rfl rfl)
  · rfl

theorem execVst_keeps : Keeps s s (execVst c v a k s) := by
  refine issue_keeps ?_
  dsimp only
  split
  · rfl
  · exact checked_keeps (leave_keeps (kept_postStore ..))

theorem execVldSc_keeps : Keeps s s (execVldSc c v a s) :=
  issue_keeps (checked_keeps (leave_keeps (kept_postLoad ..)))

theorem execVstSc_keeps : Keeps s s (execVstSc c v a s) :=
  issue_keeps (checked_keeps (leave_keeps (kept_postStore ..)))

theorem indexFault_keeps {t : Seat} {act : Act} (h : indexFault t x size = some act) : act.Keeps u := by
  obtain ⟨-, format⟩ := Option.ite_none_left_eq_some.1 h
  rw [← Option.some.inj format]
  trivial

theorem gather_keeps : Keeps s s (gather c v a x k size s) := by
  refine issue_keeps ?_
  dsimp only
  split
  · exact indexFault_keeps ‹_›
  · exact checked_keeps (leave_keeps (kept_postLoad ..))

theorem scatter_keeps : Keeps s s (scatter c v a x k size s) := by
  refine issue_keeps ?_
  dsimp only
  split
  · exact indexFault_keeps ‹_›
  · exact checked_keeps (leave_keeps (kept_postStore ..))

/-- A state in which a vector load has written the tag of its destination (R137). -/
def tagged (s : State) (v tag : BitVec 4) : State := s.updThisSeat fun t => t.setV v { t.getV v with tag := tag }

theorem execVld_keeps : Keeps (tagged s v tag) s (execVld c v a tag k s) := by
  refine issue_keeps ?_
  dsimp only
  split
  · rfl
  · exact checked_keeps (leave_keeps (kept_postLoad ..))

end Shapes

/-! ### What the obligation says of a state -/

section Says

variable {s t : State}

theorem read_of_kept (h : t.kept = s.kept) (p : Place) : p.read t 1 = p.read s 1 :=
  Place.read_of_bytes (congrArg (fun q => q.2.1) h) 1 p

theorem registers_of_kept (h : t.kept = s.kept) (c : CoreId) (n : Nat) : (t.seatAt c n).registers = (s.seatAt c n).registers :=
  congrFun (congrFun (congrArg (fun q => q.2.2) h) c) n

/-- No byte of a memory and no register of a seat has changed. -/
def Unchanged (s t : State) : Prop :=
  (∀ p : Place, p.read t 1 = p.read s 1) ∧
  (∀ (c : CoreId) (n : Nat), (t.seatAt c n).x = (s.seatAt c n).x ∧ (t.seatAt c n).p = (s.seatAt c n).p ∧
    (t.seatAt c n).k = (s.seatAt c n).k) ∧
  ∀ (c : CoreId) (n : Nat), (t.seatAt c n).v = (s.seatAt c n).v

theorem unchanged_of_kept (h : t.kept = s.kept) : Unchanged s t := by
  refine ⟨read_of_kept h, fun c n => ?_, fun c n => congrArg (fun r => r.2.2.1) (registers_of_kept h c n)⟩
  have registers := registers_of_kept h c n
  exact ⟨congrArg (fun r => r.1) registers, congrArg (fun r => r.2.1) registers, congrArg (fun r => r.2.2.2) registers⟩

theorem unchanged_of_keeps {r : Result} (h : Keeps s s r) (run : r = .next t) : Unchanged s t :=
  unchanged_of_kept (or_self_iff.1 (h t run))

theorem seatAt_tagged (s : State) (v tag : BitVec 4) :
    (tagged s v tag).seatAt s.core s.seat.val = s.thisSeat.setV v { s.thisSeat.getV v with tag := tag } :=
  ((tagged s v tag).thisSeat_eq).symm.trans (s.thisSeat_updThisSeat _)

theorem seatAt_tagged_other (s : State) (v tag : BitVec 4) {c : CoreId} {n : Nat} (other : c ≠ s.core ∨ n ≠ s.seat.val) :
    (tagged s v tag).seatAt c n = s.seatAt c n := by
  rw [tagged, ← State.updSeatAt_running, seatAt_updSeatAt_other s _ other]

/-- No byte of a memory and no register of a seat has changed, except for the tag of `v` in the running seat. -/
def UnchangedButTag (s : State) (v : BitVec 4) (t : State) : Prop :=
  (∀ p : Place, p.read t 1 = p.read s 1) ∧
  (∀ (c : CoreId) (n : Nat), (t.seatAt c n).x = (s.seatAt c n).x ∧ (t.seatAt c n).p = (s.seatAt c n).p ∧
    (t.seatAt c n).k = (s.seatAt c n).k) ∧
  (∀ r, r ≠ v → (t.seatAt s.core s.seat.val).getV r = s.thisSeat.getV r) ∧
  ((t.seatAt s.core s.seat.val).getV v).data = (s.thisSeat.getV v).data ∧
  ((t.seatAt s.core s.seat.val).getV v).sc = (s.thisSeat.getV v).sc ∧
  ∀ (c : CoreId) (n : Nat), c ≠ s.core ∨ n ≠ s.seat.val → (t.seatAt c n).v = (s.seatAt c n).v

theorem unchangedButTag_of_unchanged {v : BitVec 4} (h : Unchanged s t) : UnchangedButTag s v t := by
  obtain ⟨bytes, others, vectors⟩ := h
  have here (r : BitVec 4) : (t.seatAt s.core s.seat.val).getV r = s.thisSeat.getV r := by
    rw [s.thisSeat_eq]
    simp only [Seat.getV, vectors]
  exact ⟨bytes, others, fun r _ => here r, congrArg VReg.data (here v), congrArg VReg.sc (here v), fun c n _ => vectors c n⟩

theorem unchangedButTag_tagged (s : State) (v tag : BitVec 4) : UnchangedButTag s v (tagged s v tag) := by
  refine ⟨Place.read_of_bytes (bytes_updThisSeat s _) 1, fun c n => ?others, fun r other => ?_, ?_, ?_, fun c n other => ?_⟩
  case others =>
    by_cases other : c ≠ s.core ∨ n ≠ s.seat.val
    · simp only [seatAt_tagged_other s v tag other, and_self]
    · obtain ⟨rfl, rfl⟩ : c = s.core ∧ n = s.seat.val := by simpa only [not_or, not_not] using other
      simp only [seatAt_tagged, Seat.setV_x, Seat.setV_p, Seat.setV_k, s.thisSeat_eq, and_self]
  · rw [seatAt_tagged]
    exact s.thisSeat.getV_setV_other _ other
  · rw [seatAt_tagged, Seat.getV_setV]
  · rw [seatAt_tagged, Seat.getV_setV]
  · rw [seatAt_tagged_other s v tag other]

theorem unchangedButTag_of_kept {u : State} {v : BitVec 4} (h : UnchangedButTag s v u) (kept : t.kept = u.kept) :
    UnchangedButTag s v t := by
  obtain ⟨bytes, others, vectors⟩ := unchanged_of_kept kept
  simpa only [UnchangedButTag, bytes, others, Seat.getV, vectors] using h

end Says

/-- Settles O52: every access leaves by a request, a trap, a wait or a walk, which keep the bytes and the registers. -/
theorem memoryInstructionIssueFrame : Obligations.MemoryInstructionIssueFrame := by
  intro s t c sw d a b o h3 i3 j3 z v y x k
  refine ⟨?plain, fun run => ?vld⟩
  case plain =>
    refine fun i mem => unchanged_of_keeps ?_
    revert i
    simp only [List.forall_mem_cons, List.not_mem_nil, false_implies, implies_true, and_true]
    exact ⟨load_keeps, load_keeps, load_keeps, load_keeps, load_keeps, load_keeps, load_keeps, load_keeps, load_keeps, store_keeps,
      store_keeps, store_keeps, store_keeps, store_keeps, store_keeps, sync_keeps, sync_keeps, sync_keeps, sync_keeps,
      load_keeps, load_keeps, store_keeps, store_keeps, atomic_keeps, atomic_keeps, atomic_keeps, atomic_keeps, atomic_keeps,
      atomic_keeps, atomic_keeps, atomic_keeps, atomic_keeps, atomic_keeps, atomic_keeps, execVst_keeps, execVldSc_keeps,
      execVstSc_keeps, gather_keeps, gather_keeps, scatter_keeps, scatter_keeps⟩
  case vld =>
    obtain same | tag := execVld_keeps t run
    · exact unchangedButTag_of_unchanged (unchanged_of_kept same)
    · exact unchangedButTag_of_kept (unchangedButTag_tagged s v x) tag

end Sys2Proof.Machine
end

section
/-! What the points of order leave (R92, R142, R144, R150, R180, R181): an access changes the bytes of its piece alone, and no
seat. -/

namespace Sys2Proof.Machine

/-! ### Frames -/

/-- Every byte outside `P` and every seat is as before. -/
def ChangesOnly (P : Place → Prop) (s t : State) : Prop :=
  (∀ q : Place, ¬ P q → q.read t 1 = q.read s 1) ∧ ∀ (c : CoreId) (n : Nat), t.seatAt c n = s.seatAt c n

section Frames

variable {P Q : Place → Prop} {s t u : State}

theorem changesOnly_of_contents (h : t.contents = s.contents) : ChangesOnly P s t :=
  ⟨fun q _ => Place.read_of_bytes (congrArg (fun k => k.2.1) h) 1 q,
    fun c n => congrFun (congrFun (congrArg (fun k => k.2.2) h) c) n⟩

theorem ChangesOnly.refl (s : State) : ChangesOnly P s s := changesOnly_of_contents rfl

theorem ChangesOnly.trans (h : ChangesOnly P s t) (g : ChangesOnly P t u) : ChangesOnly P s u := by
  obtain ⟨bytes, seats⟩ := h
  obtain ⟨bytes', seats'⟩ := g
  exact ⟨fun q out => (bytes' q out).trans (bytes q out), fun c n => (seats' c n).trans (seats c n)⟩

theorem ChangesOnly.mono (h : ChangesOnly P s t) (wider : ∀ q, P q → Q q) : ChangesOnly Q s t := by
  obtain ⟨bytes, seats⟩ := h
  exact ⟨fun q out => bytes q fun inP => out (wider q inP), seats⟩

theorem ChangesOnly.then (h : ChangesOnly P s t) (same : u.contents = t.contents) : ChangesOnly P s u :=
  h.trans (changesOnly_of_contents same)

theorem ChangesOnly.after (same : t.contents = s.contents) (h : ChangesOnly P t u) : ChangesOnly P s u :=
  (changesOnly_of_contents same).trans h

end Frames

/-- The `n` bytes from a place. -/
def Place.Within (d : Place) (n : Nat) (q : Place) : Prop :=
  match q, d with
  | .sp c a, .sp c' b => c = c' ∧ b ≤ a ∧ a < b + n
  | .ws c a, .ws c' b => c = c' ∧ b ≤ a ∧ a < b + n
  | .co c a, .co c' b => c = c' ∧ b ≤ a ∧ a < b + n
  | .hbm a _, .hbm b _ => b ≤ a ∧ a < b + n
  | _, _ => False

theorem Place.within_mono {d : Place} {n m : Nat} (le : n ≤ m) {q : Place} (h : d.Within n q) : d.Within m q := by
  have longer {a b : Nat} (inside : b ≤ a ∧ a < b + n) : b ≤ a ∧ a < b + m := inside.imp_right fun lt => by omega
  cases d <;> cases q
  case sp.sp => exact h.imp_right longer
  case ws.ws => exact h.imp_right longer
  case co.co => exact h.imp_right longer
  case hbm.hbm => exact longer h
  all_goals exact h.elim

/-- The bytes of a word of a scratchpad. -/
def InWord (c : CoreId) (word : Nat) : Place → Prop
  | .sp c' a => c' = c ∧ a / 4 = word
  | _ => False

/-- A byte outside a range is read as before the range is written. -/
theorem getBytes_one_setBytes (m : Memory) {a b n v : Nat} (out : ¬ (b ≤ a ∧ a < b + n)) :
    getBytes (setBytes m b n v) a 1 = getBytes m a 1 :=
  getBytes_setBytes_outside m (by omega)

/-- A scratchpad written changes the bytes written. -/
theorem changesOnly_setSp (s : State) (c : CoreId) {f : Core → Core} {a n v : Nat}
    (sp : (f (s.getCore c)).sp = setBytes (s.getCore c).sp a n v) (seats : (f (s.getCore c)).seats = (s.getCore c).seats) :
    ChangesOnly (Place.Within (.sp c a) n) s (s.updCore c f) := by
  refine ⟨fun q out => ?_, s.seatAt_updCore_seats c f seats⟩
  cases q with
  | sp d b =>
    by_cases e : d = c
    · subst e
      rw [Place.read, State.updCore, State.getCore_setCore, sp]
      exact getBytes_one_setBytes _ fun inside => out ⟨rfl, inside⟩
    · rw [Place.read, State.updCore, State.getCore_setCore_other s _ e, Place.read]
  | ws | co | hbm | walker => rfl

theorem changesOnly_write (s : State) (n : Nat) (mask data : BitVec 64) (d : Place) :
    ChangesOnly (d.Within n) s (d.write s n mask data) := by
  cases d with
  | sp c a => exact changesOnly_setSp s c rfl rfl
  | ws | walker => exact .refl s
  | co p a =>
    refine ⟨fun q out => ?_, fun _ _ => rfl⟩
    cases q with
    | co p' b =>
      by_cases e : p' = p
      · subst e
        simp only [Place.read, Place.write, tget_tset_same]
        exact getBytes_one_setBytes _ fun inside => out ⟨rfl, inside⟩
      · simp only [Place.read, Place.write, tget_tset_other _ _ _ e]
    | sp | ws | hbm | walker => rfl
  | hbm a msa =>
    refine ⟨fun q out => ?_, fun _ _ => rfl⟩
    cases q with
    | hbm b _ => exact getBytes_one_setBytes _ fun inside => out inside
    | sp | ws | co | walker => rfl

/-! ### What changes neither a byte nor a seat -/

@[simp] theorem contents_updPiece (s : State) (id i : Nat) (f : Piece → Piece) : (updPiece s id i f).contents = s.contents := rfl

@[simp] theorem contents_arrived (s : State) (r : Req) (p : Piece) : (arrived s r p).contents = s.contents := by
  unfold arrived
  split <;> rfl

@[simp] theorem contents_takeCopy (s : State) (r : Req) (i : Nat) (p : Piece) : (takeCopy s r i p).contents = s.contents := by
  unfold takeCopy
  split <;> rfl

theorem contents_answerPiece (s : State) (r : Req) (i : Nat) (p : Piece) : (answerPiece s r i p).contents = s.contents := by
  unfold answerPiece
  split <;> rfl

@[simp] theorem contents_sendAnswer (s : State) (req i : Nat) : (sendAnswer s req i).contents = s.contents := by
  unfold sendAnswer
  split
  · rfl
  · split
    · rfl
    · exact contents_answerPiece ..

theorem contents_fillL1 (s : State) (c : CoreId) (pa : Nat) : (fillL1 s c pa).contents = s.contents := by
  unfold fillL1
  dsimp only
  split
  · exact contents_setCore s c _ rfl rfl
  · exact contents_setCore s.ticked c _ rfl rfl

theorem contents_drainL1 (s : State) (r : Req) (p : Piece) (pa : Nat) : (drainL1 s r p pa).contents = s.contents := by
  have stored := contents_updCore s r.core (fun k => l1Store k p) (l1Store_sp ..) (l1Store_seats ..)
  rw [drainL1, apply_ite State.contents, stored, ite_self]

theorem contents_takeWord (c : Option CoreId) (id i : Nat) (s : State) (word : Nat) : (takeWord c id i s word).contents = s.contents := by
  unfold takeWord
  dsimp only
  split
  · split <;> rfl
  · rfl

theorem contents_ownWord (s : State) (c : CoreId) (word : Nat) : (ownWord s c word).contents = s.contents := by
  unfold ownWord
  split
  · rfl
  · exact contents_updCore s c _ rfl rfl

/-- A line that some of `n` bytes from `pa` lie in, without its words. -/
def L1Line.dropped (pa n : Nat) (l : L1Line) : L1Line :=
  if pa < 128 * l.line + 128 ∧ 128 * l.line < pa + n then { l with words := [] } else l

def Core.withoutReplicas (pa n : Nat) (k : Core) : Core := { k with l1 := k.l1.map (L1Line.dropped pa n) }

theorem getCore_dropReplicas (s : State) (pa n : Nat) (c : CoreId) :
    (dropReplicas s pa n).getCore c = (s.getCore c).withoutReplicas pa n :=
  tget_map (Core.withoutReplicas pa n) {} s.cores c

theorem contents_dropReplicas (s : State) (pa n : Nat) : (dropReplicas s pa n).contents = s.contents := by
  refine contents_ext rfl rfl (bytes_ext rfl rfl (fun _ => rfl) fun c => ?_) fun c m => ?_
  · rw [getCore_dropReplicas]
    rfl
  · rw [State.seatAt, getCore_dropReplicas]
    rfl

theorem contents_changeWords (owner : Option CoreId) (id i pa n : Nat) (words : List Nat) (s : State) :
    (changeWords owner id i pa n words s).contents = s.contents := by
  have taken (c : Option CoreId) : (words.foldl (takeWord c id i) (markDirty s pa)).contents = s.contents :=
    contents_foldl _ (contents_takeWord c id i) words (markDirty s pa)
  unfold changeWords
  dsimp only
  split
  · exact (contents_dropReplicas ..).trans (taken _)
  · split
    · exact (contents_foldl _ (fun s w => contents_ownWord s _ w) words _).trans (taken _)
    · exact taken _

theorem contents_unpoison (s : State) (g : Nat) (d : Place) : (d.unpoison s g).contents = s.contents := by
  cases d with
  | sp c a => exact contents_updCore s c _ rfl rfl
  | ws c a => exact contents_updCluster s c _ rfl
  | co | hbm | walker => rfl

theorem contents_performLoad (s : State) (r : Req) (i : Nat) (p : Piece) : (performLoad s r i p).contents = s.contents := by
  unfold performLoad
  split
  · rfl
  · dsimp only
    split
    · split
      · exact contents_fillL1 ..
      · rfl
    · rfl

theorem contents_performWb (s : State) (r : Req) (i : Nat) (p : Piece) : (performWb s r i p).contents = s.contents := by
  unfold performWb
  dsimp only
  split <;> rfl

/-! ### What a piece changes at its point of order -/

theorem changesOnly_performStore (s : State) (r : Req) (i : Nat) (p : Piece) :
    ChangesOnly (p.dst.Within p.len) s (performStore s r i p) := by
  unfold performStore
  dsimp only
  split
  · exact .refl s
  · have written := changesOnly_write s p.len p.mask p.data p.dst
    have cleared (l : List Nat) := written.then (contents_foldl (fun s g => if allDone r i p.dst g then p.dst.unpoison s g else s)
      (fun s g => by split <;> [exact contents_unpoison ..; rfl]) l _)
    split
    · exact (cleared _).then ((contents_changeWords ..).trans (contents_drainL1 ..))
    · exact cleared _

theorem changesOnly_performAmo (s : State) (r : Req) (i : Nat) (p : Piece) (op : AmoOp) (size : Nat) (b d : Word) :
    ChangesOnly (p.dst.Within size) s (performAmo s r i p op size b d) := by
  unfold performAmo
  dsimp only
  split
  · exact .refl s
  · have written := changesOnly_write s size p.mask (BitVec.ofNat 64 (amoValue op (8 * size) (p.dst.read s size) b.toNat d.toNat)) p.dst
    split
    · exact written.then ((contents_updCore _ r.core (fun k => l1Drop k _) rfl rfl).trans (contents_changeWords ..))
    · exact written

/-- A word filled changes its own four bytes. -/
theorem changesOnly_fillWord (s : State) (c : CoreId) (word : Nat) (data : BitVec 64) :
    ChangesOnly (InWord c word) s (s.updCore c fun k =>
      { k with sp := setBytes k.sp (4 * word) 4 data.toNat, full := sins k.full word, spPoison := sdel k.spPoison word }) := by
  refine (changesOnly_setSp s c rfl rfl).mono fun q inside => ?_
  cases q with
  | sp d b =>
    obtain ⟨rfl, lo, hi⟩ := inside
    exact ⟨rfl, by omega⟩
  | ws | co | hbm | walker => exact inside.elim

theorem changesOnly_trySync {s t : State} {owner : CoreId} {word : Nat} {r : Req} {p : Piece} (h : trySync s owner word r p = some t) :
    ChangesOnly (InWord owner word) s t := by
  unfold trySync at h
  dsimp only at h
  split at h
  case h_1 =>
    split at h
    · cases h
      exact .refl s
    · split at h <;> cases h
      exact .refl s
  case h_2 =>
    split at h
    · cases h
      exact .refl s
    · split at h <;> cases h
      exact changesOnly_of_contents (contents_updCore s owner (fun k => { k with full := sdel k.full word }) rfl rfl)
  case h_3 =>
    split at h <;> cases h
    exact changesOnly_fillWord ..
  case h_4 =>
    cases h
    exact changesOnly_fillWord ..

theorem changesOnly_serveWord (owner : CoreId) (word n : Nat) (s : State) :
    ChangesOnly (InWord owner word) s (serveWord owner word n s) := by
  induction n generalizing s with
  | zero => exact .refl s
  | succ n ih =>
    unfold serveWord
    dsimp only
    split
    case h_1 id s' e =>
      obtain ⟨w, -, hw⟩ := List.exists_of_findSome?_eq_some e
      split at hw
      · obtain ⟨t, ht, e⟩ := Option.map_eq_some_iff.1 hw
        obtain ⟨q, -, hq⟩ := Option.bind_eq_some_iff.1 ht
        cases e
        exact ((changesOnly_trySync hq).then (contents_updCore s' owner _ rfl rfl)).trans (ih _)
      · cases hw
    case h_2 => exact .refl s

theorem changesOnly_setFull (s : State) (owner : CoreId) (word : Nat) (full : Bool) :
    ChangesOnly (InWord owner word) s (setFull s owner word full) :=
  .after (contents_updCore s owner _ rfl rfl) (changesOnly_serveWord ..)

theorem changesOnly_arriveSync (s : State) (r : Req) (p : Piece) (owner : CoreId) (word : Nat) :
    ChangesOnly (InWord owner word) s (arriveSync s r p owner word) := by
  unfold arriveSync
  split
  case h_1 t served => exact (changesOnly_trySync served).trans (changesOnly_serveWord ..)
  case h_2 => exact changesOnly_of_contents (contents_updCore (updPiece s r.id 0 _) owner _ rfl rfl)

/-- The bytes of a piece, and those of the scratchpad word in which it lies. -/
def Piece.Synced (p : Piece) (q : Place) : Prop :=
  p.dst.Within p.len q ∨ match q, p.dst with
    | .sp c a, .sp c' b => c = c' ∧ a / 4 = b / 4
    | _, _ => False

theorem synced_of_inWord {p : Piece} {c : CoreId} {off : Nat} (place : p.dst = .sp c off) (q : Place) (h : InWord c (off / 4) q) :
    p.Synced q := by
  cases q with
  | sp d b => exact .inr (by rw [place]; exact h)
  | ws | co | hbm | walker => exact h.elim

theorem changesOnly_syncWord (s : State) (r : Req) (i : Nat) (p : Piece) : ChangesOnly p.Synced s (syncWord s r i p) := by
  unfold syncWord
  split
  case h_1 c off place =>
    have atWord {u v : State} (h : ChangesOnly (InWord c (off / 4)) u v) : ChangesOnly p.Synced u v := h.mono (synced_of_inWord place)
    split
    · have stored : ChangesOnly p.Synced s (performStore s r i p) := (changesOnly_performStore s r i p).mono fun _ => .inl
      dsimp only
      split
      · exact stored.trans (atWord (changesOnly_setFull ..))
      · exact stored
    · split
      · exact .refl s
      · split
        · exact atWord (changesOnly_arriveSync ..)
        · exact .after (contents_updPiece s r.id i _) (atWord (changesOnly_setFull ..))
  case h_2 => exact .refl s

/-! ### Steps -/

/-- A piece that comes to its point of order, or another copy of it, changes what its effect changes. -/
theorem changesOnly_atHome {P : Place → Prop} {s : State} {req i : Nat} {ok : Req → Piece → Bool}
    {f : State → Req → Nat → Piece → State} (h : ∀ u r p, findPiece s req i = some (r, p) → ChangesOnly P u (f u r i p)) :
    ChangesOnly P s (atHome s req i ok f) := by
  unfold atHome
  split
  case h_1 => exact .refl s
  case h_2 r p found =>
    split
    · exact .refl s
    have effect (u : State) : ChangesOnly P u (f u r i p) := h u r p found
    split
    · have came : (takeCopy (arrived s r p) r i p).contents = s.contents := (contents_takeCopy ..).trans (contents_arrived ..)
      dsimp only
      split
      · exact changesOnly_of_contents came
      · exact (ChangesOnly.after came (effect _)).then (contents_sendAnswer ..)
    split
    · have taken := contents_takeCopy s r i p
      unfold again
      dsimp only
      split
      · exact changesOnly_of_contents taken
      · exact iteInduction (fun _ => (ChangesOnly.after taken (effect _)).then (contents_sendAnswer ..))
          fun _ => changesOnly_of_contents ((contents_sendAnswer ..).trans taken)
    · exact .refl s

theorem changesOnly_atHome_found {P : Place → Prop} {s : State} {req i : Nat} {r : Req} {p : Piece} {ok : Req → Piece → Bool}
    {f : State → Req → Nat → Piece → State} (found : findPiece s req i = some (r, p)) (h : ∀ u, ChangesOnly P u (f u r i p)) :
    ChangesOnly P s (atHome s req i ok f) :=
  changesOnly_atHome fun u r' p' found' => by
    obtain ⟨rfl, rfl⟩ := Prod.mk.inj (Option.some.inj (found.symm.trans found'))
    exact h u

theorem atHome_of_none {s : State} {req i : Nat} {ok : Req → Piece → Bool} {f : State → Req → Nat → Piece → State}
    (none : findPiece s req i = none) : atHome s req i ok f = s := by
  rw [atHome, none]

theorem changesOnly_peerPlain (s : State) (r : Req) (i : Nat) (p : Piece) :
    ChangesOnly (p.dst.Within p.len) s (peerPlain s r i p) := by
  unfold peerPlain
  split
  · exact .refl s
  · split
    · exact changesOnly_performStore ..
    · exact changesOnly_of_contents (contents_performLoad ..)

theorem contents_peerPlain (s : State) {r : Req} (i : Nat) (p : Piece) (load : r.op ≠ .store) :
    (peerPlain s r i p).contents = s.contents := by
  unfold peerPlain
  rw [if_neg load]
  split
  · rfl
  · exact contents_performLoad ..

/-- A step leaves every byte and seat as it is. -/
abbrev ChangesNothing : State → State → Prop := ChangesOnly fun _ => False

theorem changesNothing_revocation (s : State) (rev : Nat) {t : State} (run : execRevocation rev s = .next t) : ChangesNothing s t := by
  cases run
  split
  case h_1 k v sent known =>
    exact changesOnly_of_contents (contents_updCore (dropPacket s k.id) v.core (fun c => invalidateWord c v.word) rfl rfl)
  case h_2 => exact .refl s

theorem changesNothing_revocationAck (s : State) (rev : Nat) {t : State} (run : execRevocationAck rev s = .next t) :
    ChangesNothing s t := by
  cases run
  split
  · dsimp only
    split
    · split
      · exact changesOnly_of_contents (contents_sendAnswer ..)
      · exact .refl s
    · exact .refl s
  · exact .refl s

theorem all_of_changesNothing {s t : State} (h : ChangesNothing s t) :
    (∀ q : Place, q.read t 1 = q.read s 1) ∧ ∀ (c : CoreId) (n : Nat), t.seatAt c n = s.seatAt c n :=
  h.imp_left fun bytes q => bytes q not_false

/-- Settles O53: each event of a piece is `atHome` of an effect that changes the bytes of its piece alone. -/
theorem pointOfOrderFrame : Obligations.PointOfOrderFrame := by
  intro s t req i r p
  refine ⟨fun run => ?load, fun run => all_of_changesNothing (changesNothing_revocation s req run),
    fun run => all_of_changesNothing (changesNothing_revocationAck s req run), fun none => ?none,
    fun found => ⟨fun run => ?store, fun run => ?peer, fun run => ?sync⟩, fun found sized run => ?atomic⟩
  case load =>
    cases run
    exact all_of_changesNothing (changesOnly_atHome fun u r p _ => changesOnly_of_contents (contents_performLoad u r i p))
  case none =>
    exact ⟨congrArg _ (atHome_of_none none), congrArg _ (atHome_of_none none), congrArg _ (atHome_of_none none),
      congrArg _ (atHome_of_none none)⟩
  case store =>
    cases run
    refine changesOnly_atHome_found found fun u => ?_
    split
    · exact changesOnly_of_contents (contents_performWb ..)
    · exact changesOnly_performStore ..
  case peer =>
    cases run
    refine and_assoc.1 ⟨changesOnly_atHome_found found fun u => changesOnly_peerPlain u r i p, fun load => ?_⟩
    exact (all_of_changesNothing
      (changesOnly_atHome_found found fun u => changesOnly_of_contents (contents_peerPlain u i p load))).1
  case sync =>
    cases run
    obtain ⟨bytes, seats⟩ := changesOnly_atHome_found found fun u => changesOnly_syncWord u r i p
    exact ⟨fun q out outWord => bytes q (not_or.2 ⟨out, outWord⟩), seats⟩
  case atomic =>
    cases run
    refine changesOnly_atHome_found found fun u => ?_
    split
    case h_1 op size b d isAmo =>
      exact (changesOnly_performAmo ..).mono fun q => Place.within_mono (sized op size b d isAmo)
    case h_2 => exact .refl u

end Sys2Proof.Machine
end

section
/-! What a destination holds once a part of a request has returned (R138). -/

namespace Sys2Proof.Machine

/-! ### The bits of a merged destination -/

theorem add_eq_or_of_disjoint {x y : Nat} (h : x &&& y = 0) : x + y = x ||| y := by
  have small : x + y < 2 ^ (x + y) := Nat.lt_two_pow_self
  have ofX : (BitVec.ofNat (x + y) x).toNat = x := by rw [BitVec.toNat_ofNat, Nat.mod_eq_of_lt (by omega)]
  have ofY : (BitVec.ofNat (x + y) y).toNat = y := by rw [BitVec.toNat_ofNat, Nat.mod_eq_of_lt (by omega)]
  have disjoint : BitVec.ofNat (x + y) x &&& BitVec.ofNat (x + y) y = 0#(x + y) := by
    apply BitVec.eq_of_toNat_eq
    rw [BitVec.toNat_and, ofX, ofY, h, BitVec.toNat_ofNat, Nat.zero_mod]
  have sum := congrArg BitVec.toNat (BitVec.add_eq_or_of_and_eq_zero _ _ disjoint)
  rwa [BitVec.toNat_add, BitVec.toNat_or, ofX, ofY, Nat.mod_eq_of_lt small] at sum

/-- The bits of `v` outside a mask. -/
theorem sub_and_eq_xor (v m : Nat) : v - (v &&& m) = v ^^^ (v &&& m) := by
  have disjoint : (v &&& m) &&& (v ^^^ (v &&& m)) = 0 := by
    apply Nat.eq_of_testBit_eq
    intro i
    simp only [Nat.testBit_and, Nat.testBit_xor, Nat.zero_testBit]
    cases v.testBit i <;> cases m.testBit i <;> rfl
  have whole : (v &&& m) ||| (v ^^^ (v &&& m)) = v := by
    apply Nat.eq_of_testBit_eq
    intro i
    simp only [Nat.testBit_and, Nat.testBit_xor, Nat.testBit_or]
    cases v.testBit i <;> cases m.testBit i <;> rfl
  have sum := add_eq_or_of_disjoint disjoint
  omega

/-- A field put under a mask. -/
theorem testBit_put (v m d i : Nat) :
    (v - (v &&& m) + (d &&& m)).testBit i = if m.testBit i then d.testBit i else v.testBit i := by
  have disjoint : (v ^^^ (v &&& m)) &&& (d &&& m) = 0 := by
    apply Nat.eq_of_testBit_eq
    intro i
    simp only [Nat.testBit_and, Nat.testBit_xor, Nat.zero_testBit]
    cases v.testBit i <;> cases m.testBit i <;> simp
  rw [sub_and_eq_xor, add_eq_or_of_disjoint disjoint]
  simp only [Nat.testBit_and, Nat.testBit_xor, Nat.testBit_or]
  cases m.testBit i <;> simp

theorem testBit_sliceAt (v : Nat) (bit : Int) {n i : Nat} (lt : i < n) :
    (sliceAt v bit n).testBit i = (decide (0 ≤ (i : Int) + bit) && v.testBit ((i : Int) + bit).toNat) := by
  unfold sliceAt
  split
  case isTrue right =>
    rw [Nat.testBit_mod_two_pow, Nat.testBit_div_two_pow, decide_eq_true lt, decide_eq_true (by omega : 0 ≤ (i : Int) + bit),
      (by omega : ((i : Int) + bit).toNat = i + bit.toNat)]
  case isFalse left =>
    rw [Nat.testBit_mod_two_pow, Nat.testBit_mul_two_pow, decide_eq_true lt, Bool.true_and,
      (by omega : ((i : Int) + bit).toNat = i - (-bit).toNat)]
    congr 1
    exact decide_eq_decide.2 (by omega)

theorem testBit_window {n q i : Nat} (pos : 0 < n / 4) : (window n q).testBit i = decide (i / (n / 4) = q) := by
  rw [window, Nat.testBit_mul_two_pow, Nat.testBit_two_pow_sub_one, ← Bool.decide_and, decide_eq_decide, Nat.div_eq_iff pos]
  rw [Nat.mul_comm q]
  omega

/-- A piece covers bit `i` of its destination with its bit `j`. -/
def Piece.Covers (p : Piece) (i j : Nat) : Prop := j < 64 ∧ (i : Int) = p.bit + j ∧ p.mask.getLsbD j = true

theorem testBit_pieceMask {n i : Nat} (p : Piece) (lt : i < n) : (pieceBits n p).1.testBit i = true ↔ ∃ j, p.Covers i j := by
  rw [pieceBits, testBit_sliceAt _ _ lt, Bool.and_eq_true, decide_eq_true_iff, BitVec.testBit_toNat]
  constructor
  · rintro ⟨le, set⟩
    exact ⟨_, BitVec.lt_of_getLsbD set, by omega, set⟩
  · rintro ⟨j, -, place, set⟩
    exact ⟨by omega, by rwa [(by omega : ((i : Int) + -p.bit).toNat = j)]⟩

theorem testBit_pieceData {n i j : Nat} {p : Piece} (lt : i < n) (h : p.Covers i j) :
    (pieceBits n p).2.testBit i = p.data.getLsbD j := by
  obtain ⟨-, place, set⟩ := h
  rw [pieceBits, testBit_sliceAt _ _ lt, decide_eq_true (by omega : 0 ≤ (i : Int) + -p.bit), Bool.true_and, BitVec.testBit_toNat,
    (by omega : ((i : Int) + -p.bit).toNat = j), BitVec.getLsbD_and, set, Bool.and_true]

section Merge

variable {n q i j old : Nat} {ps : List Piece} {p : Piece} (pos : 0 < n / 4) (lt : i < n)

include pos lt

/-- One piece merged into a destination. -/
theorem testBit_mergePieces_cons (p : Piece) (ps : List Piece) (old : Nat) : ∃ old',
    mergePieces n (window n q) old (p :: ps) = mergePieces n (window n q) old' ps ∧
      (i / (n / 4) = q ∧ (∃ j, p.Covers i j) → old'.testBit i = (pieceBits n p).2.testBit i) ∧
      (¬ (i / (n / 4) = q ∧ ∃ j, p.Covers i j) → old'.testBit i = old.testBit i) := by
  have covered : ((pieceBits n p).1 &&& window n q).testBit i = true ↔ i / (n / 4) = q ∧ ∃ j, p.Covers i j := by
    rw [Nat.testBit_and, Bool.and_eq_true, testBit_pieceMask p lt, testBit_window pos, decide_eq_true_iff, and_comm]
  refine ⟨_, rfl, fun inside => ?_, fun outside => ?_⟩
  · rw [testBit_put, if_pos (covered.2 inside)]
  · rw [testBit_put, if_neg (mt covered.1 outside)]

/-- A bit that no piece covers in the part that returns is kept. -/
theorem testBit_mergePieces_kept (h : i / (n / 4) ≠ q ∨ ∀ p ∈ ps, ∀ j, ¬ p.Covers i j) :
    (mergePieces n (window n q) old ps).testBit i = old.testBit i := by
  induction ps generalizing old with
  | nil => rfl
  | cons p ps ih =>
    obtain ⟨old', e, -, kept⟩ := testBit_mergePieces_cons (q := q) pos lt p ps old
    have outside : ¬ (i / (n / 4) = q ∧ ∃ j, p.Covers i j) := by
      rintro ⟨part, j, covers⟩
      exact h.elim (· part) fun none => none p List.mem_cons_self j covers
    rw [e, ih (h.imp_right fun none p m => none p (List.mem_cons_of_mem _ m)), kept outside]

/-- Where every piece that covers a bit gives it one value, and one does or the bit has that value already, it is the bit's value. -/
theorem testBit_mergePieces_agree {b : Bool} (part : i / (n / 4) = q)
    (agree : ∀ p ∈ ps, ∀ j, p.Covers i j → p.data.getLsbD j = b) (some : old.testBit i = b ∨ ∃ p ∈ ps, ∃ j, p.Covers i j) :
    (mergePieces n (window n q) old ps).testBit i = b := by
  induction ps generalizing old with
  | nil => exact some.resolve_right fun ⟨_, m, _⟩ => List.not_mem_nil m
  | cons p ps ih =>
    obtain ⟨old', e, put, kept⟩ := testBit_mergePieces_cons (q := q) pos lt p ps old
    rw [e]
    refine ih (fun p m => agree p (List.mem_cons_of_mem _ m)) ?_
    by_cases covers : ∃ j, p.Covers i j
    · obtain ⟨j, covers⟩ := covers
      rw [put ⟨part, j, covers⟩, testBit_pieceData lt covers]
      exact .inl (agree p List.mem_cons_self j covers)
    · rw [kept fun h => covers h.2]
      refine some.imp_right fun ⟨p', m, covers'⟩ => ⟨p', (List.mem_cons.1 m).resolve_left fun e => ?_, covers'⟩
      exact covers (e ▸ covers')

theorem testBit_mergePieces_only (part : i / (n / 4) = q) (m : p ∈ ps) (covers : p.Covers i j)
    (only : ∀ p' ∈ ps, ∀ j, p'.Covers i j → p' = p) : (mergePieces n (window n q) old ps).testBit i = p.data.getLsbD j := by
  refine testBit_mergePieces_agree pos lt part (fun p' m' j' covers' => ?_) (.inr ⟨p, m, j, covers⟩)
  obtain rfl := only p' m' j' covers'
  obtain ⟨-, place, -⟩ := covers
  obtain ⟨-, place', -⟩ := covers'
  rw [(by omega : j' = j)]

end Merge

/-! ### Parts written -/

theorem getLsbD_writePart_v (u : Seat) (v : BitVec 4) (r : Req) (q : Nat) {i : Nat} (lt : i < 4096) :
    ((writePart u (.v v) r q).getV v).data.getLsbD i =
      (mergePieces 4096 (window 4096 q) (u.getV v).data.toNat r.pieces).testBit i := by
  rw [writePart, Seat.getV_setV, BitVec.getLsbD_ofNat, decide_eq_true lt, Bool.true_and]

theorem getLsbD_writePart_sidecar (u : Seat) (v : BitVec 4) (r : Req) (q : Nat) {i : Nat} (lt : i < 256) :
    ((writePart u (.sidecar v) r q).getV v).sc.getLsbD i =
      (mergePieces 256 (window 256 q) (u.getV v).sc.toNat r.pieces).testBit i := by
  rw [writePart, Seat.getV_setV, BitVec.getLsbD_ofNat, decide_eq_true lt, Bool.true_and]

theorem getX_writePart (u : Seat) {d : BitVec 5} {r : Req} {p : Piece} {rest : List Piece} (q : Nat) (pieces : r.pieces = p :: rest)
    (nonzero : d ≠ 0) : (writePart u (.x d) r q).getX d = scalarResult r.op p := by
  rw [writePart, pieces]
  exact (Seat.getX_setX ..).trans (if_neg nonzero)

end Sys2Proof.Machine
end

section
/-! What is found by its number, and what completes (R114, R210, R220, R267). -/

namespace Sys2Proof.Machine

/-! ### Requests and operations by number -/

/-- An entry changed under a number that it keeps is found changed. -/
theorem find?_map_update {α : Type} (key : α → Nat) {f : α → α} (id : Nat) (l : List α) (keeps : ∀ a, key (f a) = key a) :
    (l.map fun a => if key a = id then f a else a).find? (fun a => decide (key a = id)) =
      (l.find? fun a => decide (key a = id)).map f := by
  induction l with
  | nil => rfl
  | cons a l ih =>
    by_cases e : key a = id
    · rw [List.map_cons, if_pos e, List.find?_cons_of_pos (by simpa [keeps] using e), List.find?_cons_of_pos (by simpa using e),
        Option.map_some]
    · rw [List.map_cons, if_neg e, List.find?_cons_of_neg (by simpa using e), List.find?_cons_of_neg (by simpa using e), ih]

theorem id_of_findReq {s : State} {id : Nat} {r : Req} (h : findReq s id = some r) : r.id = id := by
  simpa using List.find?_some h

theorem findOut_eq_some {s : State} {op c n : Nat} {o : Out} (h : findOut s op = some (c, n, o)) :
    n < 8 ∧ (s.seatAt c n).outs.find? (·.id = op) = some o := by
  obtain ⟨core, -, inCore⟩ := List.exists_of_findSome?_eq_some h
  obtain ⟨seat, below, inSeat⟩ := List.exists_of_findSome?_eq_some inCore
  obtain ⟨o', found, e⟩ := Option.map_eq_some_iff.1 inSeat
  cases e
  exact ⟨List.mem_range.1 below, found⟩

theorem id_of_findOut {s : State} {op c n : Nat} {o : Out} (h : findOut s op = some (c, n, o)) : o.id = op := by
  simpa using List.find?_some (findOut_eq_some h).2

/-- An outstanding operation that has been answered, by its number. -/
theorem find?_answer {s : State} {op c n : Nat} {o : Out} (h : findOut s op = some (c, n, o)) (a : Answer) :
    ((answer s c n op a).seatAt c n).outs.find? (·.id = op) = some { o with ans := a } := by
  obtain ⟨below, found⟩ := findOut_eq_some h
  rw [answer, updOut, State.seatAt_updSeatAt_same s c _ below]
  refine (find?_map_update Out.id (f := fun o => { o with ans := a }) op _ fun _ => rfl).trans ?_
  rw [found, Option.map_some]

/-! ### What leaves the outstanding operations -/

theorem raised_updSeatAt (s : State) (c : CoreId) (n : Nat) {f : Seat → Seat} (keeps : ∀ t, (f t).outs = t.outs) :
    (s.updSeatAt c n f).raised = s.raised := by
  have outs (d : CoreId) (m : Nat) : ((s.updSeatAt c n f).seatAt d m).outs = (s.seatAt d m).outs := by
    by_cases other : d ≠ c ∨ m ≠ n
    · rw [seatAt_updSeatAt_other s f other]
    · obtain ⟨rfl, rfl⟩ : d = c ∧ m = n := by simpa only [not_or, not_not] using other
      by_cases below : m < 8
      · rw [State.seatAt_updSeatAt_same s d f below, keeps]
      · rw [State.updSeatAt, State.seatAt, State.setSeatAt, State.updCore, State.getCore_setCore,
          Core.setSeat_beyond _ _ (Nat.not_lt.1 below), State.seatAt]
  exact congrArg (fun g => (s.core, s.seat, g)) (funext fun d => funext (outs d))

theorem raised_dropTlb (s : State) (c : CoreId) (p : Tlb → Bool) : (dropTlb s c p).raised = s.raised := by
  unfold dropTlb
  dsimp only
  split
  · rfl
  · have clustered (u : State) (m : Nat) (f : Cluster → Cluster) : (u.updCluster m f).raised = u.raised := rfl
    split
    · exact raised_updCore _ c _ rfl
    · rw [clustered]
      exact raised_updCore _ c _ rfl

theorem raised_releaseHeld (s : State) (rank : BitVec 16) : (releaseHeld s rank).raised = s.raised := by
  have emitted (l : List Waiting) (u : State) : (l.foldl (fun s w => emit s w.src w.rank w.tc w.body w.mc) u).raised = u.raised := by
    induction l generalizing u with
    | nil => rfl
    | cons w l ih => rw [List.foldl_cons, ih, raised_emit]
  unfold releaseHeld
  exact emitted _ _

theorem raised_finishRankWr (s : State) (rank : Nat) (e : Word) : (finishRankWr s rank e).raised = s.raised := by
  unfold finishRankWr
  dsimp only
  split
  · rfl
  · split
    · exact raised_releaseHeld ..
    · rfl

theorem finishRankWr_present {s : State} {rank : Nat} (e : Word) (present : eTransit (rankEntry s (BitVec.ofNat 16 rank)) = false) :
    finishRankWr s rank e = writeRank s rank e := by
  simp only [finishRankWr, present, Bool.false_and, Bool.false_eq_true, if_false]

/-! ### Completions -/

/-- An operation completes in one step, by its effect. -/
def Pending.inOneStep : Pending → Bool
  | .haulPost .. | .sums .. | .portWr .. => false
  | _ => true

/-- What an operation leaves that has completed: an acquire's invalidation, and `OUT` has fallen. -/
abbrev completed (u : State) (c n op : Nat) (o : Out) : State := lower (if o.acq then acquireInv u c else u) c n op

theorem completeOut_inOneStep {s : State} {c n : Nat} {o : Out} (oneStep : o.what.inOneStep = true) :
    completeOut s c n o = match complete s c n o with
      | none => s
      | some u => if ((u.seatAt c n).outs.find? (·.id = o.id)).any (·.ans matches .error ..) then u else completed u c n o.id o := by
  unfold completeOut
  split
  case h_1 what => simp [what, Pending.inOneStep] at oneStep
  case h_2 what => simp [what, Pending.inOneStep] at oneStep
  case h_3 what => simp [what, Pending.inOneStep] at oneStep
  case h_4 => rfl

section Completes

variable {s u : State} {op i c n : Nat} {o : Out} {val : Word} {w : Pending}

theorem resultReturn_completes (out : findOut s op = some (c, n, o)) (free : findReq s op = none) (ans : o.ans = .value val) :
    exec (.resultReturn op i) s = .next (completeOut s c n o) := by
  change execResultReturn op i s = _
  simp only [execResultReturn, out, free, ans]

variable (out : findOut s op = some (c, n, o)) (free : findReq s op = none) (ans : o.ans = .value val) (what : o.what = w)

include out free ans what

theorem resultReturn_waits (oneStep : w.inOneStep = true) (waits : complete s c n { o with what := w } = none) :
    exec (.resultReturn op i) s = .next s := by
  subst what
  rw [resultReturn_completes out free ans, completeOut_inOneStep oneStep, waits]

theorem resultReturn_fails {cause : BitVec 8} {v : Word} (oneStep : w.inOneStep = true)
    (fails : complete s c n { o with what := w } = some (answer s c n o.id (.error cause v))) :
    exec (.resultReturn op i) s = .next (answer s c n op (.error cause v)) := by
  subst what
  rw [resultReturn_completes out free ans, completeOut_inOneStep oneStep, fails]
  simp only [id_of_findOut out, find?_answer out, Option.any_some, if_true]

theorem resultReturn_done (oneStep : w.inOneStep = true) (done : complete s c n { o with what := w } = some u)
    (outs : u.raised = s.raised) : exec (.resultReturn op i) s = .next (completed u c n op o) := by
  subst what
  have kept : (u.seatAt c n).outs = (s.seatAt c n).outs := congrFun (congrFun (congrArg (fun k => k.2.2) outs) c) n
  rw [resultReturn_completes out free ans, completeOut_inOneStep oneStep, done]
  simp only [id_of_findOut out, kept, (findOut_eq_some out).2, ans, Option.any_some, Bool.false_eq_true, if_false]

theorem resultReturn_unless {b : Prop} [Decidable b] (oneStep : w.inOneStep = true)
    (done : complete s c n { o with what := w } = if b then none else some u) (outs : u.raised = s.raised) :
    exec (.resultReturn op i) s = .next (if b then s else completed u c n op o) := by
  by_cases waits : b
  · rw [if_pos waits] at done ⊢
    exact resultReturn_waits out free ans what oneStep done
  · rw [if_neg waits] at done ⊢
    exact resultReturn_done out free ans what oneStep done outs

end Completes

end Sys2Proof.Machine
end

section
/-! Parts of requests, the stages of a posted packet, returned errors and reply timers (R114, R151, R267, R363, R365, R374, R377). -/

namespace Sys2Proof.Machine

/-! ### Parts of a request's result -/

section Parts

variable {s : State} {op q c n : Nat} {o : Out} {r : Req} (out : findOut s op = some (c, n, o)) (found : findReq s op = some r)
  (noStore : r.op ≠ .store) (done : settled r = true) (noError : reqError r = none)

include out found noStore done noError

theorem resultReturn_part (due : o.left.contains q = true) : exec (.resultReturn op q) s = .next
    (if o.left = [q] then finishReq (s.updSeatAt c n fun t => writePart t o.target r q) c n o r
    else updOut (s.updSeatAt c n fun t => writePart t o.target r q) c n op fun o => { o with left := o.left.erase q }) := by
  have skip : ¬ (r.op = .store || !settled r || (reqError r).isSome || !o.left.contains q) = true := by
    simpa [noStore, done, noError] using due
  change execResultReturn op q s = _
  simp only [execResultReturn, out, found]
  rw [returnPart, if_neg skip, id_of_findOut out]

end Parts

/-! ### A posted packet (R267) -/

theorem queueOpen_iff {v : Word} : queueOpen v = true ↔ v.getLsbD 63 = true ∧ v.getLsbD 62 = false := by
  rw [queueOpen, Bool.and_eq_true, Bool.not_eq_true']

/-- The access of a stage, where its check lets it leave. -/
theorem postAccess_leaves {s : State} {c n op : Nat} {x : Word} {ws : List Word} {st : PostStage} {need : Need}
    {a at' : Word} {size : Nat} {kind : ReqOp} {data : List Word}
    (check : checkBytes s (.op c op) need (byteAddrs a size) = none) :
    postAccess s c n op x ws st kind need a size at' data = atStage (postReq (s.bump.forget (.op c op))
      { id := s.fresh, core := c, seat := n, firing := 0, pc := 0, op := kind, agent := .post op,
        pieces := data.zipIdx.map fun (w, j) =>
          mkPiece (at' + BitVec.ofNat 64 (8 * j)) (placeOf s (.op c op) (at' + BitVec.ofNat 64 (8 * j))) 8 (lowMask 64) w 0 })
      c n op x ws st (some s.fresh) := by
  simp only [postAccess, check]

theorem postAccess_stops {s : State} {c n op : Nat} {x : Word} {ws : List Word} {st : PostStage} {need : Need}
    {a at' : Word} {size : Nat} {kind : ReqOp} {data : List Word} {cause : BitVec 8} {v : Word}
    (check : checkBytes s (.op c op) need (byteAddrs a size) = some (cause, v)) :
    postAccess s c n op x ws st kind need a size at' data =
      if cause = walkCause then askWalk s (.op c op) (s.getCore c).ttRoot (fld v 47 0)
      else answer (s.forget (.op c op)) c n op (.error cause v) := by
  simp only [postAccess, check, fails]

section Posted

variable {s : State} {op i c n : Nat} {o : Out} {val : Word} {x : Word} {ws : List Word} {st : PostStage}
  (out : findOut s op = some (c, n, o)) (free : findReq s op = none) (ans : o.ans = .value val)

include out free ans

theorem resultReturn_haulPost {sub : Option Nat} (what : o.what = .haulPost x ws st sub) :
    exec (.resultReturn op i) s = .next (postOn s c n op x ws st sub) := by
  rw [resultReturn_completes out free ans, completeOut, what, id_of_findOut out]

section StageOver

variable {k : Nat} {r : Req} (what : o.what = .haulPost x ws st (some k)) (found : findReq s k = some r) (done : settled r = true)
  (registered : awaitsRevs s k = false)

include what found done registered

theorem resultReturn_stageFails {cause : BitVec 8} {v : Word} (err : reqError r = some (cause, v)) :
    exec (.resultReturn op i) s = .next (answer (dropReq s k) c n op (.error cause v)) := by
  rw [resultReturn_haulPost out free ans what]
  simp only [postOn, found, done, registered, err, fails, Bool.not_true, Bool.or_false, Bool.false_eq_true, if_false]

theorem resultReturn_stageDone {p : Piece} {rest : List Piece} (noError : reqError r = none) (pieces : r.pieces = p :: rest) :
    exec (.resultReturn op i) s = .next
      (stageDone (dropReq s k) c n op x ws st (r.pieces.all fun p => p.dst matches .hbm _ true) p.data) := by
  have first : (r.pieces.head?.map (·.data)).getD 0 = p.data := by rw [pieces, List.head?_cons, Option.map_some, Option.getD_some]
  rw [resultReturn_haulPost out free ans what, ← first]
  simp only [postOn, found, done, registered, noError, Bool.not_true, Bool.or_false, Bool.false_eq_true, if_false] <;> rfl

end StageOver

end Posted

/-! ### Held packets (R269) -/

theorem dropRecords_eq (g : Cluster) (a : Word) : dropRecords g a = { g with
    records := if a = 0 then [] else g.records.filter (·.1.1 != a)
    chans := g.chans.map fun h => { h with pkt := h.pkt.map fun p =>
      if p.kind = 1 ∧ (a = 0 ∨ p.word 1 = a) then { p with stale := true } else p } } := by
  simp only [dropRecords, Bool.and_eq_true, Bool.or_eq_true, beq_iff_eq]

/-! ### Returned errors -/

/-- What is left when the read of an operation has failed: neither its request nor what waits for its words. -/
abbrev withoutReads (s : State) (op : Nat) : State := dropRcmd (fillUnread (dropReq s op) op none) op

section Errors

variable {s : State} {op c n : Nat} {r : Req} {cause : BitVec 8} {val : Word}

theorem returnedError_request (found : findReq s op = some r) (agent : r.agent = .seat) (core : r.core = c) (seat : r.seat = n)
    (done : settled r = true) (err : reqError r = some (cause, val)) (live : (findOut s op).isSome = true) :
    exec (.returnedErrorArrival c n op) s = .next (requestError (withoutReads s op) r cause val) := by
  change execReturnedErrorArrival c n op s = _
  simp only [execReturnedErrorArrival, found, agent, core, seat, done, err, live, decide_true, Bool.and_self, Bool.true_or, if_true]

theorem requestError_late (s : State) (r : Req) (cause : BitVec 8) (val : Word)
    (late : ¬ ((∃ k z b d, r.op = .amo k z b d) ∧ cause = 0x60)) :
    requestError s r cause val = takeError s r.core r.seat r.id r.firing r.pc cause val := by
  refine if_neg fun precise => late ?_
  obtain ⟨isAmo, poison⟩ := Bool.and_eq_true_iff.1 precise
  cases op : r.op with
  | amo k z b d => exact ⟨⟨k, z, b, d, rfl⟩, of_decide_eq_true poison⟩
  | _ => rw [op] at isAmo; cases isAmo

theorem requestError_precise (s : State) (r : Req) (val : Word) {k : AmoOp} {z : Nat} {b d : Word} (amo : r.op = .amo k z b d) :
    requestError s r 0x60 val = preciseOut s r 0x60 val := by
  rw [requestError, amo]
  rfl

section Request

variable (found : findReq s op = some r) (agent : r.agent = .seat) (core : r.core = c) (seat : r.seat = n) (done : settled r = true)
  (err : reqError r = some (cause, val)) (live : (findOut s op).isSome = true)

include found agent core seat done err live

theorem returnedError_late (late : ¬ ((∃ k z b d, r.op = .amo k z b d) ∧ cause = 0x60)) :
    exec (.returnedErrorArrival c n op) s = .next (takeError (withoutReads s op) c n op r.firing r.pc cause val) := by
  rw [returnedError_request found agent core seat done err live, requestError_late _ _ _ _ late, id_of_findReq found, core, seat]

theorem returnedError_precise (amo : ∃ k z b d, r.op = .amo k z b d) (memory : cause = 0x60) :
    exec (.returnedErrorArrival c n op) s = .next (preciseOut (withoutReads s op) r cause val) := by
  obtain ⟨k, z, b, d, kind⟩ := amo
  rw [returnedError_request found agent core seat done err live, memory, requestError_precise _ _ _ kind]

end Request

theorem seatAt_dropOut (s : State) (c : CoreId) {n : Nat} (op : Nat) (below : n < 8) :
    (dropOut s c n op).seatAt c n = { s.seatAt c n with outs := (s.seatAt c n).outs.filter (·.id != op) } :=
  State.seatAt_updSeatAt_same s c _ below

/-- A seat below 7 that runs the firing of an error takes it as its trap; the operation is outstanding no more. -/
theorem seatAt_takeError {firing : Nat} {pc : Parcel} (below : n < 7) (running : (s.seatAt c n).firing.map (·.id) = some firing)
    (untrapped : (s.seatAt c n).status ≠ .trapped) : (takeError s c n op firing pc cause val).seatAt c n =
      { s.seatAt c n with outs := (s.seatAt c n).outs.filter (·.id != op), status := .trapped, trapPc := pc,
                          trapCause := cause.setWidth 9, trapVal := val, rpc := (s.seatAt c n).pc, preempt := false, beyond := none } := by
  have dropped := seatAt_dropOut s c op (by omega : n < 8)
  rw [takeError, lateError, if_pos (by rw [dropped]; exact running), trapSeat_seatAt cause val _ _ (by rw [dropped]; exact untrapped) below,
    dropped]

theorem seatAt_preciseOut {r : Req} (below : r.seat < 7) (untrapped : (s.seatAt r.core r.seat).status ≠ .trapped) :
    (preciseOut s r cause val).seatAt r.core r.seat =
      { s.seatAt r.core r.seat with
        outs := (s.seatAt r.core r.seat).outs.filter (·.id != r.id)
        rpt := (((s.seatAt r.core r.seat).outs.find? (·.id = r.id)).map (·.rpt)).getD 0
        status := .trapped, trapPc := r.pc, trapCause := cause.setWidth 9, trapVal := val, rpc := r.pc, preempt := false
        beyond := none } := by
  have counted (f : Seat → Seat) :
      ((dropOut s r.core r.seat r.id).updSeatAt r.core r.seat f).seatAt r.core r.seat =
        f { s.seatAt r.core r.seat with outs := (s.seatAt r.core r.seat).outs.filter (·.id != r.id) } := by
    rw [State.seatAt_updSeatAt_same _ _ _ (by omega : r.seat < 8), seatAt_dropOut s r.core r.id (by omega)]
  rw [preciseOut, trapSeat_seatAt cause val _ _ (by rw [counted]; exact untrapped) below, counted]

theorem lateError_queued {firing : Nat} {pc : Parcel} (ended : (s.seatAt c n).firing.map (·.id) ≠ some firing)
    (gone : setAside s c firing = false) : lateError s c n firing pc cause val = queueEvent s c 0x35 0 [val, cause.setWidth 64] := by
  simp only [lateError, if_neg ended, gone, Bool.false_eq_true, if_false]

theorem lateError_kept {firing : Nat} {pc : Parcel} (ended : (s.seatAt c n).firing.map (·.id) ≠ some firing)
    (aside : setAside s c firing = true) : lateError s c n firing pc cause val =
      (s.updCore c fun k => { k with errs := k.errs ++ [⟨s.fresh, n, firing, pc, cause, val⟩] }).bump := by
  simp only [lateError, if_neg ended, aside, if_true]

theorem returnedError_outstanding {o : Out} (free : findReq s op = none) (out : (s.seatAt c n).outs.find? (·.id = op) = some o)
    (ans : o.ans = .error cause val) :
    exec (.returnedErrorArrival c n op) s = .next (takeError s c n op (s.seatAt c n).firingId o.pc cause val) := by
  change execReturnedErrorArrival c n op s = _
  simp only [execReturnedErrorArrival, free, out, ans]

theorem returnedError_deferred {e : SeatErr} (free : findReq s op = none) (out : (s.seatAt c n).outs.find? (·.id = op) = none)
    (err : (s.getCore c).errs.find? (fun e => e.id = op && e.seat = n) = some e) (resumed : setAside s c e.firing = false) :
    exec (.returnedErrorArrival c n op) s = .next
      (lateError (s.updCore c fun k => { k with errs := k.errs.filter (·.id != op) }) c n e.firing e.pc e.cause e.val) := by
  change execReturnedErrorArrival c n op s = _
  simp only [execReturnedErrorArrival, free, out, err, resumed, Bool.false_eq_true, if_false]

end Errors

/-! ### Reply timers -/

/-- The requests under way, by their numbers and the count of their pieces. -/
def State.shape (s : State) : List (Nat × Nat) := s.reqs.map fun r => (r.id, r.pieces.length)

theorem findReq_of_shape {s t : State} (h : t.shape = s.shape) {id : Nat} {r : Req} (found : findReq s id = some r) :
    ∃ r', findReq t id = some r' ∧ r'.pieces.length = r.pieces.length := by
  have numbered (u : State) : (findReq u id).map (fun r => (r.id, r.pieces.length)) = u.shape.find? (·.1 = id) := by
    rw [State.shape, List.find?_map]
    rfl
  have same := (numbered t).trans ((congrArg _ h).trans (numbered s).symm)
  rw [found, Option.map_some] at same
  obtain ⟨r', found', e⟩ := Option.map_eq_some_iff.1 same
  exact ⟨r', found', congrArg Prod.snd e⟩

theorem shape_updPiece (s : State) (id i : Nat) (f : Piece → Piece) : (updPiece s id i f).shape = s.shape := by
  rw [State.shape, updPiece, updReq, List.map_map]
  refine List.map_congr_left fun r _ => ?_
  simp only [Function.comp_apply]
  split
  · rw [List.length_modify]
  · rfl

theorem shape_of_reqs {s t : State} (h : t.reqs = s.reqs) : t.shape = s.shape := by rw [State.shape, h, State.shape]

theorem reqs_foldl {α : Type} (f : State → α → State) (h : ∀ s a, (f s a).reqs = s.reqs) (l : List α) (s : State) :
    (l.foldl f s).reqs = s.reqs := by
  induction l generalizing s with
  | nil => rfl
  | cons a l ih => rw [List.foldl_cons, ih, h]

theorem reqs_write (s : State) (n : Nat) (mask data : BitVec 64) (d : Place) : (d.write s n mask data).reqs = s.reqs := by
  cases d <;> rfl

theorem reqs_unpoison (s : State) (g : Nat) (d : Place) : (d.unpoison s g).reqs = s.reqs := by
  cases d <;> rfl

theorem reqs_drainL1 (s : State) (r : Req) (p : Piece) (pa : Nat) : (drainL1 s r p pa).reqs = s.reqs := by
  rw [drainL1, apply_ite State.reqs]
  exact ite_self _

theorem reqs_takeWord (c : Option CoreId) (id i : Nat) (s : State) (word : Nat) : (takeWord c id i s word).reqs = s.reqs := by
  unfold takeWord
  dsimp only
  split
  · split <;> rfl
  · rfl

theorem reqs_ownWord (s : State) (c : CoreId) (word : Nat) : (ownWord s c word).reqs = s.reqs := by
  unfold ownWord
  split <;> rfl

theorem reqs_changeWords (owner : Option CoreId) (id i pa n : Nat) (words : List Nat) (s : State) :
    (changeWords owner id i pa n words s).reqs = s.reqs := by
  have taken (c : Option CoreId) : (words.foldl (takeWord c id i) (markDirty s pa)).reqs = s.reqs :=
    reqs_foldl _ (reqs_takeWord c id i) words (markDirty s pa)
  unfold changeWords
  dsimp only
  split
  · exact taken _
  · split
    · exact (reqs_foldl _ (fun s w => reqs_ownWord s _ w) words _).trans (taken _)
    · exact taken _

theorem shape_performStore (s : State) (r : Req) (i : Nat) (p : Piece) : (performStore s r i p).shape = s.shape := by
  unfold performStore
  dsimp only
  split
  · exact shape_updPiece ..
  · have cleared (l : List Nat) (u : State) :
        (l.foldl (fun s g => if allDone r i p.dst g then p.dst.unpoison s g else s) u).reqs = u.reqs :=
      reqs_foldl _ (fun s g => by split <;> [exact reqs_unpoison ..; rfl]) l u
    have written (l : List Nat) := shape_of_reqs ((cleared l _).trans (reqs_write s p.len p.mask p.data p.dst))
    split
    · exact (shape_of_reqs ((reqs_changeWords ..).trans (reqs_drainL1 ..))).trans ((shape_updPiece ..).trans (written _))
    · exact (shape_updPiece ..).trans (written _)

theorem shape_performAmo (s : State) (r : Req) (i : Nat) (p : Piece) (op : AmoOp) (size : Nat) (b d : Word) :
    (performAmo s r i p op size b d).shape = s.shape := by
  unfold performAmo
  dsimp only
  split
  · exact shape_updPiece ..
  · have written (new : BitVec 64) := shape_of_reqs (reqs_write s size p.mask new p.dst)
    split
    · have changed (u : State) (pa : Nat) :
          ((changeWords none r.id i pa size (wordsTouched pa size p.mask) u).updCore r.core fun k => l1Drop k pa).shape = u.shape :=
        shape_of_reqs (reqs_changeWords ..)
      exact (changed _ _).trans ((shape_updPiece ..).trans (written _))
    · exact (shape_updPiece ..).trans (written _)

theorem shape_takeCopy_arrived (s : State) (r : Req) (i : Nat) (p : Piece) : (takeCopy (arrived s r p) r i p).shape = s.shape := by
  have came : (arrived s r p).shape = s.shape := by
    unfold arrived
    split <;> rfl
  unfold takeCopy
  split
  · exact came
  · exact (shape_updPiece ..).trans came

/-- Piece `i` of a request changed, as it is found. -/
theorem findReq_updPiece {s : State} {id i : Nat} {r : Req} (found : findReq s id = some r) (f : Piece → Piece) :
    findReq (updPiece s id i f) id = some { r with pieces := r.pieces.modify i f } := by
  refine (find?_map_update Req.id (f := fun r => { r with pieces := r.pieces.modify i f }) id _ fun _ => rfl).trans ?_
  exact congrArg (Option.map _) found

theorem findPiece_eq_some {s : State} {op i : Nat} {r : Req} {p : Piece} (h : findPiece s op i = some (r, p)) :
    findReq s op = some r ∧ r.pieces[i]? = some p := by
  unfold findPiece at h
  split at h
  · cases h
  case h_2 r' found =>
    obtain ⟨p', inside, e⟩ := Option.map_eq_some_iff.1 h
    obtain ⟨rfl, rfl⟩ := Prod.mk.inj e
    exact ⟨found, inside⟩

/-- A piece whose reissues are used up has failed and awaits no answer (R365). -/
theorem findReq_failPiece {s : State} {op i : Nat} {r : Req} {p : Piece} (h : findPiece s op i = some (r, p)) :
    ∃ r' p', findReq (failPiece s r i p) op = some r' ∧ r'.pieces[i]? = some p' ∧ p'.st = .failed ∧ p'.back = true := by
  obtain ⟨found, inside⟩ := findPiece_eq_some h
  have arrivedShape := shape_takeCopy_arrived s r i p
  obtain ⟨u, e, shape⟩ : ∃ u : State, failPiece s r i p =
      updPiece u.ticked op i (fun p => { p with st := .failed, back := true }) ∧ u.shape = s.shape := by
    refine ⟨_, by rw [← id_of_findReq found]; rfl, ?_⟩
    split
    · rfl
    · split
      · exact (shape_performStore ..).trans arrivedShape
      · exact (shape_performAmo ..).trans arrivedShape
      · rfl
  obtain ⟨r', found', length⟩ := findReq_of_shape (s := s) (t := u.ticked) shape found
  have below : i < r'.pieces.length := length ▸ (List.getElem?_eq_some_iff.1 inside).1
  refine ⟨_, { r'.pieces[i] with st := .failed, back := true }, e ▸ findReq_updPiece found' _, ?_, rfl, rfl⟩
  rw [List.getElem?_modify_eq, List.getElem?_eq_getElem below]
  rfl

section Timers

variable {s : State} {op i : Nat} {r : Req} {p : Piece} {w : Sent}

theorem requestTimeout_piece (h : findPiece s op i = some (r, p)) :
    exec (.requestTimeout ⟨op, i⟩) s = .next (timeoutReq s r i p) := by
  change execRequestTimeout ⟨op, i⟩ s = _
  simp only [execRequestTimeout, h]

theorem requestTimeout_sent (free : findPiece s op i = none) (h : findSent s op = some w) :
    exec (.requestTimeout ⟨op, i⟩) s = .next (timeoutSent s w) := by
  change execRequestTimeout ⟨op, i⟩ s = _
  simp only [execRequestTimeout, free, h]

theorem timeoutSent_again (gone : w.gone = true)
    (left : (s.net.any fun k => k.route.isNone && k.orig = w.pkt.orig && k.src = w.pkt.src) = false) (more : w.tries < retries s) :
    timeoutSent s w = addPacket (updSent s w.pkt.orig fun e => { e with tries := e.tries + 1 }) { w.pkt with route := none } := by
  rw [timeoutSent, if_neg (by simp only [gone, left]; decide), if_pos more]

theorem timeoutSent_farMem {cl ch len : Nat} {a : Word} {data : Option (List Byte)} (gone : w.gone = true)
    (left : (s.net.any fun k => k.route.isNone && k.orig = w.pkt.orig && k.src = w.pkt.src) = false) (last : retries s ≤ w.tries)
    (far : w.pkt.body = .farMem cl ch a len data) : timeoutSent s w = failFar (dropSent s w.pkt.orig) cl ch a := by
  rw [timeoutSent, if_neg (by simp only [gone, left]; decide), if_neg (Nat.not_lt.2 last)]
  simp only [far]

theorem timeoutSent_forRank (gone : w.gone = true)
    (left : (s.net.any fun k => k.route.isNone && k.orig = w.pkt.orig && k.src = w.pkt.src) = false) (last : retries s ≤ w.tries)
    (rank : forRank w.pkt.body = true) : timeoutSent s w =
      undeliverable (dropSent s w.pkt.orig) (if (s.getCore w.pkt.dst).fenced then 0x33 else 0x34) w.pkt.src w.pkt.rank w.pkt.body := by
  rw [timeoutSent, if_neg (by simp only [gone, left]; decide), if_neg (Nat.not_lt.2 last)]
  dsimp only
  split
  case h_1 far => rw [far] at rank; cases rank
  case h_2 => rfl

end Timers

/-- Settles O32: what returns is merged bit by bit, each pending operation takes effect in `complete` or goes on as a posted packet, and
errors and timers act by the number of what they belong to. -/
theorem resultsAndTimeouts : Obligations.ResultsAndTimeouts := by
  intro s op c n i q j o r p rest d v cause val e w t wrote late gone fin covers toX amo unreached cleared rpt
  refine ⟨fun out found noStore done noError due => ?parts, fun size signed kind pieces nonzero => ?load,
    fun a size b c kind pieces nonzero => ?atomic, fun kind pieces nonzero => ?sync, fun lt => ?vector, fun lt => ?sidecar,
    fun out free ans => ?completions, fun found agent core seat done err live => ?errors, fun ended => ?late,
    fun free => ?answered, fun found => ?piece, fun free sent gone left => ?sent⟩
  case parts =>
    have returned := resultReturn_part out found noStore done noError due
    refine ⟨fun more => ?_, fun last what => ?_, fun last what => ?_⟩
    · rw [returned, if_neg more]
    · rw [returned, if_pos last, finishReq, what, id_of_findOut out]
      rfl
    · rw [returned, if_pos last, finishReq, what, id_of_findOut out]
      rfl
  case load => rw [getX_writePart t q pieces nonzero, kind]; rfl
  case atomic => rw [getX_writePart t q pieces nonzero, kind]; rfl
  case sync =>
    rw [getX_writePart t q pieces nonzero]
    obtain kind | kind := kind <;> rw [kind] <;> rfl
  case vector =>
    rw [getLsbD_writePart_v t v r q lt]
    exact ⟨testBit_mergePieces_kept (by decide) lt, testBit_mergePieces_only (by decide) lt⟩
  case sidecar =>
    rw [getLsbD_writePart_sidecar t v r q lt]
    exact ⟨testBit_mergePieces_kept (by decide) lt, testBit_mergePieces_only (by decide) lt⟩
  case completions =>
    have done {w : Pending} {u : State} := resultReturn_done (i := i) (w := w) (u := u) out free ans
    have pending {w : Pending} {u : State} {b : Prop} [Decidable b] := resultReturn_unless (i := i) (w := w) (u := u) (b := b) out free ans
    have seen (f : Seat → Word) : (toX f s).raised = s.raised := raised_updSeatAt s c n fun t => by
      split <;> [exact Seat.setX_outs ..; rfl]
    refine ⟨fun what => done what rfl rfl rfl, fun cn st what => done what rfl rfl rfl, fun port e what => ?port,
      fun m d0 d1 what => done what rfl rfl (raised_updCore s c _ rfl), fun a x what present => ?rankPresent,
      fun a x what => done what rfl rfl (raised_finishRankWr ..), fun a what => pending what rfl rfl rfl,
      fun a x what => done what rfl rfl (raised_releaseHeld ..), fun g x what => done what rfl rfl (raised_updCore s c _ rfl),
      fun tb what => done what rfl rfl rfl, fun what => done what rfl rfl (raised_updCore s c _ rfl), fun a b what => ?ways,
      fun x what => ⟨fun before => ?walkFirst, fun alone => ?invalidated⟩, fun cn what => done what rfl rfl (seen _),
      fun tb ix ro x what dead => ?unreached, fun tb ix ro what reached => ?tableRead, fun tb ix ro x what reached => ?tableWritten,
      fun on pages what => ?sealed, fun ids what => pending what rfl rfl rfl,
      fun k m a what => resultReturn_waits out free ans what rfl rfl, fun ws a what => ?sums,
      fun cl ch what => done what rfl rfl (seen _), fun a what => ?fence, fun x ws k size => ?stages,
      fun x ws st k what found answered registered => ?stageOver⟩
    case port => 
      rw [resultReturn_completes out free ans, completeOut, what, id_of_findOut out]
    case rankPresent =>
      rw [← writeRank, ← finishRankWr_present x present]
      exact done what rfl rfl (raised_finishRankWr ..)
    case ways =>
      exact pending what rfl (by simp only [complete, Bool.and_eq_true, decide_eq_true_iff]) rfl
    case walkFirst => exact resultReturn_waits out free ans what rfl (if_pos before)
    case invalidated =>
      exact done what rfl (if_neg (by rw [alone]; decide)) (raised_dropTlb s c _)
    case unreached =>
      exact resultReturn_fails out free ans what rfl (if_pos (by simpa [unreached] using dead))
    case tableRead =>
      exact done what rfl (if_neg (by simpa [unreached] using reached)) (seen _)
    case tableWritten =>
      exact done what rfl (if_neg (by simpa [unreached] using reached)) (by split <;> rfl)
    case sealed =>
      exact pending what rfl (by simp only [complete, Bool.and_eq_true]) rfl
    case sums =>
      rw [resultReturn_completes out free ans, completeOut, what, id_of_findOut out]
      rfl
    case fence =>
      simp only [← dropRecords_eq]
      exact done what rfl rfl rfl
    case stages =>
      intro slot last g mem what va
      have access : postStage s c n op x ws g.1 =
          postAccess s c n op x ws g.1 g.2.1 g.2.2.1 g.2.2.2.1 g.2.2.2.2.1 g.2.2.2.2.2.1 g.2.2.2.2.2.2 := by
        simp only [List.mem_cons, List.not_mem_nil, or_false] at mem
        obtain rfl | rfl | rfl | rfl | rfl := mem <;> rfl
      have stage := (resultReturn_haulPost (i := i) out free ans what).trans (congrArg Host.Outcome.next access)
      exact ⟨fun check => stage.trans (congrArg _ (postAccess_leaves check)),
        fun cause v check => stage.trans (congrArg _ (postAccess_stops check))⟩
    case stageOver =>
      refine ⟨fun cause v err => resultReturn_stageFails out free ans what found answered registered err,
        fun noError pieces => ?_⟩
      intro u at' msa open'
      have stage := resultReturn_stageDone (i := i) out free ans what found answered registered noError pieces
      refine ⟨fun config onMsa opened => ?_, fun config shut => ⟨Config.subject u.tick, ?_⟩, fun size claim => ?_,
        fun m size room => ?_, fun m size body => ?_, fun m size publish => ?_⟩
      · subst config
        exact stage.trans (congrArg _ (if_pos (Bool.and_eq_true_iff.2 ⟨onMsa, queueOpen_iff.2 opened⟩)))
      · subst config
        exact stage.trans (congrArg _ (if_neg fun ready => shut ((Bool.and_eq_true_iff.1 ready).imp_right queueOpen_iff.1)))
      · subst claim; exact stage
      · subst room
        exact stage.trans (congrArg _ (apply_ite (fun st => atStage u c n op x ws st none) _ _ _).symm)
      · subst body; exact stage
      · subst publish; exact stage
  case errors =>
    obtain rfl := core
    obtain rfl := seat
    have late (noMemory : ¬ (amo ∧ cause = 0x60)) := returnedError_late found agent rfl rfl done err live noMemory
    have precise (isAmo : amo) (memory : cause = 0x60) := returnedError_precise found agent rfl rfl done err live isAmo memory
    refine ⟨late, fun isAmo memory => ?_, fun below running untrapped => ?_⟩
    · rw [precise isAmo memory, preciseOut, id_of_findReq found]
      rfl
    · have withdrawn : ∀ q ∈ t.outs.filter (·.id != op), q.id ≠ op := fun q m => by simpa using (List.mem_filter.1 m).2
      by_cases kind : amo ∧ cause = 0x60
      · have seat := seatAt_preciseOut (s := cleared) (cause := cause) (val := val) below untrapped
        refine ⟨_, precise kind.1 kind.2, ?_⟩
        rw [seat, id_of_findReq found]
        exact ⟨rfl, rfl, rfl, rfl, fun late => (late kind).elim, fun _ => rfl, withdrawn⟩
      · have seat := seatAt_takeError (s := cleared) (op := op) (cause := cause) (val := val) (pc := r.pc) below running untrapped
        refine ⟨_, late kind, ?_⟩
        rw [seat]
        exact ⟨rfl, rfl, rfl, rfl, fun _ => rfl, fun precise => (kind precise).elim, withdrawn⟩
  case late => exact ⟨lateError_queued ended, lateError_kept ended⟩
  case answered => exact ⟨returnedError_outstanding free, returnedError_deferred free⟩
  case piece =>
    rw [requestTimeout_piece found]
    refine ⟨fun unsent => ?_, fun timed more => ?_, fun timed last => ?_⟩
    · rw [timeoutReq, unsent]; rfl
    · rw [timeoutReq, timed, if_neg (by decide), if_pos more, id_of_findReq (findPiece_eq_some found).1]
    · rw [timeoutReq, timed, if_neg (by decide), if_neg (Nat.not_lt.2 last)]
      exact ⟨_, let ⟨r', p', failed⟩ := findReq_failPiece found; ⟨r', p', rfl, failed⟩⟩
  case sent =>
    rw [requestTimeout_sent free sent]
    exact ⟨fun more => congrArg _ (timeoutSent_again gone left more),
      fun cl ch a d m last far => congrArg _ (timeoutSent_farMem gone left last far),
      fun last rank => congrArg _ (timeoutSent_forRank gone left last rank)⟩

end Sys2Proof.Machine
end

section
/-! The values after reset, the entry of traps and their firings (R111, R116, R118 to R121, R233, R377, R380 to R384, R404). -/

namespace Sys2Proof.Machine

/-! ### Reset -/

/-- No core is listed at reset, so each has the reset value of its fields. -/
theorem getCore_reset (c : CoreId) : State.reset.getCore c = {} := rfl

theorem Core.getSeat_default (n : Fin 8) : ({} : Core).getSeat n = {} := by simp [Core.getSeat, Vector.getD]

/-- Settles O56: the fields that a default core, seat and module leave unset, and the register fields that are not 0. -/
theorem resetValues : Obligations.ResetValues := by
  unfold Obligations.ResetValues
  intro c n p cls
  dsimp only
  rw [getCore_reset, Core.getSeat_default]
  have ovfCfg : fld ({} : Core).ovfCfg 31 20 = 10 ∧ fld ({} : Core).ovfCfg 19 0 = 0xB0000 := by decide
  have l2cfg : fld State.reset.l2cfg 3 2 = 2 ∧ fld State.reset.l2cfg 1 0 = 0 := by decide
  have farCfg : fld State.reset.farCfg 17 16 = 3 ∧ fld State.reset.farCfg 28 24 = 20 ∧ State.reset.farCfg.getLsbD 0 = false := by decide
  exact ⟨rfl, rfl, rfl, rfl, rfl, rfl, rfl, rfl, rfl, rfl, rfl, rfl, ovfCfg.1, ovfCfg.2, rfl, rfl, rfl, l2cfg.1, l2cfg.2, rfl, rfl,
    farCfg.1, farCfg.2.1, farCfg.2.2, rfl, rfl, rfl, rfl, rfl, rfl, rfl, rfl, rfl, rfl, rfl, rfl⟩

/-! ### Traps of seats 0 to 6 -/

/-- What a trap of a seat below 7 changes beside the seat: the queue of the core that takes its firing (R118, R380). -/
theorem trapSeat_below {s : State} {c : CoreId} {n : Nat} (cause : BitVec 8) (val : Word) (pc rpc : Parcel) (below : n < 7)
    (untrapped : (s.seatAt c n).status ≠ .trapped) :
    trapSeat s c n cause val pc rpc = queueTrap ((s.forget (.seat c n)).updSeatAt c n fun t =>
      { t with status := .trapped, trapPc := pc, trapCause := cause.setWidth 9, trapVal := val, rpc := rpc,
               preempt := false, beyond := none }) c n cause [pc.setWidth 64, cause.setWidth 64, val] := by
  rw [trapSeat, if_neg untrapped, if_neg (by omega)]

/-- A field of the cores that leaves their seats alone is kept where a seat is updated. -/
theorem core_updSeatAt {α : Type} (s : State) (c : CoreId) (n : Nat) (f : Seat → Seat) (g : Core → α)
    (kept : ∀ (k : Core) (v : Seat), g (k.setSeat n v) = g k) (d : CoreId) : g ((s.updSeatAt c n f).getCore d) = g (s.getCore d) := by
  by_cases e : d = c
  · rw [e, State.getCore_updSeatAt_same, kept]
  · rw [State.getCore_updSeatAt_other s n f e]

theorem core_queueTrap {α : Type} (s : State) (c : CoreId) (n : Nat) (cause : BitVec 8) (regs : List Word) (g : Core → α)
    (kept : ∀ (k : Core) (l : List Queued), g { k with traps := l } = g k) (d : CoreId) :
    g ((queueTrap s c n cause regs).getCore d) = g (s.getCore d) := by
  by_cases e : d = supCore s c
  · rw [e, queueTrap, State.getCore_updCore, kept]
  · rw [queueTrap, State.getCore_updCore_other s _ e]

/-- Which core takes the firings depends on whether seat 7 is fenced. -/
theorem supCore_congr {s t : State} {c : CoreId} (h : (t.seatAt c 7).fenced = (s.seatAt c 7).fenced) : supCore t c = supCore s c := by
  rw [supCore, supCore, h]

theorem fwdX16_congr {s t : State} {c : CoreId} (h : (t.seatAt c 7).fenced = (s.seatAt c 7).fenced) (x : Word) :
    fwdX16 t c x = fwdX16 s c x := by
  rw [fwdX16, fwdX16, h]

theorem supCore_own {s : State} {c : CoreId} (h : (s.seatAt c 7).fenced = false) : supCore s c = c := by simp [supCore, h]

theorem fwdX16_own {s : State} {c : CoreId} (h : (s.seatAt c 7).fenced = false) (x : Word) : fwdX16 s c x = x := by simp [fwdX16, h]

theorem supCore_forwards {s : State} {c : CoreId} (h : (s.seatAt c 7).fenced = true) (grid : isBc c = false) :
    supCore s c = coxOf c := by simp [supCore, h, grid]

/-- The firing of a trap of a seat below 7 stands last in the queue of the core that takes it. -/
theorem trapSeat_traps {s : State} {c : CoreId} {n : Nat} (cause : BitVec 8) (val : Word) (pc rpc : Parcel) (below : n < 7)
    (untrapped : (s.seatAt c n).status ≠ .trapped) :
    ((trapSeat s c n cause val pc rpc).getCore (supCore s c)).traps = (s.getCore (supCore s c)).traps ++
      [⟨0xF0 + (cause >>> 4), cause, if supCore s c = c then some n else none,
        [fwdX16 s c (BitVec.ofNat 64 n), pc.setWidth 64, cause.setWidth 64, val]⟩] := by
  rw [trapSeat_below cause val pc rpc below untrapped]
  have fenced (f : Seat → Seat) : (((s.forget (.seat c n)).updSeatAt c n f).seatAt c 7).fenced = (s.seatAt c 7).fenced := by
    rw [State.seatAt_updSeatAt_seat _ c f (by omega), State.seatAt_forget]
  have queued := queueTrap_traps ((s.forget (.seat c n)).updSeatAt c n fun t =>
    { t with status := .trapped, trapPc := pc, trapCause := cause.setWidth 9, trapVal := val, rpc := rpc,
             preempt := false, beyond := none }) c n cause [pc.setWidth 64, cause.setWidth 64, val]
  rw [supCore_congr (fenced _), fwdX16_congr (fenced _), core_updSeatAt _ c n _ Core.traps (fun _ _ => rfl)] at queued
  exact queued

theorem trapSeat_events {s : State} {c : CoreId} {n : Nat} (cause : BitVec 8) (val : Word) (pc rpc : Parcel) (below : n < 7)
    (untrapped : (s.seatAt c n).status ≠ .trapped) (d : CoreId) :
    ((trapSeat s c n cause val pc rpc).getCore d).events = (s.getCore d).events := by
  rw [trapSeat_below cause val pc rpc below untrapped, core_queueTrap _ c n cause _ Core.events fun _ _ => rfl,
    core_updSeatAt _ c n _ Core.events fun _ _ => rfl, State.getCore_forget]

/-- Settles O45: the seat's registers and the queue of its firing; every other seat and byte as the trap leaves them. -/
theorem trapEntry : Obligations.TrapEntry := by
  unfold Obligations.TrapEntry
  intro s c n cause v pc rpc w t u e d
  refine ⟨fun below untrapped => ?_, fun _ trapped => trapSeat_again cause v pc rpc trapped,
    fun live => ⟨supCore_own live, fwdX16_own live _⟩, supCore_forwards, rfl, rfl⟩
  have quiet := quiet_trapSeat s c ⟨n, by omega⟩ cause v pc rpc
  exact ⟨trapSeat_seatAt cause v pc rpc untrapped below, trapSeat_traps cause v pc rpc below untrapped,
    quiet.others, Place.read_of_machine quiet.machine 1, trapSeat_events cause v pc rpc below untrapped d⟩

end Sys2Proof.Machine
end

section
/-! Traps of seat 7: the fence of the seat, its notice and the double trap (R121, R381, R382, R384, R404). -/

namespace Sys2Proof.Machine

/-! ### The cox core of a cluster -/

theorem clusterOf_coxOf (c : CoreId) : clusterOf (coxOf c) = clusterOf c := by simp only [clusterOf, coxOf, coreAt]; omega

theorem coxOf_coxOf (c : CoreId) : coxOf (coxOf c) = coxOf c := by rw [coxOf, clusterOf_coxOf, coxOf]

theorem supCore_coxOf (s : State) (c : CoreId) : supCore s (coxOf c) = coxOf c := by rw [supCore, coxOf_coxOf, ite_self]

theorem fwdX16_coxOf (s : State) (c : CoreId) (x : Word) : fwdX16 s (coxOf c) x = x := by
  simp [fwdX16, coxOf_coxOf]

theorem isGridCore_lt {c : Nat} (h : isGridCore c = true) : c < 2704 := by
  simp only [isGridCore, Bool.and_eq_true, decide_eq_true_eq] at h
  exact h.1

theorem isBc_iff {c : Nat} : isBc c = true ↔ 4096 ≤ c ∧ c < 4100 := by simp [isBc]

theorem isBc_of_isGridCore {c : Nat} (h : isGridCore c = true) : isBc c = false := by
  have := isGridCore_lt h
  rw [Bool.eq_false_iff, ne_eq, isBc_iff]
  omega

/-! ### The queued events of a core -/

/-- The event firings that a core holds, in its queue and at its input (R377). -/
def Core.told (k : Core) : List Queued × List Queued := (k.events, k.notices)

theorem Core.told_addEvent {k l : Core} (h : k.told = l.told) (q : Queued) : (k.addEvent q).told = (l.addEvent q).told := by
  obtain ⟨events, notices⟩ := Prod.mk.inj h
  unfold Core.addEvent
  rw [events, notices]
  split
  · exact Prod.ext rfl rfl
  · exact Prod.ext rfl rfl

theorem Core.told_count (k : Core) (launch : Option Nat) (n : Nat) : (k.count launch n).told = k.told := by
  unfold Core.count
  split
  · split <;> rfl
  · rfl

theorem told_updSeatAt (s : State) (c : CoreId) (n : Nat) (f : Seat → Seat) (d : CoreId) :
    ((s.updSeatAt c n f).getCore d).told = (s.getCore d).told := core_updSeatAt s c n f Core.told (fun _ _ => rfl) d

theorem told_updCore_addEvent (s : State) (c : CoreId) (q : Queued) :
    ((s.updCore c fun k => k.addEvent q).getCore c).told = ((s.getCore c).addEvent q).told := by rw [State.getCore_updCore]

theorem told_updCore_other (s : State) {c d : CoreId} (f : Core → Core) (h : d ≠ c) :
    ((s.updCore c f).getCore d).told = (s.getCore d).told := by rw [State.getCore_updCore_other s f h]

theorem told_queueEvent (s : State) (c : CoreId) (code : BitVec 8) (x17 : Word) (rest : List Word) :
    ((queueEvent s (coxOf c) code x17 rest).getCore (coxOf c)).told =
      ((s.getCore (coxOf c)).addEvent ⟨0xF0 + (code >>> 4), code, none, 0xFF :: x17 :: code.setWidth 64 :: rest⟩).told := by
  have core := queueEvent_core s (coxOf c) code x17 rest
  rw [supCore_coxOf, fwdX16_coxOf] at core
  rw [core]

theorem told_queueEvent_other (s : State) {c d : CoreId} (code : BitVec 8) (x17 : Word) (rest : List Word) (h : d ≠ coxOf c) :
    ((queueEvent s (coxOf c) code x17 rest).getCore d).told = (s.getCore d).told := by
  rw [queueEvent, told_updCore_other]
  rwa [supCore_coxOf]

/-! ### A fenced seat -/

theorem getCore_unwaited (s : State) (gone : List Nat) (rs : List Req) (d : CoreId) :
    ({ s with reqs := rs, cores := s.cores.map fun e => (e.1, e.2.unwaited gone) } : State).getCore d =
      (s.getCore d).unwaited gone := tget_map (Core.unwaited gone) {} s.cores d

/-- A field of the cores that is not their waiters is kept where requests are withdrawn (R145). -/
theorem core_withdraw {α : Type} (s : State) (c : CoreId) (n : Nat) (g : Core → α)
    (kept : ∀ (k : Core) (gone : List Nat), g (k.unwaited gone) = g k) (d : CoreId) :
    g ((withdraw s c n).getCore d) = g (s.getCore d) := by
  unfold withdraw
  dsimp only
  split
  · rfl
  · exact (congrArg g (getCore_unwaited s _ _ d)).trans (kept _ _)

theorem seatAt_withdraw (s : State) (c : CoreId) (n : Nat) (d : CoreId) (m : Nat) : (withdraw s c n).seatAt d m = s.seatAt d m :=
  core_withdraw s c n (fun k => k.getSeat m) (fun _ _ => rfl) d

theorem inbox_withdraw (s : State) (c : CoreId) (n : Nat) : (withdraw s c n).inbox = s.inbox := by
  unfold withdraw
  dsimp only
  split <;> rfl

theorem told_endFiring (s : State) (c : CoreId) (n : Nat) (d : CoreId) : ((endFiring s c n).getCore d).told = (s.getCore d).told := by
  by_cases e : d = c
  · rw [e, endFiring, State.getCore_updCore]
    exact Core.told_count ..
  · rw [endFiring, State.getCore_updCore_other _ _ e, State.getCore_forget]

theorem seatAt_killFiring (s : State) (c : CoreId) {n : Nat} (h : n < 8) : (killFiring s c n).seatAt c n =
    { s.seatAt c n with status := .free, firing := none, outs := [], preempt := false, q0 := [], q2 := [], q4 := [], q6 := [],
                        beyond := none } := by
  rw [killFiring, endFiring_seatAt _ c h, seatAt_withdraw]

/-- A fenced seat is free and without a firing, and keeps its trap registers (R109, R384). -/
theorem fenceSeatAt_seatAt (s : State) (c : CoreId) {n : Nat} (h : n < 8) (e : Seat) (he : (fenceSeatAt s c n).seatAt c n = e) :
    e.fenced = true ∧ e.status = .free ∧ e.firing = none ∧ e.trapPc = (s.seatAt c n).trapPc ∧
      e.trapCause = (s.seatAt c n).trapCause ∧ e.trapVal = (s.seatAt c n).trapVal := by
  subst he
  rw [fenceSeatAt, State.seatAt_updSeatAt_same _ c _ h]
  split
  · rw [seatAt_killFiring s c h]
    exact ⟨rfl, rfl, rfl, rfl, rfl, rfl⟩
  · rename_i idle
    exact ⟨rfl, rfl, Option.not_isSome_iff_eq_none.1 idle, rfl, rfl, rfl⟩

theorem told_fenceSeatAt (s : State) (c : CoreId) (n : Nat) (d : CoreId) :
    ((fenceSeatAt s c n).getCore d).told = (s.getCore d).told := by
  rw [fenceSeatAt, told_updSeatAt]
  split
  · rw [killFiring, told_endFiring, core_withdraw s c n Core.told fun _ _ => rfl]
  · rfl

theorem inbox_fenceSeatAt (s : State) (c : CoreId) (n : Nat) : (fenceSeatAt s c n).inbox = s.inbox := by
  rw [fenceSeatAt, State.updSeatAt_inbox]
  split
  · exact inbox_withdraw s c n
  · rfl

/-! ### The double trap -/

/-- The firing of class 0xF7 that a double trap raises, and the fence notice before it (R120, R381, R382, R384, R404). -/
def doubleTrapFiring (regs : List Word) : Queued := ⟨0xF7, 0x70, none, 0xFF :: 0 :: 0x70 :: regs⟩
def seatNotice (c : CoreId) : Queued := ⟨0xF7, 0x71, none, [0xFF, 0, 0x71, BitVec.ofNat 64 (2 ^ 63 + (8 * c + 7))]⟩

/-- Seat 7 of a core is fenced and the notice of it is raised in its cox core (R384). -/
def noticed (s : State) (c : CoreId) : State := fenceNotice (fenceSeatAt s c 7) (coxOf c) 0 (8 * c + 7)

theorem doubleTrap_grid {s : State} {c : CoreId} (grid : isBc c = false) (member : c ≠ coxOf c) : doubleTrap s c =
    queueEvent (noticed s c) (coxOf c) 0x70 0
      [BitVec.ofNat 64 (coreNo c), (s.seatAt c 7).trapCause.setWidth 64, (s.seatAt c 7).trapPc.setWidth 64] := by
  rw [doubleTrap, grid, if_neg Bool.false_ne_true, if_neg Bool.false_ne_true, if_neg member, noticed]

theorem doubleTrap_cox {s : State} {c : CoreId} (grid : isBc c = false) (cox : c = coxOf c) : doubleTrap s c =
    (toFirmware (noticed s c) (basecampOf (noticed s c) c) (trapHeader 1) [BitVec.ofNat 64 (clusterOf c)]).updCore
      (4096 + 2 * basecampOf (noticed s c) c) fun k => k.addEvent (doubleTrapFiring [BitVec.ofNat 64 (clusterOf c)]) := by
  rw [doubleTrap, grid, if_neg Bool.false_ne_true, if_neg Bool.false_ne_true, if_pos cox]
  rfl

theorem doubleTrap_basecamp {s : State} {c : CoreId} (bc : isBc c = true) : doubleTrap s c =
    (toFirmware (fenceSeatAt s c 7) (1 - (c - 4096) / 2) (trapHeader 2) [BitVec.ofNat 64 (chipOf c), BitVec.ofNat 64 (coreNo c % 2)]).updCore
      (4096 + 2 * (1 - (c - 4096) / 2)) fun k =>
        k.addEvent (doubleTrapFiring [BitVec.ofNat 64 (chipOf c), BitVec.ofNat 64 (coreNo c % 2)]) := by
  rw [doubleTrap, bc, if_pos rfl, if_pos rfl]
  rfl

/-- What follows the fence of seat 7 changes no seat. -/
theorem doubleTrap_seatAt (s : State) (c d : CoreId) (m : Nat) : (doubleTrap s c).seatAt d m = (fenceSeatAt s c 7).seatAt d m := by
  have added (t : State) (e : CoreId) (q : Queued) : (t.updCore e fun k => k.addEvent q).seatAt d m = t.seatAt d m :=
    t.seatAt_updCore_seats e _ (Core.addEvent_seats _ _) d m
  have notice : (noticed s c).seatAt d m = (fenceSeatAt s c 7).seatAt d m := queueEvent_seatAt ..
  cases bc : isBc c
  case true => rw [doubleTrap_basecamp bc, added]; rfl
  case false =>
    by_cases cox : c = coxOf c
    · rw [doubleTrap_cox bc cox, added, ← notice]; rfl
    · rw [doubleTrap_grid bc cox, queueEvent_seatAt, notice]

theorem machine_noticed (s : State) (c : CoreId) : (noticed s c).machine = s.machine :=
  ((quiet_fenceSeatAt s c).trans (quiet_fenceNotice ..)).machine

theorem inbox_noticed (s : State) (c : CoreId) : (noticed s c).inbox = s.inbox := inbox_fenceSeatAt s c 7

theorem told_noticed (s : State) (c : CoreId) :
    ((noticed s c).getCore (coxOf c)).told = ((s.getCore (coxOf c)).addEvent (seatNotice c)).told := by
  have notice := told_queueEvent (fenceSeatAt s c 7) c 0x71 0 [BitVec.ofNat 64 (2 ^ 63 + 0 * 2 ^ 56 + (8 * c + 7))]
  rw [Core.told_addEvent (told_fenceSeatAt s c 7 (coxOf c)), Nat.zero_mul, Nat.add_zero] at notice
  exact notice

theorem told_noticed_other (s : State) {c d : CoreId} (h : d ≠ coxOf c) : ((noticed s c).getCore d).told = (s.getCore d).told :=
  (told_queueEvent_other _ _ _ _ h).trans (told_fenceSeatAt s c 7 d)

/-- The basecamp of a cluster depends on the launches alone, which a trap leaves (R381). -/
theorem basecampOf_of_machine {s t : State} (h : t.machine = s.machine) (c : CoreId) : basecampOf t c = basecampOf s c := by
  have launch := core_eq_of_machine h Core.launch fun _ => rfl
  rw [basecampOf, eq_of_machine h State.launches fun _ => rfl, basecampOf]
  simp only [launch]

/-- Seat 7 after a trap that finds it untrapped: the trap registers are written, then the double trap follows (R121). -/
def seat7Trapped (s : State) (c : CoreId) (cause : BitVec 8) (val : Word) (pc rpc : Parcel) : State :=
  (s.forget (.seat c 7)).updSeatAt c 7 fun t =>
    { t with status := .trapped, trapPc := pc, trapCause := cause.setWidth 9, trapVal := val, rpc := rpc,
             preempt := false, beyond := none }

section Seat7

variable {s : State} {c : CoreId} {cause : BitVec 8} {val : Word} {pc rpc : Parcel}

theorem trapSeat_seven (untrapped : (s.seatAt c 7).status ≠ .trapped) :
    trapSeat s c 7 cause val pc rpc = doubleTrap (seat7Trapped s c cause val pc rpc) c := by
  rw [trapSeat, if_neg untrapped, if_pos rfl, seat7Trapped]

theorem seatAt_seat7Trapped : (seat7Trapped s c cause val pc rpc).seatAt c 7 =
    { s.seatAt c 7 with status := .trapped, trapPc := pc, trapCause := cause.setWidth 9, trapVal := val, rpc := rpc,
                        preempt := false, beyond := none } :=
  State.seatAt_updSeatAt_same _ c _ (by decide)

theorem told_seat7Trapped (d : CoreId) : ((seat7Trapped s c cause val pc rpc).getCore d).told = (s.getCore d).told :=
  told_updSeatAt _ c 7 _ d

/-- The seat of a trap of seat 7 is fenced and free, with the trap registers of the trap. -/
theorem trapSeat_seven_seatAt (untrapped : (s.seatAt c 7).status ≠ .trapped) (e : Seat)
    (he : (trapSeat s c 7 cause val pc rpc).seatAt c 7 = e) :
    e.fenced = true ∧ e.status = .free ∧ e.firing = none ∧ e.trapPc = pc ∧ e.trapCause = cause.setWidth 9 ∧ e.trapVal = val := by
  rw [trapSeat_seven untrapped, doubleTrap_seatAt] at he
  have fenced := fenceSeatAt_seatAt _ c (by decide) e he
  rwa [seatAt_seat7Trapped] at fenced

/-- A trap of seat 7 of a grid core that is not the cox core: the notice, then the double trap, in the cox core (R121, R382). -/
theorem told_trapSeat_grid (untrapped : (s.seatAt c 7).status ≠ .trapped) (grid : isBc c = false) (member : c ≠ coxOf c) :
    ((trapSeat s c 7 cause val pc rpc).getCore (coxOf c)).told =
      (((s.getCore (coxOf c)).addEvent (seatNotice c)).addEvent
        (doubleTrapFiring [BitVec.ofNat 64 (coreNo c), cause.setWidth 64, pc.setWidth 64])).told := by
  have cause9 : (cause.setWidth 9).setWidth 64 = cause.setWidth 64 := by simp
  rw [trapSeat_seven untrapped, doubleTrap_grid grid member, told_queueEvent, seatAt_seat7Trapped, cause9]
  refine (Core.told_addEvent (told_noticed _ c) _).trans ?_
  exact Core.told_addEvent (Core.told_addEvent (told_seat7Trapped _) _) _

theorem inbox_trapSeat_grid (untrapped : (s.seatAt c 7).status ≠ .trapped) (grid : isBc c = false) (member : c ≠ coxOf c) :
    (trapSeat s c 7 cause val pc rpc).inbox = s.inbox := by
  rw [trapSeat_seven untrapped, doubleTrap_grid grid member]
  exact inbox_noticed _ c

/-- A trap of seat 7 of the cox core itself: the notice there, and a message and the double trap in the basecamp (R381). -/
theorem told_trapSeat_cox (untrapped : (s.seatAt c 7).status ≠ .trapped) (grid : isGridCore c = true) (cox : c = coxOf c) :
    let u := trapSeat s c 7 cause val pc rpc
    u.inbox = s.inbox ++ [(basecampOf s c, trapHeader 1, [BitVec.ofNat 64 (clusterOf c)])] ∧
      (u.getCore c).told = ((s.getCore c).addEvent (seatNotice c)).told ∧
      (u.getCore (4096 + 2 * basecampOf s c)).told = ((s.getCore (4096 + 2 * basecampOf s c)).addEvent
        (doubleTrapFiring [BitVec.ofNat 64 (clusterOf c)])).told := by
  intro u
  have hu : u = doubleTrap (seat7Trapped s c cause val pc rpc) c := trapSeat_seven untrapped
  have basecamp : basecampOf (noticed (seat7Trapped s c cause val pc rpc) c) c = basecampOf s c :=
    basecampOf_of_machine ((machine_noticed _ c).trans (machine_updSeatAt _ c 7 _)) c
  rw [doubleTrap_cox (isBc_of_isGridCore grid) cox, basecamp] at hu
  have below := isGridCore_lt grid
  have other : c ≠ 4096 + 2 * basecampOf s c := Nat.ne_of_lt (by omega)
  have notCox : 4096 + 2 * basecampOf s c ≠ coxOf c := fun e => other (cox.trans e.symm)
  refine ⟨?_, ?_, ?_⟩
  · rw [hu, State.updCore_inbox, toFirmware, inbox_noticed]
    rfl
  · rw [hu, told_updCore_other _ _ other]
    have notice := told_noticed (seat7Trapped s c cause val pc rpc) c
    rw [← cox, Core.told_addEvent (told_seat7Trapped c)] at notice
    exact notice
  · rw [hu, told_updCore_addEvent]
    exact Core.told_addEvent ((told_noticed_other _ notCox).trans (told_seat7Trapped _)) _

/-- A trap of seat 7 of a basecamp core: a message and the double trap in the other basecamp (R404). -/
theorem told_trapSeat_basecamp (untrapped : (s.seatAt c 7).status ≠ .trapped) (bc : isBc c = true) :
    let u := trapSeat s c 7 cause val pc rpc
    let b := 1 - (c - 4096) / 2
    let regs := [BitVec.ofNat 64 (chipOf c), BitVec.ofNat 64 (coreNo c % 2)]
    u.inbox = s.inbox ++ [(b, trapHeader 2, regs)] ∧
      (u.getCore (4096 + 2 * b)).told = ((s.getCore (4096 + 2 * b)).addEvent (doubleTrapFiring regs)).told := by
  intro u b regs
  have hu : u = doubleTrap (seat7Trapped s c cause val pc rpc) c := trapSeat_seven untrapped
  rw [doubleTrap_basecamp bc] at hu
  refine ⟨?_, ?_⟩
  · rw [hu, State.updCore_inbox, toFirmware, inbox_fenceSeatAt]
    rfl
  · rw [hu, told_updCore_addEvent]
    exact Core.told_addEvent ((told_fenceSeatAt _ c 7 _).trans (told_seat7Trapped _)) _

end Seat7

/-- Settles O46: the fence of seat 7, then the double trap by the kind of core. -/
theorem seatSevenTrap : Obligations.SeatSevenTrap := by
  unfold Obligations.SeatSevenTrap
  intro s c cause v pc rpc t u e notice gets twice untrapped
  have quiet : Quiet c 7 s u := quiet_trapSeat s c 7 cause v pc rpc
  obtain ⟨fenced, free, firing, trapPc, trapCause, trapVal⟩ := trapSeat_seven_seatAt untrapped e rfl
  refine ⟨fenced, free, firing, trapPc, trapCause, trapVal, fun m below => quiet.others c m (.inr (Nat.ne_of_lt below)),
    Place.read_of_machine quiet.machine 1, fun grid member => ?_, fun grid cox => ?_, fun bc => ?_⟩
  · exact ⟨inbox_trapSeat_grid untrapped (isBc_of_isGridCore grid) member,
      Prod.mk.inj (told_trapSeat_grid untrapped (isBc_of_isGridCore grid) member)⟩
  · obtain ⟨inbox, own, basecamp⟩ := told_trapSeat_cox (cause := cause) (val := v) (pc := pc) (rpc := rpc) untrapped grid cox
    exact ⟨inbox, Prod.mk.inj own, Prod.mk.inj basecamp⟩
  · obtain ⟨inbox, basecamp⟩ := told_trapSeat_basecamp (cause := cause) (val := v) (pc := pc) (rpc := rpc) untrapped bc
    exact ⟨inbox, Prod.mk.inj basecamp⟩

end Sys2Proof.Machine
end

section
/-! What the engines' writes into a scratchpad leave (R146): every core beside the memory and the waiters of it. -/

namespace Sys2Proof.Machine

/-! ### Cores beside their scratchpads -/

/-- A core without its scratchpad and the accesses that wait there, and without its L1. -/
def Core.beside (k : Core) : Core := { k with sp := [], full := [], spPoison := [], waiters := [], l1 := [] }

/-- The cores of the module beside their scratchpads, and its launches. -/
def State.beside (s : State) : (CoreId → Core) × List Launch := (fun c => (s.getCore c).beside, s.launches)

section Beside

variable {α : Type} {s t : State}

theorem core_eq_of_beside (h : t.beside = s.beside) (f : Core → α) (kept : ∀ k : Core, f k.beside = f k) (c : CoreId) :
    f (t.getCore c) = f (s.getCore c) := by
  have core : (t.getCore c).beside = (s.getCore c).beside := congrFun (congrArg Prod.fst h) c
  rw [← kept (t.getCore c), core, kept (s.getCore c)]

theorem launches_of_beside (h : t.beside = s.beside) : t.launches = s.launches := congrArg Prod.snd h

end Beside

theorem beside_setCore (s : State) (c : CoreId) (k : Core) (h : k.beside = (s.getCore c).beside) :
    (s.setCore c k).beside = s.beside := by
  refine Prod.ext (funext fun d => ?_) rfl
  by_cases e : d = c
  · simp only [State.beside, e, State.getCore_setCore, h]
  · simp only [State.beside, State.getCore_setCore_other s k e]

theorem beside_updCore (s : State) (c : CoreId) (f : Core → Core) (h : (f (s.getCore c)).beside = (s.getCore c).beside) :
    (s.updCore c f).beside = s.beside := beside_setCore s c _ h

@[simp] theorem beside_updPiece (s : State) (id i : Nat) (f : Piece → Piece) : (updPiece s id i f).beside = s.beside := rfl

theorem beside_acquireInv (s : State) (c : CoreId) : (acquireInv s c).beside = s.beside := beside_updCore s c _ rfl

theorem beside_trySync {s t : State} {owner : CoreId} {word : Nat} {r : Req} {p : Piece} (h : trySync s owner word r p = some t) :
    t.beside = s.beside := by
  unfold trySync at h
  dsimp only at h
  split at h
  · split at h
    · cases h; rfl
    · split at h
      · cases h; rfl
      · cases h
  · split at h
    · cases h; rfl
    · split at h
      · cases h; rw [beside_updPiece, beside_updCore _ _ _ rfl]
      · cases h
  · split at h
    · cases h
    · cases h; rw [beside_updPiece, beside_updCore _ _ _ rfl]
  · cases h; rw [beside_updPiece, beside_updCore _ _ _ rfl]

theorem beside_serveWord (owner : CoreId) (word n : Nat) (s : State) : (serveWord owner word n s).beside = s.beside := by
  induction n generalizing s with
  | zero => rfl
  | succ n ih =>
    unfold serveWord
    dsimp only
    split
    case h_1 id s' e =>
      obtain ⟨w, -, hw⟩ := List.exists_of_findSome?_eq_some e
      split at hw
      · obtain ⟨t, ht, e⟩ := Option.map_eq_some_iff.1 hw
        obtain ⟨q, -, hq⟩ := Option.bind_eq_some_iff.1 ht
        cases e
        rw [ih, beside_updCore s' owner _ rfl, beside_trySync hq]
      · cases hw
    case h_2 => rfl

theorem beside_setFull (s : State) (owner : CoreId) (word : Nat) (full : Bool) : (setFull s owner word full).beside = s.beside := by
  rw [setFull, serve, beside_serveWord, beside_updCore s owner _ rfl]

/-- What each step of a fold keeps, the fold keeps. -/
theorem foldl_keeps {σ α β : Type} (g : σ → β) (f : σ → α → σ) (h : ∀ s a, g (f s a) = g s) (l : List α) (s : σ) :
    g (l.foldl f s) = g s := by
  induction l generalizing s with
  | nil => rfl
  | cons a l ih => rw [List.foldl_cons, ih, h]

theorem beside_engineWrite {s t : State} {c : CoreId} {off : Nat} {bytes : List Byte} (h : engineWrite s c off bytes = some t) :
    t.beside = s.beside := by
  unfold engineWrite at h
  dsimp only at h
  split at h
  · cases h
    rfl
  · split at h <;> cases h
    rw [foldl_keeps State.beside _ fun s w => beside_setFull s c w true, beside_updCore s c _ rfl]

theorem beside_engineDoubles (s : State) (c : CoreId) (off : Nat) (ws : List Word) : (engineDoubles s c off ws).beside = s.beside := by
  unfold engineDoubles
  cases e : engineWrite s c off (wordsBytes ws) with
  | none => rfl
  | some t => exact beside_engineWrite e

end Sys2Proof.Machine
end

section
/-! Firings start in the registers that R111 and R120 give (R118, R377). -/

namespace Sys2Proof.Machine

/-! ### A firing that starts -/

/-- A seat runs a firing from `pc` with x1 to x4 of `head` and x16 on of `args`, the other registers zero (R111). -/
def Seat.Runs (v : Seat) (pc : Parcel) (head args : List Word) : Prop :=
  v.status = .running ∧ v.pc = pc ∧ v.rpt = 0 ∧ v.p = 0 ∧ v.outs = [] ∧
    ∀ i : BitVec 5, v.getX i = if i = 0 then 0 else if 1 ≤ i.toNat ∧ i.toNat ≤ 4 then head.getD (i.toNat - 1) 0
      else if 16 ≤ i.toNat ∧ i.toNat ≤ 23 then args.getD (i.toNat - 16) 0 else 0

theorem startFiring_runs (s : State) (c : CoreId) {n : Nat} (f : Firing) (e : Parcel) (head args : List Word) (h : n < 8)
    (st : (s.getCore c).starts e.toNat = true) : ((startFiring s c n f (some e) head args).seatAt c n).Runs e head args := by
  obtain ⟨status, pc, rpt, p, outs, -, -, -, x⟩ := startFiring_seatAt s c f e head args h st _ rfl
  exact ⟨status, pc, rpt, p, outs, x⟩

/-- A field of the core that is not its seats is kept where a firing starts. -/
theorem startFiring_coreField {α : Type} (s : State) (c : CoreId) (n : Nat) (f : Firing) (e : Parcel) (head args : List Word)
    (st : (s.getCore c).starts e.toNat = true) (g : Core → α) (kept : ∀ (k : Core) (v : Seat), g (k.setSeat n v) = g k) :
    g ((startFiring s c n f (some e) head args).getCore c) = g (s.getCore c) := by
  obtain ⟨v, core, -⟩ := startFiring_core s c n f e head args st
  rw [core, kept]

/-! ### Trap and event firings -/

section Supervisor

variable {s : State} {c : CoreId} {k : Core} {q : Queued} {e : Parcel}

theorem startSupervisor_eq (entry : handlerOf (s.getCore c) q.cls = some e) : startSupervisor s c q =
    startFiring s c 7 ⟨0, q.cls, 7, 7, none⟩ (some e) [q.cls.setWidth 64, 0, 0, 0] q.regs := by
  rw [startSupervisor, entry]

/-- Seat 7 runs a supervisor firing in a core that keeps its handlers and its start map (R112, R120). -/
theorem startSupervisor_runs (entry : handlerOf k q.cls = some e) (st : k.starts e.toNat = true) :
    ((startSupervisor (s.setCore c k) c q).seatAt c 7).Runs e [q.cls.setWidth 64, 0, 0, 0] q.regs := by
  rw [startSupervisor_eq (by rwa [State.getCore_setCore])]
  exact startFiring_runs _ c _ e _ _ (by decide) (by rwa [State.getCore_setCore])

theorem startSupervisor_coreField {α : Type} (entry : handlerOf k q.cls = some e) (st : k.starts e.toNat = true)
    (g : Core → α) (kept : ∀ (k : Core) (v : Seat), g (k.setSeat 7 v) = g k) :
    g ((startSupervisor (s.setCore c k) c q).getCore c) = g k := by
  rw [startSupervisor_eq (by rwa [State.getCore_setCore]),
    startFiring_coreField _ c 7 _ e _ _ (by rwa [State.getCore_setCore]) g kept, State.getCore_setCore]

theorem startSupervisor_other {n : Nat} (entry : handlerOf k q.cls = some e) (st : k.starts e.toNat = true) (below : n ≠ 7) :
    (startSupervisor (s.setCore c k) c q).seatAt c n = k.getSeat n := by
  rw [startSupervisor_eq (by rwa [State.getCore_setCore]),
    startFiring_other _ c _ e _ _ (by rwa [State.getCore_setCore]) (.inr below), State.seatAt, State.getCore_setCore]

end Supervisor

/-- The oldest trap firing as it starts: x18 is TRAP_CAUSE of the seat as it is now, with MORE (R120, R377). -/
def Queued.withCause (q : Queued) (v : Seat) : Queued :=
  if v.status = .trapped then { q with regs := q.regs.set 2 (v.trapCause.setWidth 64) } else q

theorem Queued.withCause_cls (q : Queued) (v : Seat) : (q.withCause v).cls = q.cls := by unfold Queued.withCause; split <;> rfl

theorem trapFiringBinding_binds {s : State} {core : Nat} {q : Queued} {rest : List Queued} (traps : (s.getCore core).traps = q :: rest)
    (free : seat7Free s core = true) (outs : (trappedSeat s core q).outs = []) :
    exec (.trapFiringBinding core) s = .next (startSupervisor (s.setCore core { s.getCore core with traps := rest }) core
      (q.withCause (trappedSeat s core q))) := by
  change execTrapFiringBinding core s = _
  unfold execTrapFiringBinding
  simp only [traps, free, outs, Queued.withCause, Bool.not_true, List.isEmpty_nil, Bool.or_false, Bool.false_eq_true, if_false]

/-- Settles O48: the firing of a trapped seat of the core, with x16 to x19 of its trap. -/
theorem trapFiringRegisters : Obligations.TrapFiringRegisters := by
  unfold Obligations.TrapFiringRegisters
  intro s core n e cause pc v rest k cls traps below status outs free entry st
  have binds := trapFiringBinding_binds traps free outs
  have cause' : Queued.withCause ⟨cls, cause, some n, [BitVec.ofNat 64 n, pc, cause.setWidth 64, v]⟩ (k.getSeat n) =
      ⟨cls, cause, some n, [BitVec.ofNat 64 n, pc, (k.getSeat n).trapCause.setWidth 64, v]⟩ := if_pos status
  rw [show trappedSeat s core ⟨cls, cause, some n, [BitVec.ofNat 64 n, pc, cause.setWidth 64, v]⟩ = k.getSeat n from rfl, cause'] at binds
  refine ⟨_, binds, startSupervisor_other entry st (by omega), ?_⟩
  obtain ⟨running, at', rpt, p, none, x⟩ := startSupervisor_runs (s := s) (c := core) (k := { k with traps := rest })
    (q := ⟨cls, cause, some n, [BitVec.ofNat 64 n, pc, (k.getSeat n).trapCause.setWidth 64, v]⟩) entry st
  refine ⟨running, at', rpt, none, p, x 1, x 2, x 3, x 4, x 16, x 17, x 18, x 19, fun r above outside => ?_⟩
  rw [x r, if_neg (by bv_omega), if_neg (by omega)]
  split
  · exact List.getD_eq_default _ _ (by simp; omega)
  · rfl

end Sys2Proof.Machine
end

section
/-! The bindings: items of patterns, port-overflow firings, spawns and context records (R208, R235, R238, R239, R247, R378, R379). -/

namespace Sys2Proof.Machine

/-! ### Items of a pattern (R238, R239) -/

theorem Core.port_setPort_same (k : Core) (n : Nat) (p : Port) : (k.setPort n p).port n = p := tget_tset_same ..

theorem Core.port_setPort_other (k : Core) {n m : Nat} (p : Port) (h : m ≠ n) : (k.setPort n p).port m = k.port m :=
  tget_tset_other _ _ _ h

/-- A port after a binding has taken `n` items: tokens of a counter port, else held messages. -/
def Port.taken (p : Port) (n : Nat) : Port :=
  if pKind p.entry = 1 then { p with tokens := p.tokens.drop n } else { p with held := p.held.drop n }

theorem takeItems_core (s : State) (c : CoreId) (cls : BitVec 8) (port n : Nat) :
    (takeItems s c cls port n).1 = (s.getCore c).setPort port (((s.getCore c).port port).taken n) := by
  unfold takeItems Port.taken
  dsimp only
  split <;> rfl

theorem takeAll_cons (c : CoreId) (cls : BitVec 8) (u : Nat × Nat) (l : List (Nat × Nat)) (s : State) :
    (takeAll c cls (u :: l) s).1 =
      (takeAll c cls l (s.setCore c ((s.getCore c).setPort u.1 (((s.getCore c).port u.1).taken u.2)))).1 := by
  rw [← takeItems_core s c cls]
  rfl

/-- What is taken changes the ports of the core alone. -/
theorem takeAll_coreField {α : Type} (c : CoreId) (cls : BitVec 8) (g : Core → α)
    (kept : ∀ (k : Core) (n : Nat) (p : Port), g (k.setPort n p) = g k) (l : List (Nat × Nat)) (s : State) :
    g ((takeAll c cls l s).1.getCore c) = g (s.getCore c) := by
  induction l generalizing s with
  | nil => rfl
  | cons u l ih => rw [takeAll_cons, ih, State.getCore_setCore, kept]

theorem takeAll_launches (c : CoreId) (cls : BitVec 8) (l : List (Nat × Nat)) (s : State) :
    (takeAll c cls l s).1.launches = s.launches := by
  induction l generalizing s with
  | nil => rfl
  | cons u l ih => rw [takeAll_cons, ih, State.setCore_launches]

theorem takeAll_port_other (c : CoreId) (cls : BitVec 8) {n : Nat} (l : List (Nat × Nat)) (s : State) (h : n ∉ l.map (·.1)) :
    ((takeAll c cls l s).1.getCore c).port n = (s.getCore c).port n := by
  induction l generalizing s with
  | nil => rfl
  | cons u l ih =>
    rw [List.map_cons, List.mem_cons, not_or] at h
    rw [takeAll_cons, ih _ h.2, State.getCore_setCore, Core.port_setPort_other _ _ h.1]

/-- Each port of a pattern that names it once loses the items of its slot. -/
theorem takeAll_port (c : CoreId) (cls : BitVec 8) {u : Nat × Nat} (l : List (Nat × Nat)) (s : State) (mem : u ∈ l)
    (once : (l.map (·.1)).Nodup) : ((takeAll c cls l s).1.getCore c).port u.1 = ((s.getCore c).port u.1).taken u.2 := by
  induction l generalizing s with
  | nil => cases mem
  | cons v l ih =>
    rw [List.map_cons, List.nodup_cons] at once
    rw [takeAll_cons]
    rcases List.mem_cons.1 mem with rfl | later
    · rw [takeAll_port_other c cls l _ once.1, State.getCore_setCore, Core.port_setPort_same]
    · have other : u.1 ≠ v.1 := fun e => once.1 (e ▸ List.mem_map_of_mem later)
      rw [ih _ later once.2, State.getCore_setCore, Core.port_setPort_other _ _ other]

theorem takeAll_single (s : State) (c : CoreId) (cls : BitVec 8) (port n : Nat) (messages : pKind ((s.getCore c).port port).entry ≠ 1) :
    (takeAll c cls [(port, n)] s).2.1 = (((s.getCore c).port port).held.take n).map fun h =>
      ((heldWords (s.getCore c) ((s.getCore c).port port).entry h).getD 0 0,
        (heldWords (s.getCore c) ((s.getCore c).port port).entry h).drop 1) := by
  simp only [takeAll, takeItems, if_neg messages, List.append_nil, List.map_map, Function.comp_def]

/-! ### Patterns (R111, R239, R328) -/

theorem seatFor_lt {k : Core} {d0 : Word} {n : Nat} (h : seatFor k d0 = some n) : n < 8 := by
  have free : n ∈ (List.range 8).filter (seatOpen k (patSeatClass d0) (patPrio d0)) := by
    unfold seatFor at h
    rcases Option.or_eq_some_iff.1 h with first | ⟨-, head⟩
    · exact List.mem_of_find?_eq_some first
    · exact List.mem_of_mem_head? head
  exact List.mem_range.1 (List.mem_filter.1 free).1

theorem patPrio_lt (d0 : Word) : patPrio d0 < 8 := (d0.extractLsb' 45 3).isLt

theorem portWord_congr {s t : State} {c : CoreId} (launch : (t.getCore c).launch = (s.getCore c).launch)
    (launches : t.launches = s.launches) : portWord t c = portWord s c := by
  have find : findLaunch t = findLaunch s := funext fun id => by rw [findLaunch, launches, findLaunch]
  rw [portWord, launch, find, portWord]

section Pattern

variable (s : State) (c n seat : Nat) (d0 d1 : Word)

/-- What a pattern takes from its ports: the state without it, the items and whether one of them acquires. -/
def patternTakes : State × List (Word × List Word) × Bool := takeAll c (patClass d0) (patUses d1) s

/-- The payload words of a pattern's items. -/
def patternWords : List Word := (patternTakes s c d0 d1).2.1.flatMap (·.2)

/-- The payload area of a pattern's firing is written (R239). -/
def patternWrites : State :=
  engineDoubles (engineDoubles (patternTakes s c d0 d1).1 c (payArea (s.getCore c) seat) ((patternTakes s c d0 d1).2.1.map (·.1))) c
    (payArea (s.getCore c) seat + 512) (patternWords s c d0 d1)

/-- A pattern has taken its items, written its payload area and moved RP; its firing is to start (R239). -/
def patternReady : State :=
  (if (patternTakes s c d0 d1).2.2 then acquireInv (patternWrites s c seat d0 d1) c else patternWrites s c seat d0 d1).updCore c fun k =>
    { k with rp := k.rp.setIfInBounds (patPrio d0) n }

/-- x1 to x4 of a pattern's firing (R111). -/
def patternHead : List Word :=
  [(patClass d0).setWidth 64, ((patternTakes s c d0 d1).2.1.head?.map (·.1)).getD 0,
    BitVec.ofNat 64 (2 ^ 56 + payArea (s.getCore c) seat + 512), portWord s c]

variable {s c n seat d0 d1}

theorem beside_patternWrites : (patternWrites s c seat d0 d1).beside = (patternTakes s c d0 d1).1.beside := by
  rw [patternWrites, beside_engineDoubles, beside_engineDoubles]

/-- A field of the core that neither the memory nor the choice of a pattern touches. -/
theorem patternReady_coreField {α : Type} (g : Core → α) (beside : ∀ k : Core, g k.beside = g k)
    (rp : ∀ (k : Core) (v : Vector Nat 8), g { k with rp := v } = g k) :
    g ((patternReady s c n seat d0 d1).getCore c) = g ((patternTakes s c d0 d1).1.getCore c) := by
  rw [patternReady, State.getCore_updCore, rp]
  split
  · exact core_eq_of_beside ((beside_acquireInv ..).trans beside_patternWrites) g beside c
  · exact core_eq_of_beside beside_patternWrites g beside c

theorem patternReady_launches : (patternReady s c n seat d0 d1).launches = s.launches := by
  have taken : (patternWrites s c seat d0 d1).launches = s.launches :=
    (launches_of_beside beside_patternWrites).trans (takeAll_launches ..)
  rw [patternReady, State.updCore_launches]
  split
  · exact taken
  · exact taken

theorem patternReady_rp : ((patternReady s c n seat d0 d1).getCore c).rp.getD (patPrio d0) 31 = n := by
  rw [patternReady, State.getCore_updCore]
  simp [Vector.getD, patPrio_lt]

theorem patternReady_sp : ((patternReady s c n seat d0 d1).getCore c).sp = ((patternWrites s c seat d0 d1).getCore c).sp := by
  rw [patternReady, State.getCore_updCore]
  split
  · rw [acquireInv, State.getCore_updCore]
  · rfl

/-- A pattern takes nothing of its core but the items of its ports. -/
theorem patternReady_kept {α : Type} (g : Core → α) (beside : ∀ k : Core, g k.beside = g k)
    (rp : ∀ (k : Core) (v : Vector Nat 8), g { k with rp := v } = g k) (ports : ∀ (k : Core) (n : Nat) (p : Port), g (k.setPort n p) = g k) :
    g ((patternReady s c n seat d0 d1).getCore c) = g (s.getCore c) :=
  (patternReady_coreField g beside rp).trans (takeAll_coreField c _ g ports _ s)

theorem patternReady_starts (a : Nat) : ((patternReady s c n seat d0 d1).getCore c).starts a = (s.getCore c).starts a :=
  patternReady_kept (fun k => k.starts a) (fun _ => rfl) (fun _ _ => rfl) fun _ _ _ => rfl

theorem patternReady_portWord : portWord (patternReady s c n seat d0 d1) c = portWord s c :=
  portWord_congr (patternReady_kept Core.launch (fun _ => rfl) (fun _ _ => rfl) fun _ _ _ => rfl) patternReady_launches

/-- A pattern that binds starts its firing and clears the event bit of its seat (R111, R328). -/
theorem bindPattern_eq (entry : tget (0, 0) (s.getCore c).patterns n = (d0, d1)) (free : seatFor (s.getCore c) d0 = some seat) :
    ∃ f : Firing, bindPattern s c n = (startFiring (patternReady s c n seat d0 d1) c seat f (handlerOf (s.getCore c) (patClass d0))
      (patternHead s c seat d0 d1) ((patternWords s c d0 d1).take 8)).updSeatAt c seat fun t =>
        { t with payWords := (patternWords s c d0 d1).length, items := (patternTakes s c d0 d1).2.1.length, event := false } := by
  have port := patternReady_portWord (s := s) (c := c) (n := n) (seat := seat) (d0 := d0) (d1 := d1)
  unfold patternReady patternWrites patternWords patternTakes at port
  unfold bindPattern patternHead patternReady patternWrites patternWords patternTakes
  dsimp only
  rw [entry, ← port]
  obtain ⟨t, items, rb⟩ := takeAll c (patClass d0) (patUses d1) s
  dsimp only
  rw [free]
  exact ⟨_, rfl⟩

theorem patternBinding_binds (busy : idle s c = false) (live : (s.getCore c).stopped = false) (core : isCore c = true)
    (chosen : choosePattern (s.getCore c) = some n) : exec (.patternBinding c) s = .next
      ((bindPattern s c n).updCore c fun k => { k with resumes := k.resumes.map fun r => { r with fresh := false } }) := by
  change execPatternBinding c s = _
  unfold execPatternBinding
  simp only [busy, live, core, chosen, Bool.not_true, Bool.or_false, Bool.false_eq_true, if_false]

/-- The payload counts and the event bit are no registers. -/
theorem Seat.Runs.withPayload {v : Seat} {e : Parcel} {head args : List Word} (h : v.Runs e head args) (words items : Nat) (event : Bool) :
    ({ v with payWords := words, items := items, event := event } : Seat).Runs e head args := h

variable {e : Parcel}

/-- The seat and the core after a pattern has bound. -/
theorem bindPattern_binds (entry : tget (0, 0) (s.getCore c).patterns n = (d0, d1)) (free : seatFor (s.getCore c) d0 = some seat)
    (handler : handlerOf (s.getCore c) (patClass d0) = some e) (st : (s.getCore c).starts e.toNat = true) (t : State)
    (ht : bindPattern s c n = t) :
    (t.seatAt c seat).Runs e (patternHead s c seat d0 d1) ((patternWords s c d0 d1).take 8) ∧ (t.seatAt c seat).event = false ∧
      (t.seatAt c seat).payWords = (patternWords s c d0 d1).length ∧ ∀ {α : Type} (g : Core → α),
        (∀ (k : Core) (v : Seat), g (k.setSeat seat v) = g k) → g (t.getCore c) = g ((patternReady s c n seat d0 d1).getCore c) := by
  obtain ⟨f, bound⟩ := bindPattern_eq entry free
  have st' : ((patternReady s c n seat d0 d1).getCore c).starts e.toNat = true := (patternReady_starts _).trans st
  rw [handler] at bound
  rw [← ht, bound, State.seatAt_updSeatAt_same _ c _ (seatFor_lt free)]
  exact ⟨(startFiring_runs _ c f e _ _ (seatFor_lt free) st').withPayload _ _ _, rfl, rfl, fun g kept =>
    (core_updSeatAt _ c seat _ g kept c).trans (startFiring_coreField _ c seat f e _ _ st' g kept)⟩

end Pattern

/-! ### Event firings (R235, R377) -/

/-- The core whose overflow ring a port-overflow firing speaks of: the one that forwards it, or the own one (R235, R380). -/
def overflowTail (s : State) (c : CoreId) (q : Queued) : BitVec 32 :=
  if fld (q.regs.getD 0 0) 7 0 = 0xFF ∧ fld (q.regs.getD 0 0) 15 8 ≠ 0 then
    (s.getCore (coreAt (clusterOf c) (fld (q.regs.getD 0 0) 15 8))).ovfTail
  else (s.getCore c).ovfTail

/-- An event firing as it starts: that of a port overflow finds TAIL in x19 (R235). -/
def Queued.withTail (q : Queued) (tail : BitVec 32) : Queued :=
  if q.code = 0x30 then { q with regs := q.regs.take 3 ++ [tail.setWidth 64] } else q

theorem Queued.withTail_cls (q : Queued) (tail : BitVec 32) : (q.withTail tail).cls = q.cls := by unfold Queued.withTail; split <;> rfl

theorem eventFiringBinding_binds {s : State} {core : Nat} {q : Queued} {rest : List Queued} (events : (s.getCore core).events = q :: rest)
    (traps : (s.getCore core).traps = []) (free : seat7Free s core = true) :
    exec (.eventFiringBinding core) s = .next (startSupervisor (s.setCore core (s.getCore core).dropEvent) core
      (q.withTail (overflowTail s core q))) := by
  have tail : (if (decide (fld (q.regs.getD 0 0) 7 0 = 0xFF) && decide (fld (q.regs.getD 0 0) 15 8 ≠ 0)) = true then
      s.getCore (coreAt (clusterOf core) (fld (q.regs.getD 0 0) 15 8)) else s.getCore core).ovfTail = overflowTail s core q := by
    simp only [overflowTail, Bool.and_eq_true, decide_eq_true_eq, apply_ite Core.ovfTail]
  change execEventFiringBinding core s = _
  unfold execEventFiringBinding
  dsimp only
  rw [events]
  dsimp only
  rw [if_neg (by simp [free, traps]), tail]
  rfl

/-! ### Spawns (R207, R208) -/

theorem rankOf_congr {s t : State} {c : CoreId} (rank : (t.getCore c).rank = (s.getCore c).rank) : rankOf t c = rankOf s c := by
  rw [rankOf, rank, rankOf]

section Spawn

variable {s : State} {c seat : Nat} {e : SpawnEntry}

/-- A spawn takes its entry from the queue and invalidates as an acquire does (R208). -/
def spawnTaken (s : State) (c : CoreId) (e : SpawnEntry) : State :=
  acquireInv (s.setCore c { s.getCore c with spawns := (s.getCore c).spawns.erase e }) c

theorem spawnTaken_coreField {α : Type} (g : Core → α) (beside : ∀ k : Core, g k.beside = g k)
    (spawns : ∀ (k : Core) (l : List SpawnEntry), g { k with spawns := l } = g k) :
    g ((spawnTaken s c e).getCore c) = g (s.getCore c) := by
  rw [spawnTaken, core_eq_of_beside (beside_acquireInv ..) g beside, State.getCore_setCore, spawns]

theorem spawnBinding_binds (found : (s.getCore c).spawns.find? (·.seat = seat) = some e) (free : ((s.getCore c).getSeat seat).status = .free)
    (whole : ((s.getCore c).getSeat seat).fenced = false) (counted : e.count = none) (busy : idle s c = false)
    (first : seat = 7 → (s.getCore c).traps = [] ∧ ∀ v ∈ (s.getCore c).events, v.code ≠ 0x30) :
    ∃ f : Firing, exec (.spawnBinding c seat) s = .next (startFiring (spawnTaken s c e) c seat f (some e.entry)
      [BitVec.ofNat 64 (0x10000 + e.entry.toNat), rankOf s c ++ 0#32 ++ e.caller, 0, portWord s c] e.args) := by
  have rank : rankOf (spawnTaken s c e) c = rankOf s c := rankOf_congr (spawnTaken_coreField Core.rank (fun _ => rfl) fun _ _ => rfl)
  have port : portWord (spawnTaken s c e) c = portWord s c :=
    portWord_congr (spawnTaken_coreField Core.launch (fun _ => rfl) fun _ _ => rfl) rfl
  refine ⟨⟨0, 0, 7, e.seatCls, if seat = 7 then none else (s.getCore c).launch⟩, ?_⟩
  rw [← rank, ← port]
  change execSpawnBinding c seat s = _
  unfold execSpawnBinding
  dsimp only
  rw [found]
  dsimp only
  rw [if_neg (by simpa [free, whole, counted, busy] using first)]
  rfl

end Spawn

/-! ### Doubles in HBM (R2, R379) -/

theorem wordsBytes_length (ws : List Word) : (wordsBytes ws).length = 8 * ws.length := by
  induction ws with
  | nil => rfl
  | cons w ws ih =>
    rw [wordsBytes, List.flatMap_cons, List.length_append, ← wordsBytes, ih, List.length_map, List.length_range, List.length_cons]
    omega

theorem wordsBytes_getD (ws : List Word) {i j : Nat} (hj : j < 8) (hi : i < ws.length) :
    (wordsBytes ws).getD (8 * i + j) 0 = (ws[i]).extractLsb' (8 * j) 8 := by
  induction ws generalizing i with
  | nil => cases hi
  | cons w ws ih =>
    rw [wordsBytes, List.flatMap_cons, ← wordsBytes]
    cases i with
    | zero =>
      rw [List.getD_append _ _ _ _ (by simpa using hj)]
      simp [List.getD_eq_getElem?_getD, hj]
    | succ i =>
      rw [List.getD_append_right _ _ _ _ (by simp; omega), List.length_map, List.length_range,
        show 8 * (i + 1) + j - 8 = 8 * i + j by omega]
      exact ih (by simpa using hi)

/-- A double reads as its eight bytes. -/
theorem getDouble_of_bytes {m : Memory} {a : Nat} {w : Word} (h : ∀ j < 8, getByte m (a + j) = w.extractLsb' (8 * j) 8) :
    getDouble m a = w := by
  have same : getBytes m a 8 = getBytes (setDouble m a w) a 8 := by
    refine getBytes_congr _ _ _ _ fun i l u => ?_
    obtain ⟨j, rfl⟩ := Nat.exists_eq_add_of_le l
    rw [h j (by omega), setDouble, getByte_setBytes_inside _ _ _ _ _ (by omega), BitVec.extractLsb', Nat.shiftRight_eq_div_pow,
      Nat.pow_mul]
  rw [getDouble, same]
  exact getDouble_setDouble_same m a w

theorem getDouble_congr {m m' : Memory} {a : Nat} (h : ∀ i, a ≤ i → i < a + 8 → getByte m i = getByte m' i) :
    getDouble m a = getDouble m' a := by
  rw [getDouble, getBytes_congr m m' 8 a h, getDouble]

theorem any_tset_same {α : Type} (d : α) (p : α → Bool) (hd : p d = false) (l : List (Nat × α)) (i : Nat) (v : α)
    (h : p v = p (tget d l i)) : ((tset l i v).any fun e => p e.2) = l.any fun e => p e.2 := by
  rw [← Bool.not_inj_iff, List.not_any_eq_all_not, List.not_any_eq_all_not]
  exact all_tset_same d (fun a => !p a) (by rw [hd]; rfl) l i v (by rw [h])

/-- Which lines lie on the memory side depends on no field of a core but its translations (R173). -/
theorem memorySide_setCore {s : State} {c : CoreId} {k : Core} (tlb : k.tlb = (s.getCore c).tlb) (root : k.ttRoot = (s.getCore c).ttRoot)
    (pa : Nat) : memorySide (s.setCore c k) pa = memorySide s pa := by
  have roots : mapsMsa (s.setCore c k) pa = mapsMsa s pa := by
    have maps := any_tset_same ({} : Core) (fun k : Core => k.ttRoot.getLsbD 0 && msaUnder s.hbm pa 3 (fld k.ttRoot 39 12 * 4096)) rfl
      s.cores c k (by rw [root]; rfl)
    simp only [mapsMsa, liveRoots, List.cons_append, List.any_cons, List.any_append, List.any_map, Function.comp_def]
    exact congrArg (fun b => _ || (b || _)) maps
  have cached := any_tset_same ({} : Core) (fun k : Core => k.tlb.any fun e => e.msa && decide (e.pa ≤ pa) && decide (pa < e.pa + e.size)) rfl
    s.cores c k (by rw [tlb]; rfl)
  unfold memorySide
  rw [roots]
  exact congrArg (fun b => _ || b || _) cached

theorem spoiledWrite_setCore {s : State} {c : CoreId} {k : Core} (tlb : k.tlb = (s.getCore c).tlb) (root : k.ttRoot = (s.getCore c).ttRoot)
    (pa n : Nat) : spoiledWrite (s.setCore c k) pa n = spoiledWrite s pa n := by
  have byte (a : Nat) : spoiledByte (s.setCore c k) pa n a = spoiledByte s pa n a := by
    rw [spoiledByte, memorySide_setCore tlb root]
    rfl
  simp only [spoiledWrite, byte]

/-- A byte of a write that is performed in whole. -/
theorem getByte_hbmPut {s : State} {pa : Nat} {bytes : List Byte} (whole : spoiledWrite s pa bytes.length = false) (a : Nat) :
    getByte (hbmPut s pa bytes).hbm a = if pa ≤ a ∧ a < pa + bytes.length then bytes.getD (a - pa) 0 else getByte s.hbm a := by
  have performed (i : Nat) (h : i < bytes.length) : spoiledByte s pa bytes.length (pa + i) = false := by
    simpa using List.any_eq_false.1 whole i (List.mem_range.2 h)
  rw [hbmPut, getByte_putBytes]
  refine if_congr ⟨fun ⟨l, u, _⟩ => ⟨l, u⟩, fun ⟨l, u⟩ => ⟨l, u, ?_⟩⟩ rfl rfl
  have := performed (a - pa) (by omega)
  rw [Nat.add_sub_cancel' l] at this
  simpa using this

/-- What lies outside a write is kept, performed or not. -/
theorem getByte_hbmPut_outside (s : State) {pa : Nat} {bytes : List Byte} {a : Nat} (h : a < pa ∨ pa + bytes.length ≤ a) :
    getByte (hbmPut s pa bytes).hbm a = getByte s.hbm a := by
  rw [hbmPut, getByte_putBytes, if_neg (by omega)]

/-- The doubles of a write that is performed in whole read as written. -/
theorem getDouble_hbmPut {s : State} {pa : Nat} {ws : List Word} (whole : spoiledWrite s pa (8 * ws.length) = false) {i : Nat}
    (hi : i < ws.length) : getDouble (hbmPut s pa (wordsBytes ws)).hbm (pa + 8 * i) = ws[i] := by
  rw [← wordsBytes_length] at whole
  refine getDouble_of_bytes fun j hj => ?_
  rw [getByte_hbmPut whole, wordsBytes_length, if_pos (by omega), ← wordsBytes_getD ws hj hi]
  congr 1
  omega

/-! ### Resume entries (R247, R378) -/

theorem Core.getSeat_news (k : Core) {n : Nat} (h : n < 8) : k.news.getSeat n = { k.getSeat n with event := true } := by
  simp [Core.news, Core.getSeat, Vector.getD, h]

section ResumeEntry

variable {s : State} {c seat : Nat} {r : Resume}

/-- The seat that a resume entry binds, as its record at `pa` gives it (R247, R248). -/
def resumedSeat (s : State) (c seat : Nat) (r : Resume) : Seat :=
  ctxSeat s.hbm (recordAt s c r.area r.slot) { (s.getCore c).getSeat seat with
    status := .running, firing := some r.firing, outs := [], preempt := false, slice := (s.getCore c).sliceLen }

/-- The doubles of the payload area in a resume entry's record (R248). -/
def resumedArea (s : State) (c : Nat) (r : Resume) : List Word := readDoubles s.hbm (recordAt s c r.area r.slot + 0x2500) 1024

/-- The core that a resume entry binds, with its payload area and without the entry; `bad` are the words that read poison. -/
def resumedCore (s : State) (c seat : Nat) (r : Resume) (bad : List Nat) : Core :=
  let k := spPlain { s.getCore c with resumes := (s.getCore c).resumes.erase r } (payArea (s.getCore c) seat) (resumedArea s c r)
  ({ k with spPoison := bad.foldl sins k.spPoison }.setSeat seat (resumedSeat s c seat r)).news

/-- A resume entry has bound: the record is no longer valid (R248). -/
def resumed (s : State) (c seat : Nat) (r : Resume) (bad : List Nat) : State :=
  rawDoubles (s.setCore c (resumedCore s c seat r bad)) (recordAt s c r.area r.slot)
    [getDouble s.hbm (recordAt s c r.area r.slot) &&& ~~~(1#64 <<< 56)]

theorem resumeEntryBinding_binds (found : waitingResume (s.getCore c) seat = some r)
    (free : ((s.getCore c).getSeat seat).status = .free) (whole : ((s.getCore c).getSeat seat).fenced = false)
    (busy : idle s c = false) (live : (s.getCore c).stopped = false) (open' : reserved (s.getCore c) seat = false)
    (first : outranked (s.getCore c) seat r.firing.prio = false) :
    ∃ bad, exec (.resumeEntryBinding c seat) s = .next
      (if (badGranules s (recordAt s c r.area r.slot) 0x4500).any (· < 0x2500) then
        trapSeat (resumed s c seat r bad) c seat 0x60 (BitVec.ofNat 64 (recordAt s c r.area r.slot)) (resumedSeat s c seat r).pc
          (resumedSeat s c seat r).pc
      else resumed s c seat r bad) := by
  refine ⟨((badGranules s (recordAt s c r.area r.slot) 0x4500).filter (0x2500 ≤ ·)).flatMap fun o =>
    (List.range 8).map ((payArea (s.getCore c) seat + (o - 0x2500)) / 4 + ·), ?_⟩
  change execResumeEntryBinding c seat s = _
  unfold execResumeEntryBinding
  dsimp only
  rw [found]
  dsimp only
  rw [if_neg (by simp [free, whole, busy, live, open', first])]
  have area (l : List Resume) (off : Nat) (ws : List Word) : payArea (spPlain { s.getCore c with resumes := l } off ws) seat =
    payArea (s.getCore c) seat := rfl
  rw [area]
  rfl

theorem getCore_resumed (bad : List Nat) : (resumed s c seat r bad).getCore c = resumedCore s c seat r bad :=
  s.getCore_setCore c _

theorem seatAt_resumed (bad : List Nat) (h : seat < 8) :
    (resumed s c seat r bad).seatAt c seat = { resumedSeat s c seat r with event := true } := by
  rw [State.seatAt, getCore_resumed, resumedCore, Core.getSeat_news _ h, Core.getSeat_setSeat _ _ _ _ h, if_pos rfl]

/-- What a resume entry leaves and sets of its core beside the seats (R247). -/
theorem resumedCore_fields (bad : List Nat) : let k := resumedCore s c seat r bad
    k.tlb = (s.getCore c).tlb ∧ k.ttRoot = (s.getCore c).ttRoot ∧ k.resumes = (s.getCore c).resumes.erase r ∧
      k.sp = setDoubles (s.getCore c).sp (payArea (s.getCore c) seat) (resumedArea s c r) := by
  simp only [resumedCore, Core.news, Core.setSeat, spPlain, and_self]

/-- The record of a firing that goes on is no longer valid, where it can be written (R248). -/
theorem getDouble_resumed (bad : List Nat) (whole : spoiledWrite s (recordAt s c r.area r.slot) 8 = false) :
    getDouble (resumed s c seat r bad).hbm (recordAt s c r.area r.slot) =
      getDouble s.hbm (recordAt s c r.area r.slot) &&& ~~~(1#64 <<< 56) := by
  have writable : spoiledWrite (s.setCore c (resumedCore s c seat r bad)) (recordAt s c r.area r.slot) 8 = false :=
    (spoiledWrite_setCore (resumedCore_fields bad).1 (resumedCore_fields bad).2.1 _ _).trans whole
  exact getDouble_hbmPut (ws := [_]) (i := 0) writable Nat.one_pos

/-- What a resume entry gives its seat (R247, R248). -/
theorem resumedSeat_registers : let v := resumedSeat s c seat r
    let w := ctxSeat s.hbm (recordAt s c r.area r.slot) ((s.getCore c).getSeat seat)
    v.status = .running ∧ v.firing = some r.firing ∧ v.slice = (s.getCore c).sliceLen ∧ v.outs = [] ∧ v.pc = w.pc ∧ v.rpt = w.rpt ∧
      v.x = w.x ∧ v.p = w.p ∧ v.v = w.v ∧ v.k = w.k ∧ v.q2 = w.q2 ∧ v.q5read = w.q5read ∧ v.payWords = w.payWords ∧
      v.items = w.items := by
  simp only [resumedSeat, ctxSeat, and_self]

end ResumeEntry

/-- Settles O28: the bindings one by one. -/
theorem bindingEvents : Obligations.BindingEvents := by
  unfold Obligations.BindingEvents
  intro s core n seat d0 d1 e q rest sp r k runs starts took words area trapped q' other tail q30
  refine ⟨fun busy live core' chosen entry free ⟨handler, st⟩ => ?pattern, fun u mem once => ?ports,
    fun port m uses messages => ?items, fun traps free outs ⟨handler, st⟩ => ?trap, fun events traps free ⟨handler, st⟩ => ?event,
    fun found below free whole counted busy first st => ?spawn, fun found below free whole busy live open' first => ?resume⟩
  case pattern =>
    obtain ⟨run, event, payload, field⟩ := bindPattern_binds entry free handler st _ rfl
    refine ⟨_, patternBinding_binds busy live core' chosen, ?_⟩
    rw [State.seatAt_updCore_seats _ _ _ rfl, State.getCore_updCore]
    refine ⟨run, event, payload, ?_, ?_, ?_⟩
    · exact (congrArg (fun v : Vector Nat 8 => v.getD (patPrio d0) 31) (field Core.rp fun _ _ => rfl)).trans patternReady_rp
    · exact (field Core.ports fun _ _ => rfl).trans (patternReady_coreField Core.ports (fun _ => rfl) fun _ _ => rfl)
    · exact (field Core.sp fun _ _ => rfl).trans patternReady_sp
  case ports =>
    rw [takeAll_port core (patClass d0) _ s mem once]
    exact ⟨fun counter => by rw [Port.taken, if_pos counter], fun messages => by rw [Port.taken, if_neg messages]⟩
  case items => exact (congrArg (fun l => (takeAll core (patClass d0) l s).2.1) uses).trans (takeAll_single s core _ port m messages)
  case trap =>
    have binds := trapFiringBinding_binds traps free outs
    have entry : handlerOf { k with traps := rest } (q.withCause (trappedSeat s core q)).cls = some e := by
      rw [Queued.withCause_cls]; exact handler
    have run := startSupervisor_runs (s := s) (c := core) entry st
    rw [Queued.withCause_cls] at run
    exact ⟨binds, _, binds, startSupervisor_coreField (s := s) (c := core) entry st Core.traps fun _ _ => rfl, run⟩
  case event =>
    have binds := eventFiringBinding_binds events traps free
    have entry : handlerOf k.dropEvent (q.withTail (overflowTail s core q)).cls = some e := by
      rw [Queued.withTail_cls]; exact handler
    have run := startSupervisor_runs (s := s) (c := core) entry st
    rw [Queued.withTail_cls] at run
    refine ⟨binds, _, binds, ?_, startSupervisor_coreField (s := s) (c := core) entry st Core.notices fun _ _ => rfl, run⟩
    rw [startSupervisor_coreField (s := s) (c := core) entry st Core.events fun _ _ => rfl, Core.dropEvent, events]
    rfl
  case spawn =>
    obtain ⟨f, binds⟩ := spawnBinding_binds found free whole counted busy first
    have st' : ((spawnTaken s core sp).getCore core).starts sp.entry.toNat = true :=
      (spawnTaken_coreField (fun k => k.starts _) (fun _ => rfl) fun _ _ => rfl).trans st
    refine ⟨_, binds, ?_, startFiring_runs _ core f sp.entry _ _ below st'⟩
    rw [startFiring_coreField _ core seat f sp.entry _ _ st' Core.spawns fun _ _ => rfl, spawnTaken, acquireInv, State.getCore_updCore,
      State.getCore_setCore]
  case resume =>
    intro pa
    obtain ⟨bad, binds⟩ := resumeEntryBinding_binds found free whole busy live open' first
    refine ⟨fun below poison => ?_, fun clean writable => ?_⟩
    · rw [if_pos poison] at binds
      refine ⟨_, binds, ?_⟩
      have running : ((resumed s core seat r bad).seatAt core seat).status ≠ .trapped := by
        rw [seatAt_resumed bad (by omega)]
        exact nofun
      rw [trapSeat_seatAt _ _ _ _ running below]
      exact ⟨rfl, rfl, rfl⟩
    · rw [if_neg (by rw [clean]; exact Bool.false_ne_true)] at binds
      refine ⟨_, binds, ?_⟩
      rw [getCore_resumed, seatAt_resumed bad below, getDouble_resumed bad writable]
      obtain ⟨running, firing, slice, outs, pc, rpt, x, p, v, k', q2, q5, words, items⟩ :=
        resumedSeat_registers (s := s) (c := core) (seat := seat) (r := r)
      obtain ⟨-, -, resumes, sp⟩ := resumedCore_fields (s := s) (c := core) (seat := seat) (r := r) bad
      have invalid : (getDouble s.hbm pa &&& ~~~(1#64 <<< 56)).getLsbD 56 = false := by simp
      dsimp only
      exact ⟨resumes, running, firing, slice, outs, pc, rpt, x, p, v, k', q2, q5, words, items, sp, invalid⟩

end Sys2Proof.Machine
end

section
/-! Counts, slices, pre-emption and the exchange of a spawn (R107, R207, R244 to R248, R405). -/

namespace Sys2Proof.Machine

/-! ### Arrivals (R234) -/

/-- A packet that is no message is dealt with at once where nothing is held at the input. -/
theorem onArrival_clear {s t : State} {p : Packet} {f : Packet → State} (full : (s.getCore p.dst).ovfFull = false) (dealt : f p = t)
    (after : (t.getCore p.dst).input = []) : onArrival s (some p) f = t := by
  have free : holdArrival s p = none := by simp [holdArrival, full]
  simp only [onArrival, free, inputDone, dealt, after, List.head?_nil, reduceCtorEq, decide_false, Bool.false_and, Bool.false_eq_true,
    if_false]

/-! ### Writes of firmware -/

theorem launches_revokeNow (s : State) (word : Nat) : (revokeNow s word).launches = s.launches := by
  unfold revokeNow
  split <;> rfl

theorem launches_agentWrite (s : State) (pa : Nat) (bytes : List Byte) : (agentWrite s pa bytes).launches = s.launches := by
  have revoked (words : List Nat) (t : State) : (words.foldl revokeNow t).launches = t.launches := by
    induction words generalizing t with
    | nil => rfl
    | cons w words ih => rw [List.foldl_cons, ih, launches_revokeNow]
  unfold agentWrite
  dsimp only
  rw [revoked]
  split <;> rfl

theorem launches_firmwareBytes (s : State) (b pa : Nat) (bytes : List Byte) : (firmwareBytes s b pa bytes).launches = s.launches := by
  unfold firmwareBytes
  dsimp only
  split
  · exact launches_agentWrite s pa bytes
  · exact launches_agentWrite s pa bytes

theorem launches_putStatus (s : State) (pa : Nat) (v : Word) : (putStatus s pa v).launches = s.launches := launches_firmwareBytes ..

/-! ### Launches (R107, R405) -/

theorem launches_endLaunch (s : State) (l : Launch) (st : LaunchState) (state : Nat) : (endLaunch s l st state).launches =
    s.launches.map fun q => if q.id = l.id then { q with state := st, status := statusWord state 0 l } else q :=
  launches_putStatus ..

theorem portHolder_congr {s t : State} (h : t.launches = s.launches) (b port : Nat) : portHolder t b port = portHolder s b port := by
  rw [portHolder, h, portHolder]

/-- A count after the end of its launch sets OVERRUN (R102, R405). -/
theorem launches_applyCount_late {s : State} {l : Launch} (ended : l.state = .complete ∨ l.state = .aborted) (n : BitVec 32) :
    (applyCount s l n).launches = s.launches.map fun q => if q.id = l.id then { q with status := l.status ||| 1 } else q := by
  unfold applyCount
  rcases ended with ended | ended <;> rw [ended] <;> exact launches_putStatus ..

section Count

variable {s : State} {l : Launch} {n : BitVec 32} (complete : l.state ≠ .complete) (aborted : l.state ≠ .aborted)
include complete aborted

theorem applyCount_live : applyCount s l n =
    if l.counter + n.toInt ≤ 0 then
      endLaunch (updLaunch s l.id fun q => { q with counter := l.counter + n.toInt }) { l with counter := l.counter + n.toInt } .complete 3
    else updLaunch s l.id fun q => { q with counter := l.counter + n.toInt } := by
  unfold applyCount
  split
  · exact absurd ‹_› complete
  · exact absurd ‹_› aborted
  · rfl

theorem launches_applyCount_open (above : 0 < l.counter + n.toInt) :
    (applyCount s l n).launches = s.launches.map fun q => if q.id = l.id then { q with counter := l.counter + n.toInt } else q := by
  rw [applyCount_live complete aborted, if_neg (by omega)]
  rfl

/-- A counter that falls to 0 or below completes its launch (R405). -/
theorem launches_applyCount_done (below : l.counter + n.toInt ≤ 0) : (applyCount s l n).launches = s.launches.map fun q =>
    if q.id = l.id then { q with counter := l.counter + n.toInt, state := .complete, status := statusWord 3 0 l } else q := by
  rw [applyCount_live complete aborted, if_pos below, launches_endLaunch, updLaunch, List.map_map]
  refine List.map_congr_left fun q _ => ?_
  by_cases h : q.id = l.id
  · simp only [Function.comp_apply, if_pos h]
    rfl
  · simp only [Function.comp_apply, if_neg h]

end Count

/-- A count has been taken from the fabric, and the spawn that waited for it waits no more. -/
def countTaken (s : State) (p : Packet) : State :=
  (takePacket s p).updCore p.src fun k =>
    { k with spawns := k.spawns.map fun e => if e.count = some p.orig then { e with count := none } else e }

theorem completionCount_applies {s : State} {pkt : Nat} {p : Packet} {h : Word} {n : BitVec 32} {l : Launch}
    (due : duePacket s pkt = some p) (body : p.body = .count h n) (bc : isBc p.dst = true) (whole : (s.getCore p.dst).fenced = false)
    (holder : portHolder s ((p.dst - 4096) / 2) (hPort h) = some l) :
    exec (.completionCountArrival pkt) s = .next (applyCount (countTaken s p) l n) := by
  have taken : portHolder (countTaken s p) ((p.dst - 4096) / 2) (hPort h) = some l := (portHolder_congr rfl _ _).trans holder
  unfold countTaken at taken
  change execCompletionCountArrival pkt s = _
  unfold execCompletionCountArrival
  rw [due]
  dsimp only
  rw [body]
  dsimp only
  rw [if_neg (by simp [bc, whole]), taken]
  rfl

/-! ### Count reports -/

theorem countReport_sends {s : State} {core : Nat} {l : Launch} {n : Nat} (due : dueReport s (s.getCore core) = some (l, n))
    (whole : (s.getCore core).fenced = false) : exec (.countReport core) s = .next
      (newPacket (s.setCore core { s.getCore core with ended := tdel (s.getCore core).ended l.id }) core (4096 + 2 * l.basecamp)
        (bcRank l.basecamp) 0 (.count (mkHeader (bcRank l.basecamp) l.cport 0 1 false (rankOf s core)) (BitVec.ofInt 32 (-(n : Int)))) none) := by
  change execCountReport core s = _
  unfold execCountReport
  dsimp only
  rw [due]
  dsimp only
  rw [if_neg (by simp [whole])]

theorem dueReport_single {s : State} {k : Core} {id n : Nat} {l : Launch} (ended : k.ended = [(id, n)]) (found : findLaunch s id = some l)
    (due : 64 ≤ n ∨ k.noLive id = true) : dueReport s k = some (l, n) := by
  have report : (decide (64 ≤ n) || k.noLive id) = true := by simpa using due
  rw [dueReport, ended, List.findSome?_cons, if_pos report, found]
  rfl

/-! ### Slices and requests (R246, R247) -/

/-- A slice that ends with a firing in its seat asks a pre-emption where a firing waits for the seat, or begins again (R246). -/
theorem sliceExpiry_of_ran {s : State} {core seat : Nat} (below : seat < 7) (busy : idle s core = false)
    (sliced : (s.getCore core).sliceLen ≠ 0) (occupied : ((s.getCore core).getSeat seat).status ≠ .free)
    (untrapped : ((s.getCore core).getSeat seat).status ≠ .trapped) : exec (.sliceExpiry core seat) s = .next
      (if (lacksSeat (s.getCore core) (seatClassOf (s.getCore core) seat) || (s.getCore core).stopped) && (freeSlotOf (s.getCore core)).isSome &&
          preemptible ((s.getCore core).getSeat seat) then
        s.updSeatAt core seat fun t => { t with preempt := true, slice := 0 }
      else s.updSeatAt core seat fun t => { t with slice := (s.getCore core).sliceLen }) := by
  change execSliceExpiry core seat s = _
  unfold execSliceExpiry
  dsimp only
  rw [if_neg]
  simp only [busy, Bool.or_false, Bool.or_eq_true, decide_eq_true_eq, not_or]
  exact ⟨⟨⟨by omega, sliced⟩, occupied⟩, untrapped⟩

theorem seatCtlWrite_asks {s : State} {core : Nat} {v : Word} (exists' : isCore core = true)
    (clear : (s.getCore core).seatCtl.getLsbD 8 = false) :
    exec (.seatCtlWrite core v) s = .next (s.setCore core { s.getCore core with seatCtl := BitVec.ofNat 64 (fld v 2 0 + if
      v.getLsbD 8 = true ∧ fld v 2 0 ≠ 7 ∧ ((s.getCore core).getSeat (fld v 2 0)).status ≠ .free ∧
        ((s.getCore core).getSeat (fld v 2 0)).status ≠ .trapped then 256 else 0) }) := by
  change execSeatCtlWrite core v s = _
  unfold execSeatCtlWrite writeSeatCtl
  dsimp only
  rw [exists', if_pos rfl, clear, if_neg Bool.false_ne_true]
  simp only [Bool.and_eq_true, bne_iff_ne, and_assoc]

section Preemption

variable {s : State} {core seat slot : Nat} {f : Firing} (firing : ((s.getCore core).getSeat seat).firing = some f)
  (room : freeSlotOf (s.getCore core) = some slot) (busy : idle s core = false)
include firing room busy

/-- A pending request stops its seat. -/
theorem preemption_asks (occupied : ((s.getCore core).getSeat seat).status ≠ .free)
    (untrapped : ((s.getCore core).getSeat seat).status ≠ .trapped) (request : (s.getCore core).seatCtl.getLsbD 8 = true)
    (named : fld (s.getCore core).seatCtl 2 0 = seat) (fresh : ((s.getCore core).getSeat seat).preempt = false) :
    exec (.preemption core seat) s = .next (s.updSeatAt core seat fun t => { t with preempt := true }) := by
  change execPreemption core seat s = _
  unfold execPreemption
  dsimp only
  rw [firing, room]
  dsimp only
  rw [if_neg (by simp [busy]), if_neg (by simp [occupied, untrapped]), if_pos (by simp [fresh]), if_pos (by simp [request, named])]

/-- A stopped seat whose results have returned is set aside. -/
theorem preemption_saves (stoppable : preemptible ((s.getCore core).getSeat seat) = true)
    (asked : ((s.getCore core).getSeat seat).preempt = true) (whole : noPartial ((s.getCore core).getSeat seat) = true)
    (returned : ((s.getCore core).getSeat seat).outs = []) :
    exec (.preemption core seat) s = .next (saveFiring s core seat slot f) := by
  have occupied : ((s.getCore core).getSeat seat).status ≠ .free ∧ ((s.getCore core).getSeat seat).status ≠ .trapped := by
    constructor <;> intro e <;> simp [preemptible, e] at stoppable
  change execPreemption core seat s = _
  unfold execPreemption
  dsimp only
  rw [firing, room]
  dsimp only
  rw [if_neg (by simp [busy]), if_neg (by simp [occupied]), if_neg (by simp [asked]),
    if_pos (by simp [stopsIssue, asked, whole, returned, stoppable])]

end Preemption

end Sys2Proof.Machine
end

section
/-! A firing that is set aside, the request and the answer of a spawn, and the events of scheduling (R207, R247, R248). -/

namespace Sys2Proof.Machine

/-! ### Context records (R248) -/

/-- What a record writes beside its first double leaves that double. -/
theorem getDouble_putRecord_kept (s : State) (pa : Nat) (l : List (Nat × List Word)) (above : ∀ r ∈ l, 8 ≤ r.1) :
    getDouble (putRecord s pa l).hbm pa = getDouble s.hbm pa := by
  induction l generalizing s with
  | nil => rfl
  | cons r l ih =>
    rw [putRecord, List.foldl_cons]
    refine (ih _ fun q m => above q (.tail _ m)).trans (getDouble_congr fun i low high => getByte_hbmPut_outside s ?_)
    have := above r (.head _)
    omega

theorem cores_putRecord (s : State) (pa : Nat) (l : List (Nat × List Word)) : (putRecord s pa l).cores = s.cores := by
  induction l generalizing s with
  | nil => rfl
  | cons r l ih => exact ih _

theorem getCore_putRecord (s : State) (pa : Nat) (l : List (Nat × List Word)) (c : CoreId) :
    (putRecord s pa l).getCore c = s.getCore c := by rw [State.getCore, cores_putRecord, State.getCore]

/-- The first double of a context record: the valid bit and how the firing stood. -/
def ctxState (t : Seat) (f : Firing) (n : Nat) : Word :=
  BitVec.ofNat 64 (n * 2 ^ 61 + f.seatClass * 2 ^ 57 + 2 ^ 56 + f.cls.toNat * 2 ^ 48 + (t.p ||| 0x80).toNat * 2 ^ 40 +
    t.rpt.toNat * 2 ^ 16 + t.pc.toNat)

theorem ctxState_pc (t : Seat) (f : Firing) (n : Nat) : (ctxState t f n).setWidth 16 = t.pc := by
  have := t.pc.isLt
  apply BitVec.eq_of_toNat_eq
  rw [ctxState, BitVec.toNat_setWidth, BitVec.toNat_ofNat]
  omega

theorem ctxState_valid (t : Seat) (f : Firing) (n : Nat) : (ctxState t f n).getLsbD 56 = true := by
  have := t.pc.isLt
  have := t.rpt.isLt
  have := (t.p ||| 0x80).isLt
  have := f.cls.isLt
  rw [ctxState, BitVec.getLsbD_ofNat, Nat.testBit_eq_decide_div_mod_eq]
  simp only [decide_eq_true_eq, Bool.and_eq_true]
  omega

/-- A context record begins with its state double, and goes on above it. -/
theorem ctxRecord_eq (t : Seat) (f : Firing) (n : Nat) (area : List Word) : ∃ (a b c : Word) (l : List (Nat × List Word)),
    ctxRecord t f n area = (0, [ctxState t f n, a, b, c]) :: l ∧ ∀ r ∈ l, 8 ≤ r.1 := by
  refine ⟨_, _, _, _, rfl, fun r mem => ?_⟩
  simp only [List.mem_cons, List.not_mem_nil, or_false] at mem
  rcases mem with rfl | rfl | rfl | rfl | rfl | rfl | rfl | rfl <;> norm_num

/-- The state double of a record that can be written. -/
theorem getDouble_putRecord {s : State} {pa : Nat} (t : Seat) (f : Firing) (n : Nat) (area : List Word)
    (whole : spoiledWrite s pa 32 = false) : getDouble (putRecord s pa (ctxRecord t f n area)).hbm pa = ctxState t f n := by
  obtain ⟨a, b, c, l, record, above⟩ := ctxRecord_eq t f n area
  rw [record, putRecord, List.foldl_cons]
  exact (getDouble_putRecord_kept _ pa l above).trans
    (getDouble_hbmPut (ws := [ctxState t f n, a, b, c]) (i := 0) whole (Nat.succ_pos 3))

section Save

variable {s : State} {c n slot : Nat} {f : Firing}

/-- The core of a firing that is set aside: its seat is free and a resume entry waits (R247). -/
def savedCore (k : Core) (n slot : Nat) (f : Firing) : Core :=
  { k.setSeat n { k.getSeat n with status := .free, firing := none, preempt := false, q2 := [] } with
    resumes := k.resumes ++ [⟨n, slot, f, true, k.stopped⟩],
    seatCtl := if fld k.seatCtl 2 0 = n then k.seatCtl &&& 7 else k.seatCtl }

theorem getCore_saveFiring : (saveFiring s c n slot f).getCore c = savedCore (s.getCore c) n slot f := by
  unfold saveFiring
  dsimp only
  rw [State.getCore_updCore, getCore_putRecord, State.getCore_forget]
  rfl

theorem seatAt_saveFiring (below : n < 8) : (saveFiring s c n slot f).seatAt c n =
    { s.seatAt c n with status := .free, firing := none, preempt := false, q2 := [] } := by
  rw [State.seatAt, getCore_saveFiring]
  exact (Core.getSeat_setSeat _ _ _ _ below).trans (if_pos rfl)

theorem hbm_saveFiring : ∃ area, (saveFiring s c n slot f).hbm = (putRecord (s.forget (.seat c n))
    (recordAt s c (s.getCore c).stopped slot) (ctxRecord ((s.getCore c).getSeat n) f n area)).hbm := by
  unfold saveFiring
  dsimp only
  exact ⟨_, State.updCore_hbm ..⟩

theorem getDouble_saveFiring (whole : spoiledWrite s (recordAt s c (s.getCore c).stopped slot) 32 = false) :
    getDouble (saveFiring s c n slot f).hbm (recordAt s c (s.getCore c).stopped slot) =
      ctxState ((s.getCore c).getSeat n) f n := by
  obtain ⟨area, hbm⟩ := hbm_saveFiring (s := s) (c := c) (n := n) (slot := slot) (f := f)
  rw [hbm]
  exact getDouble_putRecord _ f n area whole

end Save

/-! ### Spawn requests (R207) -/

/-- The launch that counts a spawn of a seat class: the one of its core, unless it asks for seat 7. -/
def spawnLaunch (s : State) (c : CoreId) (cls : Nat) : Option Launch :=
  if cls = 7 then none else (s.getCore c).launch.bind (findLaunch s)

/-- The entry of an accepted spawn. -/
def acceptedEntry (s : State) (p : Packet) (n : Nat) (operand : Word) (args : List Word) : SpawnEntry :=
  ⟨n, fld operand 18 16, operand.setWidth 16, rankOf s p.src, args,
    if (spawnLaunch s p.dst (fld operand 18 16)).isSome then some s.fresh else none⟩

/-- A target has accepted a spawn: the entry stands in its queue, and the count is on its way to the launch. -/
def spawnAccepted (s : State) (p : Packet) (n : Nat) (operand : Word) (args : List Word) : State :=
  let t := s.setCore p.dst { s.getCore p.dst with spawns := (s.getCore p.dst).spawns ++ [acceptedEntry s p n operand args] }
  (spawnLaunch s p.dst (fld operand 18 16)).elim t fun l => newPacket t p.dst (4096 + 2 * l.basecamp) (bcRank l.basecamp) 0
    (.count (mkHeader (bcRank l.basecamp) l.cport 0 1 false (rankOf t p.dst)) 1) none

theorem getCore_spawnAccepted (s : State) (p : Packet) (n : Nat) (operand : Word) (args : List Word) :
    (spawnAccepted s p n operand args).getCore p.dst =
      { s.getCore p.dst with spawns := (s.getCore p.dst).spawns ++ [acceptedEntry s p n operand args] } := by
  unfold spawnAccepted
  cases spawnLaunch s p.dst (fld operand 18 16) with
  | none => exact s.getCore_setCore ..
  | some l => exact s.getCore_setCore ..

section SpawnRequest

variable {s : State} {pkt seat op : Nat} {p : Packet} {operand : Word} {args : List Word}
  (due : duePacket s pkt = some p) (full : (s.getCore p.dst).ovfFull = false) (input : (s.getCore p.dst).input = [])
  (body : p.body = .spawnReq seat op operand args) (grid : isGridCore p.dst = true)

theorem getCore_takePacket (s : State) (p : Packet) (body : Body) (c : CoreId) : (takePacket s p body).getCore c = s.getCore c := rfl

theorem net_takePacket (s : State) (p : Packet) (body : Body) :
    ∃ q ∈ (takePacket s p body).net, q.dst = p.src ∧ q.body = body :=
  ⟨_, List.mem_append_right _ (.head _), rfl, rfl⟩

include due full input body grid

/-- A target that is fenced, holds four spawns or has no seat refuses (R207). -/
theorem spawnRequest_refused (refuses : (s.getCore p.dst).fenced = true ∨ 4 ≤ (s.getCore p.dst).spawns.length ∨
    spawnSeat (s.getCore p.dst) (fld operand 18 16) = none) :
    exec (.spawnRequestArrival pkt) s = .next (takePacket s p (.spawnAns seat op false)) := by
  have none' : (if (s.getCore p.dst).fenced || 4 ≤ (s.getCore p.dst).spawns.length then none
      else spawnSeat (s.getCore p.dst) (fld operand 18 16)) = none := by
    rcases refuses with fenced | many | seatless
    · rw [if_pos (by simp [fenced])]
    · rw [if_pos (by simp [many])]
    · rw [seatless, ite_self]
  change execSpawnRequestArrival pkt s = _
  unfold execSpawnRequestArrival
  rw [due]
  refine congrArg _ (onArrival_clear full ?_ input)
  dsimp only
  rw [body]
  dsimp only
  rw [if_neg (by simp [grid]), none']

/-- A target with a seat accepts (R207). -/
theorem spawnRequest_accepted {n : Nat} (whole : (s.getCore p.dst).fenced = false) (room : (s.getCore p.dst).spawns.length < 4)
    (free : spawnSeat (s.getCore p.dst) (fld operand 18 16) = some n) :
    exec (.spawnRequestArrival pkt) s = .next (takePacket (spawnAccepted s p n operand args) p (.spawnAns seat op true)) := by
  have some' : (if (s.getCore p.dst).fenced || 4 ≤ (s.getCore p.dst).spawns.length then none
      else spawnSeat (s.getCore p.dst) (fld operand 18 16)) = some n := by
    rw [if_neg (by simp [whole]; omega), free]
  change execSpawnRequestArrival pkt s = _
  unfold execSpawnRequestArrival
  rw [due]
  refine congrArg _ (onArrival_clear full ?_ ?_)
  · dsimp only
    rw [body]
    dsimp only
    rw [if_neg (by simp [grid]), some']
    dsimp only
    unfold spawnAccepted acceptedEntry spawnLaunch
    generalize fld operand 18 16 = cls
    by_cases seven : cls = 7
    · subst seven
      rfl
    · simp only [seven, ne_eq, not_false_eq_true, decide_true, Bool.true_and]
      cases (s.getCore p.dst).launch.bind (findLaunch s) <;> rfl
  · rw [getCore_takePacket, getCore_spawnAccepted]
    exact input

end SpawnRequest

/-! ### Spawn answers (R207) -/

theorem machine_endFiring (s : State) (c : CoreId) (n : Nat) : (endFiring s c n).machine = s.machine := by
  unfold endFiring
  exact machine_setCore _ c _ (Core.count_stable ..)

theorem fenceSeatAt_outs {s : State} {c : CoreId} {n : Nat} (below : n < 8) (returned : (s.seatAt c n).outs = []) :
    ((fenceSeatAt s c n).seatAt c n).outs = [] := by
  rw [fenceSeatAt, State.seatAt_updSeatAt_same _ c _ below]
  split
  · rw [seatAt_killFiring s c below]
  · exact returned

theorem trapSeat_outs {s : State} {c : CoreId} {n : Nat} (cause : BitVec 8) (val : Word) (pc rpc : Parcel) (below : n < 8)
    (returned : (s.seatAt c n).outs = []) : ((trapSeat s c n cause val pc rpc).seatAt c n).outs = [] := by
  by_cases trapped : (s.seatAt c n).status = .trapped
  · rw [trapSeat_again cause val pc rpc trapped, State.seatAt_updSeatAt_same s c _ below, returned]
  · by_cases seven : n = 7
    · subst seven
      rw [trapSeat_seven trapped, doubleTrap_seatAt]
      exact fenceSeatAt_outs (by decide) (by rw [seatAt_seat7Trapped, returned])
    · rw [trapSeat_seatAt cause val pc rpc trapped (by omega), returned]

/-- A seat whose results have returned goes on, frees itself or traps: its registers stay, and nothing is outstanding (R21, R109). -/
theorem settle_keeps (s : State) (c : CoreId) {n : Nat} (below : n < 8) : (settle s c n).machine = s.machine ∧
    ((settle s c n).seatAt c n).registers = (s.seatAt c n).registers ∧ ((settle s c n).seatAt c n).outs = (s.seatAt c n).outs := by
  by_cases returned : (s.seatAt c n).outs = []
  case neg => rw [settle_outstanding returned]; exact ⟨rfl, rfl, rfl⟩
  unfold settle
  dsimp only
  rw [returned, if_neg (by decide)]
  split
  · split
    · rename_i a beyond
      have quiet := quiet_trapSeat s c ⟨n, below⟩ 0x01 (a.setWidth 64) 0 0
      exact ⟨quiet.machine, quiet.registers, trapSeat_outs 0x01 (a.setWidth 64) 0 0 below returned⟩
    · refine ⟨machine_updSeatAt .., ?_, ?_⟩ <;> rw [State.seatAt_updSeatAt_same s c _ below]
      · rfl
      · exact returned
  · rw [endFiring_seatAt s c below]
    exact ⟨machine_endFiring s c n, rfl, rfl⟩
  · exact ⟨rfl, rfl, returned⟩

/-- A lowered operation is outstanding no more (R114). -/
theorem lower_keeps (s : State) (c : CoreId) {n : Nat} (id : Nat) (below : n < 8) : (lower s c n id).machine = s.machine ∧
    ((lower s c n id).seatAt c n).registers = (s.seatAt c n).registers ∧
      ((lower s c n id).seatAt c n).outs = (s.seatAt c n).outs.filter (·.id != id) := by
  obtain ⟨machine, registers, outs⟩ := settle_keeps
    (s.updSeatAt c n fun t => { t with outs := t.outs.filter (·.id != id) }) c below
  rw [State.seatAt_updSeatAt_same s c _ below] at registers outs
  exact ⟨machine.trans (machine_updSeatAt ..), registers, outs⟩

theorem spawnAnswer_lowers {s : State} {pkt seat op : Nat} {p : Packet} {ok : Bool} {o : Out} {d : BitVec 3}
    (due : dueAnswer s pkt = some p) (full : (s.getCore p.dst).ovfFull = false) (input : (s.getCore p.dst).input = [])
    (body : p.body = .spawnAns seat op ok) (below : seat < 8) (found : (s.seatAt p.dst seat).outs.find? (·.id = op) = some o)
    (target : o.target = .pred d) : exec (.spawnAnswer pkt) s =
      .next (lower ((dropSent (dropPacket s pkt) p.orig).updSeatAt p.dst seat fun t => t.setP d ok) p.dst seat op) := by
  have found' : ((dropSent (dropPacket s pkt) p.orig).seatAt p.dst seat).outs.find? (·.id = op) = some o := found
  change execSpawnAnswer pkt s = _
  unfold execSpawnAnswer
  rw [due]
  refine congrArg _ (onArrival_clear full ?_ ?_)
  · dsimp only
    rw [body]
    dsimp only
    rw [found']
    dsimp only
    rw [target]
  · refine (core_eq_of_machine (lower_keeps _ p.dst op below).1 Core.input (fun _ => rfl) p.dst).trans ?_
    exact (core_updSeatAt _ p.dst seat _ Core.input (fun _ _ => rfl) p.dst).trans input

/-- Settles O29: the events of scheduling one by one. -/
theorem schedulingEvents : Obligations.SchedulingEvents := by
  unfold Obligations.SchedulingEvents
  intro s core seat pkt slot op v h c f l p o d operand args ok n k t target clear ran due report asked kept
  refine ⟨countReport_sends, fun id ended found => dueReport_single ended found, fun due body bc whole holder => ?count,
    fun below busy sliced ran => ?slice, seatCtlWrite_asks, fun firing room busy ran asked fresh => ?ask,
    fun firing room busy stoppable asked whole returned below => ?save, fun due clear body grid => ?request,
    fun due clear body below found target => ?answer⟩
  case count =>
    exact ⟨_, completionCount_applies due body bc whole holder, fun ended => launches_applyCount_late (s := countTaken s p) ended c,
      fun complete aborted above => launches_applyCount_open (s := countTaken s p) complete aborted above,
      fun complete aborted below => launches_applyCount_done (s := countTaken s p) complete aborted below⟩
  case slice =>
    rw [sliceExpiry_of_ran below busy sliced ran.1 ran.2]
    exact ⟨fun h => by rw [if_pos h], fun h => by rw [if_neg (ne_true_of_eq_false h)]⟩
  case ask => exact preemption_asks firing room busy ran.1 ran.2 asked.1 asked.2 fresh
  case save =>
    refine ⟨_, preemption_saves firing room busy stoppable asked whole returned, ?_⟩
    rw [seatAt_saveFiring below, getCore_saveFiring]
    refine ⟨rfl, rfl, rfl, fun request => ?_, fun writable => ?_⟩
    · have named : fld (s.getCore core).seatCtl 2 0 = seat := request.2
      unfold savedCore
      dsimp only
      rw [if_pos named]
      simp
    · rw [getDouble_saveFiring writable]
      exact ⟨ctxState_pc .., ctxState_valid ..⟩
  case request =>
    refine ⟨fun whole room free => ?_, spawnRequest_refused due clear.1 clear.2 body grid⟩
    refine ⟨_, spawnRequest_accepted due clear.1 clear.2 body grid whole room free, net_takePacket .., acceptedEntry s p n operand args, ?_, rfl,
      rfl, rfl, rfl⟩
    rw [getCore_takePacket, getCore_spawnAccepted]
  case answer =>
    refine ⟨_, spawnAnswer_lowers due clear.1 clear.2 body below found target, ?_⟩
    obtain ⟨-, registers, outs⟩ := lower_keeps ((dropSent (dropPacket s pkt) p.orig).updSeatAt p.dst seat fun t => t.setP d ok)
      p.dst op below
    rw [State.seatAt_updSeatAt_same _ p.dst _ below] at registers outs
    refine ⟨fun real => ?_, fun q mem => ?_⟩
    · rw [getP_of_registers registers]
      exact Seat.getP_setP _ ok real
    · rw [outs] at mem
      simpa using (List.mem_filter.1 mem).2

end Sys2Proof.Machine
end

section
/-! What the launches have put on the cores, and the operations that leave it (R104, R243, R385). -/

namespace Sys2Proof.Machine

/-! ### Duties -/

/-- The duty of a core: its launch and rank, whether patterns bind, its resume entries, and the firings of its seats. -/
structure Duty where
  launch  : Option Nat
  stopped : Bool
  rank    : BitVec 16
  resumes : List Resume
  firings : Vector (Option Firing) 8

def Core.duty (k : Core) : Duty := ⟨k.launch, k.stopped, k.rank, k.resumes, k.seats.map (·.firing)⟩

theorem Core.firing_of_duty {k l : Core} (h : k.duty = l.duty) {n : Nat} (below : n < 8) :
    (k.getSeat n).firing = (l.getSeat n).firing := by
  have same : k.seats.map (·.firing) = l.seats.map (·.firing) := congrArg Duty.firings h
  have seat := congrArg (·.getD n none) same
  simpa [Core.getSeat, Vector.getD, below] using seat

/-- A core whose seats keep their firings keeps its duty. -/
theorem Core.duty_mapSeats (k : Core) (g : Seat → Seat) (h : ∀ t, (g t).firing = t.firing) :
    (k.seats.map g).map (·.firing) = k.seats.map (·.firing) := by
  rw [Vector.map_map]
  exact congrArg (k.seats.map ·) (funext h)

/-- The launches and the duties of the cores. -/
def State.duties (s : State) : List Launch × (CoreId → Duty) := (s.launches, fun c => (s.getCore c).duty)

section Duties

variable {s t u : State}

theorem duty_of_duties (h : t.duties = s.duties) (c : CoreId) : (t.getCore c).duty = (s.getCore c).duty :=
  congrFun (congrArg Prod.snd h) c

theorem launches_of_duties (h : t.duties = s.duties) : t.launches = s.launches := congrArg Prod.fst h

theorem duties_of_beside (h : t.beside = s.beside) : t.duties = s.duties :=
  Prod.ext (launches_of_beside h) (funext fun c => core_eq_of_beside h Core.duty (fun _ => rfl) c)

end Duties

theorem duties_setCore (s : State) (c : CoreId) (k : Core) (h : k.duty = (s.getCore c).duty) : (s.setCore c k).duties = s.duties := by
  refine Prod.ext rfl (funext fun d => ?_)
  by_cases e : d = c
  · simp only [State.duties, e, State.getCore_setCore, h]
  · simp only [State.duties, State.getCore_setCore_other s k e]

theorem duty_updCore (s : State) (c : CoreId) (f : Core → Core) (d : CoreId) :
    ((s.updCore c f).getCore d).duty = if d = c then (f (s.getCore d)).duty else (s.getCore d).duty := by
  by_cases e : d = c
  · rw [e, if_pos rfl, State.getCore_updCore]
  · rw [if_neg e, State.getCore_updCore_other s f e]

theorem duties_updCore (s : State) (c : CoreId) (f : Core → Core) (h : (f (s.getCore c)).duty = (s.getCore c).duty) :
    (s.updCore c f).duties = s.duties := duties_setCore s c _ h

/-- Every core changes alike, and what an absent core reads as keeps the function's value. -/
theorem duty_mapCores (s : State) (f : Core → Core) (h : ∀ k, (f k).duty = k.duty) (c : CoreId) :
    (State.getCore { s with cores := s.cores.map fun (i, k) => (i, f k) } c).duty = (s.getCore c).duty := by
  unfold State.getCore
  dsimp only
  induction s.cores with
  | nil => rfl
  | cons e l ih =>
    rw [List.map_cons, tget, tget]
    split
    · exact h e.2
    · exact ih

theorem duties_mapCores (s : State) (f : Core → Core) (h : ∀ k, (f k).duty = k.duty) :
    State.duties { s with cores := s.cores.map fun (i, k) => (i, f k) } = s.duties :=
  Prod.ext rfl (funext fun c => duty_mapCores s f h c)

/-! ### Events and packets -/

theorem duties_queueEvent (s : State) (c : CoreId) (code : BitVec 8) (x17 : Word) (rest : List Word) :
    (queueEvent s c code x17 rest).duties = s.duties := by
  refine duties_updCore s _ _ ?_
  unfold Core.addEvent
  split <;> rfl

theorem duties_undeliverable (s : State) (code : BitVec 8) (src : CoreId) (rank : BitVec 16) (body : Body) :
    (undeliverable s code src rank body).duties = s.duties := by
  unfold undeliverable
  split
  · split <;> rfl
  · split
    · rfl
    · rfl
    · exact duties_queueEvent ..
    · exact duties_queueEvent ..
    · exact duties_queueEvent ..
    · rfl

theorem ranks_undeliverable (s : State) (code : BitVec 8) (src : CoreId) (rank : BitVec 16) (body : Body) :
    (undeliverable s code src rank body).ranks = s.ranks := by
  unfold undeliverable
  split
  · split <;> rfl
  · split <;> rfl

theorem duties_emit (s : State) (src : CoreId) (rank : BitVec 16) (tc : Nat) (body : Body) (mc : Option Nat) :
    (emit s src rank tc body mc).duties = s.duties := by
  unfold emit
  split
  · rfl
  · rfl
  · dsimp only
    split
    · rfl
    · exact duties_undeliverable ..
  · exact duties_undeliverable ..
  · exact duties_undeliverable ..

theorem ranks_emit (s : State) (src : CoreId) (rank : BitVec 16) (tc : Nat) (body : Body) (mc : Option Nat) :
    (emit s src rank tc body mc).ranks = s.ranks := by
  unfold emit
  split
  · rfl
  · rfl
  · dsimp only
    split
    · rfl
    · exact ranks_undeliverable ..
  · exact ranks_undeliverable ..
  · exact ranks_undeliverable ..

theorem duties_releaseHeld (s : State) (rank : BitVec 16) : (releaseHeld s rank).duties = s.duties :=
  (foldl_keeps State.duties _ (fun _ _ => duties_emit ..) _ _).trans rfl

theorem ranks_releaseHeld (s : State) (rank : BitVec 16) : (releaseHeld s rank).ranks = s.ranks :=
  (foldl_keeps State.ranks _ (fun _ _ => ranks_emit ..) _ _).trans rfl

/-! ### Writes of global memory -/

theorem duties_revokeNow (s : State) (word : Nat) : (revokeNow s word).duties = s.duties := by
  unfold revokeNow
  split
  · exact duties_updCore _ _ _ rfl
  · rfl

theorem ranks_revokeNow (s : State) (word : Nat) : (revokeNow s word).ranks = s.ranks := by
  unfold revokeNow
  split <;> rfl

theorem duties_agentWrite (s : State) (pa : Nat) (bytes : List Byte) : (agentWrite s pa bytes).duties = s.duties := by
  unfold agentWrite
  dsimp only
  rw [foldl_keeps State.duties revokeNow duties_revokeNow]
  split
  · exact duties_mapCores (hbmPut s pa bytes) (Core.withoutReplicas pa bytes.length) fun _ => rfl
  · rfl

theorem ranks_agentWrite (s : State) (pa : Nat) (bytes : List Byte) : (agentWrite s pa bytes).ranks = s.ranks := by
  unfold agentWrite
  dsimp only
  rw [foldl_keeps State.ranks revokeNow ranks_revokeNow]
  split <;> rfl

theorem duties_firmwareBytes (s : State) (b pa : Nat) (bytes : List Byte) : (firmwareBytes s b pa bytes).duties = s.duties := by
  unfold firmwareBytes
  dsimp only
  split
  · exact (duties_queueEvent ..).trans (duties_agentWrite ..)
  · exact duties_agentWrite ..

theorem ranks_firmwareBytes (s : State) (b pa : Nat) (bytes : List Byte) : (firmwareBytes s b pa bytes).ranks = s.ranks := by
  unfold firmwareBytes
  dsimp only
  split
  · exact ranks_agentWrite s pa bytes
  · exact ranks_agentWrite s pa bytes

theorem duties_putStatus (s : State) (pa : Nat) (v : Word) : (putStatus s pa v).duties = s.duties := duties_firmwareBytes ..

theorem ranks_putStatus (s : State) (pa : Nat) (v : Word) : (putStatus s pa v).ranks = s.ranks := ranks_firmwareBytes ..

theorem duty_endLaunch (s : State) (l : Launch) (st : LaunchState) (state : Nat) (c : CoreId) :
    ((endLaunch s l st state).getCore c).duty = (s.getCore c).duty := duty_of_duties (duties_putStatus (updLaunch s l.id _) ..) c

theorem ranks_endLaunch (s : State) (l : Launch) (st : LaunchState) (state : Nat) : (endLaunch s l st state).ranks = s.ranks :=
  ranks_putStatus (updLaunch s l.id _) ..

end Sys2Proof.Machine
end

section
/-! Launch records: their choice, their binding and their start (R102, R104, R240 to R243). -/

namespace Sys2Proof.Machine

/-- What each step sets for its own item and keeps for every other one, a fold sets for each. -/
theorem foldl_establishes {σ α : Type} {P : σ → α → Prop} {f : σ → α → σ} (sets : ∀ s a, P (f s a) a)
    (keeps : ∀ s a b, P s b → P (f s a) b) (l : List α) (s : σ) : ∀ a ∈ l, P (l.foldl f s) a := by
  induction l generalizing s with
  | nil => exact fun a mem => absurd mem List.not_mem_nil
  | cons b l ih =>
    intro a mem
    rcases List.mem_cons.1 mem with rfl | mem
    · exact List.foldlRecOn l f (sets s a) fun t held c _ => keeps t c a held
    · exact ih (f s b) a mem

/-! ### Messages at a core's interface -/

theorem duties_writeRing (c : CoreId) (base bytes tail : Nat) (ws : List Word) (s : State) :
    (writeRing s c base bytes tail ws).duties = s.duties := by
  induction ws generalizing s tail with
  | nil => rfl
  | cons w ws ih =>
    rw [writeRing, ih]
    cases written : engineWrite s c (base + tail % bytes) ((List.range 8).map fun i => w.extractLsb' (8 * i) 8) with
    | none => rfl
    | some t => exact duties_of_beside (beside_engineWrite written)

theorem duties_overflow {s t : State} {c : CoreId} {reason port : Nat} {words : List Word}
    (h : overflow s c reason port words = some t) : t.duties = s.duties := by
  unfold overflow at h
  dsimp only at h
  split at h
  · cases h
  · cases h
    rw [duties_queueEvent, duties_updCore, duties_writeRing]
    split <;> rfl

theorem duties_arrive {s t : State} {c : CoreId} {acq : Bool} {h : Word} {payload : List Word} {n : Option (BitVec 32)}
    (arrived : arrive s c acq h payload n = some t) : t.duties = s.duties := by
  unfold arrive at arrived
  dsimp only at arrived
  split at arrived
  · exact duties_overflow arrived
  · split at arrived
    · repeat' split at arrived
      · exact duties_overflow arrived
      · exact duties_overflow arrived
      · exact duties_overflow arrived
      · cases arrived
        exact duties_setCore _ _ _ rfl
    · split at arrived
      · split at arrived
        · exact duties_overflow arrived
        · split at arrived
          · rw [duties_overflow arrived]
            exact duties_setCore _ _ _ rfl
          · cases arrived
            exact duties_setCore _ _ _ rfl
      · split at arrived
        · exact duties_overflow arrived
        · cases arrived
          rw [duties_updCore _ _ _ rfl, duties_writeRing]

theorem duties_deliver {s t : State} {p : Packet} (h : deliver s p = some t) : t.duties = s.duties := by
  unfold deliver at h
  split at h
  · cases h
    rfl
  · obtain ⟨u, arrived, rfl⟩ := Option.map_eq_some_iff.1 h
    have news : (s.updCore p.dst Core.news).duties = s.duties :=
      duties_updCore _ _ _ (congrArg (Duty.mk _ _ _ _) (Core.duty_mapSeats _ _ fun _ => rfl))
    exact (duties_arrive arrived).trans news

theorem duties_dealInput (c : CoreId) (l : List Nat) (s : State) : (dealInput c l s).duties = s.duties := by
  induction l generalizing s with
  | nil => exact duties_updCore _ _ _ rfl
  | cons id l ih =>
    unfold dealInput
    dsimp only
    split
    · exact ih s
    · split
      · exact duties_updCore _ _ _ rfl
      · split
        · exact ih s
        · split
          · rename_i t delivered
            exact (ih t).trans (duties_deliver delivered)
          · exact duties_updCore _ _ _ rfl

/-! ### The choice of a record (R240 to R242) -/

/-- A queue has been chosen: the next choice at its PRIO begins after it, and RIX moves on. -/
def queueChosen (s : State) (q : Nat) : State :=
  setRix { s with lastQueue := tset s.lastQueue (qPrio (s.queue q).cfg) q } q ((s.queue q).rix + 1)

/-- A record of the chosen queue is taken. -/
def recordTaken (s : State) (q pa : Nat) (ps : List Placed) : Launch :=
  takenLaunch (queueChosen s q) pa (readDoubles s.hbm pa 32) (min (recField (readDoubles s.hbm pa 32) 3 1) (qPrio (s.queue q).cfg)) ps

/-- The record of the chosen queue is read, and RIX moves on, before it is checked. -/
theorem launchChoice_checks {s : State} {q pa : Nat} (takes : takesRecords s = true) (room : (waitingLaunches s).length < 4)
    (queue : chooseQueue s = some q) (ready : readyRecord s q = some pa) : exec .launchChoice s =
      .next ((checkRecord (queueChosen s q) q (readDoubles s.hbm pa 32)).elim
        (fun reason => putStatus (queueChosen s q) pa (BitVec.ofNat 64 (4 * 2 ^ 56 + reason * 2 ^ 48)))
        fun ps => putStatus ({ queueChosen s q with launches := (queueChosen s q).launches ++ [recordTaken s q pa ps] } : State).bump pa
          (recordTaken s q pa ps).status) := by
  change execLaunchChoice s = _
  unfold execLaunchChoice
  rw [if_neg (by simp [takes, room]), queue]
  dsimp only
  rw [ready]
  refine congrArg Host.Outcome.next ?_
  unfold recordTaken queueChosen
  dsimp only
  generalize checkRecord _ q _ = checked
  cases checked <;> rfl

/-! ### Images enter their cores (R104) -/

theorem launches_loadGlobal (s : State) (root : Word) (x : Section) : (loadGlobal s root x).launches = s.launches := by
  refine foldl_keeps State.launches _ (fun t i => ?_) _ s
  dsimp only
  split
  · exact launches_firmwareBytes ..
  · rfl

theorem launches_loadRank (s : State) (root : Word) (p : Placed) : (loadRank s root p).launches = s.launches := by
  unfold loadRank
  dsimp only
  rw [foldl_keeps State.launches _ fun t x => launches_loadGlobal t root x]
  exact foldl_keeps State.launches _ (fun _ _ => by rfl) _ _

theorem launches_loadSupervisors (s : State) (ps : List Placed) : (loadSupervisors s ps).launches = s.launches := by
  unfold loadSupervisors
  split
  · exact foldl_keeps State.launches loadSupervisor (fun _ _ => rfl) _ s
  · rfl

theorem launches_addGroup (ps : List Placed) (s : State) (g : GroupRec) : (addGroup ps s g).launches = s.launches := by
  unfold addGroup
  dsimp only
  split
  · rfl
  · exact foldl_keeps State.launches _ (fun _ _ => by rfl) _ _

theorem duties_dropRead (s : State) (cl ch : Nat) : (dropRead s cl ch).duties = s.duties := by
  unfold dropRead
  dsimp only
  cases (s.chan cl ch).hd <;> cases (s.chan cl ch).rd <;> rfl

theorem duties_writeHlq (s : State) (cl ch : Nat) (v : Word) : (writeHlq s cl ch v).duties = s.duties := by
  unfold writeHlq
  dsimp only
  split
  · rfl
  · exact duties_dropRead s cl ch

/-- What step 3 of R104 makes of the duties. -/
theorem duties_prepareRank (s : State) (l : Launch) (p : Placed) : (prepareRank s l p).launches = s.launches ∧
    ∀ c, ((prepareRank s l p).getCore c).duty = if c = p.core then
      { (s.getCore c).duty with launch := some l.id, stopped := false, rank := p.rank } else (s.getCore c).duty := by
  have links (u : State) (ws : List Word) : (writeShLink u p.core (ws.getD 0 0)).duties = u.duties := duties_updCore _ _ _ rfl
  have channels (u : State) (e : (Nat × Nat) × Word) : ((writeHlq u e.1.1 e.1.2 e.2).updChan e.1.1 e.1.2
      fun h => { h with owner := some l.id }).duties = u.duties := duties_writeHlq u e.1.1 e.1.2 e.2
  have core (u : State) (c : CoreId) : ((acquireInv u p.core).getCore c).duty = (u.getCore c).duty :=
    duty_of_duties (duties_of_beside (beside_acquireInv u p.core)) c
  unfold prepareRank
  dsimp only
  refine ⟨(foldl_keeps State.launches _ (fun u e => launches_of_duties (channels u e)) _ _).trans
    (foldl_keeps State.launches _ (fun u ws => launches_of_duties (links u ws)) _ _), fun c => ?_⟩
  refine (duty_of_duties ((foldl_keeps State.duties _ channels _ _).trans (foldl_keeps State.duties _ links _ _)) c).trans ?_
  rw [duty_updCore, core, ← core s c]
  split
  · exact congrArg (Duty.mk _ _ _ _) (Core.duty_mapSeats _ _ fun _ => rfl)
  · rfl

end Sys2Proof.Machine
end

section
/-! A launch binds and starts (R102, R104, R218, R405). -/

namespace Sys2Proof.Machine

/-- Steps 1 to 3 of R104. -/
def imagesLoaded (s : State) (l : Launch) (ps : List Placed) : State :=
  let s := loadSupervisors (ps.foldl (fun s p => loadRank s (recRoot l.words) p) s) ps
  let s := { s with cores := s.cores.map fun (c, k) =>
    if (l.cores.any fun e => e.2 == c) then (c, { k with trees := k.trees.filter fun t => groupLive s t.1 }) else (c, k) }
  let s := ((launchGroups s ps).getD []).foldl (addGroup ps) s
  let s := ps.foldl (fun s p => writeRank s p.rank.toNat (entryFor s p.core)) s
  let s := ps.foldl (fun s p => s.updCore p.core (loadTables s p)) s
  ps.foldl (fun s p => prepareRank s l p) s

/-- A launch as it starts. -/
def launchStarted (s : State) (l : Launch) (port : Nat) : Launch :=
  { l with state := .running, cport := port, counter := recField l.words 0x24 4, status := statusWord 2 0 l, given := s.fresh }

theorem duties_sendStarts (s : State) (l : Launch) : (sendStarts s l).duties = s.duties :=
  foldl_keeps State.duties _ (fun _ _ => duties_emit ..) _ s

/-- Step 4 of R104 tells the host, sends the start messages and takes up what waits at the inputs. -/
theorem duties_runLaunch (s : State) (l : Launch) (ps : List Placed) (port : Nat) : (runLaunch s l ps port).duties =
    (updLaunch (imagesLoaded s l ps) l.id fun _ => launchStarted (imagesLoaded s l ps) l port).duties := by
  unfold runLaunch
  dsimp only
  refine (foldl_keeps State.duties _ (fun _ _ => duties_dealInput ..) ps _).trans
    ((duties_sendStarts ..).trans ((duties_putStatus ..).trans ?_))
  unfold imagesLoaded launchStarted
  dsimp only
  rfl

theorem launches_writeRank (s : State) (rank : Nat) (e : Word) : (writeRank s rank e).launches = s.launches := rfl

theorem launches_imagesLoaded (s : State) (l : Launch) (ps : List Placed) : (imagesLoaded s l ps).launches = s.launches := by
  unfold imagesLoaded
  dsimp only
  rw [foldl_keeps State.launches _ fun u p => (duties_prepareRank u l p).1,
    foldl_keeps State.launches _ fun u (p : Placed) => State.updCore_launches u p.core (loadTables u p),
    foldl_keeps State.launches _ fun u (p : Placed) => launches_writeRank u p.rank.toNat (entryFor u p.core),
    foldl_keeps State.launches _ (launches_addGroup ps)]
  dsimp only
  rw [launches_loadSupervisors, foldl_keeps State.launches _ fun u p => launches_loadRank u (recRoot l.words) p]

/-- Every core of the launch is given to it, and its patterns bind. -/
theorem imagesLoaded_posts (s : State) (l : Launch) (ps : List Placed) : ∀ p ∈ ps,
    ((imagesLoaded s l ps).getCore p.core).duty.launch = some l.id ∧ ((imagesLoaded s l ps).getCore p.core).duty.stopped = false := by
  refine foldl_establishes (P := fun (t : State) (p : Placed) => (t.getCore p.core).duty.launch = some l.id ∧
    (t.getCore p.core).duty.stopped = false) (fun t p => ?_) (fun t p q held => ?_) ps _
  · rw [(duties_prepareRank t l p).2, if_pos rfl]
    exact ⟨rfl, rfl⟩
  · rw [(duties_prepareRank t l p).2]
    split
    · exact ⟨rfl, rfl⟩
    · exact held

section Binding

variable {s : State} {n port : Nat} {l : Launch} (found : findLaunch s n = some l) (waits : l.state = .taken)
  (free : coresFree s l = true) (first : overtaken s l = false) (given : freePort s l.basecamp = some port)

theorem findLaunch_id (found : findLaunch s n = some l) : l.id = n := by simpa using List.find?_some found

theorem findLaunch_mem (found : findLaunch s n = some l) : l ∈ s.launches := List.mem_of_find?_eq_some found

include found waits free first given

/-- The images are read again when the cores are free, and the room of the rank table after them. -/
theorem launchBinding_checks : exec (.launchBinding n) s =
    .next ((readImages s (recRoot l.words) (recImage l.words) (recFirst l.words) (recRanks l.words)).elim (rejectTaken s l 5) fun ps =>
      if rankRoom s (recordRanks l.words) then runLaunch s { l with cores := ps.map fun p => (p.rank, p.core) } ps port
      else rejectTaken s l 6) := by
  change execLaunchBinding n s = _
  unfold execLaunchBinding
  rw [found]
  dsimp only
  rw [if_neg (by simp [waits, free, first]), given]
  cases readImages s (recRoot l.words) (recImage l.words) (recFirst l.words) (recRanks l.words) with
  | none => rfl
  | some ps => cases rankRoom s (recordRanks l.words) <;> rfl

end Binding

/-- A running launch has its cores, its completion port and its count. -/
theorem runLaunch_runs {s : State} {n : Nat} {l : Launch} (found : findLaunch s n = some l) (ps : List Placed) (port : Nat) :
    (∀ p ∈ ps, ((runLaunch s { l with cores := ps.map fun p => (p.rank, p.core) } ps port).getCore p.core).launch = some n ∧
      ((runLaunch s { l with cores := ps.map fun p => (p.rank, p.core) } ps port).getCore p.core).stopped = false) ∧
    ∃ g ∈ (runLaunch s { l with cores := ps.map fun p => (p.rank, p.core) } ps port).launches, g.id = n ∧ g.state = .running ∧
      g.cport = port ∧ g.counter = recField l.words 0x24 4 ∧ g.status = statusWord 2 0 l := by
  have id := findLaunch_id found
  generalize placed : ({ l with cores := ps.map fun p => (p.rank, p.core) } : Launch) = v
  have same : v.id = n ∧ v.words = l.words ∧ statusWord 2 0 v = statusWord 2 0 l := by
    subst placed
    exact ⟨id, rfl, rfl⟩
  obtain ⟨vid, words, status⟩ := same
  have duties := duties_runLaunch s v ps port
  refine ⟨fun p mem => ?_, launchStarted (imagesLoaded s v ps) v port, ?_, vid, rfl, rfl, ?_, status⟩
  · have posted := imagesLoaded_posts s v ps p mem
    have core := duty_of_duties duties p.core
    rw [← vid]
    exact ⟨(congrArg Duty.launch core).trans posted.1, (congrArg Duty.stopped core).trans posted.2⟩
  · rw [launches_of_duties duties, updLaunch]
    dsimp only
    rw [launches_imagesLoaded]
    exact List.mem_map.2 ⟨l, findLaunch_mem found, if_pos (id.trans vid.symm)⟩
  · rw [← words]
    rfl

end Sys2Proof.Machine
end

section
/-! A launch leaves its cores and comes back (R243, R244, R297). -/

namespace Sys2Proof.Machine

/-! ### Rank entries (R218, R221) -/

theorem rankEntry_congr {s t : State} (h : t.ranks = s.ranks) (r : BitVec 16) : rankEntry t r = rankEntry s r := by
  rw [rankEntry, h, rankEntry]

theorem rankEntry_writeRank (s : State) (r : BitVec 16) (e : Word) (q : BitVec 16) :
    rankEntry (writeRank s r.toNat e) q = if q = r then (if eValid e then e else 0) else rankEntry s q := by
  unfold writeRank rankEntry
  dsimp only
  by_cases same : q = r
  · subst same
    rw [if_pos rfl]
    split
    · exact tget_tset_same ..
    · exact tget_tdel_same ..
  · have other : q.toNat ≠ r.toNat := fun h => same (BitVec.eq_of_toNat_eq h)
    rw [if_neg same]
    split
    · exact tget_tset_other _ _ _ other
    · exact tget_tdel_other _ _ other

/-- TRANSIT is all that `setTransit` changes of a valid entry, and it changes no other. -/
theorem rankEntry_setTransit_on (s : State) (r q : BitVec 16) : rankEntry (setTransit true s r) q =
    if q = r then (if eValid (rankEntry s r) then rankEntry s r ||| 0x4000000000000000 else 0) else rankEntry s q := by
  have valid : eValid (rankEntry s r ||| 0x4000000000000000) = eValid (rankEntry s r) := by
    unfold eValid
    rw [BitVec.getLsbD_or]
    simp
  rw [setTransit, rankEntry_writeRank, if_pos rfl, valid]

theorem eTransit_setTransit_off (s : State) (r q : BitVec 16) :
    eTransit (rankEntry (setTransit false s r) q) = if q = r then false else eTransit (rankEntry s q) := by
  rw [setTransit, rankEntry_writeRank, if_neg Bool.false_ne_true]
  split
  · split
    · unfold eTransit
      rw [BitVec.getLsbD_and]
      simp
    · rfl
  · rfl

/-- A rank has a valid entry. -/
def validAt (r : BitVec 16) (s : State) : Bool := eValid (rankEntry s r)

theorem validAt_setTransit_on (s : State) (r q : BitVec 16) : validAt q (setTransit true s r) = validAt q s := by
  unfold validAt
  rw [rankEntry_setTransit_on]
  split
  · rename_i same
    subst same
    by_cases valid : eValid (rankEntry s q) = true
    · rw [if_pos valid, eValid, BitVec.getLsbD_or, ← eValid, valid, Bool.true_or]
    · rw [if_neg valid, eq_false_of_ne_true valid]
      rfl
  · rfl

/-- A valid entry that is held shows TRANSIT. -/
def shownHeld (s : State) (r : BitVec 16) : Prop := validAt r s = true → eTransit (rankEntry s r) = true

theorem setTransit_shows (s : State) (r : BitVec 16) : shownHeld (setTransit true s r) r := by
  intro valid
  rw [validAt_setTransit_on, validAt] at valid
  rw [rankEntry_setTransit_on, if_pos rfl, if_pos valid, eTransit, BitVec.getLsbD_or]
  simp

theorem setTransit_keeps_shown (s : State) (r q : BitVec 16) (h : shownHeld s q) : shownHeld (setTransit true s r) q := by
  by_cases same : q = r
  · exact same ▸ setTransit_shows s q
  · unfold shownHeld
    rw [validAt_setTransit_on, rankEntry_setTransit_on, if_neg same]
    exact h

/-! ### The first event of a switch-out (R243) -/

theorem beginSwitch_stops (s : State) (v : Launch) : ∀ c ∈ v.cores, ((beginSwitch s v).getCore c.2).stopped = true := by
  refine foldl_establishes (P := fun (t : State) (c : BitVec 16 × CoreId) => (t.getCore c.2).stopped = true) (fun t c => ?_)
    (fun t c d held => ?_) v.cores _
  · rw [State.getCore_updCore]
  · by_cases same : d.2 = c.2
    · rw [same, State.getCore_updCore]
    · rw [State.getCore_updCore_other _ _ same]
      exact held

theorem ranks_beginSwitch (s : State) (v : Launch) :
    (beginSwitch s v).ranks = (v.cores.foldl (fun s c => setTransit true s c.1) s).ranks := by
  unfold beginSwitch updLaunch
  dsimp only
  rw [foldl_keeps State.ranks _ fun u (c : BitVec 16 × CoreId) => State.updCore_ranks u c.2 fun k => { k with stopped := true }]

theorem beginSwitch_holds (s : State) (v : Launch) : ∀ c ∈ v.cores,
    validAt c.1 s = true → eTransit (rankEntry (beginSwitch s v) c.1) = true := by
  intro c mem valid
  have shown := foldl_establishes (P := fun (t : State) (c : BitVec 16 × CoreId) => shownHeld t c.1)
    (fun t c => setTransit_shows t c.1) (fun t c d held => setTransit_keeps_shown t c.1 d.1 held) v.cores s c mem
  have kept := foldl_keeps (validAt c.1) _ (fun t (d : BitVec 16 × CoreId) => validAt_setTransit_on t d.1 c.1) v.cores s
  rw [rankEntry_congr (ranks_beginSwitch s v)]
  exact shown (kept.trans valid)

/-! ### The last event of a switch-out (R243) -/

theorem duties_updShell (s : State) (c : CoreId) (f : Shell → Shell) : (updShell s c f).duties = s.duties :=
  duties_updCore _ _ _ rfl

/-- The transfers that a core has asked of another are asked no more. -/
def Core.withoutAsks (c : CoreId) (ids : List Nat) (k : Core) : Core :=
  { k with shell := { k.shell with asking := k.shell.asking.filter fun q => !(q.1 == c && ids.contains q.2) } }

theorem duties_dropAsks (s : State) (c : CoreId) : (dropAsks s c).duties = s.duties := by
  unfold dropAsks
  dsimp only
  refine (duties_updShell ..).trans ((foldl_keeps State.duties _ (fun _ _ => duties_updShell ..) _ _).trans ?_)
  exact duties_mapCores s (Core.withoutAsks c ((s.getCore c).shell.cmds.map (·.id))) fun _ => rfl

theorem duties_freeCtx (c : CoreId) (s : State) (r : Resume) : (freeCtx c s r).duties = s.duties := by
  unfold freeCtx
  dsimp only
  split <;> rfl

theorem duties_closeShells (s : State) (v : Launch) (on : Bool) : (closeShells s v on).duties = s.duties :=
  foldl_keeps State.duties _ (fun _ _ => duties_updShell ..) v.cores s

/-- What a core that a launch has left does for others. -/
theorem leaveCore_duty (id : Nat) (s : State) (c d : CoreId) : ((leaveCore id s c).getCore d).duty = if d = c then
    { (s.getCore d).duty with launch := none, rank := 0xFF00, resumes := (s.getCore d).duty.resumes.filter (·.firing.launch != some id) }
      else (s.getCore d).duty := by
  have kept : (dropAsks (((s.getCore c).resumes.filter (·.firing.launch = some id)).foldl (freeCtx c) s) c).duties = s.duties :=
    (duties_dropAsks ..).trans (foldl_keeps State.duties _ (duties_freeCtx c) _ s)
  unfold leaveCore
  dsimp only
  rw [duty_updCore, ← duty_of_duties kept d]
  rfl

/-- A core is left by a launch: it has no launch and no rank, and no resume entry of it. -/
def Duty.left (id : Nat) (d : Duty) : Prop := d.launch = none ∧ d.rank = 0xFF00 ∧ ∀ r ∈ d.resumes, r.firing.launch ≠ some id

theorem leaveCore_leaves (id : Nat) (s : State) (c : CoreId) : ((leaveCore id s c).getCore c).duty.left id := by
  rw [leaveCore_duty, if_pos rfl]
  exact ⟨rfl, rfl, fun r mem => by simpa using (List.mem_filter.1 mem).2⟩

theorem leaveCore_keeps_left (id : Nat) (s : State) (c d : CoreId) (held : (s.getCore d).duty.left id) :
    ((leaveCore id s c).getCore d).duty.left id := by
  by_cases same : d = c
  · exact same ▸ leaveCore_leaves id s d
  · rw [leaveCore_duty, if_neg same]
    exact held

/-- The cores after their areas are written. -/
def coresLeft (s : State) (v : Launch) : State :=
  v.cores.foldl (fun s c => (leaveCore v.id s c.2).updCluster (clusterOf c.2) fun g => dropRecords g 0)
    (v.cores.foldl (fun s c => saveCore v.id s c.2) s)

theorem coresLeft_left (s : State) (v : Launch) : ∀ c ∈ v.cores, ((coresLeft s v).getCore c.2).duty.left v.id := by
  refine foldl_establishes (P := fun (t : State) (c : BitVec 16 × CoreId) => (t.getCore c.2).duty.left v.id) (fun t c => ?_)
    (fun t c d held => ?_) v.cores _
  · rw [State.updCluster, State.getCore_setCluster]
    exact leaveCore_leaves v.id t c.2
  · rw [State.updCluster, State.getCore_setCluster]
    exact leaveCore_keeps_left v.id t c.2 d.2 held

/-- A launch that is switched out, with what its cores had. -/
def launchLeft (s : State) (v : Launch) : Launch :=
  { v with state := .switchedOut, switching := false, status := statusWord 1 0 v,
           saved := v.cores.map fun c =>
             (c.2, ⟨(s.getCore c.2).resumes.filter (·.firing.launch = some v.id), tget 0 (s.getCore c.2).ended v.id⟩) }

theorem duties_finishSwitch (s : State) (v : Launch) : (finishSwitch s v).duties =
    (launchLeft s v :: (closeShells (coresLeft s v) v false).launches.filter (·.id != v.id), (coresLeft s v).duties.2) := by
  unfold finishSwitch
  dsimp only
  rw [duties_putStatus]
  refine Prod.ext rfl ?_
  have kept := congrArg Prod.snd (duties_closeShells (coresLeft s v) v false)
  unfold coresLeft at kept ⊢
  exact kept

theorem finishSwitch_leaves (s : State) (v : Launch) : (∀ c ∈ v.cores, ((finishSwitch s v).getCore c.2).launch = none ∧
      ((finishSwitch s v).getCore c.2).rank = 0xFF00 ∧ ∀ r ∈ ((finishSwitch s v).getCore c.2).resumes, r.firing.launch ≠ some v.id) ∧
    launchLeft s v ∈ (finishSwitch s v).launches := by
  have duties := duties_finishSwitch s v
  refine ⟨fun c mem => ?_, ?_⟩
  · have core : ((finishSwitch s v).getCore c.2).duty = ((coresLeft s v).getCore c.2).duty := congrFun (congrArg Prod.snd duties) c.2
    have left := coresLeft_left s v c mem
    rw [← core] at left
    exact left
  · rw [show (finishSwitch s v).launches = _ from congrArg Prod.fst duties]
    exact List.mem_cons_self

section SwitchOut

variable {s : State} {n m : Nat} {l v : Launch} (found : findLaunch s n = some l) (victim : findLaunch s m = some v)
include found victim

theorem switchOut_begins (fresh : v.switching = false) (ousts : mayOust s l v = true) :
    exec (.launchSwitchOut n m) s = .next (beginSwitch s v) := by
  change execLaunchSwitchOut n m s = _
  unfold execLaunchSwitchOut
  rw [found, victim]
  dsimp only
  rw [if_neg (by simp [fresh]), if_neg (by simp [fresh]), if_pos ousts]

variable (switching : v.switching = true) (running : v.state = .running)
include switching running

theorem switchOut_waits (near : ¬ ∀ c ∈ v.cores, firingsAside s v c.1 c.2 = true) : exec (.launchSwitchOut n m) s = .next s := by
  change execLaunchSwitchOut n m s = _
  unfold execLaunchSwitchOut
  rw [found, victim]
  dsimp only
  rw [if_pos (by simp [switching, running]), if_neg (by simpa [List.all_eq_true] using near)]

theorem switchOut_leaves (aside : ∀ c ∈ v.cores, firingsAside s v c.1 c.2 = true) :
    exec (.launchSwitchOut n m) s = .next (leaveCores s v (finishSwitch · v)) := by
  change execLaunchSwitchOut n m s = _
  unfold execLaunchSwitchOut
  rw [found, victim]
  dsimp only
  rw [if_pos (by simp [switching, running]), if_pos (by simpa [List.all_eq_true] using aside)]

end SwitchOut

section LeaveCores

variable {s : State} {v : Launch} {finish : State → State}

theorem leaveCores_closes (still : ∃ c ∈ v.cores, (s.getCore c.2).shell.closed = false) :
    leaveCores s v finish = closeShells s v true := by
  rw [leaveCores, if_pos (by simpa [List.all_eq_true] using still)]

variable (closed : ∀ c ∈ v.cores, (s.getCore c.2).shell.closed = true)
include closed

theorem leaveCores_closed : leaveCores s v finish = if v.cores.all fun c => shellQuiet s c.2 then finish s else s := by
  have all : (v.cores.all fun c => (s.getCore c.2).shell.closed) = true := List.all_eq_true.2 closed
  rw [leaveCores, all, Bool.not_true, if_neg Bool.false_ne_true]

theorem leaveCores_finishes (quiet : ∀ c ∈ v.cores, shellQuiet s c.2 = true) : leaveCores s v finish = finish s := by
  rw [leaveCores_closed closed, if_pos (List.all_eq_true.2 quiet)]

theorem leaveCores_waits (busy : ∃ c ∈ v.cores, shellQuiet s c.2 = false) : leaveCores s v finish = s := by
  obtain ⟨c, mem, busy⟩ := busy
  rw [leaveCores_closed closed, if_neg fun all => Bool.false_ne_true (busy ▸ List.all_eq_true.1 all c mem)]

end LeaveCores

end Sys2Proof.Machine
end

section
/-! A launch comes back to its cores, or is aborted (R102, R218, R243, R385). -/

namespace Sys2Proof.Machine

/-! ### Service -/

/-- The launch of a core, and whether its patterns bind. -/
def Core.service (k : Core) : Option Nat × Bool := (k.launch, k.stopped)

/-- The launches, the rank table and what the cores serve. -/
def State.service (s : State) : List Launch × List (Nat × Word) × (CoreId → Option Nat × Bool) :=
  (s.launches, s.ranks, fun c => (s.getCore c).service)

theorem getCore_service {s t : State} (h : t.service = s.service) (c : CoreId) : (t.getCore c).service = (s.getCore c).service :=
  congrFun (congrArg (·.2.2) h) c

theorem launches_of_service {s t : State} (h : t.service = s.service) : t.launches = s.launches := congrArg Prod.fst h

theorem ranks_of_service {s t : State} (h : t.service = s.service) : t.ranks = s.ranks := congrArg (·.2.1) h

theorem service_setCore (s : State) (c : CoreId) (k : Core) (h : k.service = (s.getCore c).service) :
    (s.setCore c k).service = s.service := by
  have core (d : CoreId) : ((s.setCore c k).getCore d).service = (s.getCore d).service := by
    by_cases same : d = c
    · rw [same, State.getCore_setCore, h]
    · rw [State.getCore_setCore_other s k same]
  unfold State.service
  rw [funext core]
  rfl

theorem service_bump (s : State) : s.bump.service = s.service := rfl

/-- Global memory is no part of the service. -/
theorem service_memory (s : State) (m : Memory) (bad : List Nat) : State.service { s with hbm := m, hbmPoison := bad } = s.service := rfl

theorem service_poison (s : State) (bad : List Nat) : State.service { s with hbmPoison := bad } = s.service := rfl

theorem service_rawDoubles (s : State) (pa : Nat) (ws : List Word) : (rawDoubles s pa ws).service = s.service := rfl

/-! ### Switching in (R243) -/

theorem service_acceptCmd (s : State) (c : CoreId) (ws : List Word) (deps : List Nat) : (acceptCmd s c ws deps).service = s.service := by
  unfold acceptCmd
  dsimp only
  refine (service_bump _).trans (service_setCore _ _ _ ?_)
  rfl

/-- What the slots of an area give back is resume entries alone. -/
theorem service_slotsBack (c : CoreId) (l : List Resume) (s : State) : (slotsBack c l s).service = s.service := by
  induction l generalizing s with
  | nil => rfl
  | cons r l ih =>
    unfold slotsBack
    dsimp only
    refine (ih _).trans ((service_memory ..).trans ?_)
    split
    · refine (service_setCore _ _ _ ?_).trans ((service_poison ..).trans (service_rawDoubles ..))
      exact (getCore_service ((service_poison ..).trans (service_rawDoubles ..)) c).symm
    · rfl

theorem service_updCore (s : State) (c : CoreId) (f : Core → Core) (d : CoreId) :
    ((s.updCore c f).getCore d).service = if d = c then (f (s.getCore d)).service else (s.getCore d).service := by
  by_cases same : d = c
  · rw [same, if_pos rfl, State.getCore_updCore]
  · rw [if_neg same, State.getCore_updCore_other s f same]

theorem service_restoreCore (l : Launch) (s : State) (rank : BitVec 16) (c : CoreId) :
    (restoreCore l s rank c).launches = s.launches ∧ (restoreCore l s rank c).ranks = s.ranks ∧
      ∀ d, ((restoreCore l s rank c).getCore d).service = if d = c then (some l.id, false) else (s.getCore d).service := by
  have cmds (u : State) (ws : List (List Word)) : (ws.foldl (fun s ws => acceptCmd s c ws []) u).service = u.service :=
    foldl_keeps State.service _ (fun t ws => service_acceptCmd t c ws []) ws u
  unfold restoreCore
  dsimp only
  refine ⟨?_, ?_, fun d => ?_⟩
  · exact (launches_of_service (service_slotsBack ..)).trans ((launches_of_service (cmds ..)).trans (State.updCore_launches ..))
  · exact (ranks_of_service (service_slotsBack ..)).trans ((ranks_of_service (cmds ..)).trans (State.updCore_ranks ..))
  · rw [State.updCluster, State.getCore_setCluster, getCore_service (service_slotsBack ..), getCore_service (cmds ..), service_updCore]
    rfl

/-- The cores after their areas are read. -/
def coresBack (s : State) (l : Launch) : State := l.cores.foldl (fun s c => restoreCore l s c.1 c.2) s

theorem launches_coresBack (s : State) (l : Launch) : (coresBack s l).launches = s.launches :=
  foldl_keeps State.launches _ (fun u (c : BitVec 16 × CoreId) => (service_restoreCore l u c.1 c.2).1) l.cores s

theorem coresBack_serves (s : State) (l : Launch) : ∀ c ∈ l.cores, ((coresBack s l).getCore c.2).service = (some l.id, false) := by
  refine foldl_establishes (P := fun (t : State) (c : BitVec 16 × CoreId) => (t.getCore c.2).service = (some l.id, false))
    (fun t c => ?_) (fun t c d held => ?_) l.cores s
  · rw [(service_restoreCore l t c.1 c.2).2.2, if_pos rfl]
  · rw [(service_restoreCore l t c.1 c.2).2.2, held, ite_self]

theorem duties_releaseRanks (s : State) (l : Launch) : (releaseRanks s l).duties = s.duties :=
  foldl_keeps State.duties _ (fun u (c : BitVec 16 × CoreId) => duties_releaseHeld (setTransit false u c.1) c.1) l.cores s

theorem releaseRanks_releases (s : State) (l : Launch) : ∀ c ∈ l.cores, eTransit (rankEntry (releaseRanks s l) c.1) = false := by
  refine foldl_establishes (P := fun (t : State) (c : BitVec 16 × CoreId) => eTransit (rankEntry t c.1) = false)
    (fun t c => ?_) (fun t c d held => ?_) l.cores s
  · rw [rankEntry_congr (ranks_releaseHeld ..), eTransit_setTransit_off, if_pos rfl]
  · rw [rankEntry_congr (ranks_releaseHeld ..), eTransit_setTransit_off, held, ite_self]

/-- A launch that has its cores again. -/
def launchBack (l : Launch) : Launch := { l with state := .running, saved := [], status := statusWord 2 0 l }

section SwitchIn

variable {s : State} {n : Nat} {l : Launch} (found : findLaunch s n = some l) (out : l.state = .switchedOut)
  (free : coresFree s l = true) (first : overtaken s l = false)
include found out free first

theorem switchIn_reads : exec (.launchSwitchIn n) s = .next (if l.cores.any fun c => areaBad s c.2 then abortLaunch s l else
    putStatus (updLaunch (releaseRanks (coresBack s l) l) n fun _ => launchBack l) l.pa (statusWord 2 0 l)) := by
  change execLaunchSwitchIn n s = _
  unfold execLaunchSwitchIn
  rw [found]
  dsimp only
  rw [if_neg (by simp [out, free, first])]
  cases l.cores.any fun c => areaBad s c.2 <;> rfl

theorem switchIn_aborts (bad : ∃ c ∈ l.cores, areaBad s c.2 = true) : exec (.launchSwitchIn n) s = .next (abortLaunch s l) := by
  rw [switchIn_reads found out free first, if_pos (List.any_eq_true.2 bad)]

theorem switchIn_restores (whole : ∀ c ∈ l.cores, areaBad s c.2 = false) : exec (.launchSwitchIn n) s =
    .next (putStatus (updLaunch (releaseRanks (coresBack s l) l) n fun _ => launchBack l) l.pa (statusWord 2 0 l)) := by
  rw [switchIn_reads found out free first, if_neg (by simpa [List.any_eq_true] using whole)]

end SwitchIn

/-- What a switched-out launch finds when it is back. -/
theorem switchIn_serves {s : State} {n : Nat} {l : Launch} (found : findLaunch s n = some l) {t : State}
    (back : t = putStatus (updLaunch (releaseRanks (coresBack s l) l) n fun _ => launchBack l) l.pa (statusWord 2 0 l)) :
    (∀ c ∈ l.cores, (t.getCore c.2).service = (some n, false) ∧ eTransit (rankEntry t c.1) = false) ∧ launchBack l ∈ t.launches := by
  have ranks : t.ranks = (releaseRanks (coresBack s l) l).ranks := by
    rw [back, ranks_putStatus]
    rfl
  have duties : t.duties = (updLaunch (releaseRanks (coresBack s l) l) n fun _ => launchBack l).duties := by rw [back, duties_putStatus]
  have id := findLaunch_id found
  refine ⟨fun c mem => ⟨?_, ?_⟩, ?_⟩
  · have core : (t.getCore c.2).duty = ((coresBack s l).getCore c.2).duty :=
      (duty_of_duties duties c.2).trans (duty_of_duties (duties_releaseRanks (coresBack s l) l) c.2)
    have serves := coresBack_serves s l c mem
    rw [id] at serves
    exact (congrArg (fun d : Duty => (d.launch, d.stopped)) core).trans serves
  · rw [rankEntry_congr ranks]
    exact releaseRanks_releases _ l c mem
  · rw [launches_of_duties duties, updLaunch]
    dsimp only
    rw [launches_of_duties (duties_releaseRanks ..), launches_coresBack]
    exact List.mem_map.2 ⟨l, findLaunch_mem found, if_pos id⟩

/-! ### Aborts (R385) -/

theorem getSeat_beyond (k : Core) {n : Nat} (h : 8 ≤ n) : k.getSeat n = {} := by
  simp [Core.getSeat, Vector.getD, Array.getD, Nat.not_lt.2 h]

/-- A firing that is killed leaves its own seat alone. -/
theorem killFiring_firing (s : State) (c : CoreId) (n : Nat) (d : CoreId) (i : Nat) :
    ((killFiring s c n).seatAt d i).firing = if d = c ∧ i = n then none else (s.seatAt d i).firing := by
  rw [killFiring]
  by_cases core : d = c
  · subst core
    by_cases seat : i = n
    · subst seat
      rw [if_pos ⟨rfl, rfl⟩]
      by_cases below : i < 8
      · rw [endFiring_seatAt _ d below]
      · rw [State.seatAt, getSeat_beyond _ (Nat.not_lt.1 below)]
    · rw [if_neg fun h => seat h.2, endFiring_other _ d seat, seatAt_withdraw]
  · rw [if_neg fun h => core h.1, endFiring_core _ n i core, seatAt_withdraw]

theorem launches_killFiring (s : State) (c : CoreId) (n : Nat) : (killFiring s c n).launches = s.launches := by
  unfold killFiring endFiring withdraw
  dsimp only
  split <;> rfl

/-- The seats of a core that run a firing of a launch are cleared. -/
def seatsCleared (id : Nat) (c : CoreId) (s : State) : State :=
  (List.range 8).foldl (fun s n => if ((s.seatAt c n).firing.bind (·.launch)) = some id then killFiring s c n else s) s

/-- Seat `i` of core `d` runs no firing of a launch. -/
def idleAt (id : Nat) (d : CoreId) (s : State) (i : Nat) : Prop := (s.seatAt d i).firing.bind (·.launch) ≠ some id

theorem killFiring_keeps_idle {id : Nat} (s : State) (c : CoreId) (n : Nat) {d : CoreId} {i : Nat} (held : idleAt id d s i) :
    idleAt id d (killFiring s c n) i := by
  unfold idleAt
  rw [killFiring_firing]
  split
  · exact nofun
  · exact held

theorem seatsCleared_clears (id : Nat) (c : CoreId) (s : State) : ∀ i < 8, idleAt id c (seatsCleared id c s) i := by
  have cleared : ∀ i ∈ List.range 8, idleAt id c (seatsCleared id c s) i := by
    refine foldl_establishes (P := idleAt id c) (fun t n => ?_) (fun t n i held => ?_) (List.range 8) s
    · split
      · unfold idleAt
        rw [killFiring_firing, if_pos ⟨rfl, rfl⟩]
        exact nofun
      · assumption
    · split
      · exact killFiring_keeps_idle t c n held
      · exact held
  exact fun i below => cleared i (List.mem_range.2 below)

theorem seatsCleared_keeps_idle {id : Nat} (c : CoreId) (s : State) {d : CoreId} {i : Nat} (held : idleAt id d s i) :
    idleAt id d (seatsCleared id c s) i := by
  refine List.foldlRecOn (motive := fun t => idleAt id d t i) (List.range 8) _ held fun t held n _ => ?_
  split
  · exact killFiring_keeps_idle t c n held
  · exact held

theorem launches_seatsCleared (id : Nat) (c : CoreId) (s : State) : (seatsCleared id c s).launches = s.launches := by
  refine foldl_keeps State.launches _ (fun t n => ?_) (List.range 8) s
  split
  · exact launches_killFiring t c n
  · rfl

theorem duties_discardInput (s : State) (c : CoreId) : (discardInput s c).duties = s.duties := by
  unfold discardInput
  dsimp only
  refine (duties_updCore _ _ _ ?_).trans (foldl_keeps State.duties _ (fun t id => ?_) _ s)
  · rfl
  · split
    · split <;> rfl
    · rfl

theorem idleAt_congr {id : Nat} {s t : State} {d : CoreId} {i : Nat} (h : (t.seatAt d i).firing = (s.seatAt d i).firing) :
    idleAt id d t i ↔ idleAt id d s i := by rw [idleAt, h, idleAt]

/-- What the killed firings leave of a core's seats, the rest of its clearing leaves. -/
theorem clearCore_firing (id : Nat) (s : State) (c d : CoreId) {i : Nat} (below : i < 8) : ((clearCore id s c).seatAt d i).firing =
    ((seatsCleared id c (s.updCore c fun k => { k with stopped := true })).seatAt d i).firing := by
  have discarded := duties_discardInput (seatsCleared id c (s.updCore c fun k => { k with stopped := true })) c
  refine Eq.trans ?_ (Core.firing_of_duty (duty_of_duties discarded d) below)
  unfold clearCore
  dsimp only
  by_cases same : d = c
  · rw [same, State.seatAt, State.getCore_updCore, Core.getSeat, Core.count_seats]
    rfl
  · rw [State.seatAt, State.getCore_updCore_other _ _ same]
    rfl

theorem launches_clearCore (id : Nat) (s : State) (c : CoreId) : (clearCore id s c).launches = s.launches := by
  unfold clearCore
  dsimp only
  rw [State.updCore_launches, launches_of_duties (duties_discardInput ..)]
  exact launches_seatsCleared id c _

theorem clearCore_clears (id : Nat) (s : State) (c : CoreId) : ∀ i < 8, idleAt id c (clearCore id s c) i := fun i below =>
  (idleAt_congr (clearCore_firing id s c c below)).2 (seatsCleared_clears id c _ i below)

theorem clearCore_keeps_idle {id : Nat} (s : State) (c : CoreId) {d : CoreId} {i : Nat} (below : i < 8) (held : idleAt id d s i) :
    idleAt id d (clearCore id s c) i := by
  refine (idleAt_congr (clearCore_firing id s c d below)).2 (seatsCleared_keeps_idle c _ ((idleAt_congr ?_).2 held))
  by_cases same : d = c
  · rw [same, State.seatAt, State.getCore_updCore]
    rfl
  · rw [State.seatAt, State.getCore_updCore_other _ _ same]
    rfl

/-- The ranks and groups of a launch are gone. -/
def ranksDropped (s : State) (l : Launch) : State :=
  let ranks := l.cores.map (·.1)
  let gone := s.groups.filter fun g => g.members.any fun m => ranks.contains m.1
  { s with waiting := s.waiting.filter fun w => !ranks.contains w.rank,
           ranks := ranks.foldl (fun t r => tdel t r.toNat) s.ranks,
           groups := s.groups.filter fun g => !gone.contains g,
           cores := s.cores.map fun (c, k) => (c, { k with
             trees := k.trees.filter fun t => !gone.any (·.gid = t.1)
             combine := k.combine.filter fun q => !gone.any (·.gid = dGroup q.desc) }) }

/-- A core without the trees of some groups. -/
def Core.withoutGroups (gone : List Group) (k : Core) : Core :=
  { k with trees := k.trees.filter fun t => !gone.any (·.gid = t.1), combine := k.combine.filter fun q => !gone.any (·.gid = dGroup q.desc) }

theorem duties_ranksDropped (s : State) (l : Launch) : (ranksDropped s l).duties = s.duties :=
  duties_mapCores s (Core.withoutGroups (s.groups.filter fun g => g.members.any fun m => (l.cores.map Prod.fst).contains m.1)) fun _ => rfl

theorem ranksDropped_drops (s : State) (l : Launch) : ∀ c ∈ l.cores, rankEntry (ranksDropped s l) c.1 = 0 := by
  intro c mem
  have gone := foldl_establishes (P := fun (t : List (Nat × Word)) (r : BitVec 16) => tget 0 t r.toNat = 0)
    (f := fun t r => tdel t r.toNat) (fun t r => tget_tdel_same 0 t r.toNat) (fun t r q held => ?_) (l.cores.map (·.1)) s.ranks
  · exact gone c.1 (List.mem_map_of_mem mem)
  · by_cases same : q.toNat = r.toNat
    · rw [same, tget_tdel_same]
    · rw [tget_tdel_other _ _ same, held]

theorem abortLaunch_running {s : State} {l : Launch} (running : l.state = .running) :
    abortLaunch s l = endLaunch (ranksDropped (l.cores.foldl (fun s c => clearCore l.id s c.2) s) l) l .aborted 5 := by
  unfold abortLaunch
  rw [running]
  rfl

theorem abortLaunch_switchedOut {s : State} {l : Launch} (out : l.state = .switchedOut) :
    abortLaunch s l = endLaunch (ranksDropped s l) l .aborted 5 := by
  unfold abortLaunch
  rw [out]
  rfl

theorem abortLaunch_taken {s : State} {l : Launch} (waits : l.state = .taken) : abortLaunch s l =
    putStatus { s with launches := s.launches.filter (·.id != l.id) } l.pa (statusWord 5 0 l) := by
  unfold abortLaunch
  rw [waits]

/-- A launch that has been aborted (R102). -/
def launchAborted (l : Launch) : Launch := { l with state := .aborted, status := statusWord 5 0 l }

theorem endLaunch_aborted {s : State} {l : Launch} (mem : l ∈ s.launches) : launchAborted l ∈ (endLaunch s l .aborted 5).launches := by
  rw [launches_endLaunch]
  exact List.mem_map.2 ⟨l, mem, if_pos rfl⟩

theorem abortLaunch_ends {s : State} {l : Launch} (running : l.state = .running) (mem : l ∈ s.launches) :
    (∀ c ∈ l.cores, ∀ i < 8, idleAt l.id c.2 (abortLaunch s l) i) ∧ (∀ c ∈ l.cores, rankEntry (abortLaunch s l) c.1 = 0) ∧
      launchAborted l ∈ (abortLaunch s l).launches := by
  rw [abortLaunch_running running]
  refine ⟨fun c mem i below => ?_, fun c mem => ?_, endLaunch_aborted ?_⟩
  · have cleared := foldl_establishes (P := fun (t : State) (c : BitVec 16 × CoreId) => ∀ i < 8, idleAt l.id c.2 t i)
      (f := fun s c => clearCore l.id s c.2) (fun t c => clearCore_clears l.id t c.2)
      (fun t c d held i below => clearCore_keeps_idle t c.2 below (held i below)) l.cores s c mem i below
    refine (idleAt_congr ?_).2 cleared
    exact Core.firing_of_duty ((duty_endLaunch ..).trans (duty_of_duties (duties_ranksDropped ..) c.2)) below
  · rw [rankEntry_congr (ranks_endLaunch ..)]
    exact ranksDropped_drops _ l c mem
  · rw [launches_of_duties (duties_ranksDropped ..), foldl_keeps State.launches _ fun t (c : BitVec 16 × CoreId) =>
      launches_clearCore l.id t c.2]
    exact mem

theorem abortLaunch_ends_switchedOut {s : State} {l : Launch} (out : l.state = .switchedOut) (mem : l ∈ s.launches) :
    launchAborted l ∈ (abortLaunch s l).launches := by
  rw [abortLaunch_switchedOut out]
  refine endLaunch_aborted ?_
  rw [launches_of_duties (duties_ranksDropped ..)]
  exact mem

theorem launchById_mem {s : State} {id : Word} {l : Launch} (found : launchById s id = some l) : l ∈ s.launches :=
  List.mem_of_find?_eq_some found

theorem launchAbort_aborts {s : State} {id : Word} {l : Launch} (found : launchById s id = some l) :
    exec (.launchAbort id) s = .next (abortLaunch s l) := by
  change execLaunchAbort id s = _
  unfold execLaunchAbort
  rw [found]

theorem launchAbort_idle {s : State} {id : Word} (none' : launchById s id = none) : exec (.launchAbort id) s = .next s := by
  change execLaunchAbort id s = _
  unfold execLaunchAbort
  rw [none']

/-- Settles O38: the events of a launch one by one. -/
theorem launchEvents : Obligations.LaunchEvents := by
  unfold Obligations.LaunchEvents
  intro s q pa n m reason port ps l v id cfg ws chosen taken images placed aside
  refine ⟨fun takes room queue ready => ?choice, fun found waits free first given => ?binding, fun found victim => ?out,
    fun found out free first bad => switchIn_aborts found out free first bad, fun found out free first whole => ?back,
    launchAbort_idle, fun found => ?abort⟩
  case choice =>
    have checks := launchChoice_checks takes room queue ready
    refine ⟨fun rejected => ?_, fun accepted => ⟨?_, rfl, rfl, rfl, rfl, rfl⟩⟩
    · rw [checks, show checkRecord (queueChosen s q) q (readDoubles s.hbm pa 32) = _ from rejected]
      rfl
    · rw [checks, show checkRecord (queueChosen s q) q (readDoubles s.hbm pa 32) = _ from accepted]
      rfl
  case binding =>
    have checks := launchBinding_checks found waits free first given
    refine ⟨fun unreadable => ?_, fun readable full => ?_, fun readable room => ⟨?_, ?_⟩⟩
    · rw [checks, show readImages .. = _ from unreadable]
      rfl
    · rw [checks, show readImages .. = _ from readable, Option.elim_some, full]
      rfl
    · rw [checks, show readImages .. = _ from readable, Option.elim_some, if_pos room]
    · exact runLaunch_runs found ps port
  case out =>
    refine ⟨fun fresh ousts => ⟨switchOut_begins found victim fresh ousts, fun c mem =>
      ⟨beginSwitch_stops s v c mem, beginSwitch_holds s v c mem⟩⟩, fun switching running near still => ?_,
      fun switching running near quiet => ⟨?_, ?_⟩, fun switching running near closed busy => ?_,
      fun switching running near => switchOut_waits found victim switching running near⟩
    · rw [switchOut_leaves found victim switching running near, leaveCores_closes still]
    · rw [switchOut_leaves found victim switching running near, leaveCores_finishes (fun c mem => (quiet c mem).1)
        fun c mem => (quiet c mem).2]
    · obtain ⟨left, mem⟩ := finishSwitch_leaves s v
      exact ⟨left, launchLeft s v, mem, (findLaunch_id victim : v.id = m), rfl, rfl⟩
    · rw [switchOut_leaves found victim switching running near, leaveCores_waits closed busy]
  case back =>
    obtain ⟨serves, mem⟩ := switchIn_serves found rfl
    refine ⟨_, switchIn_restores found out free first whole, fun c mem => ?_, launchBack l, mem, (findLaunch_id found : l.id = n), rfl, rfl⟩
    obtain ⟨service, shown⟩ := serves c mem
    exact ⟨congrArg Prod.fst service, congrArg Prod.snd service, shown⟩
  case abort =>
    have mem := launchById_mem found
    refine ⟨fun waits => ?_, fun running => ⟨launchAbort_aborts found, ?_⟩, fun out => ⟨launchAbort_aborts found, ?_⟩⟩
    · rw [launchAbort_aborts found, abortLaunch_taken waits]
    · obtain ⟨ended, dropped, listed⟩ := abortLaunch_ends running mem
      exact ⟨ended, dropped, launchAborted l, listed, rfl, rfl, rfl⟩
    · exact ⟨launchAborted l, abortLaunch_ends_switchedOut out mem, rfl, rfl, rfl⟩

end Sys2Proof.Machine
end

section
/-! The host writes through the window of a split module (R386, R391). -/

namespace Sys2Proof.Machine

/-! ### A CXL.mem write of one granule -/

/-- A write within one granule of a place in reach is performed there. -/
theorem cxlMemWrite_granule {s : State} {off : Nat} {bytes : List Byte} (inside : off + bytes.length ≤ 16 * populated)
    (ready : modState s = 3) (some' : 0 < bytes.length) (short : bytes.length ≤ 32 - off % 32)
    (whole : partOf s bytes.length (windowPlace s off) = false) (near : outOfReach s (windowPlace s off) = false) :
    exec (.cxlMemWrite off bytes) s = .next { putWindow s (windowPlace s off) bytes with reply := .acked } := by
  have ends (n : Nat) (t : State) : cxlPut n (off + bytes.length) [] t = t := by
    cases n with
    | zero => rfl
    | succ n => rw [cxlPut, List.length_nil, Nat.zero_min, if_pos rfl]
  obtain ⟨n, length⟩ := Nat.exists_eq_succ_of_ne_zero some'.ne'
  have put : cxlPut bytes.length off bytes s = putWindow s (windowPlace s off) bytes := by
    conv_lhs => rw [length, Nat.succ_eq_add_one, cxlPut, Nat.min_eq_left short, if_neg some'.ne', List.drop_length, List.take_length,
      whole, near, Bool.or_self, if_neg Bool.false_ne_true, ends]
  change execCxlMemWrite off bytes s = _
  unfold execCxlMemWrite
  rw [if_neg (by simp [inCxl, inside]), if_neg (by simp [ready]), put]

theorem hbm_agentWrite (s : State) (pa : Nat) (bytes : List Byte) : (agentWrite s pa bytes).hbm = (hbmPut s pa bytes).hbm := by
  have revoked (t : State) (w : Nat) : (revokeNow t w).hbm = t.hbm := by
    unfold revokeNow
    split <;> rfl
  unfold agentWrite
  dsimp only
  rw [foldl_keeps State.hbm revokeNow revoked]
  split <;> rfl

/-- A byte that a write does not perform keeps its value. -/
theorem getByte_agentWrite_spoiled {s : State} {pa a : Nat} {bytes : List Byte} (spoiled : spoiledByte s pa bytes.length a = true) :
    getByte (agentWrite s pa bytes).hbm a = getByte s.hbm a := by
  rw [hbm_agentWrite, hbmPut, getByte_putBytes, if_neg fun h => by simp [spoiled] at h]

/-! ### A split module -/

/-- A translation of one byte on the memory side, of physical address 0. -/
def oneByte : Tlb := { asid := 0, va := 0, size := 1, pa := 0, rd := true, wr := true, cow := false, msa := true }

/-- A READY module that has lost the chiplet of address 0's home slot, with a cached translation that gives the memory side to the first
byte of stack 0 alone. -/
def partedState : State := { State.reset with modStat := 3, lost := [slotSite (homeSlot State.reset 0)], farTlb := [(0, [oneByte])] }

/-- Byte 0 lies on the memory side, which the split leaves in reach. -/
theorem windowPlace_parted : windowPlace partedState 0 = .hbm 0 true := by decide +kernel

theorem spoiledByte_parted : spoiledByte partedState 0 2 1 = true := by decide +kernel

theorem partOf_parted : partOf partedState ([1, 1] : List Byte).length (windowPlace partedState 0) = false := by decide +kernel

theorem outOfReach_parted : outOfReach partedState (windowPlace partedState 0) = false := by decide +kernel

/-- The first byte of a write of two is stored, and the second is not. -/
theorem cxlMemWrite_parted : ∃ t : State, exec (.cxlMemWrite 0 [1, 1]) partedState = .next t ∧ getByte t.hbm 1 = 0 := by
  refine ⟨_, cxlMemWrite_granule (by decide) (by decide) (by decide) (by decide) partOf_parted outOfReach_parted, ?_⟩
  rw [windowPlace_parted]
  exact getByte_agentWrite_spoiled spoiledByte_parted

/-- Refutes O41: the statement asks that a CXL.mem write within one granule of a place in reach stores all of its bytes, in every state
of the model's type. The place of the first byte decides whether the write is performed, and each byte then whether it is: in a split
module with a cached translation of a single byte, the first byte of two lies on the memory side in reach, and the second goes through
the home slot that is lost. -/
theorem not_hostEvents : ¬ Obligations.HostEvents := by
  unfold Obligations.HostEvents
  intro holds
  obtain ⟨-, -, -, -, -, -, -, write, -⟩ := holds partedState 0 0 0 0 0 0 0 0 0 [1, 1] [] (takenLaunch State.reset 0 [] 0 [])
  obtain ⟨-, stores⟩ := write (by decide)
  obtain ⟨t, performed, -, stored, -⟩ := (stores (by decide) (by decide) (by decide)).1 partOf_parted outOfReach_parted
  obtain ⟨u, lost, second⟩ := cxlMemWrite_parted
  obtain rfl : t = u := Host.Outcome.next.inj (performed.symm.trans lost)
  have kept : getByte t.hbm 1 = 1 := by
    simpa [windowPa, getList] using congrArg (·.getD 1 0) stored
  exact absurd (second.symm.trans kept) (by decide)

end Sys2Proof.Machine
end

section
/-! Type-free vector logic, compares, mask logic and moves (R62, R126, R127, R131, R132, R136). -/

namespace Sys2Proof.Machine

section Ready

variable {c : Ctl} {d a b f q : BitVec 4} {k kd ka kb : BitVec 2} {t : BitVec 3} {x n : BitVec 5} {s : State}

theorem lanesRaw_ready (g : Nat → Nat → Nat) (h : Ready c { rv := [a, b], wv := [d] } s) :
    lanesRaw c d a b k g s = .next (retire c.sw 2 (wroteV s d (s.thisSeat.getV a).tag
      (merge (tagWidth (s.thisSeat.getV a).tag) (s.thisSeat.getK k) (s.thisSeat.getV d).data fun i =>
        g (elem (tagWidth (s.thisSeat.getV a).tag) (s.thisSeat.getV a).data i)
          (elem (tagWidth (s.thisSeat.getV a).tag) (s.thisSeat.getV b).data i)))) := by
  simp only [lanesRaw, issue_ready h, putV_eq, finish_wroteV]

theorem execVsel_ready (h : Ready c { rv := [a, b], wv := [d] } s) :
    execVsel c d a b k s = .next (retire c.sw 2 (wroteV s d (s.thisSeat.getV a).tag
      (build (tagWidth (s.thisSeat.getV a).tag) fun i =>
        if (s.thisSeat.getK k).getLsbD i then elem (tagWidth (s.thisSeat.getV a).tag) (s.thisSeat.getV a).data i
        else elem (tagWidth (s.thisSeat.getV a).tag) (s.thisSeat.getV b).data i))) := by
  simp only [execVsel, issue_ready h, putV_eq, finish_wroteV]

theorem vcmp_ready (cond : VCond) (h : Ready c { rv := [a, b] } s) (tags : tagFaults s.thisSeat t [a, b] = none) :
    vcmp c kd a b k t cond s = .next (retire c.sw 2 (wroteK s kd (maskOf (count (tyWidth t)) fun i =>
      (s.thisSeat.getK k).getLsbD i &&
        cond.holds t (elem (tyWidth t) (s.thisSeat.getV a).data i) (elem (tyWidth t) (s.thisSeat.getV b).data i)))) := by
  simp only [vcmp, issue_ready h, tags, putK_eq, finish_wroteK]

theorem vcmp_misread {cond : VCond} (h : Ready c { rv := [a, b] } s) (bad : misread s.thisSeat t [a, b] = some q) :
    Traps s (vcmp c kd a b k t cond s) 0x03 (formatVal s.thisSeat q) := by
  simp only [vcmp, issue_ready h, tagFaults_of_misread bad, finish_trap]

theorem maskOp_ready (g : BitVec 1024 → BitVec 1024 → BitVec 1024) (h : Ready c {} s) :
    maskOp c kd ka kb g s = .next (retire c.sw 2 (wroteK s kd (g (s.thisSeat.getK ka) (s.thisSeat.getK kb)))) := by
  simp only [maskOp, issue_ready h, putK_eq, finish_wroteK]

/-- A vector register written whole leaves the outstanding operations as they are. -/
theorem finish_setV {sw : Bool} {len : Nat} (s : State) (g : Seat → VReg) :
    finish sw len s (.next (s.updThisSeat fun u => u.setV d (g u))) = retire sw len (s.updThisSeat fun u => u.setV d (g u)) :=
  finish_next (by rw [State.thisSeat_updThisSeat, Seat.out, Seat.setV_outs, Seat.out])

theorem execVmov_ready (h : Ready c { rv := [a], wv := [d] } s) :
    execVmov c d a s = .next (retire c.sw 2 (s.updThisSeat fun u => u.setV d (s.thisSeat.getV a))) := by
  simp only [execVmov, issue_ready h, finish_setV s fun u => u.getV a]
  rfl

theorem execVtag_ready (h : Ready c { rv := [a], wv := [d] } s) :
    execVtag c d a f s = .next (retire c.sw 2 (s.updThisSeat fun u => u.setV d { s.thisSeat.getV a with tag := f })) := by
  simp only [execVtag, issue_ready h, finish_setV s fun u => { u.getV a with tag := f }]
  rfl

theorem execVbcast_ready (h : Ready c { rx := [x], wv := [d] } s) :
    execVbcast c d x t s =
      .next (retire c.sw 2 (wroteV s d (tyTag t) (build (tyWidth t) fun _ => (s.thisSeat.getX x).toNat))) := by
  simp only [execVbcast, issue_ready h, putV_eq, finish_wroteV]

theorem execVext_ready (h : Ready c { rv := [d], wx := [x] } s) (tags : tagFaults s.thisSeat t [d] = none) :
    execVext c d x n t s = .next (retire c.sw 2 (wroteX s x
      (if t.toNat ≤ 2 then BitVec.ofInt 64 (sxt (tyWidth t) (elem (tyWidth t) (s.thisSeat.getV d).data n.toNat))
        else BitVec.ofNat 64 (elem (tyWidth t) (s.thisSeat.getV d).data n.toNat)))) := by
  simp only [execVext, issue_ready h, tags, putX_eq, finish_wroteX]

theorem execVext_misread (h : Ready c { rv := [d], wx := [x] } s) (bad : misread s.thisSeat t [d] = some q) :
    Traps s (execVext c d x n t s) 0x03 (formatVal s.thisSeat q) := by
  simp only [execVext, issue_ready h, tagFaults_of_misread bad, finish_trap]

theorem execVins_ready (h : Ready c { rx := [x], rv := [d], wv := [d] } s) (tags : tagFaults s.thisSeat t [d] = none) :
    execVins c d x n t s = .next (retire c.sw 2 (wroteV s d (tyTag t) (build (tyWidth t) fun j =>
      if j = n.toNat then (s.thisSeat.getX x).toNat else elem (tyWidth t) (s.thisSeat.getV d).data j))) := by
  simp only [execVins, issue_ready h, tags, putV_eq, finish_wroteV]

theorem execVins_misread (h : Ready c { rx := [x], rv := [d], wv := [d] } s) (bad : misread s.thisSeat t [d] = some q) :
    Traps s (execVins c d x n t s) 0x03 (formatVal s.thisSeat q) := by
  simp only [execVins, issue_ready h, tagFaults_of_misread bad, finish_trap]

end Ready

/-- Settles O12: each instruction is the issue of its own shape, and ends with its write or, on a register of another tag, the trap. -/
theorem vectorLogicCompareMaskResults : Obligations.VectorLogicCompareMaskResults := by
  intro s c d a b k kd ka kb t f x n
  refine ⟨fun h => ?logic, fun h tags => ?compares, fun h => ?masks, fun h => ⟨execVmov_ready h, execVtag_ready h⟩,
    fun h => execVbcast_ready h, fun h tags => execVext_ready h tags, fun h tags => execVins_ready h tags, fun q bad h => ?traps,
    fun bad => ⟨fun h => execVext_misread h bad, fun h => execVins_misread h bad⟩⟩
  case logic =>
    have lanes (g : Nat → Nat → Nat) := lanesRaw_ready (k := k) g h
    exact ⟨lanes (· &&& ·), lanes (· ||| ·), lanes (· ^^^ ·), lanes fun x y => x - (x &&& y), execVsel_ready h⟩
  case compares =>
    have holds (cond : VCond) := vcmp_ready (kd := kd) (k := k) cond h tags
    exact ⟨holds .eq, holds .ne, holds .lt, holds .le, holds .ltu, holds .leu, holds .un⟩
  case masks =>
    exact ⟨maskOp_ready (· &&& ·) h, maskOp_ready (· ||| ·) h, maskOp_ready (· ^^^ ·) h, maskOp_ready (kb := ka) (fun y _ => ~~~y) h⟩
  case traps =>
    have trap (cond : VCond) := vcmp_misread (kd := kd) (k := k) (cond := cond) h bad
    dsimp only [exec]
    exact List.forall_iff_forall_mem.1 ⟨trap .eq, trap .ne, trap .lt, trap .le, trap .ltu, trap .leu, trap .un⟩

end Sys2Proof.Machine
end

section
/-! Synchronising accesses and atomics leave (R114, R142, R143, R150). -/

namespace Sys2Proof.Machine

theorem out_post_raise (s : State) (id : Nat) (op : ReqOp) (pieces : List Piece) (target : Target) (acq : Bool) (what : Pending)
    (ans : Answer) (left : List Nat) :
    (post (raise s target acq what ans left) id op pieces).thisSeat.out = s.thisSeat.out + 1 := by
  rw [thisSeat_post, out_raise]

section Ready

variable {c : Ctl} {d a b : BitVec 5} {o : BitVec 8} {z : BitVec 1} {s : State} {op : ReqOp}

theorem sync_load_ready (h : Ready c { rx := [a], wx := [d], mem := true } s) (room : Room s)
    (check : checkSync s s.core (effAddr s a o 4) = none) (free : sameWord s [scalarPiece s a o 4 (s.thisSeat.getX d)] = false) :
    sync c d a o op true s = .next (retire c.sw 2
      (post (raise s (.x d) true .plain) s.fresh op [scalarPiece s a o 4 (s.thisSeat.getX d)])) := by
  rw [sync, if_pos rfl, issue_ready h]
  simp only [check]
  rw [leave_free free, finish_room (by rw [out_post_raise]; exact room)]
  rfl

theorem sync_store_ready (h : Ready c { rx := [a, d], mem := true, rel := true } s) (room : Room s)
    (check : checkSync s s.core (effAddr s a o 4) = none) (free : sameWord s [scalarPiece s a o 4 (s.thisSeat.getX d)] = false) :
    sync c d a o op false s = .next (retire c.sw 2
      (post (raise s .none false .plain) s.fresh op [scalarPiece s a o 4 (s.thisSeat.getX d)])) := by
  rw [sync, if_neg Bool.false_ne_true, issue_ready h]
  simp only [check]
  rw [leave_free free, finish_room (by rw [out_post_raise]; exact room)]
  rfl

/-- The bytes of an atomic (R150). -/
abbrev atomicPiece (s : State) (x : Word) (size : Nat) : Piece := mkPiece x (placeOf s s.me x) size (lowMask (8 * size)) 0 0

/-- The L1 of the running core gives up the line of a place (R150). -/
def dropLine (s : State) : Place → State
  | .hbm pa _ => s.updThisCore fun k => l1Drop k pa
  | _ => s

theorem thisSeat_dropLine (s : State) (p : Place) : (dropLine s p).thisSeat = s.thisSeat := by
  unfold dropLine
  split
  · exact thisSeat_updThisCore_seats s (fun k => l1Drop k _) rfl
  · rfl

theorem fresh_dropLine (s : State) (p : Place) : (dropLine s p).fresh = s.fresh := by
  unfold dropLine
  split <;> rfl

/-- What an atomic sends: its operand and the old value of its destination, behind the drop of the line. -/
def sentAtomic (s : State) (d : BitVec 5) (op : AmoOp) (size : Nat) (x operand compare : Word) : State :=
  post (raise (dropLine s (atomicPiece s x size).dst) (.x d) false .plain) (dropLine s (atomicPiece s x size).dst).fresh
    (.amo op size operand compare) [atomicPiece s x size]

theorem out_sentAtomic (s : State) (d : BitVec 5) (op : AmoOp) (size : Nat) (x operand compare : Word) :
    (sentAtomic s d op size x operand compare).thisSeat.out = s.thisSeat.out + 1 := by
  rw [sentAtomic, out_post_raise, thisSeat_dropLine]

theorem atomic_ready (op : AmoOp) (h : Ready c { rx := if op = .cas then [a, b, d] else [a, b], wx := [d], mem := true } s)
    (room : Room s)
    (check : checkAtomic s s.me (s.thisSeat.getX a) (if z = 0 then 4 else 8) (if z = 0 then 4 else 8) = none) :
    atomic c d a b z op s = .next (retire c.sw 2
      (sentAtomic s d op (if z = 0 then 4 else 8) (s.thisSeat.getX a) (s.thisSeat.getX b) (s.thisSeat.getX d))) := by
  have sent := finish_room (sw := c.sw) (len := 2) (s := s)
    (by rw [out_sentAtomic s d op (if z = 0 then 4 else 8) (s.thisSeat.getX a) (s.thisSeat.getX b) (s.thisSeat.getX d)]; exact room)
  rw [← sent, atomic, issue_ready h]
  simp only [check]
  rw [sentAtomic, fresh_dropLine]
  rfl

end Ready

/-- Settles O16: a synchronising access is a `sync` of its operation, an atomic an `atomic` of its own. -/
theorem syncAndAtomicsIssue : Obligations.SyncAndAtomicsIssue := by
  intro s c d a b o z
  refine ⟨fun h room check free => ⟨sync_load_ready h room check free, sync_load_ready h room check free⟩,
    fun h room check free => ⟨sync_store_ready h room check free, sync_store_ready h room check free⟩,
    fun h room check => ?binary, fun h room check => atomic_ready .cas h room check,
    fun h room check => atomic_ready (z := 0) .fadd h room check⟩
  case binary =>
    exact ⟨atomic_ready .add h room check, atomic_ready .and h room check, atomic_ready .or h room check,
      atomic_ready .xor h room check, atomic_ready .min h room check, atomic_ready .max h room check,
      atomic_ready .minu h room check, atomic_ready .maxu h room check, atomic_ready .swap h room check⟩

end Sys2Proof.Machine
end

section
/-! `fence`, the seals and the full/empty ranges at their issue (R147, R149, R152, R174). -/

namespace Sys2Proof.Machine

/-! ### Marking pages leaves the running seat -/

theorem contents_markPage (on : Bool) (pa n : Nat) (table : List (Nat × Nat)) (s : State) :
    (markPage on pa n table s).contents = s.contents := by
  have dropped : (dropReplicas { s with sealed := table } pa n).contents = s.contents := contents_dropReplicas ..
  unfold markPage
  dsimp only
  split
  · exact dropped
  · exact dropped

theorem contents_sealPages (on : Bool) (lo hi fuel va : Nat) (s : State) (l : List (Nat × Nat)) :
    (sealPages on lo hi fuel va s l).1.contents = s.contents := by
  induction fuel generalizing va s l with
  | zero => rfl
  | succ fuel ih =>
    unfold sealPages
    split
    · rfl
    · split
      · rfl
      · exact iteInduction (motive := fun r : State × List (Nat × Nat) × Option (BitVec 8 × Word) => r.1.contents = s.contents)
          (fun _ => rfl) fun _ => by rw [ih, contents_markPage]

theorem contents_acquireInv (s : State) (c : CoreId) : (acquireInv s c).contents = s.contents :=
  contents_updCore s c (fun k => { k with l1 := k.l1.map (keepOwned s) }) rfl rfl

theorem thisSeat_of_contents {s t : State} (h : t.contents = s.contents) : t.thisSeat = s.thisSeat := by
  obtain ⟨running, h⟩ := Prod.mk.inj h
  obtain ⟨core, seat⟩ := Prod.mk.inj running
  rw [State.thisSeat_eq, State.thisSeat_eq, core, seat]
  exact congrFun (congrFun (congrArg Prod.snd h) s.core) s.seat.val

section Ready

variable {c : Ctl} {a b : BitVec 5} {s : State} {op : ReqOp} {rel : Bool}

theorem execFence_ready (h : Ready c { mem := true } s) (room : Room s) (done : seatReqs s s.core s.seat.val = []) :
    execFence c s = .next (retire c.sw 2 (raise s .none true .plain (.value 0))) := by
  rw [execFence, issue_ready h, fenced, if_pos done, finish_raise s room]

/-- The pages of a seal or unseal of `n` bytes at `x`, after its fence (R152). -/
abbrev sealedPages (s : State) (on : Bool) (x n : Word) : State × List (Nat × Nat) × Option (BitVec 8 × Word) :=
  sealPages on x.toNat (x.toNat + n.toNat) (n.toNat / 65536) x.toNat (acquireInv s s.core) []

theorem sealOp_ready (on : Bool) (h : Ready c { rx := [a, b], mem := true } s) (room : Room s)
    (check : checkSeal (s.thisSeat.getX a) (s.thisSeat.getX b) = none) (done : seatReqs s s.core s.seat.val = [])
    (passed : (sealedPages s on (s.thisSeat.getX a) (s.thisSeat.getX b)).2.2 = none) :
    sealOp c a b on s = .next (retire c.sw 2 (raise (sealedPages s on (s.thisSeat.getX a) (s.thisSeat.getX b)).1 .none true
      (.seal on (sealedPages s on (s.thisSeat.getX a) (s.thisSeat.getX b)).2.1) (.value 0))) := by
  have seat : (sealedPages s on (s.thisSeat.getX a) (s.thisSeat.getX b)).1.thisSeat = s.thisSeat :=
    thisSeat_of_contents ((contents_sealPages ..).trans (contents_acquireInv ..))
  rw [sealOp, issue_ready h]
  simp only [check, fenced, done, if_true]
  unfold sealedPages at passed seat ⊢
  generalize sealPages on _ _ _ _ (acquireInv s s.core) [] = pages at passed seat ⊢
  obtain ⟨t, l, stop⟩ := pages
  obtain rfl : stop = none := passed
  exact congrArg _ (finish_room (by rw [out_raise, Seat.out, seat]; exact room))

theorem rangeOp_empty (h : Ready c { rx := [a, b], rel := rel } s)
    (check : checkRange s s.core (s.thisSeat.getX a) (s.thisSeat.getX b) = none) (empty : s.thisSeat.getX b = 0) :
    rangeOp c a b op rel s = .next (retire c.sw 2 s) := by
  rw [empty] at check
  rw [rangeOp, issue_ready h]
  simp only [empty, check, if_true, finish_same]

theorem rangeOp_ready (h : Ready c { rx := [a, b], rel := rel } s)
    (check : checkRange s s.core (s.thisSeat.getX a) (s.thisSeat.getX b) = none) (some' : s.thisSeat.getX b ≠ 0) (room : Room s)
    (free : sameWord s (rangePieces s (s.thisSeat.getX a) (s.thisSeat.getX b).toNat) = false) :
    rangeOp c a b op rel s = .next (retire c.sw 2 (post (raise s .none false .plain) s.fresh op
      (rangePieces s (s.thisSeat.getX a) (s.thisSeat.getX b).toNat))) := by
  rw [rangeOp, issue_ready h]
  simp only [check, some', if_false]
  rw [leave_free free, finish_room (by rw [out_post_raise]; exact room)]

end Ready

/-- Settles O17: a fence waits for the requests of its seat alone, and a seal or a range ends as its checks and pages say. -/
theorem fenceSealRangeResults : Obligations.FenceSealRangeResults := by
  intro s c a b
  exact ⟨execFence_ready, fun h room check done => ⟨sealOp_ready true h room check done, sealOp_ready false h room check done⟩,
    fun check => ⟨fun h => ⟨rangeOp_empty h check, rangeOp_ready h check⟩, fun h => ⟨rangeOp_empty h check, rangeOp_ready h check⟩⟩⟩

end Sys2Proof.Machine
end

section
/-! Vector loads, stores, sidecars, gathers and scatters leave (R62, R114, R137 to R141). -/

namespace Sys2Proof.Machine

section Ready

variable {c : Ctl} {d x : BitVec 4} {a : BitVec 5} {k : BitVec 2} {size : Nat} {s : State}

/-- The active bits of a register under a mask, as a number (R137). -/
abbrev activeNat (s : State) (tag : BitVec 4) (k : BitVec 2) : Nat := (activeBits (tagWidth tag) (s.thisSeat.getK k)).toNat

theorem thisSeat_tagged (s : State) (d x : BitVec 4) :
    (tagged s d x).thisSeat = s.thisSeat.setV d { s.thisSeat.getV d with tag := x } := s.thisSeat_updThisSeat _

theorem out_tagged (s : State) (d x : BitVec 4) : (tagged s d x).thisSeat.out = s.thisSeat.out := by
  rw [thisSeat_tagged, Seat.out, Seat.setV_outs, Seat.out]

theorem execVld_inactive (h : Ready c { rx := [a], wv := [d], mem := true } s) (none' : activeNat s x k = 0) :
    execVld c d a x k s = .next (retire c.sw 2 (tagged s d x)) := by
  rw [execVld, issue_ready h]
  simp only [none', if_true]
  exact congrArg _ (finish_next (out_tagged s d x).le)

theorem execVld_ready (h : Ready c { rx := [a], wv := [d], mem := true } s) (some' : activeNat s x k ≠ 0) (room : Room s)
    (check : checkVec s .read (vecBase s a 512) (alignOf x) 512 (activeNat s x k) = none)
    (free : sameWord s (wordPieces s (vecBase s a 512) 512 (activeNat s x k) 0) = false) :
    execVld c d a x k s = .next (retire c.sw 2 (postLoad (tagged s d x) (.v d) false .vload
      (wordPieces s (vecBase s a 512) 512 (activeNat s x k) 0) [0, 1, 2, 3])) := by
  rw [execVld, issue_ready h]
  simp only [some', if_false, check]
  rw [leave_free free]
  exact congrArg _ (finish_room (by rw [out_postLoad]; exact (congrArg (· + 1) (out_tagged s d x)).trans_le room))

/-- All bits of a sidecar (R139). -/
abbrev sidecarBits : Nat := 2 ^ 256 - 1

theorem execVldSc_ready (h : Ready c { rx := [a], wv := [d], mem := true } s) (room : Room s)
    (check : checkVec s .read (vecBase s a 32) 32 32 sidecarBits = none)
    (free : sameWord s (wordPieces s (vecBase s a 32) 32 sidecarBits 0) = false) :
    execVldSc c d a s = .next (retire c.sw 2
      (postLoad s (.sidecar d) false .vload (wordPieces s (vecBase s a 32) 32 sidecarBits 0) [0, 1, 2, 3])) := by
  rw [execVldSc, issue_ready h]
  simp only [check]
  rw [leave_free free, finish_room (by rw [out_postLoad]; exact room)]

theorem execVst_inactive (h : Ready c { rx := [a], rv := [d], mem := true } s)
    (none' : activeNat s (s.thisSeat.getV d).tag k = 0) : execVst c d a k s = .next (retire c.sw 2 s) := by
  rw [execVst, issue_ready h]
  simp only [none', if_true, finish_same]

theorem execVst_ready (h : Ready c { rx := [a], rv := [d], mem := true } s)
    (some' : activeNat s (s.thisSeat.getV d).tag k ≠ 0)
    (check : checkVec s .write (vecBase s a 512) (alignOf (s.thisSeat.getV d).tag) 512 (activeNat s (s.thisSeat.getV d).tag k) = none)
    (free : sameWord s (wordPieces s (vecBase s a 512) 512 (activeNat s (s.thisSeat.getV d).tag k)
      (s.thisSeat.getV d).data.toNat) = false) :
    execVst c d a k s = .next (retire c.sw 2 (postStore s
      (wordPieces s (vecBase s a 512) 512 (activeNat s (s.thisSeat.getV d).tag k) (s.thisSeat.getV d).data.toNat))) := by
  rw [execVst, issue_ready h]
  simp only [some', if_false, check]
  rw [leave_free free, finish_next (by rw [thisSeat_postStore])]

theorem execVstSc_ready (h : Ready c { rx := [a], rv := [d], mem := true } s)
    (check : checkVec s .write (vecBase s a 32) 32 32 sidecarBits = none)
    (free : sameWord s (wordPieces s (vecBase s a 32) 32 sidecarBits (s.thisSeat.getV d).sc.toNat) = false) :
    execVstSc c d a s = .next (retire c.sw 2
      (postStore s (wordPieces s (vecBase s a 32) 32 sidecarBits (s.thisSeat.getV d).sc.toNat))) := by
  rw [execVstSc, issue_ready h]
  simp only [check]
  rw [leave_free free, finish_next (by rw [thisSeat_postStore])]

/-! ### Gathers and scatters -/

/-- No lane fails its check (R140). -/
abbrev LanesPass (s : State) (need : Need) (a : BitVec 5) (x : BitVec 4) (k : BitVec 2) (size : Nat) : Prop :=
  ∀ l ∈ laneAddrs s.thisSeat a x k size, checkScalar s s.me need l.2 size = none

theorem gather_ready (h : Ready c { rx := [a], rv := [x], wv := [d], mem := true } s) (room : Room s)
    (index : indexFault s.thisSeat x size = none) (lanes : LanesPass s .read a x k size)
    (free : sameWord s (lanePieces s (laneAddrs s.thisSeat a x k size) size 0) = false) :
    gather c d a x k size s = .next (retire c.sw 2
      (postLoad s (.v d) false .vload (lanePieces s (laneAddrs s.thisSeat a x k size) size 0) [0, 1, 2, 3])) := by
  rw [gather, issue_ready h]
  simp only [index, List.findSome?_eq_none_iff.2 lanes]
  rw [leave_free free, finish_room (by rw [out_postLoad]; exact room)]

theorem scatter_ready (h : Ready c { rx := [a], rv := [x, d], mem := true } s) (index : indexFault s.thisSeat x size = none)
    (lanes : LanesPass s .write a x k size)
    (free : sameWord s (lanePieces s (laneAddrs s.thisSeat a x k size) size (s.thisSeat.getV d).data) = false) :
    scatter c d a x k size s = .next (retire c.sw 2
      (postStore s (lanePieces s (laneAddrs s.thisSeat a x k size) size (s.thisSeat.getV d).data))) := by
  rw [scatter, issue_ready h]
  simp only [index, List.findSome?_eq_none_iff.2 lanes]
  rw [leave_free free, finish_next (by rw [thisSeat_postStore])]

/-- An index register of another tag than that of the lanes or raw (R140). -/
theorem indexFault_of_tag {t : Seat} (raw : (t.getV x).tag ≠ 0) (other : (t.getV x).tag ≠ if size = 4 then 3 else 2) :
    indexFault t x size = some (.trap 0x03 (formatVal t x)) := by
  simp only [indexFault, raw, other, decide_false, Bool.or_false, Bool.false_eq_true, if_false, formatTrap_eq]

theorem gather_misread (h : Ready c { rx := [a], rv := [x], wv := [d], mem := true } s)
    (bad : indexFault s.thisSeat x size = some (.trap 0x03 (formatVal s.thisSeat x))) :
    Traps s (gather c d a x k size s) 0x03 (formatVal s.thisSeat x) := by
  simp only [gather, issue_ready h, bad, finish_trap]

theorem scatter_misread (h : Ready c { rx := [a], rv := [x, d], mem := true } s)
    (bad : indexFault s.thisSeat x size = some (.trap 0x03 (formatVal s.thisSeat x))) :
    Traps s (scatter c d a x k size s) 0x03 (formatVal s.thisSeat x) := by
  simp only [scatter, issue_ready h, bad, finish_trap]

end Ready

/-- Settles O18: each access ends as its active elements, its checks and its index register say. -/
theorem vectorMemoryIssue : Obligations.VectorMemoryIssue := by
  intro s c d x a k
  refine ⟨fun h => ⟨execVld_inactive h, execVld_ready h, execVldSc_ready h⟩,
    fun h => ⟨execVst_inactive h, execVst_ready h, execVstSc_ready h⟩,
    fun h room => ⟨gather_ready h room, gather_ready h room⟩, fun h => ⟨scatter_ready h, scatter_ready h⟩,
    fun raw => ⟨fun h => ⟨fun other => ?_, fun other => ?_⟩, fun h => ⟨fun other => ?_, fun other => ?_⟩⟩⟩
  · exact gather_misread h (indexFault_of_tag raw other)
  · exact gather_misread h (indexFault_of_tag raw other)
  · exact scatter_misread h (indexFault_of_tag raw other)
  · exact scatter_misread h (indexFault_of_tag raw other)

end Sys2Proof.Machine
end

section
/-! What a router changes when it sends: the packets, the events of the cores that are told, and the slots that it frees (R201, R206,
R314, R316, R320). -/

namespace Sys2Proof.Machine

/-! ### Sending a packet -/

/-- A core without its queued events. -/
def Core.untold (k : Core) : Core := { k with events := [], notices := [] }

/-- The module without its cores and without what a sender adds to: packets, held messages and the answer to another module. -/
def State.unposted (s : State) : State := { s with cores := [], net := [], sent := [], waiting := [], fresh := 0, reply := .none }

/-- Everything that a packet leaves as it is when it is sent or turned back. -/
def State.unsent (s : State) : State × (CoreId → Core) := (s.unposted, fun c => (s.getCore c).untold)

theorem unsent_setCore (s : State) (c : CoreId) (k : Core) (h : k.untold = (s.getCore c).untold) :
    (s.setCore c k).unsent = s.unsent := by
  refine Prod.ext rfl (funext fun d => ?_)
  by_cases e : d = c
  · subst e
    exact (congrArg Core.untold (s.getCore_setCore d k)).trans h
  · exact congrArg Core.untold (s.getCore_setCore_other k e)

theorem Core.addEvent_untold (k : Core) (q : Queued) : (k.addEvent q).untold = k.untold := by
  unfold Core.addEvent
  split <;> rfl

theorem unsent_queueEvent (s : State) (c : CoreId) (code : BitVec 8) (x17 : Word) (rest : List Word) :
    (queueEvent s c code x17 rest).unsent = s.unsent :=
  unsent_setCore s (supCore s c) _ (Core.addEvent_untold ..)

theorem unsent_undeliverable (s : State) (code : BitVec 8) (src : CoreId) (rank : BitVec 16) (body : Body) :
    (undeliverable s code src rank body).unsent = s.unsent := by
  unfold undeliverable
  split
  · split <;> rfl
  · cases body with
    | msg | unread | count => exact unsent_queueEvent ..
    | _ => rfl

theorem unsent_emit (s : State) (src : CoreId) (rank : BitVec 16) (tc : Nat) (body : Body) (mc : Option Nat) :
    (emit s src rank tc body mc).unsent = s.unsent := by
  unfold emit
  cases resolve s src rank with
  | hold | core => rfl
  | far m =>
    dsimp only
    split
    · rfl
    · exact unsent_undeliverable ..
  | absent | dead => exact unsent_undeliverable ..

theorem emit_core {s : State} {src d : CoreId} {rank : BitVec 16} (there : resolve s src rank = .core d) (tc : Nat) (body : Body)
    (mc : Option Nat) : emit s src rank tc body mc = newPacket s src d rank tc body mc := by
  rw [emit, there]

theorem unsent_rootMessage (s : State) (c : CoreId) (t : CombineSlot) : (rootMessage s c t).unsent = s.unsent := rfl

/-! ### Resolving a slot -/

/-- A resolved slot is freed, and what it holds is sent (R316, R352). -/
theorem unsent_resolveSlot (s : State) (c : CoreId) (t : CombineSlot) :
    (resolveSlot s c t).unsent = (s.updCore c fun k => freeSlot k (dKey t.desc)).unsent := by
  have told (u : State) : (if dDeliver t.desc = 0 then u else rootMessage u c t).unsent = u.unsent := by
    split
    · rfl
    · exact unsent_rootMessage u c t
  unfold resolveSlot
  dsimp only
  split
  · exact unsent_emit ..
  · refine (apply_ite State.unsent ..).trans ?_
    exact (ite_self _).trans (told _)

/-- A core without its events and slots. -/
def Core.unrouted (k : Core) : Core := { k.untold with combine := [] }

/-- Everything that the slots of the routers and what they send leave as it is. -/
def State.unrouted (s : State) : State × (CoreId → Core) := (s.unposted, fun c => (s.getCore c).unrouted)

theorem unrouted_of_unsent {s t : State} (h : t.unsent = s.unsent) : t.unrouted = s.unrouted :=
  congrArg (fun q : State × (CoreId → Core) => (q.1, fun c => { q.2 c with combine := [] })) h

theorem unrouted_setCore (s : State) (c : CoreId) (k : Core) (h : k.unrouted = (s.getCore c).unrouted) :
    (s.setCore c k).unrouted = s.unrouted := by
  refine Prod.ext rfl (funext fun d => ?_)
  by_cases e : d = c
  · subst e
    exact (congrArg Core.unrouted (s.getCore_setCore d k)).trans h
  · exact congrArg Core.unrouted (s.getCore_setCore_other k e)

theorem unrouted_updCore (s : State) (c : CoreId) (f : Core → Core) (h : (f (s.getCore c)).unrouted = (s.getCore c).unrouted) :
    (s.updCore c f).unrouted = s.unrouted := unrouted_setCore s c _ h

section Unrouted

variable {α : Type} {s t : State}

/-- A field of the module that no router changes. -/
theorem eq_of_unrouted (h : t.unrouted = s.unrouted) (f : State → α) (kept : ∀ u : State, f u.unposted = f u) : f t = f s := by
  have same : t.unposted = s.unposted := congrArg Prod.fst h
  rw [← kept t, same, kept s]

/-- A field of a core that no router changes. -/
theorem core_eq_of_unrouted (h : t.unrouted = s.unrouted) (f : Core → α) (kept : ∀ k : Core, f k.unrouted = f k) (c : CoreId) :
    f (t.getCore c) = f (s.getCore c) := by
  have same : (t.getCore c).unrouted = (s.getCore c).unrouted := congrFun (congrArg Prod.snd h) c
  rw [← kept (t.getCore c), same, kept (s.getCore c)]

/-- The slots of a core are those before a packet is sent. -/
theorem combine_of_unsent (h : t.unsent = s.unsent) (c : CoreId) : (t.getCore c).combine = (s.getCore c).combine :=
  congrArg (fun q : State × (CoreId → Core) => (q.2 c).combine) h

theorem thisSeat_of_unrouted (h : t.unrouted = s.unrouted) : t.thisSeat = s.thisSeat := by
  have seats := core_eq_of_unrouted h Core.seats (fun _ => rfl) s.core
  have running : t.core = s.core := eq_of_unrouted h State.core fun _ => rfl
  have seat : t.seat = s.seat := eq_of_unrouted h State.seat fun _ => rfl
  rw [State.thisSeat_eq, State.thisSeat_eq, State.seatAt, State.seatAt, Core.getSeat, Core.getSeat, running, seat, seats]

end Unrouted

theorem unrouted_resolveSlot (s : State) (c : CoreId) (t : CombineSlot) : (resolveSlot s c t).unrouted = s.unrouted :=
  (unrouted_of_unsent (unsent_resolveSlot s c t)).trans (unrouted_updCore s c _ rfl)

theorem unrouted_checkSlot (s : State) (c : CoreId) (key : BitVec 32) : (checkSlot s c key).unrouted = s.unrouted := by
  unfold checkSlot
  split
  · split
    · exact unrouted_resolveSlot ..
    · rfl
  · rfl

theorem unrouted_exitSlots (s : State) (c : CoreId) (gid : Nat) : (exitSlots s c gid).unrouted = s.unrouted :=
  (foldl_keeps State.unrouted _ (fun s key => unrouted_checkSlot s c key) _ _).trans (unrouted_updCore s c _ rfl)

theorem unsent_sendLeave (s : State) (c : CoreId) (gid : Nat) : (sendLeave s c gid).unsent = s.unsent := by
  unfold sendLeave
  dsimp only
  split
  · split
    · exact unsent_emit ..
    · rfl
  · rfl

theorem unrouted_exitRouter (s : State) (c : CoreId) (gid : Nat) : (exitRouter s c gid).unrouted = s.unrouted := by
  unfold exitRouter
  split
  · exact (unrouted_of_unsent (unsent_sendLeave ..)).trans (unrouted_exitSlots ..)
  · rfl

/-! ### Groups and their episodes -/

theorem findGroup_updGroup {s : State} {gid : Nat} {g : Group} (found : findGroup s gid = some g) (f : Group → Group)
    (keeps : ∀ g, (f g).gid = g.gid) : findGroup (updGroup s gid f) gid = some (f g) :=
  (find?_map_update Group.gid gid s.groups keeps).trans (congrArg (Option.map f) found)

theorem updGroup_mem {s : State} {gid : Nat} {f : Group → Group} {q : Group} (mem : q ∈ (updGroup s gid f).groups) :
    ∃ g ∈ s.groups, q = if g.gid = gid then f g else g := by
  obtain ⟨g, mem, e⟩ := List.mem_map.1 mem
  exact ⟨g, mem, e.symm⟩

/-- Completed episodes change no seat. -/
theorem thisSeat_completeEpisodes (gid n : Nat) (s : State) : (completeEpisodes gid n s).thisSeat = s.thisSeat := by
  induction n generalizing s with
  | zero => rfl
  | succ n ih =>
    unfold completeEpisodes
    split
    · rfl
    · dsimp only
      split
      · rw [ih]
        rfl
      · rfl

/-- Completed episodes change only how many are done, group by group. -/
theorem completeEpisodes_groups (gid n : Nat) (s : State) {q : Group} (mem : q ∈ (completeEpisodes gid n s).groups) :
    ∃ g ∈ s.groups, q = { g with done := q.done } := by
  induction n generalizing s with
  | zero => exact ⟨q, mem, rfl⟩
  | succ n ih =>
    unfold completeEpisodes at mem
    split at mem
    · exact ⟨q, mem, rfl⟩
    · dsimp only at mem
      split at mem
      · obtain ⟨g, told, e⟩ := ih _ mem
        obtain ⟨g', mem', rfl⟩ := updGroup_mem told
        refine ⟨g', mem', e.trans ?_⟩
        split <;> rfl
      · exact ⟨q, mem, rfl⟩

end Sys2Proof.Machine
end

section
/-! Rank instructions, the group barrier and exits (R153, R154, R195, R218 to R222). -/

namespace Sys2Proof.Machine

/-! ### The rank in xa -/

/-- The high bits of a register are zero exactly when it is a rank. -/
theorem fld_rank_eq_zero_iff (w : Word) : fld w 63 16 = 0 ↔ w.toNat < 2 ^ 16 := by
  rw [fld_high_eq_zero_iff]
  omega

/-- The high bits of a register are zero exactly when it is a group number (R153). -/
theorem fld_group_eq_zero_iff (w : Word) : fld w 63 8 = 0 ↔ w.toNat < 256 := by
  simp only [fld, BitVec.extractLsb'_toNat, Nat.shiftRight_eq_div_pow]
  omega

theorem withRank_legal {x : Word} (legal : x.toNat < 2 ^ 16) (f : BitVec 16 → Act) : withRank x f = f (x.setWidth 16) :=
  if_neg (not_not.2 ((fld_rank_eq_zero_iff x).2 legal))

theorem withRank_illegal {x : Word} (illegal : 2 ^ 16 ≤ x.toNat) (f : BitVec 16 → Act) :
    withRank x f = .trap 0x20 (reasonVal 2 0 (fld x 15 0)) :=
  if_pos fun legal => absurd ((fld_rank_eq_zero_iff x).1 legal) (Nat.not_lt.2 illegal)

theorem setWidth_rank (x : Word) : (x.setWidth 16).toNat = fld x 15 0 := by
  rw [fld_zero, BitVec.toNat_setWidth]

section Ready

variable {c : Ctl} {d a b : BitVec 5} {s : State}

/-! ### `rank.rd` -/

theorem execRankRd_ready (h : Ready c { rx := [a], wx := [d] } s) (legal : (s.thisSeat.getX a).toNat < 2 ^ 16) :
    execRankRd c d a s = .next (retire c.sw 2 (wroteX s d (rankEntry s ((s.thisSeat.getX a).setWidth 16)))) := by
  rw [execRankRd, issue_ready h, withRank_legal legal, putX_eq, finish_wroteX]

theorem execRankRd_traps (h : Ready c { rx := [a], wx := [d] } s) (illegal : 2 ^ 16 ≤ (s.thisSeat.getX a).toNat) :
    Traps s (execRankRd c d a s) 0x20 (reasonVal 2 0 (fld (s.thisSeat.getX a) 15 0)) := by
  rw [Traps, execRankRd, issue_ready h, withRank_illegal illegal, finish_trap]

/-! ### What the checks of the supervisor instructions decide -/

/-- `rank.wr` of an entry at a rank: the checks of R220 and R218, or the operation. -/
def rankWrAct (s : State) (r : BitVec 16) (e : Word) : Act :=
  if !rankOk e then msgTrap 2 r.toNat
  else if eTransit (rankEntry s r) then msgTrap 6 r.toNat
  else if eValid e && (tget? s.ranks r.toNat).isNone && !rankRoom s [r.toNat] then msgTrap 5 r.toNat
  else .next (raise s .none false (.rankWr r.toNat e) (.value 0))

/-- `rank.hold` of a rank (R221). -/
def rankHoldAct (s : State) (r : BitVec 16) : Act :=
  if !eValid (rankEntry s r) || eTransit (rankEntry s r) then msgTrap 6 r.toNat
  else .next (raise { s with ranks := tset s.ranks r.toNat (rankEntry s r ||| 0x4000000000000000) } .none false
    (.rankHold r.toNat) (.value 0))

/-- `rank.rel` of an entry at a rank (R222). -/
def rankRelAct (s : State) (r : BitVec 16) (e : Word) : Act :=
  if !rankOk e || !eValid e then msgTrap 2 r.toNat
  else if !eTransit (rankEntry s r) then msgTrap 6 r.toNat
  else .next (raise s .none false (.rankRel r.toNat e) (.value 0))

theorem execRankWr_eq (seven : s.seat = 7) (h : Ready c { rx := [a, b] } s) : execRankWr c a b s =
    .next (finish c.sw 2 s (withRank (s.thisSeat.getX a) fun r => rankWrAct s r (s.thisSeat.getX b))) := by
  rw [execRankWr, issueS_seat7 seven, issue_ready h]
  rfl

theorem execRankHold_eq (seven : s.seat = 7) (h : Ready c { rx := [a] } s) :
    execRankHold c a s = .next (finish c.sw 2 s (withRank (s.thisSeat.getX a) (rankHoldAct s))) := by
  rw [execRankHold, issueS_seat7 seven, issue_ready h]
  rfl

theorem execRankRel_eq (seven : s.seat = 7) (h : Ready c { rx := [a, b] } s) : execRankRel c a b s =
    .next (finish c.sw 2 s (withRank (s.thisSeat.getX a) fun r => rankRelAct s r (s.thisSeat.getX b))) := by
  rw [execRankRel, issueS_seat7 seven, issue_ready h]
  rfl

/-- A supervisor instruction whose checks give a trap takes it. -/
theorem traps_of_act {run : Result} {act : Act} {cause : BitVec 8} {v : Word} (eq : run = .next (finish c.sw 2 s act))
    (trap : act = .trap cause v) : Traps s run cause v := by
  rw [Traps, eq, trap, finish_trap]

variable {r : BitVec 16} {e : Word}

theorem rankWrAct_raises (ok : rankOk e = true) (present : eTransit (rankEntry s r) = false)
    (fits : eValid e = true → (tget? s.ranks r.toNat).isSome = true ∨ rankRoom s [r.toNat] = true) :
    rankWrAct s r e = .next (raise s .none false (.rankWr r.toNat e) (.value 0)) := by
  have room : (eValid e && (tget? s.ranks r.toNat).isNone && !rankRoom s [r.toNat]) = false := by
    cases valid : eValid e with
    | false => rfl
    | true =>
      obtain listed | room := fits valid
      · rw [Option.isNone_eq_false_iff.2 listed, Bool.and_false, Bool.false_and]
      · rw [room, Bool.not_true, Bool.and_false]
  simp only [rankWrAct, ok, present, room, Bool.not_true, Bool.false_eq_true, if_false]

theorem rankWrAct_badEntry (bad : rankOk e = false) : rankWrAct s r e = .trap 0x20 (reasonVal 2 0 r.toNat) := if_pos (by rw [bad]; rfl)

theorem rankWrAct_transit (ok : rankOk e = true) (transit : eTransit (rankEntry s r) = true) :
    rankWrAct s r e = .trap 0x20 (reasonVal 6 0 r.toNat) := by
  simp only [rankWrAct, ok, transit, Bool.not_true, Bool.false_eq_true, if_false, if_true]
  rfl

theorem rankWrAct_full (ok : rankOk e = true) (present : eTransit (rankEntry s r) = false) (valid : eValid e = true)
    (new : (tget? s.ranks r.toNat).isNone = true) (full : rankRoom s [r.toNat] = false) :
    rankWrAct s r e = .trap 0x20 (reasonVal 5 0 r.toNat) := by
  simp only [rankWrAct, ok, present, valid, new, full, Bool.not_true, Bool.not_false, Bool.and_self, Bool.false_eq_true, if_false,
    if_true]
  rfl

theorem rankHoldAct_raises (valid : eValid (rankEntry s r) = true) (present : eTransit (rankEntry s r) = false) :
    rankHoldAct s r = .next (raise { s with ranks := tset s.ranks r.toNat (rankEntry s r ||| 0x4000000000000000) } .none false
      (.rankHold r.toNat) (.value 0)) := by
  simp only [rankHoldAct, valid, present, Bool.not_true, Bool.or_self, Bool.false_eq_true, if_false]

theorem rankHoldAct_state (bad : eValid (rankEntry s r) = false ∨ eTransit (rankEntry s r) = true) :
    rankHoldAct s r = .trap 0x20 (reasonVal 6 0 r.toNat) := if_pos (by simpa using bad)

theorem rankRelAct_raises (ok : rankOk e = true) (valid : eValid e = true) (transit : eTransit (rankEntry s r) = true) :
    rankRelAct s r e = .next (raise s .none false (.rankRel r.toNat e) (.value 0)) := by
  simp only [rankRelAct, ok, valid, transit, Bool.not_true, Bool.or_self, Bool.false_eq_true, if_false]

theorem rankRelAct_badEntry (bad : rankOk e = false ∨ eValid e = false) : rankRelAct s r e = .trap 0x20 (reasonVal 2 0 r.toNat) :=
  if_pos (by simpa using bad)

theorem rankRelAct_present (ok : rankOk e = true) (valid : eValid e = true) (present : eTransit (rankEntry s r) = false) :
    rankRelAct s r e = .trap 0x20 (reasonVal 6 0 r.toNat) := by
  simp only [rankRelAct, ok, valid, present, Bool.not_true, Bool.not_false, Bool.or_self, Bool.false_eq_true, if_false, if_true]
  rfl

/-! ### Groups -/

theorem withGroup_active {x : Word} {g : Group} (legal : x.toNat < 256) (active : activeGroup s s.core x.toNat = some g)
    (done : unreleased s s.core s.seat.val = false) (f : Group → Act) : withGroup s x f = f g := by
  simp only [withGroup, (fld_group_eq_zero_iff x).2 legal, active, done, ne_eq, not_true_eq_false, Bool.false_eq_true, if_false]

theorem withGroup_traps {x : Word} (bad : 256 ≤ x.toNat ∨ activeGroup s s.core x.toNat = none) (f : Group → Act) :
    withGroup s x f = .trap 0x22 x := by
  unfold withGroup
  split
  · rfl
  · rename_i legal
    rw [bad.resolve_left fun large => absurd ((fld_group_eq_zero_iff x).1 (not_not.1 legal)) (Nat.not_lt.2 large)]

end Ready

section Barrier

variable {c : Ctl} {a : BitVec 5} {s : State} {g : Group}

/-- The next episode of the running core in a group (R153). -/
abbrev nextEpisode (s : State) (g : Group) : Nat := tget 0 g.issued s.core + 1

theorem execGbar_ready (h : Ready c { rx := [a] } s) (room : Room s) (legal : (s.thisSeat.getX a).toNat < 256)
    (active : activeGroup s s.core (s.thisSeat.getX a).toNat = some g) (done : unreleased s s.core s.seat.val = false) :
    execGbar c a s = .next (retire c.sw 2 (sendArrival (updGroup (raise s .none true (.gbar g.gid (nextEpisode s g))) g.gid
      fun q => { q with issued := tset q.issued s.core (nextEpisode s g) }) g s.core (nextEpisode s g) s.core)) := by
  rw [execGbar, issue_ready h, withGroup_active legal active done]
  exact congrArg _ (finish_room ((out_raise s .none true (.gbar g.gid (nextEpisode s g)) .waiting [0]).trans_le room))

/-- A group with one more member that has exited (R154). -/
def Group.exit (c : CoreId) (g : Group) : Group := { g with exited := g.exited ++ [c] }

/-- What `gexit` leaves: the exit recorded, at the router too, and the episodes that it completes told. -/
def exitedState (s : State) (g : Group) : State :=
  let t := exitRouter (updGroup (raise s .none false .plain (.value 0)) g.gid (Group.exit s.core)) s.core g.gid
  completeEpisodes g.gid (maxEpisodes t g.gid) t

theorem thisSeat_exitedState (s : State) (g : Group) :
    (exitedState s g).thisSeat = (raise s .none false .plain (.value 0)).thisSeat :=
  (thisSeat_completeEpisodes ..).trans ((thisSeat_of_unrouted (unrouted_exitRouter ..)).trans rfl)

theorem exitedState_records (s : State) (g : Group) {q : Group} (mem : q ∈ (exitedState s g).groups) (same : q.gid = g.gid) :
    s.core ∈ q.exited := by
  obtain ⟨q', mem', e⟩ := completeEpisodes_groups _ _ _ mem
  rw [eq_of_unrouted (unrouted_exitRouter ..) State.groups fun _ => rfl] at mem'
  obtain ⟨g', -, e'⟩ := updGroup_mem mem'
  have gid : g'.gid = g.gid := by
    rw [← same, e, e']
    split <;> rfl
  rw [e, e', if_pos gid]
  exact List.mem_append_right _ (List.mem_singleton_self _)

theorem execGexit_ready (h : Ready c { rx := [a] } s) (room : Room s) (legal : (s.thisSeat.getX a).toNat < 256)
    (active : activeGroup s s.core (s.thisSeat.getX a).toNat = some g) (done : unreleased s s.core s.seat.val = false) :
    execGexit c a s = .next (retire c.sw 2 (exitedState s g)) := by
  rw [execGexit, issue_ready h, withGroup_active legal active done]
  refine congrArg _ (finish_room (s := s) (s' := exitedState s g) ?_)
  rw [thisSeat_exitedState, out_raise]
  exact room

theorem execGbar_traps (h : Ready c { rx := [a] } s)
    (bad : 256 ≤ (s.thisSeat.getX a).toNat ∨ activeGroup s s.core (s.thisSeat.getX a).toNat = none) :
    Traps s (execGbar c a s) 0x22 (s.thisSeat.getX a) := by
  rw [Traps, execGbar, issue_ready h, withGroup_traps bad, finish_trap]

theorem execGexit_traps (h : Ready c { rx := [a] } s)
    (bad : 256 ≤ (s.thisSeat.getX a).toNat ∨ activeGroup s s.core (s.thisSeat.getX a).toNat = none) :
    Traps s (execGexit c a s) 0x22 (s.thisSeat.getX a) := by
  rw [Traps, execGexit, issue_ready h, withGroup_traps bad, finish_trap]

end Barrier

/-- An operation raised at a rank leaves the outstanding operations one more, whatever the rank table holds. -/
theorem finish_raise_ranks {sw : Bool} {len : Nat} {s : State} (room : Room s) (ranks : List (Nat × Word)) (what : Pending) :
    finish sw len s (.next (raise { s with ranks := ranks } .none false what (.value 0))) =
      retire sw len (raise { s with ranks := ranks } .none false what (.value 0)) :=
  finish_room ((out_raise { s with ranks := ranks } .none false what (.value 0) [0]).trans_le room)

/-- Settles O22: the checks of a rank instruction decide its trap or its operation, and those of a barrier or exit its group. -/
theorem rankAndGroupResults : Obligations.RankAndGroupResults := by
  intro s c d a b g
  refine ⟨fun h legal => execRankRd_ready h legal, fun seven h room legal ok => ⟨fun present fits => ?write, fun valid transit => ?release⟩,
    fun seven h room legal valid present => ?hold,
    fun h room legal active done => ⟨execGbar_ready h room legal active done,
      _, execGexit_ready h room legal active done, thisSeat_exitedState s g, fun q mem => exitedState_records s g mem⟩,
    fun h illegal => execRankRd_traps h illegal, fun seven h => ?checks, fun seven h => ⟨fun illegal => ?_, fun legal bad => ?_⟩,
    fun h bad => ⟨execGbar_traps h bad, execGexit_traps h bad⟩⟩
  case write =>
    refine (execRankWr_eq seven h).trans ?_
    rw [withRank_legal legal, rankWrAct_raises ok present fits, finish_raise s room]
  case release =>
    refine (execRankRel_eq seven h).trans ?_
    rw [withRank_legal legal, rankRelAct_raises ok valid transit, finish_raise s room]
  case hold =>
    refine (execRankHold_eq seven h).trans ?_
    rw [withRank_legal legal, rankHoldAct_raises valid present, finish_raise_ranks room]
  case checks =>
    have wr {cause : BitVec 8} {v : Word} := traps_of_act (cause := cause) (v := v) (execRankWr_eq seven h)
    have rel {cause : BitVec 8} {v : Word} := traps_of_act (cause := cause) (v := v) (execRankRel_eq seven h)
    refine ⟨fun bad => wr ?_, fun bad => rel ?_, fun legal ok => ⟨fun transit => wr ?_, fun present valid new full => wr ?_,
      fun valid present => rel ?_⟩⟩
    · obtain illegal | legal := Nat.lt_or_ge (s.thisSeat.getX a).toNat (2 ^ 16) |>.symm
      · exact withRank_illegal illegal _
      · rw [withRank_legal legal, rankWrAct_badEntry (bad.resolve_left (Nat.not_le.2 legal)), setWidth_rank]
    · obtain illegal | legal := Nat.lt_or_ge (s.thisSeat.getX a).toNat (2 ^ 16) |>.symm
      · exact withRank_illegal illegal _
      · rw [withRank_legal legal, rankRelAct_badEntry (bad.resolve_left (Nat.not_le.2 legal)), setWidth_rank]
    · rw [withRank_legal legal, rankWrAct_transit ok transit]
    · rw [withRank_legal legal, rankWrAct_full ok present valid new full]
    · rw [withRank_legal legal, rankRelAct_present ok valid present]
  · exact traps_of_act (execRankHold_eq seven h) (withRank_illegal illegal _)
  · exact traps_of_act (execRankHold_eq seven h) ((withRank_legal legal _).trans (rankHoldAct_state bad))

end Sys2Proof.Machine
end

section
/-! Barrier arrivals and completions (R153, R352). -/

namespace Sys2Proof.Machine

/-! ### Arrivals counted at the top -/

theorem mem_tset {α : Type} (l : List (Nat × α)) (i : Nat) (v : α) : (i, v) ∈ tset l i v := by
  induction l with
  | nil => exact List.mem_singleton_self _
  | cons e t ih =>
    obtain ⟨k, w⟩ := e
    rw [tset]
    split_ifs with lt eq
    · exact .head _
    · exact .head _
    · exact .tail _ ih

/-- A group whose member has arrived for an episode (R153). -/
def Group.reach (mem : CoreId) (ep : Nat) (g : Group) : Group :=
  { g with arrived := tset g.arrived mem (max ep (tget 0 g.arrived mem)) }

theorem Group.arrived_reach (mem : CoreId) (ep : Nat) (g : Group) :
    tget 0 (g.reach mem ep).arrived mem = max ep (tget 0 g.arrived mem) := tget_tset_same ..

/-- The next episode is complete with an arrival for it exactly when every other member that has not exited has arrived. -/
theorem Group.episodeDone_reach (mem : CoreId) (g : Group) : (g.reach mem (g.done + 1)).episodeDone = true ↔
    ∀ m ∈ g.active, m.2 ≠ mem → g.done < tget 0 g.arrived m.2 := by
  have reached : g.done < max (g.done + 1) (tget 0 g.arrived mem) := Nat.lt_of_lt_of_le (Nat.lt_succ_self _) (le_max_left ..)
  have someone : ((g.reach mem (g.done + 1)).arrived.any fun a => decide (g.done < a.2)) = true :=
    List.any_eq_true.2 ⟨_, mem_tset .., decide_eq_true reached⟩
  have everyone : (g.reach mem (g.done + 1)).episodeDone = g.active.all fun m =>
      decide (g.done < tget 0 (g.reach mem (g.done + 1)).arrived m.2) :=
    (congrArg (· && _) someone).trans (Bool.true_and _)
  rw [everyone, List.all_eq_true]
  refine forall₂_congr fun m _ => ?_
  rw [decide_eq_true_eq]
  by_cases own : m.2 = mem
  · rw [own, Group.arrived_reach]
    exact iff_of_true reached fun other => absurd rfl other
  · rw [show tget 0 (g.reach mem (g.done + 1)).arrived m.2 = tget 0 g.arrived m.2 from tget_tset_other 0 g.arrived _ own]
    exact ⟨fun later _ => later, fun later => later own⟩

/-! ### Completed episodes -/

theorem getCore_of_cores {s t : State} (h : t.cores = s.cores) (c : CoreId) : t.getCore c = s.getCore c := by
  rw [State.getCore, h, State.getCore]

/-- A group with another number of episodes done. -/
def Group.complete (ep : Nat) (g : Group) : Group := { g with done := ep }

theorem cores_completeEpisodes (gid n : Nat) (s : State) : (completeEpisodes gid n s).cores = s.cores := by
  induction n generalizing s with
  | zero => rfl
  | succ n ih =>
    unfold completeEpisodes
    split
    · rfl
    · dsimp only
      split
      · exact ih _
      · rfl

theorem getCore_completeEpisodes (gid n : Nat) (s : State) (c : CoreId) : (completeEpisodes gid n s).getCore c = s.getCore c :=
  getCore_of_cores (cores_completeEpisodes gid n s) c

/-- Packets on their way stay on their way. -/
theorem mem_net_completeEpisodes (gid n : Nat) {s : State} {r : Packet} (mem : r ∈ s.net) : r ∈ (completeEpisodes gid n s).net := by
  induction n generalizing s with
  | zero => exact mem
  | succ n ih =>
    unfold completeEpisodes
    split
    · exact mem
    · dsimp only
      split
      · exact ih (List.mem_append_left _ mem)
      · exact mem

/-- The top of a group's tree (R153). -/
def topOf (s : State) (g : Group) : CoreId := ((g.members.find? fun m => isTop s g m.2).map (·.2)).getD g.root

theorem topOf_spec (s : State) (g : Group) : isTop s g (topOf s g) = true ∨ topOf s g = g.root := by
  unfold topOf
  cases found : g.members.find? fun m => isTop s g m.2 with
  | none => exact .inr rfl
  | some m => exact .inl (List.find?_some found :)

/-- The next episode of a group has been completed and told at the top (R153). -/
def nextTold (s : State) (gid : Nat) (g : Group) : State :=
  newPacket (updGroup s gid (Group.complete (g.done + 1))) (topOf s g) (topOf s g) (rankOf s (topOf s g)) 0
    (.gbarDone gid (g.done + 1)) none

theorem findGroup_nextTold {s : State} {gid : Nat} {g : Group} (found : findGroup s gid = some g) :
    findGroup (nextTold s gid g) gid = some (g.complete (g.done + 1)) :=
  findGroup_updGroup found (Group.complete (g.done + 1)) fun _ => rfl

/-- Completed episodes raise the count of a group and keep what has arrived. -/
theorem completeEpisodes_found (gid n : Nat) {s : State} {g : Group} (found : findGroup s gid = some g) :
    ∃ g', findGroup (completeEpisodes gid n s) gid = some g' ∧ g.done ≤ g'.done ∧ g'.arrived = g.arrived := by
  induction n generalizing s g with
  | zero => exact ⟨g, found, le_rfl, rfl⟩
  | succ n ih =>
    unfold completeEpisodes
    rw [found]
    dsimp only
    split
    · obtain ⟨g', found', done, arrived⟩ := ih (findGroup_nextTold found)
      exact ⟨g', found', Nat.le_of_succ_le done, arrived⟩
    · exact ⟨g, found, le_rfl, rfl⟩

theorem completeEpisodes_incomplete {gid n : Nat} {s : State} {g : Group} (found : findGroup s gid = some g)
    (open' : ¬ g.episodeDone = true) : completeEpisodes gid n s = s := by
  cases n with
  | zero => rfl
  | succ n =>
    unfold completeEpisodes
    rw [found]
    exact if_neg open'

/-- The first episode that completes is told at the top. -/
theorem completeEpisodes_tells {gid n : Nat} {s : State} {g : Group} (found : findGroup s gid = some g)
    (complete : g.episodeDone = true) :
    (∃ g', findGroup (completeEpisodes gid (n + 1) s) gid = some g' ∧ g.done < g'.done ∧ g'.arrived = g.arrived) ∧
    ∃ r ∈ (completeEpisodes gid (n + 1) s).net, r.body = .gbarDone gid (g.done + 1) ∧ r.src = topOf s g ∧ r.dst = topOf s g := by
  have told : completeEpisodes gid (n + 1) s = completeEpisodes gid n (nextTold s gid g) := by
    rw [completeEpisodes, found]
    exact if_pos complete
  rw [told]
  refine ⟨completeEpisodes_found gid n (findGroup_nextTold found), _,
    mem_net_completeEpisodes gid n (List.mem_append_right _ (List.mem_singleton_self _)), rfl, rfl, rfl⟩

theorem le_foldl_max (l : List Nat) (m : Nat) : m ≤ l.foldl max m ∧ ∀ a ∈ l, a ≤ l.foldl max m := by
  induction l generalizing m with
  | nil => exact ⟨le_rfl, fun _ h => absurd h List.not_mem_nil⟩
  | cons b l ih =>
    obtain ⟨start, members⟩ := ih (max m b)
    refine ⟨(le_max_left m b).trans start, fun a h => ?_⟩
    obtain rfl | h := List.mem_cons.1 h
    · exact (le_max_right m a).trans start
    · exact members a h

/-- A group for which a core has arrived may complete an episode. -/
theorem maxEpisodes_pos {s : State} {gid : Nat} {g : Group} (found : findGroup s gid = some g) {a : CoreId × Nat}
    (mem : a ∈ g.arrived) (some' : 0 < a.2) : ∃ n, maxEpisodes s gid = n + 1 := by
  refine Nat.exists_eq_succ_of_ne_zero (Nat.ne_of_gt (Nat.lt_of_lt_of_le some' ?_))
  rw [maxEpisodes, found]
  exact (le_foldl_max _ 0).2 a.2 (List.mem_map_of_mem mem)

/-! ### `gbarArrival` -/

/-- A packet taken, and its arrival counted. -/
def countedArrival (s : State) (p : Packet) (gid : Nat) (mem : CoreId) (ep : Nat) : State :=
  updGroup (takePacket s p) gid (Group.reach mem ep)

theorem findGroup_countedArrival {s : State} {gid : Nat} {g : Group} (found : findGroup s gid = some g) (p : Packet) (mem : CoreId)
    (ep : Nat) : findGroup (countedArrival s p gid mem ep) gid = some (g.reach mem ep) :=
  findGroup_updGroup (s := takePacket s p) found (Group.reach mem ep) fun _ => rfl

section GbarArrival

variable {s : State} {pkt gid ep : Nat} {p : Packet} {g : Group} {mem : CoreId} (due : duePacket s pkt = some p)
  (full : (s.getCore p.dst).ovfFull = false) (input : (s.getCore p.dst).input = []) (body : p.body = .gbarArrive gid ep mem)
  (live : (s.getCore p.dst).fenced = false) (found : findGroup s gid = some g)

include due full input body live found

theorem gbarArrival_below (below : isTop s g p.dst = false) :
    exec (.gbarArrival pkt) s = .next (sendArrival (takePacket s p) g p.dst ep mem) := by
  have found' : findGroup (takePacket s p) gid = some g := found
  have below' : isTop (takePacket s p) g p.dst = false := below
  change execGbarArrival pkt s = _
  unfold execGbarArrival
  rw [due]
  refine congrArg _ (onArrival_clear full ?_ input)
  simp only [body, live, found', below', Bool.false_eq_true, if_false]

theorem gbarArrival_top (top : isTop s g p.dst = true) : exec (.gbarArrival pkt) s =
    .next (completeEpisodes gid (maxEpisodes (countedArrival s p gid mem ep) gid) (countedArrival s p gid mem ep)) := by
  have found' : findGroup (takePacket s p) gid = some g := found
  have top' : isTop (takePacket s p) g p.dst = true := top
  change execGbarArrival pkt s = _
  unfold execGbarArrival
  rw [due]
  refine congrArg _ (onArrival_clear full ?_ ?_)
  · simp only [body, live, found', top', Bool.false_eq_true, if_false, if_true]
    rfl
  · rw [getCore_completeEpisodes]
    exact input

theorem gbarArrival_completes (top : isTop s g p.dst = true) (next : ep = g.done + 1)
    (arrived : ∀ m ∈ g.active, m.2 ≠ mem → g.done < tget 0 g.arrived m.2) : ∃ t : State, exec (.gbarArrival pkt) s = .next t ∧
      (∃ g', findGroup t gid = some g' ∧ g.done < g'.done ∧ tget 0 g'.arrived mem = max ep (tget 0 g.arrived mem)) ∧
      ∃ r ∈ t.net, r.body = .gbarDone gid ep ∧ r.src = r.dst ∧ (isTop s g r.dst = true ∨ r.dst = g.root) := by
  subst next
  have counted := findGroup_countedArrival found p mem (g.done + 1)
  obtain ⟨n, fuel⟩ := maxEpisodes_pos counted (mem_tset ..) (Nat.lt_of_lt_of_le (Nat.succ_pos g.done) (le_max_left ..))
  obtain ⟨⟨g', found', done, same⟩, r, sent, rbody, src, dst⟩ :=
    completeEpisodes_tells (n := n) counted ((Group.episodeDone_reach mem g).2 arrived)
  refine ⟨_, gbarArrival_top due full input body live found top, ?_⟩
  rw [fuel]
  refine ⟨⟨g', found', done, ?_⟩, r, sent, rbody, src.trans dst.symm, ?_⟩
  · rw [same, Group.arrived_reach]
  · rw [dst]
    exact topOf_spec (countedArrival s p gid mem (g.done + 1)) (g.reach mem (g.done + 1))

theorem gbarArrival_waits (top : isTop s g p.dst = true) (next : ep = g.done + 1)
    (missing : ∃ m ∈ g.active, m.2 ≠ mem ∧ tget 0 g.arrived m.2 ≤ g.done) : ∃ t : State, exec (.gbarArrival pkt) s = .next t ∧
      ∃ g', findGroup t gid = some g' ∧ g'.done = g.done ∧ tget 0 g'.arrived mem = max ep (tget 0 g.arrived mem) := by
  subst next
  obtain ⟨m, active, other, late⟩ := missing
  have counted := findGroup_countedArrival found p mem (g.done + 1)
  refine ⟨_, gbarArrival_top due full input body live found top, g.reach mem (g.done + 1), ?_, rfl, Group.arrived_reach ..⟩
  rw [completeEpisodes_incomplete counted fun complete =>
    Nat.not_lt.2 late ((Group.episodeDone_reach mem g).1 complete m active other)]
  exact counted

end GbarArrival

/-! ### Packets to the children -/

/-- The same word goes from a core to each of some members. -/
def tellAll (src : CoreId) (tc : Nat) (body : Body) (l : List (BitVec 16 × CoreId)) (s : State) : State :=
  l.foldl (fun s m => newPacket s src m.2 m.1 tc body none) s

theorem cores_tellAll (src : CoreId) (tc : Nat) (body : Body) (l : List (BitVec 16 × CoreId)) (s : State) :
    (tellAll src tc body l s).cores = s.cores :=
  foldl_keeps State.cores (fun s (m : BitVec 16 × CoreId) => newPacket s src m.2 m.1 tc body none) (fun _ _ => rfl) l s

theorem getCore_tellAll (src : CoreId) (tc : Nat) (body : Body) (l : List (BitVec 16 × CoreId)) (s : State) (c : CoreId) :
    (tellAll src tc body l s).getCore c = s.getCore c := getCore_of_cores (cores_tellAll src tc body l s) c

theorem mem_net_tellAll (src : CoreId) (tc : Nat) (body : Body) (l : List (BitVec 16 × CoreId)) {s : State} {r : Packet}
    (mem : r ∈ s.net) : r ∈ (tellAll src tc body l s).net := by
  induction l generalizing s with
  | nil => exact mem
  | cons m l ih => exact ih (s := newPacket s src m.2 m.1 tc body none) (List.mem_append_left _ mem)

theorem tellAll_tells (src : CoreId) (tc : Nat) (body : Body) (l : List (BitVec 16 × CoreId)) (s : State) :
    ∀ m ∈ l, ∃ r ∈ (tellAll src tc body l s).net, r.dst = m.2 ∧ r.body = body := by
  induction l generalizing s with
  | nil => exact fun m h => absurd h List.not_mem_nil
  | cons m' l ih =>
    intro m h
    obtain rfl | h := List.mem_cons.1 h
    · exact ⟨_, mem_net_tellAll src tc body l (s := newPacket s src m.2 m.1 tc body none)
        (List.mem_append_right _ (List.mem_singleton_self _)), rfl, rfl⟩
    · exact ih (newPacket s src m'.2 m'.1 tc body none) m h

/-! ### `gbarCompletion` -/

/-- The seat of a core that waits for an episode, and the number of its operation. -/
def barrierAt (s : State) (c : CoreId) (gid ep : Nat) : Option (Nat × Nat) :=
  (List.range 8).findSome? fun n => ((s.seatAt c n).outs.find? (·.what = .gbar gid ep)).map fun o => (n, o.id)

theorem barrierAt_below {s : State} {c : CoreId} {gid ep n id : Nat} (waits : barrierAt s c gid ep = some (n, id)) : n < 8 := by
  obtain ⟨m, below, here⟩ := List.exists_of_findSome?_eq_some waits
  obtain ⟨o, -, e⟩ := Option.map_eq_some_iff.1 here
  cases e
  exact List.mem_range.1 below

theorem barrierAt_congr {s t : State} (cores : t.cores = s.cores) (c : CoreId) (gid ep : Nat) :
    barrierAt t c gid ep = barrierAt s c gid ep := by
  simp only [barrierAt, State.seatAt, State.getCore, cores]

/-- A completed episode told to the children of a member (R153). -/
def toldEpisode (s : State) (p : Packet) (gid ep : Nat) : State :=
  tellAll p.dst 0 (.gbarDone gid ep) (childrenOf s p.dst gid) (takePacket s p)

theorem gbarCompletion_completes {s : State} {pkt gid ep n id : Nat} {p : Packet} (due : duePacket s pkt = some p)
    (full : (s.getCore p.dst).ovfFull = false) (input : (s.getCore p.dst).input = []) (body : p.body = .gbarDone gid ep)
    (waits : barrierAt s p.dst gid ep = some (n, id)) :
    ∃ t : State, exec (.gbarCompletion pkt) s = .next t ∧ (∀ o ∈ (t.seatAt p.dst n).outs, o.id ≠ id) ∧
      ∀ m ∈ childrenOf s p.dst gid, ∃ r ∈ t.net, r.dst = m.2 ∧ r.body = .gbarDone gid ep := by
  have waits' : barrierAt (toldEpisode s p gid ep) p.dst gid ep = some (n, id) :=
    (barrierAt_congr (cores_tellAll ..) p.dst gid ep).trans waits
  obtain ⟨machine, -, outs⟩ := lower_keeps (acquireInv (toldEpisode s p gid ep) p.dst) p.dst id (barrierAt_below waits)
  have clear : (((acquireInv (toldEpisode s p gid ep) p.dst).getCore p.dst).input) = [] := by
    rw [acquireInv, State.getCore_updCore]
    exact (congrArg Core.input (getCore_tellAll ..)).trans input
  refine ⟨lower (acquireInv (toldEpisode s p gid ep) p.dst) p.dst n id, ?_, fun o mem => ?_, fun m mem => ?_⟩
  · change execGbarCompletion pkt s = _
    unfold execGbarCompletion
    rw [due]
    refine congrArg _ (onArrival_clear full ?_ ((core_eq_of_machine machine Core.input (fun _ => rfl) p.dst).trans clear))
    simp only [body]
    change (match barrierAt (toldEpisode s p gid ep) p.dst gid ep with
      | some (n, id) => lower (acquireInv (toldEpisode s p gid ep) p.dst) p.dst n id
      | none => toldEpisode s p gid ep) = _
    rw [waits']
  · rw [outs] at mem
    simpa using (List.mem_filter.1 mem).2
  · rw [eq_of_machine machine State.net fun _ => rfl]
    exact tellAll_tells p.dst 0 (.gbarDone gid ep) _ (takePacket s p) m mem

end Sys2Proof.Machine
end

section
/-! Contributions, partials, deliveries and leaves at a combining router (R314 to R316, R320, R352). -/

namespace Sys2Proof.Machine

/-- The slot of a key among those of a router. -/
def slotAt (l : List CombineSlot) (key : BitVec 32) : Option CombineSlot := l.find? (dKey ·.desc = key)

theorem key_of_slotAt {l : List CombineSlot} {key : BitVec 32} {t : CombineSlot} (found : slotAt l key = some t) :
    dKey t.desc = key := by
  simpa using List.find?_some found

theorem slotAt_map {l : List CombineSlot} {key : BitVec 32} {f : CombineSlot → CombineSlot}
    (keeps : ∀ t, dKey (f t).desc = dKey t.desc) : slotAt (l.map f) key = (slotAt l key).map f := by
  rw [slotAt, List.find?_map]
  simp only [Function.comp_def, keeps]
  rfl

theorem slotAt_new {l : List CombineSlot} {t : CombineSlot} (absent : slotAt l (dKey t.desc) = none) :
    slotAt (l ++ [t]) (dKey t.desc) = some t := by
  rw [slotAt, List.find?_append, show l.find? _ = none from absent]
  simp

theorem slotAt_freed {l : List CombineSlot} {key other : BitVec 32} (differ : other ≠ key) :
    slotAt (l.filter (dKey ·.desc != key)) other = slotAt l other := by
  rw [slotAt, List.find?_filter]
  refine congrArg (l.find? ·) (funext fun t => ?_)
  by_cases own : dKey t.desc = other
  · simp [own, differ]
  · simp [own]

theorem checkSlot_open {s : State} {c : CoreId} {key : BitVec 32} {t : CombineSlot} (found : slotAt (s.getCore c).combine key = some t)
    (open' : t.resolved = false) : checkSlot s c key = s := by
  unfold checkSlot
  rw [show (s.getCore c).combine.find? _ = some t from found]
  exact if_neg (by simp [open'])

theorem checkSlot_resolved {s : State} {c : CoreId} {key : BitVec 32} {t : CombineSlot}
    (found : slotAt (s.getCore c).combine key = some t) (resolved : t.resolved = true) : checkSlot s c key = resolveSlot s c t := by
  unfold checkSlot
  rw [show (s.getCore c).combine.find? _ = some t from found]
  exact if_pos resolved

/-- A slot that still waits stays when the slot of some key is looked at. -/
theorem slotAt_checkSlot {s : State} {c : CoreId} {key : BitVec 32} {t : CombineSlot}
    (found : slotAt (s.getCore c).combine key = some t) (open' : t.resolved = false) (other : BitVec 32) :
    slotAt ((checkSlot s c other).getCore c).combine key = some t := by
  by_cases own : other = key
  · rw [own, checkSlot_open found open', found]
  cases there : slotAt (s.getCore c).combine other with
  | none =>
    rw [checkSlot, show (s.getCore c).combine.find? _ = none from there]
    exact found
  | some u =>
    cases resolved : u.resolved with
    | false => rw [checkSlot_open there resolved, found]
    | true =>
      rw [checkSlot_resolved there resolved, combine_of_unsent (unsent_resolveSlot ..), State.getCore_updCore, freeSlot,
        key_of_slotAt there, slotAt_freed (Ne.symm own), found]

theorem slotAt_foldl_checkSlot {c : CoreId} {key : BitVec 32} {t : CombineSlot} (open' : t.resolved = false) (keys : List (BitVec 32))
    {s : State} (found : slotAt (s.getCore c).combine key = some t) :
    slotAt ((keys.foldl (fun s key => checkSlot s c key) s).getCore c).combine key = some t := by
  induction keys generalizing s with
  | nil => exact found
  | cons other keys ih => exact ih (slotAt_checkSlot found open' other)

/-! ### Contributions (R315, R316) -/

theorem id_of_findQ6 {s : State} {pkt : Nat} {c : CoreId} {q : Contribution} (head : findQ6 s pkt = some (c, q)) : q.id = pkt := by
  obtain ⟨⟨d, _⟩, -, here⟩ := List.exists_of_findSome?_eq_some head
  dsimp only at here
  split at here
  · obtain ⟨same, e⟩ := Option.ite_none_right_eq_some.1 here
    cases e
    exact same
  · cases here

/-- A router that has not exited a group owes its parent no leave of it. -/
theorem exitRouter_member {s : State} {c : CoreId} {gid : Nat} (member : hasExited s c gid = false) : exitRouter s c gid = s :=
  if_neg (by rw [routerExited, member]; exact Bool.false_ne_true)

/-- The slot that the local contribution opens at a router without one of its key (R316). -/
def openedSlot (k : Core) (d : Word) (data : BitVec 4096) (e : Word) : CombineSlot :=
  ⟨d, data, true, [], treeChildren e - (leftOf k (dGroup d)).length, e⟩

/-- A core whose q6 gives up a contribution, for which a slot opens. -/
def Core.opened (k : Core) (q : Contribution) (e : Word) : Core :=
  { k with q6 := k.q6.filter (·.id != q.id), combine := k.combine ++ [openedSlot k q.desc q.data e] }

section Local

variable {s : State} {pkt : Nat} {c d' : CoreId} {q : Contribution} {e : Word} (head : findQ6 s pkt = some (c, q))
  (live : (s.getCore c).fenced = false) (member : hasExited s c (dGroup q.desc) = false)
  (absent : slotAt (s.getCore c).combine (dKey q.desc) = none) (tree : treeOf (s.getCore c) (dGroup q.desc) = some e)
  (room : (s.getCore c).combine.length < 8)

include absent tree room

/-- The local contribution opens its slot, which may be resolved at once. -/
theorem localArrival_opens :
    localArrival s c q = some (checkSlot (s.setCore c ((s.getCore c).opened q e)) c (dKey q.desc)) := by
  have alone : ((s.getCore c).combine.any fun t => decide (dKey t.desc = dKey q.desc) && t.localIn) = false := by
    rw [List.any_eq_false]
    intro t mem both
    exact List.find?_eq_none.1 absent t mem (Bool.and_eq_true_iff.1 both).1
  unfold localArrival
  dsimp only
  rw [alone, if_neg Bool.false_ne_true, routerArrival]
  simp only [State.getCore_setCore]
  rw [show (s.getCore c).combine.find? _ = none from absent]
  dsimp only
  rw [show treeOf { s.getCore c with q6 := (s.getCore c).q6.filter (·.id != q.id) } (dGroup q.desc) = some e from tree]
  dsimp only
  rw [if_neg (Nat.not_le.2 room)]
  rw [State.setCore_setCore]
  rfl

include head live member

/-- With children to wait for, the slot stays open (R316). -/
theorem combineArrival_opens (awaited : (leftOf (s.getCore c) (dGroup q.desc)).length < treeChildren e) :
    exec (.combineArrival pkt) s = .next (s.setCore c ((s.getCore c).opened q e)) := by
  have found : slotAt (((s.setCore c ((s.getCore c).opened q e)).getCore c).combine) (dKey q.desc) =
      some (openedSlot (s.getCore c) q.desc q.data e) := by
    rw [State.getCore_setCore]
    exact slotAt_new (t := openedSlot (s.getCore c) q.desc q.data e) absent
  have open' : (openedSlot (s.getCore c) q.desc q.data e).resolved = false :=
    decide_eq_false (Nat.not_le.2 (Nat.sub_pos_of_lt awaited))
  change execCombineArrival pkt s = _
  unfold execCombineArrival
  rw [head]
  dsimp only
  rw [live, if_neg Bool.false_ne_true, localArrival_opens absent tree room, checkSlot_open found open']
  exact congrArg _ (exitRouter_member member)

/-- With no child to wait for, a leaf of the tree sends its contribution to its parent in class 3 (R316). -/
theorem combineArrival_forwards (alone : treeChildren e ≤ (leftOf (s.getCore c) (dGroup q.desc)).length)
    (below : treeRoot e = false) (parent : resolve s c (treeParent e) = .core d') : exec (.combineArrival pkt) s =
      .next (newPacket ((s.setCore c ((s.getCore c).opened q e)).updCore c fun k => freeSlot k (dKey q.desc)) c d' (treeParent e) 3
        (.combine q.desc q.data) none) := by
  have found : slotAt (((s.setCore c ((s.getCore c).opened q e)).getCore c).combine) (dKey q.desc) =
      some (openedSlot (s.getCore c) q.desc q.data e) := by
    rw [State.getCore_setCore]
    exact slotAt_new (t := openedSlot (s.getCore c) q.desc q.data e) absent
  have resolved : (openedSlot (s.getCore c) q.desc q.data e).resolved = true :=
    decide_eq_true (Nat.le_of_eq (Nat.sub_eq_zero_of_le alone))
  have forwards : resolveSlot (s.setCore c ((s.getCore c).opened q e)) c (openedSlot (s.getCore c) q.desc q.data e) =
      emit ((s.setCore c ((s.getCore c).opened q e)).updCore c fun k => freeSlot k (dKey q.desc)) c (treeParent e) 3
        (.combine q.desc q.data) := if_pos (congrArg (!·) below)
  have upward : resolve ((s.setCore c ((s.getCore c).opened q e)).updCore c fun k => freeSlot k (dKey q.desc)) c (treeParent e) =
      .core d' := parent
  change execCombineArrival pkt s = _
  unfold execCombineArrival
  rw [head]
  dsimp only
  rw [live, if_neg Bool.false_ne_true, localArrival_opens absent tree room, checkSlot_resolved found resolved, forwards,
    emit_core upward]
  exact congrArg _ (exitRouter_member member)

end Local

theorem q6_opened (s : State) (c : CoreId) (q : Contribution) (e : Word) :
    ((s.setCore c ((s.getCore c).opened q e)).getCore c).q6 = (s.getCore c).q6.filter (·.id != q.id) := by
  rw [State.getCore_setCore]
  rfl

/-- An opened slot is freed again: the contribution has left q6 all the same. -/
theorem q6_freed (s : State) (c : CoreId) (q : Contribution) (e : Word) :
    (((s.setCore c ((s.getCore c).opened q e)).updCore c fun k => freeSlot k (dKey q.desc)).getCore c).q6 =
      (s.getCore c).q6.filter (·.id != q.id) := by
  rw [State.getCore_updCore]
  exact q6_opened s c q e

/-! ### Partials of children (R316) -/

/-- A slot with the partial of one child more. -/
def CombineSlot.join (child : CoreId) (d : Word) (data : BitVec 4096) (t : CombineSlot) : CombineSlot :=
  { t with data := combineData (dFn d) t.data data, children := (t.children ++ [child]).eraseDups }

theorem slotAt_setSlot {k : Core} {key : BitVec 32} {t : CombineSlot} (found : (slotAt k.combine key).isSome = true)
    (own : dKey t.desc = key) : slotAt (setSlot k t).combine key = some t := by
  obtain ⟨u, found⟩ := Option.isSome_iff_exists.1 found
  have keeps (v : CombineSlot) : dKey (if dKey v.desc = dKey t.desc then t else v).desc = dKey v.desc := by
    split
    · exact Eq.symm ‹_›
    · rfl
  refine (slotAt_map keeps).trans ?_
  rw [found, Option.map_some, if_pos ((key_of_slotAt found).trans own.symm)]

section Remote

variable {s : State} {pkt : Nat} {p : Packet} {d : Word} {data : BitVec 4096} {slot : CombineSlot}

/-- A partial of a child is combined into the open slot of its key (R316). -/
theorem combineArrival_combines (none' : findQ6 s pkt = none) (due : duePacket s pkt = some p) (body : p.body = .combine d data)
    (live : (s.getCore p.dst).fenced = false) (found : slotAt (s.getCore p.dst).combine (dKey d) = some slot)
    (fn : dFn slot.desc = dFn d) (deliver : dDeliver slot.desc = dDeliver d)
    (waits : slot.localIn = false ∨ (slot.children ++ [p.src]).eraseDups.length < slot.await) :
    ∃ t : State, exec (.combineArrival pkt) s = .next t ∧
      slotAt (t.getCore p.dst).combine (dKey d) = some (slot.join p.src d data) := by
  have open' : (slot.join p.src d data).resolved = false :=
    Bool.and_eq_false_iff.2 (waits.imp id fun few => decide_eq_false (Nat.not_le.2 few))
  have stored : slotAt (((takePacket s p).setCore p.dst (setSlot (s.getCore p.dst) (slot.join p.src d data))).getCore p.dst).combine
      (dKey d) = some (slot.join p.src d data) := by
    rw [State.getCore_setCore]
    exact slotAt_setSlot (by rw [found]; rfl) (key_of_slotAt found : dKey slot.desc = dKey d)
  have joined : ({ slot with
      data := combineData (dFn d) slot.data data, localIn := slot.localIn || (some p.src).isNone,
      children := (slot.children ++ (some p.src).toList).eraseDups } : CombineSlot) = slot.join p.src d data := by
    simp only [CombineSlot.join, Option.isNone_some, Bool.or_false, Option.toList_some]
  refine ⟨(takePacket s p).setCore p.dst (setSlot (s.getCore p.dst) (slot.join p.src d data)), ?_, stored⟩
  change execCombineArrival pkt s = _
  unfold execCombineArrival
  rw [none', due]
  simp only [body, live, Bool.false_eq_true, if_false, routerArrival, getCore_takePacket]
  rw [show (s.getCore p.dst).combine.find? _ = some slot from found]
  dsimp only
  rw [if_neg (by simp [fn, deliver]), joined, checkSlot_open stored open']
  rfl

/-! ### Deliveries (R316, R352) -/

theorem childrenOf_congr {s t : State} (groups : t.groups = s.groups) (ranks : ∀ c, (t.getCore c).rank = (s.getCore c).rank)
    (trees : ∀ c, (t.getCore c).trees = (s.getCore c).trees) (c : CoreId) (gid : Nat) : childrenOf t c gid = childrenOf s c gid := by
  simp only [childrenOf, rankOf, findGroup, treeOf, groups, ranks, trees]

/-- A core with one result more in q7. -/
def Core.delivered (d : Word) (data : BitVec 4096) (k : Core) : Core :=
  Core.news { k with q7 := k.q7 ++ [⟨vecWords data 64, redTag (dFn d), dKey d, true, 0⟩] }

theorem childrenOf_delivered (s : State) (p : Packet) (d : Word) (data : BitVec 4096) (c : CoreId) (gid : Nat) :
    childrenOf ((takePacket s p).setCore p.dst ((s.getCore p.dst).delivered d data)) c gid = childrenOf s c gid := by
  have keeps {α : Type} (f : Core → α) (same : f ((s.getCore p.dst).delivered d data) = f (s.getCore p.dst)) (e : CoreId) :
      f (((takePacket s p).setCore p.dst ((s.getCore p.dst).delivered d data)).getCore e) = f (s.getCore e) := by
    by_cases own : e = p.dst
    · rw [own, State.getCore_setCore, same]
    · rw [State.getCore_setCore_other _ _ own, getCore_takePacket]
  exact childrenOf_congr (s := s) (t := (takePacket s p).setCore p.dst ((s.getCore p.dst).delivered d data)) rfl
    (keeps Core.rank rfl) (keeps Core.trees rfl) c gid

/-- A delivery enters q7 and goes on to the children. -/
theorem combineDelivery_delivers (due : duePacket s pkt = some p) (body : p.body = .deliver d data)
    (live : (s.getCore p.dst).fenced = false) (member : (activeGroup s p.dst (dGroup d)).isSome = true)
    (room : q7Words (s.getCore p.dst) ≤ 64) : ∃ t : State, exec (.combineDelivery pkt) s = .next t ∧
      (t.getCore p.dst).q7 = (s.getCore p.dst).q7 ++ [⟨vecWords data 64, redTag (dFn d), dKey d, true, 0⟩] ∧
      ∀ m ∈ childrenOf s p.dst (dGroup d), ∃ r ∈ t.net, r.dst = m.2 ∧ r.body = .deliver d data := by
  refine ⟨tellAll p.dst 3 (.deliver d data) (childrenOf s p.dst (dGroup d))
    ((takePacket s p).setCore p.dst ((s.getCore p.dst).delivered d data)), ?_, ?_, tellAll_tells p.dst 3 _ _ _⟩
  · have enters : ((s.getCore p.dst).fenced || ((activeGroup s p.dst (dGroup d)).isSome && decide (64 < q7Words (s.getCore p.dst)))) =
        false := by
      rw [live, decide_eq_false (Nat.not_lt.2 room), Bool.and_false, Bool.or_false]
    change execCombineDelivery pkt s = _
    unfold execCombineDelivery
    rw [due]
    dsimp only
    rw [body]
    dsimp only
    rw [enters, if_neg Bool.false_ne_true, if_pos member]
    change Host.Outcome.next (tellAll p.dst 3 (.deliver d data) (childrenOf ((takePacket s p).setCore p.dst
      ((s.getCore p.dst).delivered d data)) p.dst (dGroup d)) _) = _
    rw [childrenOf_delivered]
    rfl
  · rw [getCore_tellAll, State.getCore_setCore]
    rfl

/-! ### Leaves (R320) -/

/-- A slot of a group that a child leaves awaits one child fewer, unless the child has sent its partial. -/
def CombineSlot.leave (child : CoreId) (gid : Nat) (t : CombineSlot) : CombineSlot :=
  if dGroup t.desc = gid && !t.children.contains child then { t with await := t.await - 1 } else t

/-- A router whose child has left a group. -/
def Core.leave (child : CoreId) (gid : Nat) (k : Core) : Core :=
  { k with combine := k.combine.map (CombineSlot.leave child gid), left := tset k.left gid (child :: leftOf k gid) }

/-- What a leave does at its router: every open slot of the group is looked at, and the leave may go on upward. -/
def leftState (s : State) (p : Packet) (gid : Nat) : State :=
  sendLeave ((((s.getCore p.dst).combine.filter fun t => dGroup t.desc = gid).map (dKey ·.desc)).foldl
    (fun s key => checkSlot s p.dst key) ((takePacket s p).updCore p.dst (Core.leave p.src gid))) p.dst gid

variable {gid : Nat} {key : BitVec 32}

theorem combineLeave_leaves (due : duePacket s pkt = some p) (body : p.body = .leave gid)
    (live : (s.getCore p.dst).fenced = false) : exec (.combineLeave pkt) s = .next (leftState s p gid) := by
  change execCombineLeave pkt s = _
  unfold execCombineLeave
  rw [due]
  simp only [body, live, Bool.false_eq_true, if_false]
  rfl

theorem leftOf_leftState (s : State) (p : Packet) (gid : Nat) :
    leftOf ((leftState s p gid).getCore p.dst) gid = p.src :: leftOf (s.getCore p.dst) gid := by
  have same : (leftState s p gid).unrouted = ((takePacket s p).updCore p.dst (Core.leave p.src gid)).unrouted :=
    (unrouted_of_unsent (unsent_sendLeave ..)).trans
      (foldl_keeps State.unrouted _ (fun s key => unrouted_checkSlot s p.dst key) _ _)
  rw [leftOf, core_eq_of_unrouted same Core.left fun _ => rfl, State.getCore_updCore]
  exact tget_tset_same ..

theorem slotAt_leftState (found : slotAt (s.getCore p.dst).combine key = some slot) (group : dGroup slot.desc = gid)
    (unsent : slot.children.contains p.src = false) (waits : slot.localIn = false ∨ slot.children.length < slot.await - 1) :
    slotAt ((leftState s p gid).getCore p.dst).combine key = some { slot with await := slot.await - 1 } := by
  have open' : ({ slot with await := slot.await - 1 } : CombineSlot).resolved = false :=
    Bool.and_eq_false_iff.2 (waits.imp id fun few => decide_eq_false (Nat.not_le.2 few))
  have keeps (t : CombineSlot) : dKey (t.leave p.src gid).desc = dKey t.desc := by
    unfold CombineSlot.leave
    split <;> rfl
  have fewer : slot.leave p.src gid = { slot with await := slot.await - 1 } := if_pos (by rw [group, unsent]; simp)
  rw [leftState, combine_of_unsent (unsent_sendLeave ..)]
  refine slotAt_foldl_checkSlot open' _ ?_
  rw [State.getCore_updCore]
  refine (slotAt_map keeps).trans ?_
  rw [getCore_takePacket, found, Option.map_some, fewer]

end Remote

/-- Settles O34: the events of barriers and combines one by one. -/
theorem groupAndCombineEvents : Obligations.GroupAndCombineEvents := by
  unfold Obligations.GroupAndCombineEvents
  intro s pkt gid ep n id p g mem c d' q e d data slot key
  refine ⟨fun due clear body live found => ?arrival, fun due clear body waits => ?completion,
    fun head live member absent tree room => ?contribution, combineArrival_combines, combineDelivery_delivers,
    fun due body live => ?left⟩
  case arrival =>
    obtain ⟨full, input⟩ := clear
    exact ⟨gbarArrival_below due full input body live found, gbarArrival_completes due full input body live found,
      gbarArrival_waits due full input body live found⟩
  case completion =>
    obtain ⟨full, input⟩ := clear
    exact gbarCompletion_completes due full input body waits
  case contribution =>
    have pkt' := id_of_findQ6 head
    subst pkt'
    refine ⟨fun awaited => ⟨_, combineArrival_opens head live member absent tree room awaited, ?_, q6_opened s c q e⟩,
      fun alone below parent => ⟨_, combineArrival_forwards head live member absent tree room alone below parent, q6_freed s c q e,
        _, List.mem_append_right _ (List.mem_singleton_self _), rfl, rfl, rfl⟩⟩
    rw [State.getCore_setCore]
    rfl
  case left =>
    exact ⟨_, combineLeave_leaves due body live, leftOf_leftState s p gid, fun found group unsent waits _ =>
      slotAt_leftState found group unsent waits⟩

end Sys2Proof.Machine
end

section
/-! What happens at the points of order (R150, R161, R180 to R182, R350, R364, R378, R384). -/

namespace Sys2Proof.Machine

/-! ### Pieces by number -/

theorem findPiece_of_found {s : State} {req i : Nat} {r : Req} {p : Piece} (found : findReq s req = some r) (inside : r.pieces[i]? = some p) :
    findPiece s req i = some (r, p) := by
  simp only [findPiece, found, inside, Option.map_some]

theorem findPiece_of_reqs {s t : State} (same : t.reqs = s.reqs) (req i : Nat) : findPiece t req i = findPiece s req i := by
  simp only [findPiece, findReq, same]

theorem findPiece_updPiece {s : State} {req i : Nat} {r : Req} {p : Piece} (found : findPiece s req i = some (r, p))
    (f : Piece → Piece) : findPiece (updPiece s req i f) req i = some ({ r with pieces := r.pieces.modify i f }, f p) := by
  obtain ⟨found, inside⟩ := findPiece_eq_some found
  refine findPiece_of_found (findReq_updPiece found f) ?_
  rw [List.getElem?_modify_eq, inside]
  rfl

/-- Piece `i` of a request stands in the state as `P` says. -/
def PieceIs (req i : Nat) (P : Piece → Prop) (t : State) : Prop := ∃ q e, findPiece t req i = some (q, e) ∧ P e

theorem PieceIs.of_reqs {req i : Nat} {P : Piece → Prop} {s t : State} (h : PieceIs req i P s) (same : t.reqs = s.reqs) :
    PieceIs req i P t := by
  obtain ⟨q, e, found, holds⟩ := h
  exact ⟨q, e, (findPiece_of_reqs same req i).trans found, holds⟩

theorem pieceIs_updPiece {req i : Nat} {P : Piece → Prop} {s : State} {f : Piece → Piece} (known : PieceIs req i (fun _ => True) s)
    (holds : ∀ p, P (f p)) : PieceIs req i P (updPiece s req i f) := by
  obtain ⟨r, p, found, -⟩ := known
  exact ⟨_, _, findPiece_updPiece found f, holds p⟩

/-- A piece that stands as said, as the statements write it. -/
theorem PieceIs.exists {req i : Nat} {P : Piece → Prop} {t : State} (h : PieceIs req i P t) :
    ∃ (q : Req) (e : Piece), findReq t req = some q ∧ q.pieces[i]? = some e ∧ P e := by
  obtain ⟨q, e, found, holds⟩ := h
  obtain ⟨found, inside⟩ := findPiece_eq_some found
  exact ⟨q, e, found, inside, holds⟩

/-! ### Arrival -/

/-- An arrival changes only the numbers that the homes expect, the network and the table of the requests. -/
theorem takeCopy_arrived_eq (s : State) (r : Req) (i : Nat) (p : Piece) :
    ∃ e n q, takeCopy (arrived s r p) r i p = { s with expects := e, net := n, reqs := q } := by
  unfold takeCopy arrived
  split <;> split <;> exact ⟨_, _, _, rfl⟩

theorem heldByMigration_taken (s : State) (r : Req) (i : Nat) (p q : Piece) :
    heldByMigration (takeCopy (arrived s r p) r i p) q = heldByMigration s q := by
  obtain ⟨e, n, l, same⟩ := takeCopy_arrived_eq s r i p
  rw [same]
  rfl

theorem fencedPlace_taken (s : State) (r : Req) (i : Nat) (p : Piece) (d : Place) :
    fencedPlace (takeCopy (arrived s r p) r i p) d = fencedPlace s d := by
  obtain ⟨e, m, l, same⟩ := takeCopy_arrived_eq s r i p
  rw [same]
  rfl

theorem poisoned_taken (s : State) (r : Req) (i : Nat) (p : Piece) (d : Place) (n : Nat) :
    poisoned (takeCopy (arrived s r p) r i p) d n = poisoned s d n := by
  obtain ⟨e, m, l, same⟩ := takeCopy_arrived_eq s r i p
  rw [same]
  rfl

theorem refused_taken (s : State) (r : Req) (i : Nat) (p : Piece) (q : Req) (d : Piece) :
    refused (takeCopy (arrived s r p) r i p) q d = refused s q d := by
  obtain ⟨e, m, l, same⟩ := takeCopy_arrived_eq s r i p
  rw [same]
  rfl

theorem contents_taken (s : State) (r : Req) (i : Nat) (p : Piece) : (takeCopy (arrived s r p) r i p).contents = s.contents :=
  (contents_takeCopy ..).trans (contents_arrived ..)

theorem known_taken {s : State} {req i : Nat} {r : Req} {p : Piece} (found : findPiece s req i = some (r, p)) :
    PieceIs req i (fun _ => True) (takeCopy (arrived s r p) r i p) := by
  obtain ⟨found, inside⟩ := findPiece_eq_some found
  obtain ⟨r', found', length⟩ := findReq_of_shape (shape_takeCopy_arrived s r i p) found
  have below : i < r'.pieces.length := length ▸ (List.getElem?_eq_some_iff.1 inside).1
  exact ⟨r', r'.pieces[i], findPiece_of_found found' (List.getElem?_eq_getElem below), trivial⟩

/-- An answer that leaves changes only the network. -/
theorem sendAnswer_eq (s : State) (req i : Nat) : ∃ n f, sendAnswer s req i = { s with net := n, fresh := f } := by
  unfold sendAnswer answerPiece
  split
  · exact ⟨_, _, rfl⟩
  · split
    · exact ⟨_, _, rfl⟩
    · split <;> exact ⟨_, _, rfl⟩

theorem reqs_sendAnswer (s : State) (req i : Nat) : (sendAnswer s req i).reqs = s.reqs := by
  obtain ⟨n, f, same⟩ := sendAnswer_eq s req i
  rw [same]

theorem hbm_of_contents {s t : State} (same : t.contents = s.contents) : t.hbm = s.hbm := congrArg (fun k => k.2.1.1) same

theorem co_of_contents {s t : State} (same : t.contents = s.contents) : t.co = s.co := congrArg (fun k => k.2.1.2.1) same

theorem read_of_contents {s t : State} (same : t.contents = s.contents) (n : Nat) (d : Place) : d.read t n = d.read s n :=
  Place.read_of_bytes (congrArg (fun k => k.2.1) same) n d

theorem read_taken (s : State) (r : Req) (i : Nat) (p : Piece) (n : Nat) (d : Place) :
    d.read (takeCopy (arrived s r p) r i p) n = d.read s n :=
  read_of_contents (contents_taken s r i p) n d

/-- A piece that is next in its order, and whose page is not being moved, is performed and answered (R350, R366). -/
theorem atHome_performs {s : State} {req i : Nat} {r : Req} {p : Piece} {ok : Req → Piece → Bool}
    {f : State → Req → Nat → Piece → State} (found : findPiece s req i = some (r, p)) (next' : atOrder s r i p = true) (free : heldByMigration s p = false)
    (takes : ok r p = true) : atHome s req i ok f = sendAnswer (f (takeCopy (arrived s r p) r i p) r i p) req i := by
  unfold atHome
  rw [found]
  dsimp only
  rw [takes, next', heldByMigration_taken, free]
  rfl

/-! ### Places outside the L2 and HBM -/

theorem taken_of_sp {s : State} {r : Req} {i c off : Nat} {p : Piece} (place : p.dst = .sp c off) :
    takeCopy (arrived s r p) r i p = s := by
  have came : arrived s r p = s := if_neg (by rw [place]; exact Bool.false_ne_true)
  have copy : copyAt s r i p = none := by
    rw [copyAt, place]
    rfl
  rw [came, takeCopy, copy]

/-- The answer of a scratchpad is no packet. -/
theorem sendAnswer_of_sp {s : State} {req i c off : Nat} (place : PieceIs req i (fun p => p.dst = .sp c off) s) :
    sendAnswer s req i = s := by
  obtain ⟨r, p, found, place⟩ := place
  unfold sendAnswer
  rw [found]
  dsimp only
  rw [answerPiece, place]
  exact ite_self _

theorem place_of_isPeer {r : Req} {d : Place} (peer : isPeer r d = true) : ∃ c off, d = .sp c off := by
  cases d with
  | sp c off => exact ⟨c, off, rfl⟩
  | ws | co | hbm | walker => cases peer

/-! ### Writes -/

theorem pow_256 (n : Nat) : 256 ^ n = 2 ^ (8 * n) := by rw [Nat.pow_mul]

/-- The bytes that a masked write of a memory leaves at its place. -/
theorem getBytes_maskedBytes (m : Memory) (a n : Nat) (mask data : BitVec 64) : getBytes (maskedBytes m a n mask data) a n =
    ((BitVec.ofNat 64 (getBytes m a n) &&& ~~~mask) ||| (data &&& mask)).toNat % 2 ^ (8 * n) := by
  rw [maskedBytes, getBytes_setBytes_same, pow_256]

theorem read_write (s : State) (n : Nat) (mask data : BitVec 64) {d : Place} (noWs : ∀ g a, d ≠ .ws g a)
    (noWalker : ∀ q, d ≠ .walker q) :
    d.read (d.write s n mask data) n = ((BitVec.ofNat 64 (d.read s n) &&& ~~~mask) ||| (data &&& mask)).toNat % 2 ^ (8 * n) := by
  cases d with
  | sp c a =>
    simp only [Place.read, Place.write, State.getCore_updCore]
    exact getBytes_maskedBytes ..
  | ws g a => exact absurd rfl (noWs g a)
  | co q a =>
    simp only [Place.read, Place.write, tget_tset_same]
    exact getBytes_maskedBytes ..
  | hbm a msa => exact getBytes_maskedBytes ..
  | walker q => exact absurd rfl (noWalker q)

/-- A write under a mask of all its bits is the value written. -/
theorem merge_lowMask (x y : BitVec 64) {w : Nat} (le : w ≤ 64) :
    ((x &&& ~~~lowMask w) ||| (y &&& lowMask w)).toNat % 2 ^ w = y.toNat % 2 ^ w := by
  refine Nat.eq_of_testBit_eq fun j => ?_
  rw [Nat.testBit_mod_two_pow, Nat.testBit_mod_two_pow, BitVec.testBit_toNat, BitVec.testBit_toNat]
  by_cases low : j < w
  · have named : (lowMask w).getLsbD j = true := by
      rw [lowMask, BitVec.getLsbD_ofNat, Nat.testBit_two_pow_sub_one, decide_eq_true low, decide_eq_true (by omega)]
      rfl
    simp [named]
  · simp [low]

/-! ### Loads and stores -/

theorem reqs_fillL1 (s : State) (c : CoreId) (pa : Nat) : (fillL1 s c pa).reqs = s.reqs := by
  unfold fillL1
  dsimp only
  split <;> rfl

/-- Nothing of a place that does not read poison is poisoned. -/
theorem of_sound {s : State} {d : Place} {n : Nat} (sound : poisoned s d n = false) :
    fencedPlace s d = false ∧ (d.granules n).filter (d.poison s).contains = [] := by
  obtain ⟨reach, clean⟩ := Bool.or_eq_false_iff.1 sound
  refine ⟨reach, List.filter_eq_nil_iff.2 fun g mem => ?_⟩
  exact Bool.not_eq_true _ ▸ List.any_eq_false.1 clean g mem

section Performed

variable {u : State} {req i : Nat} {r : Req} {p : Piece} (known : PieceIs req i (fun _ => True) u) (id : r.id = req)

include known id

theorem performLoad_poisoned (bad : poisoned u p.dst p.len = true) : PieceIs req i (fun e => e.st = .poisoned) (performLoad u r i p) := by
  subst id
  rw [performLoad, if_pos bad]
  exact pieceIs_updPiece known fun _ => rfl

theorem performLoad_sound (sound : poisoned u p.dst p.len = false) :
    PieceIs req i (fun e => e.st = .performed ∧ e.data = BitVec.ofNat 64 (p.dst.read u p.len)) (performLoad u r i p) := by
  subst id
  have done : PieceIs r.id i (fun e => e.st = .performed ∧ e.data = BitVec.ofNat 64 (p.dst.read u p.len))
      (updPiece u r.id i fun e => { e with st := .performed, data := BitVec.ofNat 64 (p.dst.read u p.len) }) :=
    pieceIs_updPiece known fun _ => ⟨rfl, rfl⟩
  rw [performLoad, sound, if_neg Bool.false_ne_true]
  dsimp only
  split
  · split
    · exact done.of_reqs (reqs_fillL1 ..)
    · exact done
  · exact done

theorem performStore_fenced (fenced : fencedPlace u p.dst = true) :
    PieceIs req i (fun e => e.st = .rejected) (performStore u r i p) ∧ (performStore u r i p).contents = u.contents := by
  subst id
  unfold performStore
  dsimp only
  rw [fenced, Bool.true_or, if_pos rfl]
  exact ⟨pieceIs_updPiece known fun _ => rfl, rfl⟩


/-- A store to a sound place writes its bytes; what it does to owners and caches changes neither bytes nor requests. -/
theorem performStore_sound (sound : poisoned u p.dst p.len = false) :
    PieceIs req i (fun e => e.st = .performed) (performStore u r i p) ∧
      (performStore u r i p).contents = (p.dst.write u p.len p.mask p.data).contents := by
  subst id
  obtain ⟨reach, clean⟩ := of_sound sound
  have done : PieceIs r.id i (fun e => e.st = .performed)
      (updPiece (p.dst.write u p.len p.mask p.data) r.id i fun e => { e with st := .performed }) :=
    pieceIs_updPiece (known.of_reqs (reqs_write ..)) fun _ => rfl
  unfold performStore
  dsimp only
  rw [reach, clean, if_neg (by simp)]
  split
  · exact ⟨done.of_reqs ((reqs_changeWords ..).trans (reqs_drainL1 ..)), (contents_changeWords ..).trans (contents_drainL1 ..)⟩
  · exact ⟨done, rfl⟩

/-- An atomic at a sound place writes its new value and keeps the old one. -/
theorem performAmo_sound (op : AmoOp) (size : Nat) (b d : Word) (sound : poisoned u p.dst p.len = false) :
    PieceIs req i (fun e => e.st = .performed ∧ e.data = BitVec.ofNat 64 (p.dst.read u size)) (performAmo u r i p op size b d) ∧
      (performAmo u r i p op size b d).contents =
        (p.dst.write u size p.mask (BitVec.ofNat 64 (amoValue op (8 * size) (p.dst.read u size) b.toNat d.toNat))).contents := by
  subst id
  have done : PieceIs r.id i (fun e => e.st = .performed ∧ e.data = BitVec.ofNat 64 (p.dst.read u size)) (updPiece
      (p.dst.write u size p.mask (BitVec.ofNat 64 (amoValue op (8 * size) (p.dst.read u size) b.toNat d.toNat))) r.id i
      fun e => { e with st := .performed, data := BitVec.ofNat 64 (p.dst.read u size) }) :=
    pieceIs_updPiece (known.of_reqs (reqs_write ..)) fun _ => ⟨rfl, rfl⟩
  unfold performAmo
  dsimp only
  rw [sound, if_neg Bool.false_ne_true]
  split
  · exact ⟨done.of_reqs (reqs_changeWords ..), (contents_updCore _ r.core _ rfl rfl).trans (contents_changeWords ..)⟩
  · exact ⟨done, rfl⟩

end Performed

theorem mem_sdel {l : List Nat} {x y : Nat} : y ∈ sdel l x ↔ y ∈ l ∧ y ≠ x := by
  induction l with
  | nil => simp [sdel]
  | cons a l ih =>
    rw [sdel]
    split
    case isTrue own =>
      rw [ih, List.mem_cons]
      exact ⟨fun ⟨mem, ne⟩ => ⟨.inr mem, ne⟩, fun ⟨mem, ne⟩ => ⟨mem.resolve_left fun e => ne (e.trans own.symm), ne⟩⟩
    case isFalse other =>
      rw [List.mem_cons, List.mem_cons, ih, or_and_right]
      exact or_congr_left ⟨fun e => ⟨e, fun e' => other (e'.symm.trans e)⟩, And.left⟩

theorem contains_sdel_self (l : List Nat) (x : Nat) : (sdel l x).contains x = false := by
  simp [mem_sdel]

/-- A line written back is dirty no more. -/
theorem dirty_performWb (u : State) (r : Req) (i : Nat) {p : Piece} {pa : Nat} {m : Bool} (place : p.dst = .hbm pa m) :
    (performWb u r i p).dirty.contains (lineNo pa) = false := by
  unfold performWb
  rw [place]
  exact contains_sdel_self ..

/-! ### The events of plain pieces -/

/-- A plain load of a seat. -/
def ReqOp.PlainLoad (op : ReqOp) : Prop := op = .vload ∨ ∃ z g, op = .load z g

theorem not_store_of_plainLoad {op : ReqOp} (load : op.PlainLoad) : op ≠ .store := by
  obtain e | ⟨z, g, e⟩ := load <;> rw [e] <;> exact nofun

section AtOrder

variable {s : State} {req i : Nat} {r : Req} {p : Piece} (found : findPiece s req i = some (r, p)) (next' : atOrder s r i p = true)
  (free : heldByMigration s p = false)

/-- The bytes that a store leaves at its piece, as the bytes before it. -/
theorem stored_taken {t : State} (noWs : ∀ g a, p.dst ≠ .ws g a) (noWalker : ∀ q, p.dst ≠ .walker q)
    (same : t.contents = (p.dst.write (takeCopy (arrived s r p) r i p) p.len p.mask p.data).contents) :
    p.dst.read t p.len =
      ((BitVec.ofNat 64 (p.dst.read s p.len) &&& ~~~p.mask) ||| (p.data &&& p.mask)).toNat % 2 ^ (8 * p.len) := by
  rw [read_of_contents same, read_write _ _ _ _ noWs noWalker, read_taken]

theorem contents_answered_load (s : State) (req i : Nat) (r : Req) (p : Piece) :
    (sendAnswer (performLoad (takeCopy (arrived s r p) r i p) r i p) req i).contents = s.contents :=
  (contents_sendAnswer ..).trans ((contents_performLoad ..).trans (contents_taken ..))

include found

theorem id_of_findPiece : r.id = req := id_of_findReq (findPiece_eq_some found).1

/-- A load performed at a sound place, after the answer has left. -/
theorem loaded_of_performLoad (sound : poisoned s p.dst p.len = false) :
    PieceIs req i (fun e => e.st = .performed ∧ e.data = BitVec.ofNat 64 (p.dst.read s p.len))
      (sendAnswer (performLoad (takeCopy (arrived s r p) r i p) r i p) req i) := by
  have done := performLoad_sound (known_taken found) (id_of_findPiece found) ((poisoned_taken ..).trans sound)
  rw [read_taken] at done
  exact done.of_reqs (reqs_sendAnswer ..)

/-- A store performed at a sound place, after the answer has left. -/
theorem stored_of_performStore (sound : poisoned s p.dst p.len = false) (noWs : ∀ g a, p.dst ≠ .ws g a)
    (noWalker : ∀ q, p.dst ≠ .walker q) :
    PieceIs req i (fun e => e.st = .performed) (sendAnswer (performStore (takeCopy (arrived s r p) r i p) r i p) req i) ∧
      p.dst.read (sendAnswer (performStore (takeCopy (arrived s r p) r i p) r i p) req i) p.len =
        ((BitVec.ofNat 64 (p.dst.read s p.len) &&& ~~~p.mask) ||| (p.data &&& p.mask)).toNat % 2 ^ (8 * p.len) := by
  obtain ⟨done, bytes⟩ := performStore_sound (known_taken found) (id_of_findPiece found) ((poisoned_taken ..).trans sound)
  exact ⟨done.of_reqs (reqs_sendAnswer ..), stored_taken noWs noWalker ((contents_sendAnswer ..).trans bytes)⟩

include next' free

theorem loadAtHome_performs (load : r.op.PlainLoad) (away : isPeer r p.dst = false) (open' : servable s p.dst = true) :
    exec (.loadAtHome req i) s = .next (sendAnswer (performLoad (takeCopy (arrived s r p) r i p) r i p) req i) :=
  congrArg _ (atHome_performs found next' free (by obtain e | ⟨z, g, e⟩ := load <;> rw [e, away, open'] <;> rfl))

theorem storeAtHome_performs (store : r.op = .store) (away : isPeer r p.dst = false) (plain : isEngineFill r p.dst = false) :
    exec (.storeAtHome req i) s = .next (sendAnswer (performStore (takeCopy (arrived s r p) r i p) r i p) req i) := by
  refine congrArg _ ((atHome_performs found next' free ?_).trans ?_)
  · rw [store, away, plain]
    rfl
  · rw [if_neg (by rw [store]; exact nofun)]

theorem writeBackAtHome_performs (wb : r.op = .wb) :
    exec (.storeAtHome req i) s = .next (sendAnswer (performWb (takeCopy (arrived s r p) r i p) r i p) req i) := by
  refine congrArg _ ((atHome_performs found next' free ?_).trans ?_)
  · rw [wb]
    rfl
  · rw [if_pos wb]

theorem peerAccessArrival_performs (plain : r.op.PlainLoad ∨ r.op = .store) (peer : isPeer r p.dst = true) :
    exec (.peerAccessArrival req i) s = .next (sendAnswer (peerPlain (takeCopy (arrived s r p) r i p) r i p) req i) := by
  refine congrArg _ (atHome_performs found next' free ?_)
  rw [peer, Bool.and_true]
  obtain (e | ⟨z, g, e⟩) | e := plain <;> rw [e]

/-- A peer access without a live group in common is refused (R161). -/
theorem peerAccessArrival_refused (plain : r.op.PlainLoad ∨ r.op = .store) (peer : isPeer r p.dst = true) (refuses : refused s r p = true) :
    exec (.peerAccessArrival req i) s = .next (updPiece s req i fun p => { p with st := .refused }) := by
  obtain ⟨c, off, place⟩ := place_of_isPeer peer
  rw [peerAccessArrival_performs found next' free plain peer, taken_of_sp place, peerPlain, if_pos refuses, id_of_findPiece found]
  exact congrArg _ (sendAnswer_of_sp ⟨_, _, findPiece_updPiece found _, place⟩)

theorem atomicAtHome_performs {op : AmoOp} {size : Nat} {b d : Word} (first : i = 0) (amo : r.op = .amo op size b d) :
    exec (.atomicAtHome req) s = .next (sendAnswer (performAmo (takeCopy (arrived s r p) r i p) r 0 p op size b d) req 0) := by
  subst first
  refine congrArg _ ((atHome_performs found next' free ?_).trans ?_)
  · rw [amo]
  · rw [amo]

end AtOrder

/-! ### Revocations and acknowledgements (R181) -/

theorem revocation_takes {s : State} {rev : Nat} {v : Rev} {g : Packet} (known : s.revs.find? (·.id = rev) = some v)
    (came : s.net.find? (fun k => k.came && k.body = .revoke rev) = some g) : exec (.revocation rev) s = .next (addPacket
      { (dropPacket s g.id).updCore v.core (fun k => invalidateWord k v.word) with
        revs := s.revs.map fun w => if w.id = rev then { w with seen := true } else w }
      { id := 0, src := g.dst, dst := g.src, rank := 0, tc := 5, body := .revokeAck rev, m := g.m, via := g.inj }) := by
  change execRevocation rev s = _
  unfold execRevocation
  rw [came, known]
  rfl

/-- What is left when a home takes an acknowledgement. -/
def acknowledged (s : State) (rev : Nat) (g : Packet) : State := { dropPacket s g.id with revs := s.revs.filter (·.id != rev) }

theorem revocationAck_takes {s : State} {rev : Nat} {v : Rev} {g : Packet} (known : s.revs.find? (·.id = rev) = some v)
    (came : s.net.find? (fun k => k.came && k.body = .revokeAck rev) = some g) :
    (findReq s v.req = none → exec (.revocationAck rev) s = .next (acknowledged s rev g)) ∧
    (∀ r, findReq s v.req = some r → exec (.revocationAck rev) s = .next
      (if r.op = .store ∧ pieceRevs (acknowledged s rev g) v.req v.piece = false then sendAnswer (acknowledged s rev g) v.req v.piece
       else acknowledged s rev g)) := by
  have taken : exec (.revocationAck rev) s = .next (match findReq (acknowledged s rev g) v.req with
      | some r => if r.op = .store && !pieceRevs (acknowledged s rev g) v.req v.piece then sendAnswer (acknowledged s rev g) v.req v.piece
        else acknowledged s rev g
      | none => acknowledged s rev g) := by
    change execRevocationAck rev s = _
    unfold execRevocationAck
    rw [came, known]
    rfl
  have same : findReq (acknowledged s rev g) v.req = findReq s v.req := rfl
  refine ⟨fun gone => ?_, fun r found => ?_⟩
  · rw [taken, same, gone]
  · rw [taken, same, found]
    simp

section StoreAck

variable {s : State} {req : Nat} {r : Req} (found : findReq s req = some r) (done : settled r = true) (registered : awaitsRevs s req = false)

include found done registered

/-- The acknowledgement of a request that is settled and awaits no revocation. -/
theorem storeAck_settled : exec (.storeAck req) s = .next
    (if r.agent != .seat then (if r.op = .store || (r.agent matches .post _) then engineAck s r else s)
     else match findOut s req with
      | none => if (reqError r).isSome && r.op = .store then s else dropReq s req
      | some (c, n, _) => if r.op = .store && (reqError r).isNone then answer (dropReq s req) c n req (.value 0) else s) := by
  change execStoreAck req s = _
  unfold execStoreAck
  rw [found]
  dsimp only
  rw [done, registered]
  rfl

variable (seat : r.agent = .seat) (clean : reqError r = none)

theorem storeAck_engine (engine : r.agent ≠ .seat) (store : r.op = .store) : exec (.storeAck req) s = .next (engineAck s r) := by
  rw [storeAck_settled found done registered, if_pos (bne_iff_ne.2 engine), store]
  rfl

include seat clean

theorem storeAck_unawaited (none' : findOut s req = none) : exec (.storeAck req) s = .next (dropReq s req) := by
  rw [storeAck_settled found done registered, seat, none', clean]
  rfl

theorem storeAck_completes {c n : Nat} {o : Out} (out : findOut s req = some (c, n, o)) (store : r.op = .store) :
    exec (.storeAck req) s = .next (answer (dropReq s req) c n req (.value 0)) := by
  rw [storeAck_settled found done registered, seat, out, clean, store]
  rfl

end StoreAck

/-- Settles O30: every event of a piece is `atHome` of what the piece does at its place, and its answer. -/
theorem memoryEvents : Obligations.MemoryEvents := by
  unfold Obligations.MemoryEvents
  intro s req i r p op size b d v c n o g load here sound u piece loaded old merged
  refine ⟨fun found next' free => ?pieces, fun known => ⟨revocation_takes known, fun came => ?ack⟩, fun found done registered => ?stores⟩
  case ack =>
    obtain ⟨gone, found⟩ := revocationAck_takes known came
    exact ⟨gone, found r⟩
  case stores =>
    exact ⟨fun seat clean none' => storeAck_unawaited found done registered seat clean none',
      fun seat clean out store => storeAck_completes found done registered seat clean out store,
      fun engine store => storeAck_engine found done registered engine store⟩
  have id := id_of_findPiece found
  refine ⟨fun load here => ?loads, fun store away plain => ?stores, fun wb => ?wb, fun load peer taken sound => ?peerLoad,
    fun store peer taken sound short => ?peerStore, peerAccessArrival_refused found next' free, fun first amo => ?amo⟩
  case loads =>
    obtain ⟨away, open'⟩ := here
    have run := loadAtHome_performs found next' free load away open'
    have kept := contents_answered_load s req i r p
    refine ⟨run, fun sound => ⟨_, run, (loaded_of_performLoad found sound).exists, hbm_of_contents kept, co_of_contents kept⟩,
      fun bad => ⟨_, run, ?_, hbm_of_contents kept⟩⟩
    have bad' : poisoned u p.dst p.len = true := (poisoned_taken ..).trans (Bool.not_eq_false _ ▸ bad)
    exact ((performLoad_poisoned (known_taken found) id bad').of_reqs (reqs_sendAnswer ..)).exists
  case stores =>
    have run := storeAtHome_performs found next' free store away plain
    refine ⟨run, fun sound _ noWs noWalker => ?_, fun fenced => ?_⟩
    · obtain ⟨done, bytes⟩ := stored_of_performStore found sound noWs noWalker
      exact ⟨_, run, done.exists, bytes⟩
    · obtain ⟨done, same⟩ := performStore_fenced (known_taken found) id ((fencedPlace_taken ..).trans fenced)
      have kept := (contents_sendAnswer _ req i).trans (same.trans (contents_taken ..))
      exact ⟨_, run, (done.of_reqs (reqs_sendAnswer ..)).exists, hbm_of_contents kept, co_of_contents kept⟩
  case wb =>
    have run := writeBackAtHome_performs found next' free wb
    refine ⟨run, fun pa m place => ⟨_, run, ?_, ?_⟩⟩
    · obtain ⟨net, fresh, same⟩ := sendAnswer_eq (performWb u r i p) req i
      rw [same]
      exact dirty_performWb u r i place
    · exact hbm_of_contents ((contents_sendAnswer ..).trans ((contents_performWb ..).trans (contents_taken ..)))
  case peerLoad =>
    have run := peerAccessArrival_performs found next' free (.inl load) peer
    rw [peerPlain, refused_taken, taken, if_neg Bool.false_ne_true, if_neg (not_store_of_plainLoad load)] at run
    have kept := contents_answered_load s req i r p
    exact ⟨_, run, (loaded_of_performLoad found sound).exists, hbm_of_contents kept, co_of_contents kept⟩
  case peerStore =>
    have run := peerAccessArrival_performs found next' free (.inr store) peer
    rw [peerPlain, refused_taken, taken, if_neg Bool.false_ne_true, if_pos store] at run
    obtain ⟨c, off, place⟩ := place_of_isPeer peer
    obtain ⟨done, bytes⟩ := stored_of_performStore found sound (by rw [place]; exact nofun) (by rw [place]; exact nofun)
    exact ⟨_, run, done.exists, bytes⟩
  case amo =>
    have run := atomicAtHome_performs found next' free first amo
    refine ⟨run, fun sound sized short mask noWs noWalker => ⟨_, run, ?_⟩⟩
    subst first sized
    obtain ⟨done, same⟩ := performAmo_sound (known_taken found) id op p.len b d ((poisoned_taken ..).trans sound)
    rw [read_taken] at done same
    refine ⟨(done.of_reqs (reqs_sendAnswer ..)).exists, ?_⟩
    rw [read_of_contents ((contents_sendAnswer ..).trans same), read_write _ _ _ _ noWs noWalker, mask,
      merge_lowMask _ _ (Nat.mul_le_mul_left 8 short), BitVec.toNat_ofNat]
    exact Nat.mod_mod_of_dvd _ (Nat.pow_dvd_pow 2 (Nat.mul_le_mul_left 8 short))

end Sys2Proof.Machine
end

section
/-! What a word of a scratchpad does with a synchronising access, a range event or an engine's word (R142, R144, R146, R147). -/

namespace Sys2Proof.Machine

/-! ### Waiters -/

/-- A word for which no access waits serves none. -/
theorem serve_of_alone {s : State} {c word : Nat} (alone : ∀ w ∈ (s.getCore c).waiters, w.1 ≠ word) : serve s c word = s := by
  have nobody : (s.getCore c).waiters.filter (·.1 = word) = [] :=
    List.filter_eq_nil_iff.2 fun w mem => by simpa using alone w mem
  rw [serve]
  cases (s.getCore c).waiters.length with
  | zero => rfl
  | succ n =>
    rw [serveWord, nobody]
    rfl

/-- A core in which the bit of a word is set or cleared. -/
def Core.setBit (word : Nat) (full : Bool) (k : Core) : Core := { k with full := if full then sins k.full word else sdel k.full word }

theorem setFull_of_alone {s : State} {c word : Nat} (full : Bool) (alone : ∀ w ∈ (s.getCore c).waiters, w.1 ≠ word) :
    setFull s c word full = s.updCore c (Core.setBit word full) :=
  serve_of_alone (by rw [State.getCore_updCore]; exact alone)

/-! ### Accesses that their word's bit allows -/

/-- A synchronising access that its word has performed: its piece holds a value, and the core is changed. -/
def synced (s : State) (c : CoreId) (f : Core → Core) (req i : Nat) (v : BitVec 64) : State :=
  updPiece (s.updCore c f) req i fun p => { p with st := .performed, data := v }

theorem getCore_synced (s : State) (c : CoreId) (f : Core → Core) (req i : Nat) (v : BitVec 64) :
    (synced s c f req i v).getCore c = f (s.getCore c) := State.getCore_updCore ..

/-- A core in which a word is filled. -/
def Core.fillWord (word : Nat) (data : BitVec 64) (k : Core) : Core :=
  { k with sp := setBytes k.sp (4 * word) 4 data.toNat, full := sins k.full word, spPoison := sdel k.spPoison word }

/-- The value of a word of a scratchpad. -/
def wordValue (k : Core) (word : Nat) : BitVec 64 := BitVec.ofNat 64 (getBytes k.sp (4 * word) 4)

section Try

variable {s : State} {c : CoreId} {word : Nat} {r : Req} {p : Piece} (clean : (s.getCore c).spPoison.contains word = false)

include clean

theorem trySync_ldf (op : r.op = .ldf) (full : isFull (s.getCore c) word = true) : trySync s c word r p =
    some (updPiece s r.id 0 fun p => { p with st := .performed, data := wordValue (s.getCore c) word }) := by
  unfold trySync
  dsimp only
  rw [op]
  dsimp only
  rw [clean, if_neg Bool.false_ne_true, if_pos full]
  rfl

theorem trySync_ldt (op : r.op = .ldt) (full : isFull (s.getCore c) word = true) : trySync s c word r p =
    some (synced s c (Core.setBit word false) r.id 0 (wordValue (s.getCore c) word)) := by
  unfold trySync
  dsimp only
  rw [op]
  dsimp only
  rw [clean, if_neg Bool.false_ne_true, if_pos full]
  rfl

theorem trySync_fills (op : r.op = .ste ∧ isFull (s.getCore c) word = false ∨ r.op = .stf) : trySync s c word r p =
    some (synced s c (Core.fillWord word p.data) r.id 0 0) := by
  unfold trySync
  dsimp only
  obtain ⟨op, empty⟩ | op := op
  · rw [op]
    dsimp only
    rw [empty, clean, if_neg (by decide)]
    rfl
  · rw [op]
    rfl

theorem trySync_waits
    (op : (r.op = .ldf ∨ r.op = .ldt) ∧ isFull (s.getCore c) word = false ∨ r.op = .ste ∧ isFull (s.getCore c) word = true) :
    trySync s c word r p = none := by
  unfold trySync
  dsimp only
  obtain ⟨op | op, bit⟩ | ⟨op, bit⟩ := op <;> rw [op] <;> dsimp only <;> rw [bit, clean] <;> rfl

end Try

/-- A state in which an engine has written a word of a scratchpad and set it full. -/
def engineWord (s : State) (c off req i : Nat) (p : Piece) : State :=
  (updPiece ((Place.sp c off).write s 4 p.mask p.data) req i fun p => { p with st := .performed }).updCore c (Core.setBit (off / 4) true)

theorem getCore_engineWord (s : State) (c off req i : Nat) (p : Piece) : (engineWord s c off req i p).getCore c =
    Core.setBit (off / 4) true { s.getCore c with sp := maskedBytes (s.getCore c).sp off 4 p.mask p.data } := by
  have written : ((Place.sp c off).write s 4 p.mask p.data).getCore c =
      { s.getCore c with sp := maskedBytes (s.getCore c).sp off 4 p.mask p.data } := State.getCore_updCore ..
  exact (State.getCore_updCore ..).trans (congrArg _ written)

/-! ### Arrivals -/

theorem isSyncOp_cases {op : ReqOp} : isSyncOp op = true ↔ op = .ldf ∨ op = .ldt ∨ op = .ste ∨ op = .stf := by
  cases op <;> simp [isSyncOp]

theorem op_of_isEngineFill {r : Req} {d : Place} (fill : isEngineFill r d = true) : r.op = .store := by
  cases d with
  | sp => exact of_decide_eq_true (Bool.and_eq_true_iff.1 fill).2
  | ws | co | hbm | walker => cases fill

section Arrival

variable {s u : State} {req i c off : Nat} {r : Req} {p : Piece} {f : Piece → Piece} {P : Piece → Prop}
  (found : findPiece s req i = some (r, p)) (next' : atOrder s r i p = true) (place : p.dst = .sp c off)

include found

/-- A piece of which only the marks have changed. -/
theorem pieceIs_of_marked (same : u.reqs = (updPiece s req i f).reqs) (holds : P (f p)) : PieceIs req i P u :=
  PieceIs.of_reqs ⟨_, _, findPiece_updPiece found f, holds⟩ same

/-- The same, as the statements write it. -/
theorem found_of_marked (f : Piece → Piece) (same : u.reqs = (updPiece s r.id i f).reqs) (holds : P (f p)) :
    ∃ (q : Req) (e : Piece), findReq u req = some q ∧ q.pieces[i]? = some e ∧ P e :=
  (pieceIs_of_marked found (same.trans (by rw [id_of_findPiece found])) holds).exists

include next' place

theorem syncAccessArrival_acts (takes : (isSyncOp r.op || (isRangeOp r.op && (r.pieces.take i).all (·.st != .waiting)) ||
    isEngineFill r p.dst) = true) (acts : syncWord s r i p = u) (marked : u.reqs = (updPiece s req i f).reqs)
    (stays : (f p).dst = p.dst) : exec (.syncAccessArrival req i) s = .next u := by
  have free : heldByMigration s p = false := by rw [heldByMigration, place]
  refine congrArg _ ((atHome_performs found next' free takes).trans ?_)
  rw [taken_of_sp place, acts]
  exact sendAnswer_of_sp (c := c) (off := off) (pieceIs_of_marked found marked (stays.trans place))

variable (taken : refused s r p = false)

omit found next' in
include taken in
theorem syncWord_sync (sync : isSyncOp r.op = true) : syncWord s r i p = arriveSync s r p c (off / 4) := by
  unfold syncWord
  rw [place]
  dsimp only
  rw [if_neg (by rintro e; rw [e] at sync; cases sync), taken, if_neg Bool.false_ne_true, if_pos sync]

variable (clean : (s.getCore c).spPoison.contains (off / 4) = false) (alone : ∀ w ∈ (s.getCore c).waiters, w.1 ≠ off / 4)

include taken alone

/-- An access that its word's bit allows, at a word for which none waits (R142, R144). -/
theorem syncAccess_served (first : i = 0) (sync : isSyncOp r.op = true) (served : trySync s c (off / 4) r p = some u)
    (waiters : (u.getCore c).waiters = (s.getCore c).waiters) (marked : u.reqs = (updPiece s req 0 f).reqs) (stays : (f p).dst = p.dst) :
    exec (.syncAccessArrival req i) s = .next u := by
  subst first
  refine syncAccessArrival_acts found next' place (by rw [sync]; rfl) ?_ marked stays
  rw [syncWord_sync place taken sync, arriveSync, served]
  exact serve_of_alone (by rw [waiters]; exact alone)

include clean

/-- `ldf` at a full word takes its value, which stays full. -/
theorem ldf_performed (first : i = 0) (op : r.op = .ldf) (full : isFull (s.getCore c) (off / 4) = true) : exec (.syncAccessArrival req i) s =
    .next (updPiece s r.id 0 fun p => { p with st := .performed, data := wordValue (s.getCore c) (off / 4) }) := by
  have id := id_of_findPiece found
  exact syncAccess_served found next' place taken alone first (by rw [op]; rfl) (trySync_ldf clean op full) rfl (by rw [id]) rfl

/-- `ldt` at a full word takes its value and leaves it empty. -/
theorem ldt_performed (first : i = 0) (op : r.op = .ldt) (full : isFull (s.getCore c) (off / 4) = true) : exec (.syncAccessArrival req i) s =
    .next (synced s c (Core.setBit (off / 4) false) r.id 0 (wordValue (s.getCore c) (off / 4))) := by
  have id := id_of_findPiece found
  exact syncAccess_served found next' place taken alone first (by rw [op]; rfl) (trySync_ldt clean op full)
    (by rw [getCore_synced]; rfl) (by rw [id]; rfl) rfl

/-- `ste` at an empty word and `stf` at any fill it. -/
theorem fill_performed (first : i = 0) (op : r.op = .ste ∧ isFull (s.getCore c) (off / 4) = false ∨ r.op = .stf) :
    exec (.syncAccessArrival req i) s = .next (synced s c (Core.fillWord (off / 4) p.data) r.id 0 0) := by
  have id := id_of_findPiece found
  have sync : isSyncOp r.op = true := isSyncOp_cases.2 (op.elim (fun e => .inr (.inr (.inl e.1))) fun e => .inr (.inr (.inr e)))
  exact syncAccess_served found next' place taken alone first sync (trySync_fills clean op)
    (by rw [getCore_synced]; rfl) (by rw [id]; rfl) rfl

omit alone in
/-- An access that its word's bit does not allow waits at the word (R144). -/
theorem syncAccess_held (first : i = 0) (op : (r.op = .ldf ∨ r.op = .ldt) ∧ isFull (s.getCore c) (off / 4) = false ∨
      r.op = .ste ∧ isFull (s.getCore c) (off / 4) = true) : exec (.syncAccessArrival req i) s =
    .next ((updPiece s r.id 0 fun p => { p with st := .held }).updCore c fun k => { k with waiters := k.waiters ++ [(off / 4, r.id)] }) := by
  have id := id_of_findPiece found
  subst first
  have sync : isSyncOp r.op = true := isSyncOp_cases.2
    (op.elim (fun e => e.1.elim .inl fun e => .inr (.inl e)) fun e => .inr (.inr (.inl e.1)))
  refine syncAccessArrival_acts (f := fun p => { p with st := .held }) found next' place (by rw [sync]; rfl) ?_ (by rw [id]; rfl) rfl
  rw [syncWord_sync place taken sync, arriveSync, trySync_waits clean op]

omit clean in
/-- A range event sets or clears the bit of its word (R147). -/
theorem rangeEvent_performed (due : (r.pieces.take i).all (·.st != .waiting) = true) (op : r.op = .feFill ∨ r.op = .feClr) :
    exec (.syncAccessArrival req i) s = .next ((updPiece s r.id i fun p => { p with st := .performed }).updCore c
      (Core.setBit (off / 4) (r.op = .feFill))) := by
  have id := id_of_findPiece found
  refine syncAccessArrival_acts (f := fun p => { p with st := .performed }) found next' place ?_ ?_ (by rw [id]; rfl) rfl
  · rw [due]
    obtain e | e := op <;> rw [e] <;> rfl
  · unfold syncWord
    rw [place]
    dsimp only
    rw [if_neg (by obtain e | e := op <;> rw [e] <;> exact nofun), taken, if_neg Bool.false_ne_true,
      if_neg (by obtain e | e := op <;> rw [e] <;> exact nofun)]
    exact setFull_of_alone _ alone

omit taken in
/-- An engine's word is written and set full (R146). -/
theorem engineFill_performed (fill : isEngineFill r p.dst = true) (len : p.len = 4) :
    exec (.syncAccessArrival req i) s = .next (engineWord s c off r.id i p) := by
  have id := id_of_findPiece found
  have store := op_of_isEngineFill fill
  have sound : (p.dst.granules p.len).filter (p.dst.poison s).contains = [] := by
    rw [place, len]
    exact List.filter_eq_nil_iff.2 fun g mem => by
      rw [List.mem_singleton.1 (show g ∈ [off / 4] from mem)]
      exact Bool.eq_false_iff.1 clean
  have stored : performStore s r i p = updPiece ((Place.sp c off).write s 4 p.mask p.data) r.id i fun p => { p with st := .performed } := by
    unfold performStore
    dsimp only
    rw [sound, place, len]
    rfl
  refine syncAccessArrival_acts (f := fun p => { p with st := .performed }) found next' place (by rw [fill, Bool.or_true]) ?_
    (by rw [id]; rfl) rfl
  unfold syncWord
  rw [place]
  dsimp only
  rw [if_pos store, stored, id, findPiece_updPiece ((findPiece_of_reqs (reqs_write ..) req i).trans found), Option.map_some, if_pos rfl]
  have kept : (((Place.sp c off).write s 4 p.mask p.data).getCore c).waiters = (s.getCore c).waiters := by
    rw [Place.write, State.getCore_updCore]
  exact setFull_of_alone _ fun w mem => alone w (kept ▸ mem)

end Arrival

end Sys2Proof.Machine
end

section
/-! What a walk and its answer do, and what leaves the translation caches (R163, R179). -/

namespace Sys2Proof.Machine

/-! ### Walks under way -/

section Walk

variable {s : State} {req page : Nat} {c : CoreId} {va root : Word} {r : Req} {p : Piece} (found : findReq s req = some r)
  (op : r.op = .walk root) (pieces : r.pieces = [p]) (place : p.dst = .walker page)

include found op pieces

theorem translationWalk_goesOn : exec (.translationWalk ⟨req, c⟩ va) s = .next (walkOn s r root p) := by
  change execTranslationWalk ⟨req, c⟩ va s = _
  unfold execTranslationWalk
  dsimp only
  rw [found]
  dsimp only
  rw [op, pieces]

omit found op in
theorem settled_of_open (under : p.open = true) : settled r = false := by
  simp [settled, pieces, under]

theorem translationWalk_performs (held : p.st = .held) :
    exec (.translationWalk ⟨req, c⟩ va) s = .next (sendAnswer (performWalk s r 0 p) req 0) := by
  have id := id_of_findReq found
  rw [translationWalk_goesOn found op pieces, walkOn, settled_of_open pieces (by rw [Piece.open, held]; rfl), held, id]
  rfl

include place

/-- A walk whose walker has a place, and that has waited there longest, takes it. -/
theorem translationWalk_starts (waits : p.st = .waiting) (room : walksAt s (walkerSlot page) < 32)
    (first : nextWalk s (walkerSlot page) = some req) : exec (.translationWalk ⟨req, c⟩ va) s =
      .next (updPiece (takeCopy (arrived s r p) r 0 p) req 0 fun p => { p with st := .held }) := by
  have id := id_of_findReq found
  rw [translationWalk_goesOn found op pieces, walkOn, settled_of_open pieces (by rw [Piece.open, waits]; rfl), waits, place, id]
  dsimp only
  rw [if_neg Bool.false_ne_true, Place.home, Option.any_some, first, decide_eq_true room, if_pos (by simp)]

theorem translationWalk_waits (waits : p.st = .waiting)
    (busy : 32 ≤ walksAt s (walkerSlot page) ∨ nextWalk s (walkerSlot page) ≠ some req) :
    exec (.translationWalk ⟨req, c⟩ va) s = .next s := by
  have id := id_of_findReq found
  rw [translationWalk_goesOn found op pieces, walkOn, settled_of_open pieces (by rw [Piece.open, waits]; rfl), waits, place, id]
  dsimp only
  rw [if_neg Bool.false_ne_true, Place.home, Option.any_some, if_neg]
  intro both
  obtain ⟨room, first⟩ := Bool.and_eq_true_iff.1 both
  exact busy.elim (Nat.not_le.2 (of_decide_eq_true room)) fun other => other (of_decide_eq_true first)

omit pieces in
theorem performWalk_fenced (fenced : fencedPlace s p.dst = true) :
    performWalk s r 0 p = updPiece s req 0 fun p => { p with st := .poisoned, data := 0 } := by
  have id := id_of_findReq found
  unfold performWalk
  dsimp only
  rw [op, place]
  dsimp only
  rw [← place, fenced, if_pos rfl, id]

omit pieces in
theorem performWalk_leaf {e : Tlb} (reach : fencedPlace s p.dst = false)
    (leaf : walk s root (page * 65536) (isLost s (slotSite (walkerSlot page))) = .leaf e) :
    performWalk s r 0 p = updPiece s req 0 fun p => { p with st := .performed, data := packLeaf e } := by
  have id := id_of_findReq found
  unfold performWalk
  dsimp only
  rw [op, place]
  dsimp only
  rw [← place, reach, if_neg Bool.false_ne_true, leaf, id]

omit pieces in
theorem performWalk_fault {cause : BitVec 8} (reach : fencedPlace s p.dst = false)
    (fault : walk s root (page * 65536) (isLost s (slotSite (walkerSlot page))) = .fault cause) : performWalk s r 0 p =
      if cause = 0x60 then updPiece s req 0 fun p => { p with st := .poisoned, data := 0 }
      else updPiece s req 0 fun p => { p with st := .performed, data := 0 } := by
  have id := id_of_findReq found
  unfold performWalk
  dsimp only
  rw [op, place]
  dsimp only
  rw [← place, reach, if_neg Bool.false_ne_true, fault, id]

end Walk

/-! ### The answer of a walk -/

theorem mem_addTlb (n v : Nat) (l : List Tlb) (e : Tlb) : e ∈ addTlb n v l e := by
  unfold addTlb
  split
  case isTrue there => exact List.contains_iff_mem.1 there
  case isFalse => split <;> exact List.mem_cons_self

/-- What a delivery leaves: the bytes of HBM, the requests and the questions of the units. -/
def State.walkKept (s : State) : Memory × List Req × List Ask := (s.hbm, s.reqs, s.asks)

theorem walkKept_fillFor (s : State) (u : Asker) (e : Tlb) : (fillFor s u e).walkKept = s.walkKept := by
  have filled (c : CoreId) : (fillTlb s c e).walkKept = s.walkKept := by
    unfold fillTlb
    dsimp only
    split <;> rfl
  cases u with
  | seat c n => exact filled c
  | op c n => exact filled c
  | chan | far => rfl

theorem getCore_fillTlb (s : State) (c d : CoreId) (e : Tlb) : ((fillTlb s c e).getCore d).tlb =
    if d = c then addTlb 32 (Config.tlbVictim s.tick) (s.getCore c).tlb e else (s.getCore d).tlb := by
  have own : ((s.ticked.updCore c fun k => { k with tlb := addTlb 32 (Config.tlbVictim s.tick) k.tlb e }).getCore d).tlb =
      if d = c then addTlb 32 (Config.tlbVictim s.tick) (s.getCore c).tlb e else (s.getCore d).tlb := by
    split
    case isTrue same => rw [same, State.getCore_updCore]; rfl
    case isFalse other => rw [State.getCore_updCore_other _ _ other]; rfl
  unfold fillTlb
  dsimp only
  split <;> exact own

/-- A leaf that a cache holds stays when it enters the caches of a unit. -/
theorem mem_tlb_fillFor {s : State} {e : Tlb} {c : CoreId} (u : Asker) (mem : e ∈ (s.getCore c).tlb) :
    e ∈ ((fillFor s u e).getCore c).tlb := by
  have filled (d : CoreId) : e ∈ ((fillTlb s d e).getCore c).tlb := by
    rw [getCore_fillTlb]
    split
    · exact mem_addTlb ..
    · exact mem
  cases u with
  | seat d n => exact filled d
  | op d n => exact filled d
  | chan | far => exact mem

theorem mem_tlb_fillAll {e : Tlb} {c : CoreId} (l : List Asker) : ∀ s : State,
    ((∃ n, Asker.seat c n ∈ l) ∨ e ∈ (s.getCore c).tlb) → e ∈ ((l.foldl (fun s u => fillFor s u e) s).getCore c).tlb := by
  induction l with
  | nil => exact fun s h => h.elim (fun ⟨_, mem⟩ => absurd mem List.not_mem_nil) id
  | cons u l ih =>
    intro s h
    refine ih _ ?_
    obtain ⟨n, mem⟩ | mem := h
    · obtain rfl | mem := List.mem_cons.1 mem
      · refine .inr ?_
        change e ∈ ((fillTlb s c e).getCore c).tlb
        rw [getCore_fillTlb, if_pos rfl]
        exact mem_addTlb ..
      · exact .inl ⟨n, mem⟩
    · exact .inr (mem_tlb_fillFor u mem)

/-- The questions of the units once a walk has answered, and its request gone. -/
def walkTold (s : State) (req : Nat) (ans : WalkAns) : State :=
  dropReq { s with asks := s.asks.map fun a => if a.walk = req then { a with ans := ans } else a } req

theorem walkKept_deliverWalk (s : State) (r : Req) (root : Word) (p : Piece) :
    (deliverWalk s r root p).walkKept = (walkTold s r.id (walkAnswer root p)).walkKept := by
  unfold deliverWalk
  dsimp only
  split
  · exact foldl_keeps State.walkKept _ (fun s u => walkKept_fillFor s u _) _ _
  · rfl

theorem mem_tlb_deliverWalk {s : State} {r : Req} {root : Word} {p : Piece} {e : Tlb} {a : Ask} {c seat : Nat} (mem : a ∈ s.asks)
    (walks : a.walk = r.id) (unit : a.unit = .seat c seat) (leaf : walkAnswer root p = .leaf e) :
    e ∈ ((deliverWalk s r root p).getCore c).tlb := by
  unfold deliverWalk
  dsimp only
  rw [leaf]
  refine mem_tlb_fillAll _ _ (.inl ⟨seat, unit ▸ List.mem_map_of_mem (f := Ask.unit) ?_⟩)
  exact List.mem_filter.2 ⟨mem, decide_eq_true walks⟩

theorem findReq_dropReq (s : State) (req : Nat) : findReq (dropReq s req) req = none := by
  refine List.find?_eq_none.2 fun q mem => ?_
  simpa using (List.mem_filter.1 mem).2

/-- A settled walk delivers its answer to every unit that asks for it (R179). -/
theorem translationWalk_delivers {s : State} {req : Nat} {c : CoreId} {va root : Word} {r : Req} {p : Piece}
    (found : findReq s req = some r) (op : r.op = .walk root) (pieces : r.pieces = [p]) (done : settled r = true) :
    exec (.translationWalk ⟨req, c⟩ va) s = .next (deliverWalk s r root p) := by
  rw [translationWalk_goesOn found op pieces, walkOn, if_pos done]

/-! ### What leaves the caches -/

theorem lt_of_isCore {c : CoreId} (core : isCore c = true) : c < 8192 := by
  simp only [isCore, isBc, isGridCore, Bool.or_eq_true, Bool.and_eq_true, decide_eq_true_eq] at core
  obtain ⟨-, lt⟩ | ⟨lt, -⟩ := core <;> exact Nat.lt_of_lt_of_le lt (by decide)

theorem tlb_dropTlb (s : State) {c : CoreId} (core : isCore c = true) (f : Tlb → Bool) :
    ((dropTlb s c f).getCore c).tlb = (s.getCore c).tlb.filter (!f ·) := by
  have own (q : Ask → Bool) : (((dropAnswers s (walkGroup c) q).updCore c fun k => { k with tlb := k.tlb.filter (!f ·) }).getCore c).tlb =
      (s.getCore c).tlb.filter (!f ·) := by
    rw [State.getCore_updCore]
    rfl
  unfold dropTlb
  dsimp only
  rw [if_neg (Nat.not_le.2 (lt_of_isCore core))]
  split
  all_goals exact own _

theorem hbm_dropTlb (s : State) (c : CoreId) (f : Tlb → Bool) : (dropTlb s c f).hbm = s.hbm := by
  unfold dropTlb
  dsimp only
  split
  · rfl
  · split <;> rfl

/-- For a number that no walk has, a translation leaves the caches of a core (R179). -/
theorem translationWalk_replaces {s : State} {req : Nat} {c : CoreId} {va : Word} (gone : findReq s req = none) (core : isCore c = true) :
    exec (.translationWalk ⟨req, c⟩ va) s = .next (dropTlb s c fun e => e.covers (rootAsid (s.getCore c).ttRoot) (fld va 47 0)) := by
  change execTranslationWalk ⟨req, c⟩ va s = _
  unfold execTranslationWalk
  dsimp only
  rw [gone]
  dsimp only
  rw [core, if_neg (Nat.not_le.2 (lt_of_isCore core))]
  rfl

end Sys2Proof.Machine
end

section
/-! What a page migration does to the memory and its poison (R366, R378, R379). -/

namespace Sys2Proof.Machine

/-! ### Ranges of a memory -/

theorem tget_filter {α : Type} (d : α) (keep : Nat → Bool) (l : List (Nat × α)) (i : Nat) :
    tget d (l.filter fun e => keep e.1) i = if keep i then tget d l i else d := by
  induction l with
  | nil => exact (ite_self _).symm
  | cons e l ih =>
    obtain ⟨k, v⟩ := e
    by_cases own : i = k
    · subst own
      cases kept : keep i <;> simp [kept, tget, ih]
    · cases kept : keep k <;> simp [kept, tget, ih, own]

theorem getByte_clearRange (m : Memory) (lo hi a : Nat) : getByte (clearRange m lo hi) a = if a < lo ∨ hi ≤ a then getByte m a else 0 := by
  refine (tget_filter 0 (fun k => decide (k < lo) || decide (hi ≤ k)) m a).trans ?_
  simp [getByte]

theorem getByte_takeRange (m : Memory) {lo hi a : Nat} (inside : lo ≤ a ∧ a < hi) : getByte (takeRange m lo hi) a = getByte m a := by
  refine (tget_filter 0 (fun k => decide (lo ≤ k) && decide (k < hi)) m a).trans ?_
  simp [inside, getByte]

theorem tget_of_wfFrom (d : Byte) {m : Memory} {lo a : Nat} (wf : wfFrom (some lo) m = true) (le : a ≤ lo) : tget d m a = d := by
  induction m generalizing lo with
  | nil => rfl
  | cons e m ih =>
    obtain ⟨lt, -, rest⟩ := wfFrom_cons.1 wf
    rw [tget, if_neg (by omega)]
    exact ih rest (by omega)

/-- The bytes of a page at their places on another page. -/
def copyPage (page : Memory) (old new : Nat) (m : Memory) : Memory := page.foldl (fun h c => setByte h (new + (c.1 - old)) c.2) m

theorem getByte_copyPage {page : Memory} {old new : Nat} (m : Memory) (wf : page.wf = true) (above : ∀ c ∈ page, old ≤ c.1) (a : Nat) :
    getByte (copyPage page old new m) (new + a) = tget (getByte m (new + a)) page (old + a) := by
  induction page generalizing m with
  | nil => rfl
  | cons e page ih =>
    obtain ⟨k, b⟩ := e
    obtain ⟨-, rest⟩ := wf_cons.1 wf
    have here : old ≤ k := above (k, b) List.mem_cons_self
    refine (ih (setByte m (new + (k - old)) b) (wf_of_wfFrom rest) fun c mem => above c (List.mem_cons_of_mem _ mem)).trans ?_
    rw [getByte_setByte, tget]
    by_cases own : old + a = k
    · rw [if_pos own, if_pos (by omega)]
      exact tget_of_wfFrom b rest (by omega)
    · rw [if_neg own, if_neg (by omega)]

theorem getByte_copyPage_outside {page : Memory} {old new n a : Nat} (m : Memory) (within : ∀ c ∈ page, c.1 < old + n ∧ old ≤ c.1)
    (out : a < new ∨ new + n ≤ a) : getByte (copyPage page old new m) a = getByte m a := by
  induction page generalizing m with
  | nil => rfl
  | cons e page ih =>
    obtain ⟨lt, le⟩ := within e List.mem_cons_self
    refine (ih (setByte m (new + (e.1 - old)) e.2) fun c mem => within c (List.mem_cons_of_mem _ mem)).trans ?_
    exact getByte_setByte_other m _ (by omega)

theorem mem_takeRange {m : Memory} {lo hi : Nat} {e : Host.Cell} (mem : e ∈ takeRange m lo hi) : e.1 < hi ∧ lo ≤ e.1 := by
  obtain ⟨-, inside⟩ := List.mem_filter.1 mem
  exact (Bool.and_eq_true_iff.1 inside).symm.imp of_decide_eq_true of_decide_eq_true

theorem getByte_setDouble_outside (m : Memory) {a i : Nat} (v : Word) (out : i < a ∨ a + 8 ≤ i) : getByte (setDouble m a v) i = getByte m i :=
  getByte_setBytes_outside m 8 a v.toNat i out

/-- A memory after a page has been copied. -/
def movedMemory (m : Memory) (old new n : Nat) : Memory := copyPage (takeRange m old (old + n)) old new (clearRange m new (new + n))

theorem getByte_movedMemory {m : Memory} {old new n a : Nat} (wf : m.wf = true) (inside : a < n) :
    getByte (movedMemory m old new n) (new + a) = getByte m (old + a) := by
  refine (getByte_copyPage _ (wf_takeRange _ _ wf) (fun c mem => (mem_takeRange mem).2) a).trans ?_
  rw [getByte_clearRange, if_neg (by omega)]
  exact getByte_takeRange m (by omega)

theorem getByte_movedMemory_outside {m : Memory} {old new n a : Nat} (out : a < new ∨ new + n ≤ a) :
    getByte (movedMemory m old new n) a = getByte m a := by
  refine (getByte_copyPage_outside _ (fun c mem => mem_takeRange mem) out).trans ?_
  rw [getByte_clearRange, if_pos out]

/-! ### Poison -/

theorem mem_sins {l : List Nat} {x y : Nat} : y ∈ sins l x ↔ y ∈ l ∨ y = x := by
  induction l with
  | nil => simp [sins]
  | cons a l ih =>
    rw [sins]
    split
    · rw [List.mem_cons, or_comm]
    · split
      case isTrue own =>
        rw [own]
        exact (or_iff_left_of_imp fun e => e ▸ List.mem_cons_self).symm
      case isFalse => rw [List.mem_cons, ih, List.mem_cons, or_assoc]

theorem mem_foldl_sins {old l : List Nat} {f : Nat → Nat} {y : Nat} :
    y ∈ old.foldl (fun l g => sins l (f g)) l ↔ y ∈ l ∨ ∃ g ∈ old, y = f g := by
  induction old generalizing l with
  | nil => simp
  | cons g old ih =>
    rw [List.foldl_cons, ih, mem_sins, or_assoc]
    simp

/-- A granule of the new page is poisoned as that of the old page that has been copied there. -/
theorem contains_movePoison {s : State} {m : Migration} {a : Nat} (old : m.oldPa % 32 = 0) (new : m.newPa % 32 = 0)
    (reach : s.stacksBad.contains (nbits m.oldPa 36 4) = false) (inside : a < m.size) (aligned : a % 32 = 0) :
    (movePoison s m).contains ((m.newPa + a) / 32) = s.hbmPoison.contains ((m.oldPa + a) / 32) := by
  refine Bool.eq_iff_iff.2 ?_
  rw [List.contains_iff_mem, List.contains_iff_mem, movePoison]
  rw [reach, if_neg Bool.false_ne_true, mem_foldl_sins]
  simp only [List.mem_filter, Bool.and_eq_true, Bool.not_eq_true', Bool.and_eq_false_iff, decide_eq_true_eq, decide_eq_false_iff_not]
  constructor
  · rintro (⟨-, out⟩ | ⟨g, ⟨mem, lo, hi⟩, same⟩)
    · omega
    · rwa [show (m.oldPa + a) / 32 = g by omega]
  · intro mem
    exact .inr ⟨_, ⟨mem, by omega, by omega⟩, by omega⟩

/-! ### The steps of a migration -/

section Steps

variable {s : State} {entry level newPa : Nat} {m : Migration}

theorem pageMigration_marks (free : s.migrations.find? (·.entry = entry) = none) (fits : canMigrate s entry level newPa = true) :
    exec (.pageMigration entry level newPa 1) s = .next { s with
      migrations := s.migrations ++ [⟨entry, fld (getDouble s.hbm entry) 39 8 * 256, newPa, pageSize level, false⟩] } := by
  change execPageMigration entry level newPa 1 s = _
  unfold execPageMigration
  rw [free]
  exact congrArg Host.Outcome.next (if_pos fits)

/-- A leaf entry that names another page. -/
def movedEntry (s : State) (entry : Nat) (m : Migration) : Word :=
  (getDouble s.hbm entry &&& ~~~0xFFFFFFFF00#64) ||| BitVec.ofNat 64 m.newPa

variable (found : s.migrations.find? (·.entry = entry) = some m)

include found

theorem pageMigration_copies (stays : m.moved = false) : exec (.pageMigration entry level newPa 2) s = .next { s with
    hbm := setDouble (movedMemory s.hbm m.oldPa m.newPa m.size) entry (movedEntry s entry m), hbmPoison := movePoison s m } := by
  change execPageMigration entry level newPa 2 s = _
  unfold execPageMigration
  rw [found]
  exact congrArg Host.Outcome.next (if_neg (Bool.eq_false_iff.1 stays))

theorem pageMigration_moves : exec (.pageMigration entry level newPa 3) s = .next { s with
    clusters := if m.moved then s.clusters else s.clusters.map fun (c, g) => (c, moveHeaders m g)
    migrations := s.migrations.map fun m => if m.entry = entry then { m with moved := true } else m } := by
  change execPageMigration entry level newPa 3 s = _
  unfold execPageMigration
  rw [found]
  rfl

variable (moved : m.moved = true)

include moved

theorem pageMigration_awaits (walks : (s.reqs.any fun r => isWalk r.op) = true) :
    exec (.pageMigration entry level newPa 4) s = .next s := by
  change execPageMigration entry level newPa 4 s = _
  unfold execPageMigration
  rw [found]
  exact congrArg Host.Outcome.next (if_pos (by rw [moved, walks]; rfl))

/-- With no walk and no request on the old page left, the migration ends. -/
theorem pageMigration_ends (walks : (s.reqs.any fun r => isWalk r.op) = false)
    (left : (s.reqs.any fun r => r.pieces.any (onPage m.oldPa m.size)) = false) : exec (.pageMigration entry level newPa 4) s =
      .next { dropTlbAll s m.oldPa m.size with migrations := s.migrations.filter (·.entry != entry) } := by
  change execPageMigration entry level newPa 4 s = _
  unfold execPageMigration
  rw [found]
  have none' : ¬ (!m.moved || s.reqs.any (isWalk ·.op)) = true := by rw [moved, walks]; decide
  exact congrArg Host.Outcome.next ((if_neg none').trans (if_neg (Bool.eq_false_iff.1 left)))

end Steps

/-- A core whose translation cache has given up the entries of a page. -/
def Core.withoutPage (pa n : Nat) (k : Core) : Core :=
  { k with tlb := k.tlb.filter fun e => !(decide (pa ≤ e.pa) && decide (e.pa < pa + n)) }

theorem getCore_dropTlbAll (s : State) (pa n : Nat) (c : CoreId) : (dropTlbAll s pa n).getCore c = (s.getCore c).withoutPage pa n :=
  tget_map (Core.withoutPage pa n) {} s.cores c

theorem outside_of_mem_dropTlbAll {s : State} {pa n : Nat} {c : CoreId} {e : Tlb} (mem : e ∈ ((dropTlbAll s pa n).getCore c).tlb) :
    e.pa < pa ∨ pa + n ≤ e.pa := by
  rw [getCore_dropTlbAll] at mem
  have out := (List.mem_filter.1 mem).2
  simp only [Bool.not_eq_true', Bool.and_eq_false_iff, decide_eq_false_iff_not] at out
  omega

/-! ### Requesters of a moved page -/

/-- The moved pages at which pieces of a request are held. -/
def movedPages (s : State) (r : Req) : List Migration := r.pieces.filterMap fun p => match p.st, p.dst with
  | .held, .hbm pa _ => (migrationAt s pa).filter (·.moved)
  | _, _ => none

/-- A core's unit without its translations of the moved pages of a request. -/
def withoutMoved (s : State) (r : Req) : State :=
  dropTlb s r.core fun e => (movedPages s r).any fun m => decide (m.oldPa ≤ e.pa) && decide (e.pa < m.oldPa + m.size)

theorem reqs_dropTlb (s : State) (c : CoreId) (f : Tlb → Bool) : (dropTlb s c f).reqs = s.reqs := by
  unfold dropTlb
  dsimp only
  split
  · rfl
  · split <;> rfl

theorem movedReply_reissues {s : State} {req : Nat} {r : Req} (found : findReq s req = some r) (some' : movedPages s r ≠ []) :
    exec (.movedReply req) s = .next ((s.reqs.filter fun q => q.who = r.who).foldl (fun s q => reissueReq s q) (withoutMoved s r)) := by
  change execMovedReply req s = _
  unfold execMovedReply
  rw [found]
  change Host.Outcome.next (if (movedPages s r).isEmpty = true then s
    else ((withoutMoved s r).reqs.filter fun q => q.who = r.who).foldl (fun s q => reissueReq s q) (withoutMoved s r)) = _
  rw [if_neg (by simpa using some'), withoutMoved, reqs_dropTlb]

theorem reissue_moved {s : State} {q : Req} {p : Piece} {e : Tlb} (moved : movedPiece s p = true) (leaf : unitLeaf s q p.va = .hit e)
    (allowed : permFault q.op.need e = none) :
    reissue s q p = { p with dst := e.place s (fld p.va 47 0), st := .waiting, mig := true } := by
  unfold reissue
  rw [moved, leaf]
  dsimp only
  rw [allowed]
  rfl

end Sys2Proof.Machine
end

section
/-! Synchronising accesses, walks, migrations and storage errors, event by event. -/

namespace Sys2Proof.Machine

/-- Settles O31: the words of a scratchpad, the walks, the steps of a migration and the errors of the stores, one by one. -/
theorem syncAndTranslationEvents : Obligations.SyncAndTranslationEvents := by
  unfold Obligations.SyncAndTranslationEvents
  intro s req i c off n part entry level newPa page r p va cfg pmap root e m k word value done moves dropped rewritten
  refine ⟨fun found next' place taken clean alone => ?sync, fun found op pieces place => ?walk, fun gone core => ?replaced,
    fun cluster => ?refresh, pageMigration_marks, fun found => ?migration, fun found some' => ?moved,
    fun idle => congrArg _ (if_neg (Bool.eq_false_iff.1 idle)), fun lt => ?hbm, fun lt clean => ?co,
    fun core lt => ?sp, fun cluster lt => ?ws, fun core => ?l1, rfl⟩
  case sync =>
    have id := id_of_findPiece found
    refine ⟨fun first op full => ?ldf, fun first op full => ?ldt, fun first op => ?fills, fun first op => ?waits, fun due op => ?feFill,
      fun due op => ?feClr, fun fill aligned len => ?engine⟩
    case ldf =>
      subst first
      refine ⟨_, ldf_performed found next' place taken clean alone rfl op full, ?_, rfl⟩
      exact found_of_marked found (fun p => { p with st := .performed, data := wordValue k word }) rfl ⟨rfl, fun _ _ => rfl⟩
    case ldt =>
      subst first
      refine ⟨_, ldt_performed found next' place taken clean alone rfl op full, ?_, by rw [getCore_synced]; rfl⟩
      exact found_of_marked found (fun p => { p with st := .performed, data := wordValue k word }) rfl ⟨rfl, fun _ _ => rfl⟩
    case fills =>
      subst first
      have noLoad : ¬ (r.op = .ldf ∨ r.op = .ldt) := by
        obtain ⟨e, -⟩ | e := op <;> rw [e] <;> exact nofun
      refine ⟨_, fill_performed found next' place taken clean alone rfl op, ?_, by rw [getCore_synced]; rfl, ?_⟩
      · exact found_of_marked found (fun p => { p with st := .performed, data := 0 }) rfl ⟨rfl, fun _ load => absurd load noLoad⟩
      · rw [getCore_synced]
        exact getBytes_setBytes_same ..
    case waits =>
      subst first
      refine ⟨_, syncAccess_held found next' place taken clean rfl (op.imp_right And.right), ?_, ?_⟩
      · exact found_of_marked found (fun p => { p with st := .held }) rfl ⟨rfl, nofun⟩
      · rw [State.getCore_updCore, id]
        rfl
    case feFill =>
      refine ⟨_, rangeEvent_performed found next' place taken alone due (.inl op), ?_, ?_⟩
      · exact found_of_marked found (fun p => { p with st := .performed }) rfl ⟨rfl, fun _ load => absurd load (by rw [op]; exact nofun)⟩
      · rw [State.getCore_updCore, op]
        rfl
    case feClr =>
      refine ⟨_, rangeEvent_performed found next' place taken alone due (.inr op), ?_, ?_⟩
      · exact found_of_marked found (fun p => { p with st := .performed }) rfl ⟨rfl, fun _ load => absurd load (by rw [op]; exact nofun)⟩
      · rw [State.getCore_updCore, op]
        rfl
    case engine =>
      have store := op_of_isEngineFill fill
      refine ⟨_, engineFill_performed found next' place clean alone fill len, ?_, ?_, ?_⟩
      · exact found_of_marked found (fun p => { p with st := .performed }) rfl ⟨rfl, fun _ load => absurd load (by rw [store]; exact nofun)⟩
      · rw [getCore_engineWord]
        rfl
      · have base : 4 * word = off := by omega
        rw [getCore_engineWord, show value = BitVec.ofNat 64 (getBytes k.sp off 4) by rw [← base]]
        exact getBytes_maskedBytes ..
  case walk =>
    refine ⟨fun done => ?_, translationWalk_starts found op pieces place, translationWalk_waits found op pieces place, fun held fenced => ?_,
      fun held reach => ?_⟩
    · have kept := walkKept_deliverWalk s r root p
      obtain ⟨hbm, rest⟩ := Prod.mk.inj kept
      obtain ⟨reqs, asks⟩ := Prod.mk.inj rest
      have id := id_of_findReq found
      refine ⟨_, translationWalk_delivers found op pieces done, hbm, ?_, fun a mem walks => ?_, fun a core seat mem walks unit leaf =>
        mem_tlb_deliverWalk mem (walks.trans id.symm) unit leaf⟩
      · rw [findReq, reqs, id]
        exact findReq_dropReq ..
      · rw [asks, id]
        exact List.mem_map.2 ⟨a, mem, if_pos walks⟩
    · rw [translationWalk_performs found op pieces held, performWalk_fenced found op place fenced]
    · rw [translationWalk_performs found op pieces held]
      refine ⟨fun leaf => ?_, fun bad => ?_, fun bad => ?_⟩
      · rw [performWalk_leaf found op place reach leaf]
      · rw [performWalk_fault found op place reach bad, if_pos rfl]
      · rw [performWalk_fault found op place reach bad, if_neg (by decide)]
  case replaced =>
    refine ⟨_, translationWalk_replaces gone core, hbm_dropTlb .., fun e mem => ?_⟩
    rw [tlb_dropTlb s core] at mem
    exact Bool.not_eq_true' _ ▸ (List.mem_filter.1 mem).2
  case refresh =>
    exact ⟨congrArg _ (if_pos cluster), fun open' => congrArg _ (if_pos (by rw [cluster, open']; rfl))⟩
  case migration =>
    refine ⟨fun stays => ⟨_, pageMigration_copies found stays, getDouble_setDouble_same ..,
        fun wf => ⟨fun a inside out => ?_, fun a out off => ?_⟩,
      fun old new reach a inside aligned => contains_movePoison old new reach inside aligned⟩, pageMigration_moves found,
      fun moved walks => pageMigration_awaits found moved walks,
      fun moved walks left => ⟨_, pageMigration_ends found moved walks left, rfl, fun e mem => outside_of_mem_dropTlbAll mem⟩⟩
    · exact (getByte_setDouble_outside _ _ out).trans (getByte_movedMemory wf inside)
    · exact (getByte_setDouble_outside _ _ off).trans (getByte_movedMemory_outside out)
  case moved =>
    exact ⟨movedReply_reissues found some', fun q moved leaf allowed => reissue_moved moved leaf allowed⟩
  case hbm => exact congrArg _ (if_pos lt)
  case co => exact congrArg _ (if_pos (by rw [decide_eq_true lt, clean]; rfl))
  case sp => exact congrArg _ (if_pos (by rw [core, decide_eq_true lt]; rfl))
  case ws => exact congrArg _ (if_pos (by rw [cluster, decide_eq_true lt]; rfl))
  case l1 => exact congrArg _ (if_pos core)

end Sys2Proof.Machine
end
